-- ==== Sys2Proof/Word.lean ====
section
/-!
DEFINITION. The word types of the machine and their plainest arithmetic: machine words, lane masks, sign and zero extension.
-/

namespace Sys2Proof

/-- A 64-bit scalar register value or address (R5, R118). -/
abbrev Word := BitVec 64

/-- A 32-bit lane value of a vector register (R118). -/
abbrev Lane32 := BitVec 32

/-- A set of lanes 0–95 of one member (R58). -/
abbrev LaneMask := BitVec 96

/-- One byte of memory (R5). -/
abbrev Byte := BitVec 8

/-- The lane numbers of a member (R58). -/
def laneNumbers : List Nat := List.range 96

/-- The lanes of a mask, ascending. -/
def LaneMask.toList (m : LaneMask) : List Nat := laneNumbers.filter fun l => m.getLsbD l

/-- The mask of the lanes for which `p` holds. -/
def LaneMask.ofPred (p : Nat → Bool) : LaneMask :=
  laneNumbers.foldl (fun acc l => if p l then acc ||| (1#96 <<< l) else acc) 0#96

/-- The number of lanes in a mask (R92). -/
def LaneMask.count (m : LaneMask) : Nat := m.toList.length

end Sys2Proof
end

