-- ==== Sys2Proof/Forms.lean ====
section
/-!
DEFINITION. The operand shapes of the instruction words: register specifiers (R31, R32), source operands with their modifier and policy
(R37, R38), the four forms of the Jarja word (R24–R30), the Seam word (R383), and the agents that run instructions (R294).
-/

namespace Sys2Proof

/-- A register specifier: its class and its index (R31). -/
inductive Spec where
  | vec (n : BitVec 8)   -- class 0: v0–v255
  | scl (n : BitVec 8)   -- class 1: s0–s255, or f0–f63 on the foreman
  | spc (n : BitVec 8)   -- class 2: special registers of R32
  | imm (n : BitVec 8)   -- class 3: short immediate; 0x300 as a destination is "none" (R35)
  deriving DecidableEq, Repr

/-- A source operand: specifier, modifier (R37) and full/empty policy (R38). -/
structure Src where
  spec : Spec
  mod : BitVec 12
  pol : Bool
  deriving DecidableEq, Repr

/-- Guard and scheduling hints (R40, R41). -/
structure Hdr where
  gp : BitVec 3
  gn : Bool
  hs : BitVec 4
  hy : Bool
  hd : Bool
  deriving DecidableEq, Repr

/-- Form R (R26, R27). -/
structure FormR where
  h : Hdr
  dst : Spec
  a : Src
  b : Src
  ru : Bool
  x : BitVec 18
  deriving DecidableEq, Repr

/-- Form I (R26, R28). -/
structure FormI where
  h : Hdr
  dst : Spec
  a : Src
  ru : Bool
  imm : BitVec 40
  deriving DecidableEq, Repr

/-- Form M (R26, R29): `attr` is the memory attribute field, `off` the signed byte offset. -/
structure FormM where
  h : Hdr
  dst : Spec
  addr : Spec
  attr : BitVec 12
  fa : Bool
  data : Src
  ru : Bool
  off : BitVec 18
  deriving DecidableEq, Repr

/-- Form C (R26, R30): `ctl` is the control operand, `disp` the displacement in instructions. -/
structure FormC where
  h : Hdr
  dst : Spec
  a : Src
  ctl : BitVec 12
  disp : BitVec 28
  deriving DecidableEq, Repr

/-- The fields of a Seam instruction beside its opcode (R383). -/
structure SeamOp where
  d : BitVec 5
  a : BitVec 5
  b : BitVec 5
  k : BitVec 3
  f : BitVec 6
  imm : BitVec 32
  deriving DecidableEq, Repr

/-- The agents that run instructions (R294): a warp by global core and slot, the foreman of a core, a Seam core. -/
inductive Agent where
  | warp (core slot : Nat)
  | foreman (core : Nat)
  | seam (core : Nat)
  deriving DecidableEq, Repr

end Sys2Proof
end

