-- ==== Sys2Proof/Syntax.lean ====
section
/-!
DEFINITION. The abstract syntax: the one inductive of instructions, one constructor for every row of spec/opcode_table.json: Jarja
words by their form (R24–R30), Seam words (R383), and the events of the device (95) with what selects the thing they happen to.
-/

namespace Sys2Proof

/-- Whose caches a walk fills: a core's, for a context (R329). -/
structure Walker where
  core : Nat
  ctx : Nat
  deriving DecidableEq, Repr

/-- What a chunk says of itself: its place in its contribution, the digest of its entry, and whether the rest of its parameters agree (R429). -/
structure ChunkTag where
  idx : Nat
  digest : BitVec 64
  agree : Bool
  deriving DecidableEq, Repr

/-- Every operation and event of spec/opcode_table.json, one constructor a row. -/
inductive Instr where
  | bra (f : FormC)
  | brs (f : FormC)
  | brzEm (f : FormC)
  | call (f : FormC)
  | jmp (f : FormC)
  | exit (f : FormC)
  | nop (f : FormC)
  | split (f : FormC)
  | arrive (f : FormC)
  | join (f : FormC)
  | jmclr (f : FormC)
  | jmrd (f : FormC)
  | jmwr (f : FormC)
  | meld (f : FormC)
  | unmeld (f : FormC)
  | ptld (f : FormM)
  | ptst (f : FormM)
  | prrd (f : FormR)
  | prwr (f : FormR)
  | gany (f : FormR)
  | gall (f : FormR)
  | gsame (f : FormR)
  | gcount (f : FormR)
  | gmask (f : FormR)
  | glow (f : FormR)
  | pfrom (f : FormR)
  | laneid (f : FormR)
  | lperm (f : FormR)
  | lrise (f : FormR)
  | lfall (f : FormR)
  | lswap (f : FormR)
  | emand (f : FormR)
  | canaryDemote (c k : Nat)
  | mmrd (f : FormR)
  | mmwr (f : FormR)
  | mmtrim (f : FormR)
  | mbid (f : FormR)
  | mselV (f : FormR)
  | mselS (f : FormR)
  | mredXF64 (f : FormR)
  | mredXF32 (f : FormR)
  | mredMinmax (f : FormR)
  | mredInt (f : FormR)
  | regrp (f : FormR)
  | regroupDone (c k : Nat)
  | mvote (f : FormR)
  | smovi (f : FormI)
  | smovhi (f : FormI)
  | smov (f : FormR)
  | scsel (f : FormR)
  | vbcast (f : FormR)
  | vext (f : FormR)
  | vins (f : FormR)
  | sadd (f : FormR)
  | ssub (f : FormR)
  | smul (f : FormR)
  | smulh (f : FormR)
  | sdiv (f : FormR)
  | srem (f : FormR)
  | smin (f : FormR)
  | smax (f : FormR)
  | sand (f : FormR)
  | sor (f : FormR)
  | sxor (f : FormR)
  | sandn (f : FormR)
  | sshl (f : FormR)
  | sshr (f : FormR)
  | ssar (f : FormR)
  | srol (f : FormR)
  | sclz (f : FormR)
  | spopc (f : FormR)
  | sctz (f : FormR)
  | sbfe (f : FormR)
  | sbfi (f : FormR)
  | sset (f : FormR)
  | scmp (f : FormR)
  | slea (f : FormR)
  | vaddr (f : FormR)
  | widS (f : FormR)
  | widV (f : FormR)
  | loop (f : FormC)
  | loopBack (c k : Nat)
  | lcrd (f : FormR)
  | stbind (f : FormM)
  | strel (f : FormR)
  | stpos (f : FormR)
  | stseek (f : FormR)
  | strdV (f : FormR)
  | stwrV (f : FormR)
  | streamElementArrive (c k st : Nat)
  | regacq (f : FormI)
  | regacqGrant (c : Nat)
  | regrel (f : FormR)
  | regcnt (f : FormR)
  | fest (f : FormR)
  | fewait (f : FormR)
  | sbrev (f : FormR)
  | faddF32 (f : FormR)
  | fsubF32 (f : FormR)
  | fmulF32 (f : FormR)
  | ffmaF32 (f : FormR)
  | fnmaF32 (f : FormR)
  | fminF32 (f : FormR)
  | fmaxF32 (f : FormR)
  | fnegF32 (f : FormR)
  | fabsF32 (f : FormR)
  | fcpsgnF32 (f : FormR)
  | fcmpF32 (f : FormR)
  | fclassF32 (f : FormR)
  | fredF32 (f : FormR)
  | faddF64 (f : FormR)
  | fsubF64 (f : FormR)
  | fmulF64 (f : FormR)
  | ffmaF64 (f : FormR)
  | fnmaF64 (f : FormR)
  | fminF64 (f : FormR)
  | fmaxF64 (f : FormR)
  | fnegF64 (f : FormR)
  | fabsF64 (f : FormR)
  | fcpsgnF64 (f : FormR)
  | fcmpF64 (f : FormR)
  | fclassF64 (f : FormR)
  | fredF64 (f : FormR)
  | faddF16x2 (f : FormR)
  | fsubF16x2 (f : FormR)
  | fmulF16x2 (f : FormR)
  | ffmaF16x2 (f : FormR)
  | fminF16x2 (f : FormR)
  | fmaxF16x2 (f : FormR)
  | faddBf16x2 (f : FormR)
  | fsubBf16x2 (f : FormR)
  | fmulBf16x2 (f : FormR)
  | ffmaBf16x2 (f : FormR)
  | fminBf16x2 (f : FormR)
  | fmaxBf16x2 (f : FormR)
  | fdot2F16 (f : FormR)
  | fdot2Bf16 (f : FormR)
  | fdot4E4m3 (f : FormR)
  | fdot4E5m2 (f : FormR)
  | iaddB32 (f : FormR)
  | isubB32 (f : FormR)
  | imulB32 (f : FormR)
  | imulh (f : FormR)
  | imadB32 (f : FormR)
  | imin (f : FormR)
  | imax (f : FormR)
  | iandB32 (f : FormR)
  | iorB32 (f : FormR)
  | ixorB32 (f : FormR)
  | iandnB32 (f : FormR)
  | ishlB32 (f : FormR)
  | ishrB32 (f : FormR)
  | isarB32 (f : FormR)
  | iclzB32 (f : FormR)
  | ipopcB32 (f : FormR)
  | ibrevB32 (f : FormR)
  | ibfe (f : FormR)
  | ibfi (f : FormR)
  | icmpB32 (f : FormR)
  | vsel (f : FormR)
  | idot4 (f : FormR)
  | ired (f : FormR)
  | iaddB64 (f : FormR)
  | isubB64 (f : FormR)
  | imulw (f : FormR)
  | vmov (f : FormR)
  | vmovi (f : FormI)
  | cvtF64 (f : FormR)
  | cvtF32 (f : FormR)
  | cvtF16 (f : FormR)
  | cvtBf16 (f : FormR)
  | cvtE4m3 (f : FormR)
  | cvtE5m2 (f : FormR)
  | cvtE2m1 (f : FormR)
  | cvtS64 (f : FormR)
  | cvtU64 (f : FormR)
  | cvtS32 (f : FormR)
  | cvtU32 (f : FormR)
  | cvtS16 (f : FormR)
  | cvtU16 (f : FormR)
  | cvtS8 (f : FormR)
  | cvtU8 (f : FormR)
  | frcpF32 (f : FormR)
  | frsqF32 (f : FormR)
  | fsqrtF32 (f : FormR)
  | fdivF32 (f : FormR)
  | fexp2F32 (f : FormR)
  | flog2F32 (f : FormR)
  | fsinpiF32 (f : FormR)
  | fcospiF32 (f : FormR)
  | ftanhF32 (f : FormR)
  | fdivF64 (f : FormR)
  | fsqrtF64 (f : FormR)
  | exaddF64 (f : FormR)
  | exaddF32 (f : FormR)
  | exmacF64 (f : FormR)
  | exmrg (f : FormR)
  | exmov (f : FormR)
  | exclr (f : FormR)
  | exrnd (f : FormR)
  | exstat (f : FormR)
  | exld (f : FormM)
  | exst (f : FormM)
  | exldw (f : FormM)
  | exstw (f : FormM)
  | exaddmF64 (f : FormM)
  | exmrgm (f : FormM)
  | exactCellRequest (ag : Agent) (e m : Nat) (addr : BitVec 64)
  | mmaBf16 (f : FormR)
  | mmaF16 (f : FormR)
  | mmaE4m3E4m3 (f : FormR)
  | mmaE4m3E5m2 (f : FormR)
  | mmaE5m2E4m3 (f : FormR)
  | mmaE5m2E5m2 (f : FormR)
  | mmaE2m1 (f : FormR)
  | mmaInt8Ss (f : FormR)
  | mmaInt8Su (f : FormR)
  | mmaInt8Us (f : FormR)
  | mmaInt8Uu (f : FormR)
  | mmaF64 (f : FormR)
  | mmasE4m3E4m3 (f : FormR)
  | mmasE4m3E5m2 (f : FormR)
  | mmasE5m2E4m3 (f : FormR)
  | mmasE5m2E5m2 (f : FormR)
  | mmasE2m1 (f : FormR)
  | mmclr (f : FormR)
  | mmaMemberComplete (c : Nat)
  | scld (f : FormM)
  | cvgo (f : FormR)
  | convJobStart (cl : Nat)
  | convJobEnd (cl : Nat)
  | ldU8 (f : FormM)
  | ldS8 (f : FormM)
  | ldU16 (f : FormM)
  | ldS16 (f : FormM)
  | ldU32 (f : FormM)
  | ldU64 (f : FormM)
  | ldU128 (f : FormM)
  | stU8 (f : FormM)
  | stU16 (f : FormM)
  | stU32 (f : FormM)
  | stU64 (f : FormM)
  | stU128 (f : FormM)
  | sldU32 (f : FormM)
  | sldU64 (f : FormM)
  | sstU32 (f : FormM)
  | sstU64 (f : FormM)
  | ldnU32 (f : FormM)
  | ldnU64 (f : FormM)
  | ldnU128 (f : FormM)
  | stnU32 (f : FormM)
  | stnU64 (f : FormM)
  | stnU128 (f : FormM)
  | pf (f : FormM)
  | cwb (f : FormM)
  | rooffl (f : FormR)
  | ordrel (f : FormM)
  | atomAddU32 (f : FormM)
  | atomAddU64 (f : FormM)
  | atomMinS32 (f : FormM)
  | atomMaxS32 (f : FormM)
  | atomMinU32 (f : FormM)
  | atomMaxU32 (f : FormM)
  | atomAndB32 (f : FormM)
  | atomOrB32 (f : FormM)
  | atomXorB32 (f : FormM)
  | atomExchB32 (f : FormM)
  | atomExchB64 (f : FormM)
  | atomCasB32 (f : FormM)
  | atomCasB64 (f : FormM)
  | atomAddF32 (f : FormM)
  | atomAddF64 (f : FormM)
  | atomAddOrdF32 (f : FormM)
  | atomAddOrdF64 (f : FormM)
  | stz (f : FormM)
  | atomicRequest (ag : Agent) (e m : Nat) (addr : BitVec 64)
  | orderedContribution (ag : Agent) (e m : Nat) (addr : BitVec 64)
  | loadReturn (ag : Agent) (e m : Nat) (lanes : LaneMask) (hit : Bool)
  | cpy (f : FormR)
  | cpyf (f : FormR)
  | cpyt (f : FormR)
  | cpyg (f : FormM)
  | halo (f : FormR)
  | copyComplete (id : Nat)
  | batch (f : FormR)
  | batchTl (f : FormR)
  | bwait (f : FormR)
  | bnum (f : FormR)
  | bbini (f : FormM)
  | bbexp (f : FormM)
  | bbarr (f : FormM)
  | bbwt (f : FormM)
  | bbtst (f : FormM)
  | tlwait (f : FormR)
  | tlsig (f : FormR)
  | tlrd (f : FormR)
  | timelineAdvance (x c : Nat)
  | fenceAcq (f : FormR)
  | fenceRel (f : FormR)
  | fenceAr (f : FormR)
  | fenceSc (f : FormR)
  | txbegin (f : FormC)
  | txend (f : FormC)
  | txabt (f : FormC)
  | txst (f : FormR)
  | txConflict (c k : Nat) (line : Nat)
  | replicaUpdate (die idx : Nat)
  | walk (x : Walker) (va : BitVec 64)
  | ttrootWrite (f : FormR)
  | segtabWrite (f : FormR)
  | tlbinv (f : FormR)
  | mscRequest (line : Nat) (write mscb bypass : Bool)
  | uncachedLineAccess (line : Nat) (write : Bool)
  | doorbell (x q : Nat)
  | slotMap (n : Nat)
  | slotFetch (n : Nat)
  | quantumExpire (n : Nat)
  | slotUnstall (n : Nat)
  | nodeReady (id : Nat)
  | blockPlace (id : Nat) (cores : List Nat)
  | placementReserve (id : Nat) (cores : List Nat)
  | preqRaise (id : Nat)
  | nodeDone (id : Nat)
  | convNodeDispatch (id : Nat)
  | seamNodeDispatch (id : Nat)
  | activeSetDisplace (c k : Nat)
  | warpWake (c k : Nat)
  | qpush (f : FormM)
  | qdoor (f : FormR)
  | lhrd (f : FormR)
  | advance (f : FormR)
  | phaseRise (blk : Nat)
  | phrd (f : FormR)
  | dqpush (f : FormR)
  | dqpop (f : FormR)
  | dqstat (f : FormR)
  | fmpost (f : FormR)
  | fmrecv (f : FormR)
  | fmend (f : FormR)
  | seamgo (f : FormM)
  | seamTaskStart (id : Nat)
  | seamProbeDone (id : Nat)
  | seamInstanceRun (core : Nat)
  | seamInstancePreempt (core : Nat)
  | seamLongWait (core : Nat)
  | seamTaskDone (id : Nat)
  | seamLi (o : SeamOp)
  | seamLih (o : SeamOp)
  | seamAlu (o : SeamOp)
  | seamAluImm (o : SeamOp)
  | seamBranch (o : SeamOp)
  | seamJal (o : SeamOp)
  | seamJr (o : SeamOp)
  | seamLd (o : SeamOp)
  | seamSt (o : SeamOp)
  | seamSrd (o : SeamOp)
  | pown (o : SeamOp)
  | rgnext (o : SeamOp)
  | sfence (o : SeamOp)
  | tladv (o : SeamOp)
  | tlwt (o : SeamOp)
  | seamDone (o : SeamOp)
  | seamNop (o : SeamOp)
  | seamKlogic (o : SeamOp)
  | kmov (o : SeamOp)
  | kget (o : SeamOp)
  | vld (o : SeamOp)
  | vst (o : SeamOp)
  | vgth (o : SeamOp)
  | vsct (o : SeamOp)
  | vcst (o : SeamOp)
  | vred (o : SeamOp)
  | vredx (o : SeamOp)
  | vfArith (o : SeamOp)
  | vfArithX (o : SeamOp)
  | vfma (o : SeamOp)
  | vfUnary (o : SeamOp)
  | viArith (o : SeamOp)
  | viArithX (o : SeamOp)
  | vcmp (o : SeamOp)
  | seamVsel (o : SeamOp)
  | vcvt (o : SeamOp)
  | vbc (o : SeamOp)
  | seamVext (o : SeamOp)
  | seamVins (o : SeamOp)
  | vrdl (o : SeamOp)
  | vperm (o : SeamOp)
  | vsrt (o : SeamOp)
  | vlane (o : SeamOp)
  | seamVmov (o : SeamOp)
  | trap (f : FormI)
  | tret (f : FormR)
  | tretSkip (f : FormR)
  | tretTo (f : FormR)
  | trrd (f : FormR)
  | yield (f : FormR)
  | brpq (f : FormC)
  | mon (f : FormM)
  | mwait (f : FormR)
  | monitorWrite (c k : Nat)
  | mwaitTimeout (c k : Nat)
  | sysrd (f : FormR)
  | syswr (f : FormR)
  | cycrd (f : FormR)
  | monclr (f : FormR)
  | ydlrd (f : FormR)
  | trapDeliver (c k : Nat)
  | laneFault (ag : Agent) (e m l : Nat)
  | forcedSave (ag : Agent)
  | blockSave (blk : Nat)
  | blockRestore (blk core : Nat)
  | coll (f : FormM)
  | grpld (f : FormM)
  | grprd (f : FormR)
  | fhrd (f : FormR)
  | flitReceive (port : Nat) (crcOk : Bool)
  | chunkReceive (x g : Nat) (sq : Nat) (src : Nat) (tag : ChunkTag) (poison : List Nat) (data : List Byte)
  | combineDispatch (id : Nat)
  | collCancelReceive (x g sq src : Nat) (fault : Bool)
  | collTimeout (id : Nat)
  | collPeerUnreachable (id rank : Nat)
  | collComplete (id : Nat)
  | laneInterval (port : Nat) (margins serrs : List Nat) (highRate : BitVec 8)
  | portRetrainDone (port : Nat)
  | laneRetrain (port lane : Nat) (meetsGood : Bool)
  | kill (f : FormR)
  | deadrd (f : FormR)
  | shwait (f : FormR)
  | errinj (f : FormR)
  | outputCompare (c k : Nat)
  | shaftWireFail (core group : Nat) (dirty : List Nat)
  | cxlMemRead (range : Bool) (off len : Nat)
  | cxlMemWrite (range : Bool) (off : Nat) (data : List Byte)
  | hostSnoop (line : Nat)
  | cxlOwnershipGrant (line : Nat)
  | barInvalidAccess (off size : Nat) (read : Bool)
  | hostDoorbellWrite (x : Nat) (q : BitVec 32)
  | timelineWindowRead (x c : Nat)
  | timelineWindowWrite (x c : Nat) (v : BitVec 64)
  | descriptorWrite (x off size : Nat) (v : BitVec 64)
  | contextCreate (x : Nat)
  | contextReturn (x : Nat)
  | contextMakeNonresident (x : Nat)
  | residencyChangeDone (x : Nat)
  | groupWindowLoad (x g : Nat)
  | groupLoadDecided (x g : Nat)
  | barRegisterWrite (off size : Nat) (v : BitVec 64)
  | bootclr (v : BitVec 64)
  | deviceStart (hot : Bool)
  | bootStepDone (ok : Bool)
  | powerLoss
  | telemetrySample (rail : Nat) (mv ca temp : BitVec 16)
  | inputShutdown
  | capWindow (die power flux margin : Nat)
  | marginEmergency (die margin : Nat)
  | spdmMessage (code : BitVec 8) (body : List Byte)
  | backInvalidateResponse (line : Nat)
  | writePerformed (ag : Agent) (e m : Nat) (lanes : LaneMask)
  deriving DecidableEq, Repr

end Sys2Proof
end

