-- ==== Sys2Proof/WellFormed.lean ====
section
/-!
DEFINITION. Which instruction words are legal: the checks of R31–R40 and R44 row by row (R83, R108, R142, R179, R202, R230, R263, R287,
R307, R364, R420, R445, R465, R383, R385, R386), and the further restrictions of the foreman (R33, R363).
-/

namespace Sys2Proof

/-- Why a word raises the illegal-instruction trap (the items of R44; R385 for Seam words). -/
inductive Illegal where
  | opcode      -- item 1: OPC or OP is unassigned
  | reserved    -- item 2: bits [77:76] are nonzero
  | operand     -- item 3: a class the operand does not accept
  | dest        -- item 4: DST breaks R35
  | unused      -- item 5: an unused field is nonzero, or FB or RU where R26 requires zero
  | modifier    -- item 6
  | policy      -- item 7
  | guard       -- item 8
  | memAttr     -- item 9
  | option      -- item 10
  | place       -- item 11: foreman-only in a warp, or not executable on the foreman
  | length      -- fewer bytes than an instruction
  deriving DecidableEq, Repr

namespace Spec

/-- An even class 0 register (R118). -/
def isEven : Spec → Bool
  | .vec n => n.toNat % 2 == 0
  | _ => false

/-- A stream register st0–st7 (R32). -/
def isSt : Spec → Bool
  | .spc n => 0x18 ≤ n.toNat && n.toNat ≤ 0x1F
  | _ => false

/-- The "none" specifier 0x300 (R35). -/
def isNone : Spec → Bool
  | .imm n => n == 0
  | _ => false

/-- A zero field, as an unused source holds (R36). -/
def isZero : Spec → Bool
  | .vec n => n == 0
  | _ => false

end Spec

/-- What an operand accepts. -/
abbrev Acc := Spec → Bool

def vAny : Acc | .vec _ => true | _ => false
def vEven : Acc | .vec n => n.toNat % 2 == 0 | _ => false
def vQuad : Acc | .vec n => n.toNat % 4 == 0 | _ => false
def sAny : Acc | .scl _ => true | _ => false
def sCom : Acc | .scl n => n.toNat < 128 | _ => false
def si : Acc | .scl _ => true | .imm _ => true | _ => false
def csOrImm : Acc | .scl n => n.toNat < 128 | .imm _ => true | _ => false
def vsi : Acc | .vec _ => true | .scl _ => true | .imm _ => true | .spc _ => false
def v2si : Acc | .vec n => n.toNat % 2 == 0 | .scl _ => true | .imm _ => true | .spc _ => false
def vs : Acc | .vec _ => true | .scl _ => true | _ => false
def vi : Acc | .vec _ => true | .imm _ => true | _ => false
def v2i : Acc | .vec n => n.toNat % 2 == 0 | .imm _ => true | _ => false
def vOnly : Acc | .vec _ => true | _ => false
def sOnly : Acc | .scl _ => true | _ => false
def gOnly : Acc | .spc n => n.toNat ≤ 7 | _ => false
def gDst : Acc | .spc n => n.toNat ≤ 6 | _ => false
def lcOnly : Acc | .spc n => 0x10 ≤ n.toNat && n.toNat ≤ 0x12 | _ => false
def stOnly : Acc | .spc n => 0x18 ≤ n.toNat && n.toNat ≤ 0x1F | _ => false
def xaOnly : Acc | .spc n => 0x20 ≤ n.toNat && n.toNat ≤ 0x27 | _ => false
def sOrSt : Acc | .scl _ => true | .spc n => 0x18 ≤ n.toNat && n.toNat ≤ 0x1F | _ => false
def siOrSt : Acc | .scl _ => true | .imm _ => true | .spc n => 0x18 ≤ n.toNat && n.toNat ≤ 0x1F | _ => false
def vsSt : Acc | .vec _ => true | .scl _ => true | .spc n => 0x18 ≤ n.toNat && n.toNat ≤ 0x1F | _ => false
def loopCount : Acc | .scl n => n.toNat < 128 | .imm n => n.toNat < 128 | _ => false
def aBase : Acc | .vec n => n.toNat ≤ 112 | _ => false
def aBase64 : Acc | .vec n => n.toNat ≤ 120 | _ => false
def frag : Acc | .vec n => 128 ≤ n.toNat && n.toNat % 16 == 0 | _ => false
def fragEven : Acc | .vec n => 128 ≤ n.toNat && n.toNat % 32 == 0 | _ => false
def recNum : Acc | .scl n => n.toNat < 128 | .imm n => n.toNat ≤ 31 | _ => false
def pfLevel : Acc | .imm n => n.toNat ≤ 2 | _ => false
def grpNum : Acc | .scl n => n.toNat < 128 | .imm n => n.toNat < 128 | _ => false
/-- The address register of R29. -/
def addrAny : Acc | .scl _ => true | .vec n => n.toNat % 2 == 0 | _ => false

/-- What a source accepts: classes, a modifier, a policy bit. -/
structure SrcRow where
  acc : Acc
  mod : Bool
  pol : Bool

/-- What DST accepts (R35). -/
inductive DstRow where
  | none            -- DST must be 0x300
  | req (a : Acc)   -- a destination that may not be discarded
  | opt (a : Acc)   -- a destination that may be discarded

/-- One row of a table of forms for form R. -/
structure RowR where
  dst : DstRow
  a : Option SrcRow
  b : Option SrcRow
  ru : Bool
  uni : Bool

/-- The segment sizes of R37. -/
def segSize (c : Nat) : Nat := if c < 5 then 2 ^ (c + 1) else 96

/-- The legal values of a source modifier (R37). -/
def modLegal (m : BitVec 12) : Bool :=
  let perm := (m.extractLsb' 0 2).toNat
  let seg := (m.extractLsb' 2 3).toNat
  let dist := (m.extractLsb' 5 7).toNat
  if perm = 0 then m == 0
  else if 6 ≤ seg then false
  else if perm = 2 && seg == 5 then dist < 32
  else dist < segSize seg

/-- The first failing check of a list, in its order. -/
def firstOf : List (Bool × Illegal) → Option Illegal
  | [] => none
  | (ok, e) :: t => if ok then firstOf t else some e

/-- A destination against its row (R35). -/
def dstOk : DstRow → Spec → Bool
  | .none, d => d.isNone
  | .req a, d => a d
  | .opt a, d => d.isNone || a d

/-- A source against its row: class (R31), modifier (R37), policy (R34, R38), or all zero where unused (R36). -/
def srcChecks : Option SrcRow → Src → List (Bool × Illegal)
  | none, s => [(s.spec.isZero && s.mod == 0 && !s.pol, .unused)]
  | some r, s =>
    [(r.acc s.spec, .operand),
     (s.mod == 0 || (r.mod && vAny s.spec && modLegal s.mod), .modifier),
     (!s.pol || (r.pol && !(match s.spec with | .imm _ => true | _ => false)), .policy)]

/-- The guard of a uniform form must be 0b0111 or 0b1111 (R40). -/
def guardOk (uni : Bool) (h : Hdr) : Bool := !uni || h.gp == 7

/-- The reuse bit (R34, R39). -/
def ruOk (ru : Bool) (v : Bool) (a : Spec) : Bool := !v || (ru && !(match a with | .imm _ => true | _ => false))

/-- The checks of a form R word. -/
def checkR (r : RowR) (x : Bool) (f : FormR) : Option Illegal :=
  firstOf ([(dstOk r.dst f.dst, .dest)] ++ srcChecks r.a f.a ++ srcChecks r.b f.b ++
    [(ruOk r.ru f.ru f.a.spec, .policy), (guardOk r.uni f.h, .guard), (x, .option)])

/-- The checks of a form I word (R28). -/
def checkI (d : DstRow) (a : Option SrcRow) (uni x : Bool) (f : FormI) : Option Illegal :=
  firstOf ([(dstOk d f.dst, .dest)] ++ srcChecks a f.a ++
    [(!f.ru, .policy), (guardOk uni f.h, .guard), (x, .option)])

/-- A row of a table of forms for form M. -/
structure RowM where
  dst : DstRow
  addr : Acc
  data : Option SrcRow
  attr : BitVec 12 → Bool
  uni : Bool

/-- ORD, SCOPE and CACHE within the given limits, upper bits zero (R29). -/
def attrIs (ord : Nat → Bool) (scope cache : Nat) (m : BitVec 12) : Bool :=
  ord (m.extractLsb' 0 2).toNat && (m.extractLsb' 2 3).toNat ≤ scope && (m.extractLsb' 5 2).toNat ≤ cache && m.toNat < 128

def attrZero (m : BitVec 12) : Bool := m == 0
def attrCache : BitVec 12 → Bool := attrIs (· == 0) 0 3
def attrLoad : BitVec 12 → Bool := attrIs (· ≤ 1) 5 3
def attrStore : BitVec 12 → Bool := attrIs (fun o => o == 0 || o == 2) 5 3
def attrExact : BitVec 12 → Bool := attrIs (fun o => o == 0 || o == 2) 4 0
def attrNearLoad : BitVec 12 → Bool := attrIs (· ≤ 1) 1 0
def attrNearStore : BitVec 12 → Bool := attrIs (fun o => o == 0 || o == 2) 1 0
def attrAtomic : BitVec 12 → Bool := attrIs (fun _ => true) 5 0
def attrOrdered : BitVec 12 → Bool := attrIs (fun o => o == 0 || o == 2) 5 0

/-- The checks of a form M word (R29). -/
def checkM (r : RowM) (f : FormM) : Option Illegal :=
  firstOf ([(dstOk r.dst f.dst, .dest), (r.addr f.addr, .operand)] ++ srcChecks r.data f.data ++
    [(!f.ru, .policy), (guardOk r.uni f.h, .guard), (r.attr f.attr, .memAttr)])

/-- The checks of a form C word (R30); `disp` says whether the row has a target. -/
def checkC (d : DstRow) (a : Option SrcRow) (uni ctl disp : Bool) (f : FormC) : Option Illegal :=
  firstOf ([(dstOk d f.dst, .dest)] ++ srcChecks a f.a ++
    [(guardOk uni f.h, .guard), (ctl, .option), (disp || f.disp == 0, .unused)])

/-- X as a third source in [9:0] with option bits in [17:10], of which `opts` may be set (R27). -/
def xSpec (x : BitVec 18) : Spec :=
  let n := x.extractLsb' 0 8
  match (x.extractLsb' 8 2).toNat with
  | 0 => .vec n | 1 => .scl n | 2 => .spc n | _ => .imm n

def xThird (acc : Acc) (x : BitVec 18) (opts : BitVec 8) : Bool :=
  acc (xSpec x) && (x.extractLsb' 10 8 &&& ~~~opts) == 0

/-- The third source of an arithmetic form; the option bits are checked apart (R180). -/
def cOk (acc : Acc) (x : BitVec 18) : Bool := acc (xSpec x)
def noC (x : BitVec 18) : Bool := x.extractLsb' 0 10 == 0

/-- RM, FTZ and SAT of R180, each where the row accepts it. -/
def fpOpt (x : BitVec 18) (m z s : Bool) : Bool :=
  x.extractLsb' 10 3 ≤ (if m then 3 else 0) && (z || !x.getLsbD 13) && (s || !x.getLsbD 14) && x.extractLsb' 15 3 == 0

/-- The layout of X in `fred` (R180). -/
def fredOpt (x : BitVec 18) : Bool :=
  x.extractLsb' 0 3 ≤ 5 && x.extractLsb' 3 2 ≤ 2 && x.extractLsb' 5 5 == 0 && x.extractLsb' 10 3 ≤ 3 &&
    (x.extractLsb' 3 2 == 0 || x.extractLsb' 10 3 == 0) && x.extractLsb' 14 4 == 0

/-- The elements one register holds in each format code of R190. -/
def cvtElems (c : Nat) : Nat := ([1, 1, 2, 2, 4, 4, 8, 1, 1, 1, 1, 2, 2, 4, 4] : List Nat).getD c 0
def cvtIs64 (c : Nat) : Bool := c == 0 || c == 7 || c == 8
def cvtIsFloat (c : Nat) : Bool := c ≤ 6

/-- The limits of `cvt` with destination code `d` (R180, R190). -/
def cvtOk (d : Nat) (f : FormR) : Bool :=
  let s := (f.x.extractLsb' 0 4).toNat
  let sI := (f.x.extractLsb' 4 3).toNat
  let dI := (f.x.extractLsb' 7 3).toNat
  let rm := (f.x.extractLsb' 10 3).toNat
  s ≤ 14 && s != d && sI < cvtElems s && dI < cvtElems d && rm ≤ 4 && (rm != 4 || cvtIsFloat d) &&
    (!f.x.getLsbD 13 || cvtIsFloat s || cvtIsFloat d) && f.x.extractLsb' 15 3 == 0 &&
    (!cvtIs64 s || f.a.spec.isEven) && (!cvtIs64 d || f.dst.isEven)

/-- The system register numbers of R418. -/
def sysNum (x : BitVec 18) : Bool := x ≤ 0x0C || (0x10 ≤ x && x ≤ 0x1F)

/-- How a Seam form uses a register field (R383, R386). -/
inductive SeamField where
  | unused | any | pred | predDst

def seamFieldOk : SeamField → BitVec 5 → Bool
  | .unused, r => r == 0
  | .any, _ => true
  | .pred, r => r.toNat < 8
  | .predDst, r => r.toNat < 8 && r != 0

/-- The checks of a Seam word (R383, R385, R386). -/
def checkSeam (d a b : SeamField) (g fn imm : Bool) (o : SeamOp) : Option Illegal :=
  firstOf [(seamFieldOk d o.d, .dest), (seamFieldOk a o.a, .operand), (seamFieldOk b o.b, .operand),
    (g || o.k == 0, .guard), (fn, .option), (imm, .option)]

/-- Why the word of an instruction is illegal, or `none` when it is legal in a warp (R44) or on a Seam core (R385).
An event is no word: nothing about it can be illegal. -/
def illegal : Instr → Option Illegal
  | .bra f => checkC (.none) (none) true (f.ctl == 0) true f
  | .brs f => checkC (.none) (some ⟨sCom, true, true⟩) true (f.ctl ≤ 1) true f
  | .brzEm f => checkC (.none) (none) true (f.ctl == 0) true f
  | .call f => checkC (.req sCom) (none) true (f.ctl == 0) true f
  | .jmp f => checkC (.none) (some ⟨sCom, true, true⟩) true (f.ctl == 0) false f
  | .exit f => checkC (.none) (none) false (f.ctl == 0) false f
  | .nop f => checkC (.none) (none) true (f.ctl == 0) false f
  | .split f => checkC (.none) (some ⟨gOnly, true, true⟩) true (f.ctl ≤ 15) true f
  | .arrive f => checkC (.none) (none) false (f.ctl ≤ 7) false f
  | .join f => checkC (.none) (none) true (f.ctl ≤ 7) false f
  | .jmclr f => checkC (.none) (none) true (f.ctl ≤ 7) false f
  | .jmrd f => checkC (.req sAny) (none) true (f.ctl < 56) false f
  | .jmwr f => checkC (.none) (some ⟨si, true, true⟩) true (f.ctl < 56) false f
  | .meld f => checkC (.none) (some ⟨gOnly, true, true⟩) true (f.ctl.toNat < 1024 && (!f.ctl.getLsbD 3 || f.ctl.extractLsb' 0 3 == 0)) false f
  | .unmeld f => checkC (.none) (none) true (f.ctl == 0) false f
  | .ptld f => checkM ⟨.none, sCom, none, attrCache, true⟩ f
  | .ptst f => checkM ⟨.none, sCom, none, attrCache, true⟩ f
  | .prrd f => checkR ⟨.req vAny, none, none, false, false⟩ (f.x == 0) f
  | .prwr f => checkR ⟨.none, some ⟨vAny, true, true⟩, none, false, false⟩ (f.x == 0) f
  | .gany f => checkR ⟨.req gDst, some ⟨gOnly, true, true⟩, none, false, false⟩ (f.x == 0) f
  | .gall f => checkR ⟨.req gDst, some ⟨gOnly, true, true⟩, none, false, false⟩ (f.x == 0) f
  | .gsame f => checkR ⟨.req gDst, some ⟨gOnly, true, true⟩, none, false, false⟩ (f.x == 0) f
  | .gcount f => checkR ⟨.req sAny, some ⟨gOnly, true, true⟩, none, false, false⟩ (f.x == 0) f
  | .gmask f => checkR ⟨.req sAny, some ⟨gOnly, true, true⟩, none, false, false⟩ (f.x ≤ 2) f
  | .glow f => checkR ⟨.req sAny, some ⟨gOnly, true, true⟩, none, false, false⟩ (f.x == 0) f
  | .pfrom f => checkR ⟨.req gDst, some ⟨si, true, true⟩, none, false, false⟩ (f.x ≤ 2) f
  | .laneid f => checkR ⟨.req vAny, none, none, false, false⟩ (f.x == 0) f
  | .lperm f => checkR ⟨.req vAny, some ⟨vAny, true, true⟩, some ⟨vAny, true, true⟩, false, false⟩ (xThird vi f.x 0) f
  | .lrise f => checkR ⟨.req vAny, some ⟨vAny, true, true⟩, some ⟨si, true, true⟩, false, false⟩ (xThird vi f.x 7 && f.x.extractLsb' 10 3 ≤ 5) f
  | .lfall f => checkR ⟨.req vAny, some ⟨vAny, true, true⟩, some ⟨si, true, true⟩, false, false⟩ (xThird vi f.x 7 && f.x.extractLsb' 10 3 ≤ 5) f
  | .lswap f => checkR ⟨.req vAny, some ⟨vAny, true, true⟩, some ⟨si, true, true⟩, false, false⟩ (xThird vi f.x 7 && f.x.extractLsb' 10 3 ≤ 5) f
  | .emand f => checkR ⟨.none, some ⟨gOnly, true, true⟩, none, false, true⟩ (f.x == 0) f
  | .mmrd f => checkR ⟨.req sAny, none, none, false, true⟩ (f.x == 0) f
  | .mmwr f => checkR ⟨.none, some ⟨csOrImm, true, true⟩, none, false, true⟩ (f.x == 0) f
  | .mmtrim f => checkR ⟨.none, none, none, false, true⟩ (f.x == 0) f
  | .mbid f => checkR ⟨.req sAny, none, none, false, true⟩ (f.x ≤ 3) f
  | .mselV f => checkR ⟨.req vAny, some ⟨vAny, true, true⟩, some ⟨si, true, true⟩, false, false⟩ (f.x == 0) f
  | .mselS f => checkR ⟨.req sAny, some ⟨sAny, true, true⟩, some ⟨si, true, true⟩, false, true⟩ (f.x == 0) f
  | .mredXF64 f => checkR ⟨.req vEven, some ⟨vEven, true, true⟩, none, false, false⟩ (f.x ≤ 3) f
  | .mredXF32 f => checkR ⟨.req vAny, some ⟨vAny, true, true⟩, none, false, false⟩ (f.x ≤ 3) f
  | .mredMinmax f => checkR ⟨.req vAny, some ⟨vAny, true, true⟩, none, false, false⟩ (f.x ≤ 3 && (!f.x.getLsbD 1 || (f.dst.isEven && f.a.spec.isEven))) f
  | .mredInt f => checkR ⟨.req vAny, some ⟨vAny, true, true⟩, none, false, false⟩ (f.x ≤ 7) f
  | .regrp f => checkR ⟨.none, some ⟨si, true, true⟩, none, false, true⟩ (f.x == 0) f
  | .mvote f => checkR ⟨.req sAny, some ⟨gOnly, true, true⟩, none, false, true⟩ (f.x ≤ 1) f
  | .smovi f => checkI (.req sAny) (none) true (true) f
  | .smovhi f => checkI (.req sAny) (some ⟨si, true, true⟩) true (f.imm.toNat < 2 ^ 24) f
  | .smov f => checkR ⟨.req sOrSt, some ⟨siOrSt, true, true⟩, none, false, true⟩ (f.x == 0 && !(f.dst.isSt && f.a.spec.isSt)) f
  | .scsel f => checkR ⟨.req sAny, some ⟨si, true, true⟩, some ⟨si, true, true⟩, false, true⟩ (xThird si f.x 0) f
  | .vbcast f => checkR ⟨.req vAny, some ⟨si, true, true⟩, none, false, false⟩ (f.x ≤ 1) f
  | .vext f => checkR ⟨.req sAny, some ⟨vAny, true, true⟩, some ⟨si, true, true⟩, false, true⟩ (f.x == 0) f
  | .vins f => checkR ⟨.req vAny, some ⟨si, true, true⟩, some ⟨si, true, true⟩, false, false⟩ (f.x == 0) f
  | .sadd f => checkR ⟨.req sAny, some ⟨si, true, true⟩, some ⟨si, true, true⟩, false, true⟩ (f.x == 0) f
  | .ssub f => checkR ⟨.req sAny, some ⟨si, true, true⟩, some ⟨si, true, true⟩, false, true⟩ (f.x == 0) f
  | .smul f => checkR ⟨.req sAny, some ⟨si, true, true⟩, some ⟨si, true, true⟩, false, true⟩ (f.x == 0) f
  | .smulh f => checkR ⟨.req sAny, some ⟨si, true, true⟩, some ⟨si, true, true⟩, false, true⟩ (f.x ≤ 1) f
  | .sdiv f => checkR ⟨.req sAny, some ⟨si, true, true⟩, some ⟨si, true, true⟩, false, true⟩ (f.x ≤ 1) f
  | .srem f => checkR ⟨.req sAny, some ⟨si, true, true⟩, some ⟨si, true, true⟩, false, true⟩ (f.x ≤ 1) f
  | .smin f => checkR ⟨.req sAny, some ⟨si, true, true⟩, some ⟨si, true, true⟩, false, true⟩ (f.x ≤ 1) f
  | .smax f => checkR ⟨.req sAny, some ⟨si, true, true⟩, some ⟨si, true, true⟩, false, true⟩ (f.x ≤ 1) f
  | .sand f => checkR ⟨.req sAny, some ⟨si, true, true⟩, some ⟨si, true, true⟩, false, true⟩ (f.x == 0) f
  | .sor f => checkR ⟨.req sAny, some ⟨si, true, true⟩, some ⟨si, true, true⟩, false, true⟩ (f.x == 0) f
  | .sxor f => checkR ⟨.req sAny, some ⟨si, true, true⟩, some ⟨si, true, true⟩, false, true⟩ (f.x == 0) f
  | .sandn f => checkR ⟨.req sAny, some ⟨si, true, true⟩, some ⟨si, true, true⟩, false, true⟩ (f.x == 0) f
  | .sshl f => checkR ⟨.req sAny, some ⟨si, true, true⟩, some ⟨si, true, true⟩, false, true⟩ (f.x == 0) f
  | .sshr f => checkR ⟨.req sAny, some ⟨si, true, true⟩, some ⟨si, true, true⟩, false, true⟩ (f.x == 0) f
  | .ssar f => checkR ⟨.req sAny, some ⟨si, true, true⟩, some ⟨si, true, true⟩, false, true⟩ (f.x == 0) f
  | .srol f => checkR ⟨.req sAny, some ⟨si, true, true⟩, some ⟨si, true, true⟩, false, true⟩ (f.x == 0) f
  | .sclz f => checkR ⟨.req sAny, some ⟨si, true, true⟩, none, false, true⟩ (f.x == 0) f
  | .spopc f => checkR ⟨.req sAny, some ⟨si, true, true⟩, none, false, true⟩ (f.x == 0) f
  | .sctz f => checkR ⟨.req sAny, some ⟨si, true, true⟩, none, false, true⟩ (f.x == 0) f
  | .sbfe f => checkR ⟨.req sAny, some ⟨si, true, true⟩, none, false, true⟩ (f.x.toNat < 2 ^ 14 && (f.x.extractLsb' 6 7).toNat ≥ 1 && (f.x.extractLsb' 0 6).toNat + (f.x.extractLsb' 6 7).toNat ≤ 64) f
  | .sbfi f => checkR ⟨.req sAny, some ⟨si, true, true⟩, some ⟨si, true, true⟩, false, true⟩ (f.x.toNat < 2 ^ 13 && (f.x.extractLsb' 6 7).toNat ≥ 1 && (f.x.extractLsb' 0 6).toNat + (f.x.extractLsb' 6 7).toNat ≤ 64) f
  | .sset f => checkR ⟨.req sAny, some ⟨si, true, true⟩, some ⟨si, true, true⟩, false, true⟩ (f.x ≤ 9) f
  | .scmp f => checkR ⟨.req gDst, some ⟨si, true, true⟩, some ⟨si, true, true⟩, false, false⟩ (f.x ≤ 9) f
  | .slea f => checkR ⟨.req sAny, some ⟨si, true, true⟩, some ⟨si, true, true⟩, false, true⟩ (f.x ≤ 63) f
  | .vaddr f => checkR ⟨.req vEven, some ⟨si, true, true⟩, some ⟨vAny, true, true⟩, false, false⟩ (f.x ≤ 127) f
  | .widS f => checkR ⟨.req sAny, none, none, false, true⟩ (1 ≤ f.x && f.x ≤ 6) f
  | .widV f => checkR ⟨.req vAny, none, none, false, false⟩ (f.x ≤ 5) f
  | .loop f => checkC (.none) (some ⟨loopCount, true, true⟩) true (f.ctl ≤ 2) true f
  | .lcrd f => checkR ⟨.req sAny, some ⟨lcOnly, true, true⟩, none, false, true⟩ (f.x ≤ 2) f
  | .stbind f => checkM ⟨.req stOnly, sCom, none, attrCache, true⟩ f
  | .strel f => checkR ⟨.none, some ⟨stOnly, true, true⟩, none, false, true⟩ (f.x == 0) f
  | .stpos f => checkR ⟨.req sAny, some ⟨stOnly, true, true⟩, none, false, true⟩ (f.x == 0) f
  | .stseek f => checkR ⟨.req stOnly, some ⟨csOrImm, true, true⟩, none, false, true⟩ (f.x == 0) f
  | .strdV f => checkR ⟨.req vAny, some ⟨stOnly, true, true⟩, none, false, false⟩ (f.x == 0) f
  | .stwrV f => checkR ⟨.req stOnly, some ⟨vAny, true, true⟩, none, false, false⟩ (f.x == 0) f
  | .regacq f => checkI (.none) (none) true (f.imm.toNat % 32 == 0 && 96 ≤ f.imm.toNat && f.imm.toNat ≤ 256) f
  | .regrel f => checkR ⟨.none, none, none, false, true⟩ (f.x == 0) f
  | .regcnt f => checkR ⟨.req sAny, none, none, false, true⟩ (f.x == 0) f
  | .fest f => checkR ⟨.req sAny, some ⟨vsSt, true, false⟩, none, false, true⟩ (f.x == 0) f
  | .fewait f => checkR ⟨.none, some ⟨vs, true, false⟩, none, false, true⟩ (f.x == 0) f
  | .sbrev f => checkR ⟨.req sAny, some ⟨si, true, true⟩, none, false, true⟩ (f.x == 0) f
  | .faddF32 f => checkR ⟨.req vAny, some ⟨vAny, true, true⟩, some ⟨vsi, true, true⟩, false, false⟩ (noC f.x && fpOpt f.x true true true) f
  | .fsubF32 f => checkR ⟨.req vAny, some ⟨vAny, true, true⟩, some ⟨vsi, true, true⟩, false, false⟩ (noC f.x && fpOpt f.x true true true) f
  | .fmulF32 f => checkR ⟨.req vAny, some ⟨vAny, true, true⟩, some ⟨vsi, true, true⟩, false, false⟩ (noC f.x && fpOpt f.x true true true) f
  | .ffmaF32 f => checkR ⟨.req vAny, some ⟨vAny, true, true⟩, some ⟨vsi, true, true⟩, false, false⟩ (cOk vi f.x && fpOpt f.x true true true) f
  | .fnmaF32 f => checkR ⟨.req vAny, some ⟨vAny, true, true⟩, some ⟨vsi, true, true⟩, false, false⟩ (cOk vi f.x && fpOpt f.x true true true) f
  | .fminF32 f => checkR ⟨.req vAny, some ⟨vAny, true, true⟩, some ⟨vsi, true, true⟩, false, false⟩ (noC f.x && fpOpt f.x false true false) f
  | .fmaxF32 f => checkR ⟨.req vAny, some ⟨vAny, true, true⟩, some ⟨vsi, true, true⟩, false, false⟩ (noC f.x && fpOpt f.x false true false) f
  | .fnegF32 f => checkR ⟨.req vAny, some ⟨vAny, true, true⟩, none, false, false⟩ (f.x == 0) f
  | .fabsF32 f => checkR ⟨.req vAny, some ⟨vAny, true, true⟩, none, false, false⟩ (f.x == 0) f
  | .fcpsgnF32 f => checkR ⟨.req vAny, some ⟨vAny, true, true⟩, some ⟨vsi, true, true⟩, false, false⟩ (f.x == 0) f
  | .fcmpF32 f => checkR ⟨.req gDst, some ⟨vAny, true, true⟩, some ⟨vsi, true, true⟩, false, false⟩ (noC f.x && f.x.extractLsb' 10 3 == 0 && !f.x.getLsbD 14) f
  | .fclassF32 f => checkR ⟨.req vAny, some ⟨vAny, true, true⟩, none, false, false⟩ (f.x == 0) f
  | .fredF32 f => checkR ⟨.req vAny, some ⟨vAny, true, true⟩, none, false, false⟩ (fredOpt f.x) f
  | .faddF64 f => checkR ⟨.req vEven, some ⟨vEven, true, true⟩, some ⟨v2si, true, true⟩, false, false⟩ (noC f.x && fpOpt f.x true true true) f
  | .fsubF64 f => checkR ⟨.req vEven, some ⟨vEven, true, true⟩, some ⟨v2si, true, true⟩, false, false⟩ (noC f.x && fpOpt f.x true true true) f
  | .fmulF64 f => checkR ⟨.req vEven, some ⟨vEven, true, true⟩, some ⟨v2si, true, true⟩, false, false⟩ (noC f.x && fpOpt f.x true true true) f
  | .ffmaF64 f => checkR ⟨.req vEven, some ⟨vEven, true, true⟩, some ⟨v2si, true, true⟩, false, false⟩ (cOk v2i f.x && fpOpt f.x true true true) f
  | .fnmaF64 f => checkR ⟨.req vEven, some ⟨vEven, true, true⟩, some ⟨v2si, true, true⟩, false, false⟩ (cOk v2i f.x && fpOpt f.x true true true) f
  | .fminF64 f => checkR ⟨.req vEven, some ⟨vEven, true, true⟩, some ⟨v2si, true, true⟩, false, false⟩ (noC f.x && fpOpt f.x false true false) f
  | .fmaxF64 f => checkR ⟨.req vEven, some ⟨vEven, true, true⟩, some ⟨v2si, true, true⟩, false, false⟩ (noC f.x && fpOpt f.x false true false) f
  | .fnegF64 f => checkR ⟨.req vEven, some ⟨vEven, true, true⟩, none, false, false⟩ (f.x == 0) f
  | .fabsF64 f => checkR ⟨.req vEven, some ⟨vEven, true, true⟩, none, false, false⟩ (f.x == 0) f
  | .fcpsgnF64 f => checkR ⟨.req vEven, some ⟨vEven, true, true⟩, some ⟨v2si, true, true⟩, false, false⟩ (f.x == 0) f
  | .fcmpF64 f => checkR ⟨.req gDst, some ⟨vEven, true, true⟩, some ⟨v2si, true, true⟩, false, false⟩ (noC f.x && f.x.extractLsb' 10 3 == 0 && !f.x.getLsbD 14) f
  | .fclassF64 f => checkR ⟨.req vAny, some ⟨vEven, true, true⟩, none, false, false⟩ (f.x == 0) f
  | .fredF64 f => checkR ⟨.req vEven, some ⟨vEven, true, true⟩, none, false, false⟩ (fredOpt f.x) f
  | .faddF16x2 f => checkR ⟨.req vAny, some ⟨vAny, true, true⟩, some ⟨vs, true, true⟩, false, false⟩ (noC f.x && fpOpt f.x true true true) f
  | .fsubF16x2 f => checkR ⟨.req vAny, some ⟨vAny, true, true⟩, some ⟨vs, true, true⟩, false, false⟩ (noC f.x && fpOpt f.x true true true) f
  | .fmulF16x2 f => checkR ⟨.req vAny, some ⟨vAny, true, true⟩, some ⟨vs, true, true⟩, false, false⟩ (noC f.x && fpOpt f.x true true true) f
  | .ffmaF16x2 f => checkR ⟨.req vAny, some ⟨vAny, true, true⟩, some ⟨vs, true, true⟩, false, false⟩ (cOk vOnly f.x && fpOpt f.x true true true) f
  | .fminF16x2 f => checkR ⟨.req vAny, some ⟨vAny, true, true⟩, some ⟨vs, true, true⟩, false, false⟩ (noC f.x && fpOpt f.x false true false) f
  | .fmaxF16x2 f => checkR ⟨.req vAny, some ⟨vAny, true, true⟩, some ⟨vs, true, true⟩, false, false⟩ (noC f.x && fpOpt f.x false true false) f
  | .faddBf16x2 f => checkR ⟨.req vAny, some ⟨vAny, true, true⟩, some ⟨vs, true, true⟩, false, false⟩ (noC f.x && fpOpt f.x true true true) f
  | .fsubBf16x2 f => checkR ⟨.req vAny, some ⟨vAny, true, true⟩, some ⟨vs, true, true⟩, false, false⟩ (noC f.x && fpOpt f.x true true true) f
  | .fmulBf16x2 f => checkR ⟨.req vAny, some ⟨vAny, true, true⟩, some ⟨vs, true, true⟩, false, false⟩ (noC f.x && fpOpt f.x true true true) f
  | .ffmaBf16x2 f => checkR ⟨.req vAny, some ⟨vAny, true, true⟩, some ⟨vs, true, true⟩, false, false⟩ (cOk vOnly f.x && fpOpt f.x true true true) f
  | .fminBf16x2 f => checkR ⟨.req vAny, some ⟨vAny, true, true⟩, some ⟨vs, true, true⟩, false, false⟩ (noC f.x && fpOpt f.x false true false) f
  | .fmaxBf16x2 f => checkR ⟨.req vAny, some ⟨vAny, true, true⟩, some ⟨vs, true, true⟩, false, false⟩ (noC f.x && fpOpt f.x false true false) f
  | .fdot2F16 f => checkR ⟨.req vAny, some ⟨vAny, true, true⟩, some ⟨vs, true, true⟩, false, false⟩ (cOk vi f.x && fpOpt f.x true true true) f
  | .fdot2Bf16 f => checkR ⟨.req vAny, some ⟨vAny, true, true⟩, some ⟨vs, true, true⟩, false, false⟩ (cOk vi f.x && fpOpt f.x true true true) f
  | .fdot4E4m3 f => checkR ⟨.req vAny, some ⟨vAny, true, true⟩, some ⟨vs, true, true⟩, false, false⟩ (cOk vi f.x && fpOpt f.x true true true) f
  | .fdot4E5m2 f => checkR ⟨.req vAny, some ⟨vAny, true, true⟩, some ⟨vs, true, true⟩, false, false⟩ (cOk vi f.x && fpOpt f.x true true true) f
  | .iaddB32 f => checkR ⟨.req vAny, some ⟨vAny, true, true⟩, some ⟨vsi, true, true⟩, false, false⟩ (f.x == 0 || f.x == 0x4000 || f.x == 0xC000) f
  | .isubB32 f => checkR ⟨.req vAny, some ⟨vAny, true, true⟩, some ⟨vsi, true, true⟩, false, false⟩ (f.x == 0 || f.x == 0x4000 || f.x == 0xC000) f
  | .imulB32 f => checkR ⟨.req vAny, some ⟨vAny, true, true⟩, some ⟨vsi, true, true⟩, false, false⟩ (f.x == 0) f
  | .imulh f => checkR ⟨.req vAny, some ⟨vAny, true, true⟩, some ⟨vsi, true, true⟩, false, false⟩ ((f.x == 0 || f.x == 0x8000)) f
  | .imadB32 f => checkR ⟨.req vAny, some ⟨vAny, true, true⟩, some ⟨vsi, true, true⟩, false, false⟩ (xThird vi f.x 0) f
  | .imin f => checkR ⟨.req vAny, some ⟨vAny, true, true⟩, some ⟨vsi, true, true⟩, false, false⟩ ((f.x == 0 || f.x == 0x8000)) f
  | .imax f => checkR ⟨.req vAny, some ⟨vAny, true, true⟩, some ⟨vsi, true, true⟩, false, false⟩ ((f.x == 0 || f.x == 0x8000)) f
  | .iandB32 f => checkR ⟨.req vAny, some ⟨vAny, true, true⟩, some ⟨vsi, true, true⟩, false, false⟩ (f.x == 0) f
  | .iorB32 f => checkR ⟨.req vAny, some ⟨vAny, true, true⟩, some ⟨vsi, true, true⟩, false, false⟩ (f.x == 0) f
  | .ixorB32 f => checkR ⟨.req vAny, some ⟨vAny, true, true⟩, some ⟨vsi, true, true⟩, false, false⟩ (f.x == 0) f
  | .iandnB32 f => checkR ⟨.req vAny, some ⟨vAny, true, true⟩, some ⟨vsi, true, true⟩, false, false⟩ (f.x == 0) f
  | .ishlB32 f => checkR ⟨.req vAny, some ⟨vAny, true, true⟩, some ⟨vsi, true, true⟩, false, false⟩ (f.x == 0) f
  | .ishrB32 f => checkR ⟨.req vAny, some ⟨vAny, true, true⟩, some ⟨vsi, true, true⟩, false, false⟩ (f.x == 0) f
  | .isarB32 f => checkR ⟨.req vAny, some ⟨vAny, true, true⟩, some ⟨vsi, true, true⟩, false, false⟩ (f.x == 0) f
  | .iclzB32 f => checkR ⟨.req vAny, some ⟨vAny, true, true⟩, none, false, false⟩ (f.x == 0) f
  | .ipopcB32 f => checkR ⟨.req vAny, some ⟨vAny, true, true⟩, none, false, false⟩ (f.x == 0) f
  | .ibrevB32 f => checkR ⟨.req vAny, some ⟨vAny, true, true⟩, none, false, false⟩ (f.x == 0) f
  | .ibfe f => checkR ⟨.req vAny, some ⟨vAny, true, true⟩, none, false, false⟩ (f.x.toNat < 2 ^ 12 && (f.x.extractLsb' 5 6).toNat ≥ 1 && (f.x.extractLsb' 0 5).toNat + (f.x.extractLsb' 5 6).toNat ≤ 32) f
  | .ibfi f => checkR ⟨.req vAny, some ⟨vAny, true, true⟩, some ⟨vsi, true, true⟩, false, false⟩ (f.x.toNat < 2 ^ 11 && (f.x.extractLsb' 5 6).toNat ≥ 1 && (f.x.extractLsb' 0 5).toNat + (f.x.extractLsb' 5 6).toNat ≤ 32) f
  | .icmpB32 f => checkR ⟨.req gDst, some ⟨vAny, true, true⟩, some ⟨vsi, true, true⟩, false, false⟩ (f.x.extractLsb' 0 14 == 0 && f.x.extractLsb' 14 4 ≤ 9) f
  | .vsel f => checkR ⟨.req vAny, some ⟨vAny, true, true⟩, some ⟨vsi, true, true⟩, false, false⟩ (xThird gOnly f.x 0) f
  | .idot4 f => checkR ⟨.req vAny, some ⟨vAny, true, true⟩, some ⟨vs, true, true⟩, false, false⟩ (cOk vi f.x && f.x.extractLsb' 10 5 == 0 && f.x.extractLsb' 16 2 == 0) f
  | .ired f => checkR ⟨.req vAny, some ⟨vAny, true, true⟩, none, false, false⟩ (f.x.toNat < 64 && f.x.extractLsb' 0 3 ≤ 5) f
  | .iaddB64 f => checkR ⟨.req vEven, some ⟨vEven, true, true⟩, some ⟨v2si, true, true⟩, false, false⟩ (f.x == 0) f
  | .isubB64 f => checkR ⟨.req vEven, some ⟨vEven, true, true⟩, some ⟨v2si, true, true⟩, false, false⟩ (f.x == 0) f
  | .imulw f => checkR ⟨.req vEven, some ⟨vAny, true, true⟩, some ⟨vsi, true, true⟩, false, false⟩ ((f.x == 0 || f.x == 0x8000)) f
  | .vmov f => checkR ⟨.req vAny, some ⟨vAny, true, true⟩, none, false, false⟩ (f.x == 0) f
  | .vmovi f => checkI (.req vAny) (none) false (f.imm.toNat < 2 ^ 32) f
  | .cvtF64 f => checkR ⟨.req vAny, some ⟨vAny, true, true⟩, (if f.x.extractLsb' 10 3 == 4 then some ⟨sAny, false, true⟩ else none), false, false⟩ (true && cvtOk 0 f) f
  | .cvtF32 f => checkR ⟨.req vAny, some ⟨vAny, true, true⟩, (if f.x.extractLsb' 10 3 == 4 then some ⟨sAny, false, true⟩ else none), false, false⟩ (true && cvtOk 1 f) f
  | .cvtF16 f => checkR ⟨.req vAny, some ⟨vAny, true, true⟩, (if f.x.extractLsb' 10 3 == 4 then some ⟨sAny, false, true⟩ else none), false, false⟩ (true && cvtOk 2 f) f
  | .cvtBf16 f => checkR ⟨.req vAny, some ⟨vAny, true, true⟩, (if f.x.extractLsb' 10 3 == 4 then some ⟨sAny, false, true⟩ else none), false, false⟩ (true && cvtOk 3 f) f
  | .cvtE4m3 f => checkR ⟨.req vAny, some ⟨vAny, true, true⟩, (if f.x.extractLsb' 10 3 == 4 then some ⟨sAny, false, true⟩ else none), false, false⟩ (true && cvtOk 4 f) f
  | .cvtE5m2 f => checkR ⟨.req vAny, some ⟨vAny, true, true⟩, (if f.x.extractLsb' 10 3 == 4 then some ⟨sAny, false, true⟩ else none), false, false⟩ (true && cvtOk 5 f) f
  | .cvtE2m1 f => checkR ⟨.req vAny, some ⟨vAny, true, true⟩, (if f.x.extractLsb' 10 3 == 4 then some ⟨sAny, false, true⟩ else none), false, false⟩ (true && cvtOk 6 f) f
  | .cvtS64 f => checkR ⟨.req vAny, some ⟨vAny, true, true⟩, (if f.x.extractLsb' 10 3 == 4 then some ⟨sAny, false, true⟩ else none), false, false⟩ (true && cvtOk 7 f) f
  | .cvtU64 f => checkR ⟨.req vAny, some ⟨vAny, true, true⟩, (if f.x.extractLsb' 10 3 == 4 then some ⟨sAny, false, true⟩ else none), false, false⟩ (true && cvtOk 8 f) f
  | .cvtS32 f => checkR ⟨.req vAny, some ⟨vAny, true, true⟩, (if f.x.extractLsb' 10 3 == 4 then some ⟨sAny, false, true⟩ else none), false, false⟩ (true && cvtOk 9 f) f
  | .cvtU32 f => checkR ⟨.req vAny, some ⟨vAny, true, true⟩, (if f.x.extractLsb' 10 3 == 4 then some ⟨sAny, false, true⟩ else none), false, false⟩ (true && cvtOk 10 f) f
  | .cvtS16 f => checkR ⟨.req vAny, some ⟨vAny, true, true⟩, (if f.x.extractLsb' 10 3 == 4 then some ⟨sAny, false, true⟩ else none), false, false⟩ (true && cvtOk 11 f) f
  | .cvtU16 f => checkR ⟨.req vAny, some ⟨vAny, true, true⟩, (if f.x.extractLsb' 10 3 == 4 then some ⟨sAny, false, true⟩ else none), false, false⟩ (true && cvtOk 12 f) f
  | .cvtS8 f => checkR ⟨.req vAny, some ⟨vAny, true, true⟩, (if f.x.extractLsb' 10 3 == 4 then some ⟨sAny, false, true⟩ else none), false, false⟩ (true && cvtOk 13 f) f
  | .cvtU8 f => checkR ⟨.req vAny, some ⟨vAny, true, true⟩, (if f.x.extractLsb' 10 3 == 4 then some ⟨sAny, false, true⟩ else none), false, false⟩ (true && cvtOk 14 f) f
  | .frcpF32 f => checkR ⟨.req vAny, some ⟨vAny, true, true⟩, none, false, false⟩ (noC f.x && fpOpt f.x false true false) f
  | .frsqF32 f => checkR ⟨.req vAny, some ⟨vAny, true, true⟩, none, false, false⟩ (noC f.x && fpOpt f.x false true false) f
  | .fsqrtF32 f => checkR ⟨.req vAny, some ⟨vAny, true, true⟩, none, false, false⟩ (noC f.x && fpOpt f.x true true false) f
  | .fdivF32 f => checkR ⟨.req vAny, some ⟨vAny, true, true⟩, some ⟨vsi, true, true⟩, false, false⟩ (noC f.x && fpOpt f.x true true false) f
  | .fexp2F32 f => checkR ⟨.req vAny, some ⟨vAny, true, true⟩, none, false, false⟩ (noC f.x && fpOpt f.x false true false) f
  | .flog2F32 f => checkR ⟨.req vAny, some ⟨vAny, true, true⟩, none, false, false⟩ (noC f.x && fpOpt f.x false true false) f
  | .fsinpiF32 f => checkR ⟨.req vAny, some ⟨vAny, true, true⟩, none, false, false⟩ (noC f.x && fpOpt f.x false true false) f
  | .fcospiF32 f => checkR ⟨.req vAny, some ⟨vAny, true, true⟩, none, false, false⟩ (noC f.x && fpOpt f.x false true false) f
  | .ftanhF32 f => checkR ⟨.req vAny, some ⟨vAny, true, true⟩, none, false, false⟩ (noC f.x && fpOpt f.x false true false) f
  | .fdivF64 f => checkR ⟨.req vEven, some ⟨vEven, true, true⟩, some ⟨v2si, true, true⟩, false, false⟩ (noC f.x && fpOpt f.x true true false) f
  | .fsqrtF64 f => checkR ⟨.req vEven, some ⟨vEven, true, true⟩, none, false, false⟩ (noC f.x && fpOpt f.x true true false) f
  | .exaddF64 f => checkR ⟨.req xaOnly, some ⟨vEven, true, true⟩, none, false, false⟩ (f.x == 0) f
  | .exaddF32 f => checkR ⟨.req xaOnly, some ⟨vAny, true, true⟩, none, false, false⟩ (f.x == 0) f
  | .exmacF64 f => checkR ⟨.req xaOnly, some ⟨vEven, true, true⟩, some ⟨vEven, true, true⟩, false, false⟩ (f.x == 0) f
  | .exmrg f => checkR ⟨.req xaOnly, some ⟨xaOnly, true, true⟩, none, false, true⟩ (f.x == 0) f
  | .exmov f => checkR ⟨.req xaOnly, some ⟨xaOnly, true, true⟩, none, false, true⟩ (f.x == 1) f
  | .exclr f => checkR ⟨.req xaOnly, none, none, false, true⟩ (f.x == 2) f
  | .exrnd f => checkR ⟨.req sAny, some ⟨xaOnly, true, true⟩, none, false, true⟩ (f.x ≤ 3) f
  | .exstat f => checkR ⟨.req sAny, some ⟨xaOnly, true, true⟩, none, false, true⟩ (f.x == 0) f
  | .exld f => checkM ⟨.req xaOnly, sCom, none, attrLoad, true⟩ f
  | .exst f => checkM ⟨.none, sAny, some ⟨xaOnly, true, true⟩, attrStore, true⟩ f
  | .exldw f => checkM ⟨.req xaOnly, sCom, none, attrLoad, true⟩ f
  | .exstw f => checkM ⟨.req sAny, sAny, some ⟨xaOnly, true, true⟩, attrStore, true⟩ f
  | .exaddmF64 f => checkM ⟨.none, addrAny, some ⟨vEven, true, true⟩, attrExact, false⟩ f
  | .exmrgm f => checkM ⟨.none, sAny, some ⟨xaOnly, true, true⟩, attrExact, true⟩ f
  | .mmaBf16 f => checkR ⟨.req frag, some ⟨aBase, false, true⟩, some ⟨sAny, true, true⟩, true, false⟩ (f.x == 0) f
  | .mmaF16 f => checkR ⟨.req frag, some ⟨aBase, false, true⟩, some ⟨sAny, true, true⟩, true, false⟩ (f.x == 0) f
  | .mmaE4m3E4m3 f => checkR ⟨.req frag, some ⟨aBase, false, true⟩, some ⟨sAny, true, true⟩, true, false⟩ (f.x == 0) f
  | .mmaE4m3E5m2 f => checkR ⟨.req frag, some ⟨aBase, false, true⟩, some ⟨sAny, true, true⟩, true, false⟩ (f.x == 0) f
  | .mmaE5m2E4m3 f => checkR ⟨.req frag, some ⟨aBase, false, true⟩, some ⟨sAny, true, true⟩, true, false⟩ (f.x == 0) f
  | .mmaE5m2E5m2 f => checkR ⟨.req frag, some ⟨aBase, false, true⟩, some ⟨sAny, true, true⟩, true, false⟩ (f.x == 0) f
  | .mmaE2m1 f => checkR ⟨.req frag, some ⟨aBase, false, true⟩, some ⟨sAny, true, true⟩, true, false⟩ (f.x == 0) f
  | .mmaInt8Ss f => checkR ⟨.req frag, some ⟨aBase, false, true⟩, some ⟨sAny, true, true⟩, true, false⟩ (f.x == 0) f
  | .mmaInt8Su f => checkR ⟨.req frag, some ⟨aBase, false, true⟩, some ⟨sAny, true, true⟩, true, false⟩ (f.x == 0) f
  | .mmaInt8Us f => checkR ⟨.req frag, some ⟨aBase, false, true⟩, some ⟨sAny, true, true⟩, true, false⟩ (f.x == 0) f
  | .mmaInt8Uu f => checkR ⟨.req frag, some ⟨aBase, false, true⟩, some ⟨sAny, true, true⟩, true, false⟩ (f.x == 0) f
  | .mmaF64 f => checkR ⟨.req fragEven, some ⟨aBase64, false, true⟩, some ⟨sAny, true, true⟩, true, false⟩ (f.x == 0) f
  | .mmasE4m3E4m3 f => checkR ⟨.req frag, some ⟨aBase, false, true⟩, some ⟨sAny, true, true⟩, true, false⟩ (xThird sOnly f.x 0) f
  | .mmasE4m3E5m2 f => checkR ⟨.req frag, some ⟨aBase, false, true⟩, some ⟨sAny, true, true⟩, true, false⟩ (xThird sOnly f.x 0) f
  | .mmasE5m2E4m3 f => checkR ⟨.req frag, some ⟨aBase, false, true⟩, some ⟨sAny, true, true⟩, true, false⟩ (xThird sOnly f.x 0) f
  | .mmasE5m2E5m2 f => checkR ⟨.req frag, some ⟨aBase, false, true⟩, some ⟨sAny, true, true⟩, true, false⟩ (xThird sOnly f.x 0) f
  | .mmasE2m1 f => checkR ⟨.req frag, some ⟨aBase, false, true⟩, some ⟨sAny, true, true⟩, true, false⟩ (xThird sOnly f.x 0) f
  | .mmclr f => checkR ⟨.req frag, none, none, false, false⟩ (f.x == 0) f
  | .scld f => checkM ⟨.none, sCom, some ⟨recNum, true, true⟩, attrLoad, true⟩ f
  | .cvgo f => checkR ⟨.none, some ⟨sCom, true, true⟩, none, false, true⟩ (f.x == 0) f
  | .ldU8 f => checkM ⟨.req vAny, addrAny, none, attrLoad, false⟩ f
  | .ldS8 f => checkM ⟨.req vAny, addrAny, none, attrLoad, false⟩ f
  | .ldU16 f => checkM ⟨.req vAny, addrAny, none, attrLoad, false⟩ f
  | .ldS16 f => checkM ⟨.req vAny, addrAny, none, attrLoad, false⟩ f
  | .ldU32 f => checkM ⟨.req vAny, addrAny, none, attrLoad, false⟩ f
  | .ldU64 f => checkM ⟨.req vEven, addrAny, none, attrLoad, false⟩ f
  | .ldU128 f => checkM ⟨.req vQuad, addrAny, none, attrLoad, false⟩ f
  | .stU8 f => checkM ⟨.none, addrAny, some ⟨vsi, true, true⟩, attrStore, false⟩ f
  | .stU16 f => checkM ⟨.none, addrAny, some ⟨vsi, true, true⟩, attrStore, false⟩ f
  | .stU32 f => checkM ⟨.none, addrAny, some ⟨vsi, true, true⟩, attrStore, false⟩ f
  | .stU64 f => checkM ⟨.none, addrAny, some ⟨v2si, true, true⟩, attrStore, false⟩ f
  | .stU128 f => checkM ⟨.none, addrAny, some ⟨vQuad, true, true⟩, attrStore, false⟩ f
  | .sldU32 f => checkM ⟨.req sAny, sAny, none, attrLoad, true⟩ f
  | .sldU64 f => checkM ⟨.req sAny, sAny, none, attrLoad, true⟩ f
  | .sstU32 f => checkM ⟨.none, sAny, some ⟨si, true, true⟩, attrStore, true⟩ f
  | .sstU64 f => checkM ⟨.none, sAny, some ⟨si, true, true⟩, attrStore, true⟩ f
  | .ldnU32 f => checkM ⟨.req vAny, addrAny, none, attrNearLoad, false⟩ f
  | .ldnU64 f => checkM ⟨.req vEven, addrAny, none, attrNearLoad, false⟩ f
  | .ldnU128 f => checkM ⟨.req vQuad, addrAny, none, attrNearLoad, false⟩ f
  | .stnU32 f => checkM ⟨.none, addrAny, some ⟨vsi, true, true⟩, attrNearStore, false⟩ f
  | .stnU64 f => checkM ⟨.none, addrAny, some ⟨v2si, true, true⟩, attrNearStore, false⟩ f
  | .stnU128 f => checkM ⟨.none, addrAny, some ⟨vQuad, true, true⟩, attrNearStore, false⟩ f
  | .pf f => checkM ⟨.none, addrAny, some ⟨pfLevel, true, true⟩, attrZero, false⟩ f
  | .cwb f => checkM ⟨.none, addrAny, none, attrZero, false⟩ f
  | .rooffl f => checkR ⟨.none, none, none, false, true⟩ (f.x == 0) f
  | .ordrel f => checkM ⟨.req sAny, sAny, none, attrZero, true⟩ f
  | .atomAddU32 f => checkM ⟨.opt vAny, addrAny, some ⟨vsi, true, true⟩, attrAtomic, false⟩ f
  | .atomAddU64 f => checkM ⟨.opt vEven, addrAny, some ⟨v2si, true, true⟩, attrAtomic, false⟩ f
  | .atomMinS32 f => checkM ⟨.opt vAny, addrAny, some ⟨vsi, true, true⟩, attrAtomic, false⟩ f
  | .atomMaxS32 f => checkM ⟨.opt vAny, addrAny, some ⟨vsi, true, true⟩, attrAtomic, false⟩ f
  | .atomMinU32 f => checkM ⟨.opt vAny, addrAny, some ⟨vsi, true, true⟩, attrAtomic, false⟩ f
  | .atomMaxU32 f => checkM ⟨.opt vAny, addrAny, some ⟨vsi, true, true⟩, attrAtomic, false⟩ f
  | .atomAndB32 f => checkM ⟨.opt vAny, addrAny, some ⟨vsi, true, true⟩, attrAtomic, false⟩ f
  | .atomOrB32 f => checkM ⟨.opt vAny, addrAny, some ⟨vsi, true, true⟩, attrAtomic, false⟩ f
  | .atomXorB32 f => checkM ⟨.opt vAny, addrAny, some ⟨vsi, true, true⟩, attrAtomic, false⟩ f
  | .atomExchB32 f => checkM ⟨.opt vAny, addrAny, some ⟨vsi, true, true⟩, attrAtomic, false⟩ f
  | .atomExchB64 f => checkM ⟨.opt vEven, addrAny, some ⟨v2si, true, true⟩, attrAtomic, false⟩ f
  | .atomCasB32 f => checkM ⟨.opt vAny, addrAny, some ⟨vEven, true, true⟩, attrAtomic, false⟩ f
  | .atomCasB64 f => checkM ⟨.opt vEven, addrAny, some ⟨vQuad, true, true⟩, attrAtomic, false⟩ f
  | .atomAddF32 f => checkM ⟨.opt vAny, addrAny, some ⟨vsi, true, true⟩, attrAtomic, false⟩ f
  | .atomAddF64 f => checkM ⟨.opt vEven, addrAny, some ⟨v2si, true, true⟩, attrAtomic, false⟩ f
  | .atomAddOrdF32 f => checkM ⟨.none, addrAny, some ⟨vsi, true, true⟩, attrOrdered, false⟩ f
  | .atomAddOrdF64 f => checkM ⟨.none, addrAny, some ⟨v2si, true, true⟩, attrOrdered, false⟩ f
  | .stz f => checkM ⟨.none, addrAny, none, attrStore, false⟩ f
  | .cpy f => checkR ⟨.none, some ⟨sAny, true, true⟩, some ⟨sAny, true, true⟩, false, true⟩ (xThird sOnly f.x 31) f
  | .cpyf f => checkR ⟨.none, some ⟨sAny, true, true⟩, some ⟨si, true, true⟩, false, true⟩ (xThird sOnly f.x 29) f
  | .cpyt f => checkR ⟨.none, some ⟨sAny, true, true⟩, some ⟨sAny, true, true⟩, false, true⟩ (xThird sOnly f.x 31) f
  | .cpyg f => checkM ⟨.none, vEven, some ⟨sAny, true, true⟩, attrCache, false⟩ f
  | .halo f => checkR ⟨.none, some ⟨sCom, true, true⟩, none, false, true⟩ (f.x == 0) f
  | .batch f => checkR ⟨.opt sAny, none, none, false, true⟩ (f.x == 0) f
  | .batchTl f => checkR ⟨.opt sAny, none, some ⟨si, true, true⟩, false, true⟩ (64 ≤ f.x && f.x ≤ 127) f
  | .bwait f => checkR ⟨.none, some ⟨si, true, true⟩, none, false, true⟩ (f.x == 0) f
  | .bnum f => checkR ⟨.req sAny, none, none, false, true⟩ (f.x ≤ 1) f
  | .bbini f => checkM ⟨.none, sAny, some ⟨si, true, true⟩, attrZero, true⟩ f
  | .bbexp f => checkM ⟨.none, sAny, some ⟨si, true, true⟩, attrZero, true⟩ f
  | .bbarr f => checkM ⟨.none, sAny, none, attrZero, true⟩ f
  | .bbwt f => checkM ⟨.none, sAny, some ⟨si, true, true⟩, attrZero, true⟩ f
  | .bbtst f => checkM ⟨.req sAny, sAny, some ⟨si, true, true⟩, attrZero, true⟩ f
  | .tlwait f => checkR ⟨.none, none, some ⟨si, true, true⟩, false, true⟩ (f.x ≤ 63) f
  | .tlsig f => checkR ⟨.none, none, some ⟨si, true, true⟩, false, true⟩ (f.x ≤ 63) f
  | .tlrd f => checkR ⟨.req sAny, none, none, false, true⟩ (f.x ≤ 63) f
  | .fenceAcq f => checkR ⟨.none, none, none, false, true⟩ (f.x ≤ 5) f
  | .fenceRel f => checkR ⟨.none, none, none, false, true⟩ (f.x ≤ 5) f
  | .fenceAr f => checkR ⟨.none, none, none, false, true⟩ (f.x ≤ 5) f
  | .fenceSc f => checkR ⟨.none, none, none, false, true⟩ (f.x ≤ 5) f
  | .txbegin f => checkC (.none) (none) true (f.ctl == 0) true f
  | .txend f => checkC (.none) (none) true (f.ctl == 0) false f
  | .txabt f => checkC (.none) (none) true (f.ctl ≤ 255) false f
  | .txst f => checkR ⟨.req sAny, none, none, false, true⟩ (f.x ≤ 1) f
  | .ttrootWrite f => checkR ⟨.none, some ⟨si, true, true⟩, none, false, true⟩ (f.x == 8) f
  | .segtabWrite f => checkR ⟨.none, some ⟨si, true, true⟩, none, false, true⟩ (f.x == 9) f
  | .tlbinv f => checkR ⟨.none, some ⟨si, true, true⟩, none, false, true⟩ (f.x == 10) f
  | .qpush f => checkM ⟨.req sAny, sAny, some ⟨si, true, true⟩, attrZero, true⟩ f
  | .qdoor f => checkR ⟨.none, none, some ⟨si, true, true⟩, false, true⟩ (f.x == 0) f
  | .lhrd f => checkR ⟨.req sAny, none, none, false, true⟩ (f.x ≤ 5) f
  | .advance f => checkR ⟨.none, none, none, false, true⟩ (f.x == 0) f
  | .phrd f => checkR ⟨.req sAny, none, none, false, true⟩ (f.x ≤ 1) f
  | .dqpush f => checkR ⟨.none, some ⟨si, true, true⟩, some ⟨si, true, true⟩, false, true⟩ (f.x == 0) f
  | .dqpop f => checkR ⟨.req sAny, none, none, false, true⟩ (f.x == 0) f
  | .dqstat f => checkR ⟨.req sAny, none, none, false, true⟩ (f.x == 0) f
  | .fmpost f => checkR ⟨.none, some ⟨si, true, true⟩, none, false, true⟩ (f.x == 0) f
  | .fmrecv f => checkR ⟨.req sAny, none, none, false, true⟩ (f.x == 0) f
  | .fmend f => checkR ⟨.none, none, none, false, true⟩ (f.x == 0) f
  | .seamgo f => checkM ⟨.none, sAny, none, attrZero, true⟩ f
  | .seamLi o => checkSeam .any .unused .unused false (o.f == 0) (true) o
  | .seamLih o => checkSeam .any .any .unused false (o.f == 0) (true) o
  | .seamAlu o => checkSeam .any .any .any false (o.f ≤ 14) (o.imm == 0) o
  | .seamAluImm o => checkSeam .any .any .unused false (o.f ≤ 14) (true) o
  | .seamBranch o => checkSeam .unused .any .any false (o.f ≤ 5) (true) o
  | .seamJal o => checkSeam .any .unused .unused false (o.f == 0) (true) o
  | .seamJr o => checkSeam .unused .any .unused false (o.f == 0) (o.imm == 0) o
  | .seamLd o => checkSeam .any .any .unused false (o.f ≤ 6) (true) o
  | .seamSt o => checkSeam .unused .any .any false (o.f ≤ 3) (true) o
  | .seamSrd o => checkSeam .any .unused .unused false (o.f == 0) (o.imm ≤ 12) o
  | .pown o => checkSeam .any .any .unused false (o.f == 0) (o.imm == 0) o
  | .rgnext o => checkSeam .any .any .unused false (o.f == 0) (o.imm ≤ 3) o
  | .sfence o => checkSeam .unused .unused .unused false (o.f ≤ 7 && o.f.extractLsb' 0 2 != 0) (o.imm == 0) o
  | .tladv o => checkSeam .unused .unused .any false (o.f == 0) (o.imm ≤ 63) o
  | .tlwt o => checkSeam .unused .unused .any false (o.f == 0) (o.imm ≤ 63) o
  | .seamDone o => checkSeam .unused .unused .unused false (o.f == 0) (o.imm == 0) o
  | .seamNop o => checkSeam .unused .unused .unused false (o.f == 0) (o.imm == 0) o
  | .seamKlogic o => checkSeam .predDst .pred .pred false (o.f ≤ 4 && (o.f != 4 || o.b == 0)) (o.imm == 0) o
  | .kmov o => checkSeam .predDst .any .unused false (o.f == 0) (o.imm == 0) o
  | .kget o => checkSeam .any .pred .unused false (o.f ≤ 1) (o.imm == 0) o
  | .vld o => checkSeam .any .any .unused true ((o.f ≤ 2 || o.f == 4 || o.f == 5)) (true) o
  | .vst o => checkSeam .unused .any .any true (o.f ≤ 2) (true) o
  | .vgth o => checkSeam .any .any .any true ((o.f ≤ 2 || o.f == 4 || o.f == 5)) (o.imm ≤ 7) o
  | .vsct o => checkSeam .unused .any .any true (o.f ≤ 2) (o.imm ≤ 255) o
  | .vcst o => checkSeam .any .any .any true (o.f == 0) (true) o
  | .vred o => checkSeam .unused .any .any true (o.f ≤ 6) (true) o
  | .vredx o => checkSeam .unused .any .any true (o.f ≤ 5) (o.imm ≤ 255) o
  | .vfArith o => checkSeam .any .any .any true (o.f.extractLsb' 0 3 ≤ 5 && o.f.extractLsb' 3 2 == 0) (o.imm == 0) o
  | .vfArithX o => checkSeam .any .any .any true (o.f.extractLsb' 0 3 ≤ 5 && o.f.extractLsb' 3 2 == 0) (o.imm == 0) o
  | .vfma o => checkSeam .any .any .any true (o.f &&& 30 == 0) (o.imm ≤ 31) o
  | .vfUnary o => checkSeam .any .any .unused true (o.f &&& 28 == 0) (o.imm == 0) o
  | .viArith o => checkSeam .any .any .any true (o.f ≤ 12) (o.imm == 0) o
  | .viArithX o => checkSeam .any .any .any true (o.f ≤ 12) (o.imm == 0) o
  | .vcmp o => checkSeam .predDst .any .any true (o.f.extractLsb' 0 3 ≤ 5 && o.f.extractLsb' 5 1 == 0) (o.imm == 0) o
  | .seamVsel o => checkSeam .any .any .any true (o.f == 0) (o.imm == 0) o
  | .vcvt o => checkSeam .any .any .unused true (o.f ≤ 9) (o.imm == 0) o
  | .vbc o => checkSeam .any .any .unused true (o.f ≤ 1) (o.imm == 0) o
  | .seamVext o => checkSeam .any .any .unused false (o.f == 0) (o.imm ≤ 15) o
  | .seamVins o => checkSeam .any .any .unused false (o.f == 0) (o.imm ≤ 15) o
  | .vrdl o => checkSeam .any .any .unused true (o.f ≤ 5) (o.imm == 0) o
  | .vperm o => checkSeam .any .any .any true (o.f == 0) (o.imm == 0) o
  | .vsrt o => checkSeam .any .any .any true (o.f ≤ 3 && (o.f.getLsbD 0 || o.b == 0)) (o.imm == 0) o
  | .vlane o => checkSeam .any .unused .unused true (o.f == 0) (o.imm == 0) o
  | .seamVmov o => checkSeam .any .any .unused true (o.f == 0) (o.imm == 0) o
  | .trap f => checkI (.none) (none) true (f.imm.toNat ≤ 255) f
  | .tret f => checkR ⟨.none, none, none, false, true⟩ (f.x == 0) f
  | .tretSkip f => checkR ⟨.none, none, none, false, true⟩ (f.x == 1) f
  | .tretTo f => checkR ⟨.none, some ⟨csOrImm, true, true⟩, none, false, true⟩ (f.x == 2) f
  | .trrd f => checkR ⟨.req sAny, none, none, false, true⟩ (f.x ≤ 15) f
  | .yield f => checkR ⟨.none, none, none, false, true⟩ (f.x == 0) f
  | .brpq f => checkC (.none) (none) true (f.ctl == 0) true f
  | .mon f => checkM ⟨.none, sCom, none, attrZero, true⟩ f
  | .mwait f => checkR ⟨.none, some ⟨csOrImm, true, true⟩, none, false, true⟩ (f.x == 0) f
  | .sysrd f => checkR ⟨.req sAny, none, none, false, true⟩ (sysNum f.x) f
  | .syswr f => checkR ⟨.none, some ⟨si, true, true⟩, none, false, true⟩ (sysNum f.x && f.x != 8 && f.x != 9 && f.x != 10) f
  | .cycrd f => checkR ⟨.req sAny, none, none, false, true⟩ (f.x == 0) f
  | .monclr f => checkR ⟨.none, none, none, false, true⟩ (f.x == 0) f
  | .ydlrd f => checkR ⟨.req sAny, none, none, false, true⟩ (f.x == 0) f
  | .coll f => checkM ⟨.opt sAny, sCom, none, attrZero, true⟩ f
  | .grpld f => checkM ⟨.opt sAny, sCom, some ⟨sCom, true, true⟩, attrZero, true⟩ f
  | .grprd f => checkR ⟨.req sAny, none, some ⟨grpNum, true, true⟩, false, true⟩ (f.x ≤ 4) f
  | .fhrd f => checkR ⟨.req sAny, none, none, false, true⟩ (f.x.extractLsb' 0 5 ≤ 23 && f.x.toNat < 512) f
  | .kill f => checkR ⟨.none, none, none, false, false⟩ (f.x == 0) f
  | .deadrd f => checkR ⟨.req sAny, none, none, false, true⟩ (f.x ≤ 2) f
  | .shwait f => checkR ⟨.none, none, none, false, true⟩ (f.x == 0) f
  | .errinj f => checkR ⟨.none, some ⟨si, true, true⟩, none, false, true⟩ (f.x == 0) f
  | .canaryDemote .. | .regroupDone .. | .loopBack .. | .streamElementArrive .. | .regacqGrant .. | .exactCellRequest ..
  | .mmaMemberComplete .. | .convJobStart .. | .convJobEnd .. | .atomicRequest .. | .orderedContribution .. | .loadReturn ..
  | .copyComplete .. | .timelineAdvance .. | .txConflict .. | .replicaUpdate .. | .walk .. | .mscRequest ..
  | .uncachedLineAccess .. | .doorbell .. | .slotMap .. | .slotFetch .. | .quantumExpire .. | .slotUnstall ..
  | .nodeReady .. | .blockPlace .. | .placementReserve .. | .preqRaise .. | .nodeDone .. | .convNodeDispatch ..
  | .seamNodeDispatch .. | .activeSetDisplace .. | .warpWake .. | .phaseRise .. | .seamTaskStart .. | .seamProbeDone ..
  | .seamInstanceRun .. | .seamInstancePreempt .. | .seamLongWait .. | .seamTaskDone .. | .monitorWrite .. | .mwaitTimeout ..
  | .trapDeliver .. | .laneFault .. | .forcedSave .. | .blockSave .. | .blockRestore .. | .flitReceive ..
  | .chunkReceive .. | .combineDispatch .. | .collCancelReceive .. | .collTimeout .. | .collPeerUnreachable .. | .collComplete ..
  | .laneInterval .. | .portRetrainDone .. | .laneRetrain .. | .outputCompare .. | .shaftWireFail .. | .cxlMemRead ..
  | .cxlMemWrite .. | .hostSnoop .. | .cxlOwnershipGrant .. | .barInvalidAccess .. | .hostDoorbellWrite .. | .timelineWindowRead ..
  | .timelineWindowWrite .. | .descriptorWrite .. | .contextCreate .. | .contextReturn .. | .contextMakeNonresident .. | .residencyChangeDone ..
  | .groupWindowLoad .. | .groupLoadDecided .. | .barRegisterWrite .. | .bootclr .. | .deviceStart .. | .bootStepDone ..
  | .powerLoss | .telemetrySample .. | .inputShutdown | .capWindow .. | .marginEmergency .. | .spdmMessage ..
  | .backInvalidateResponse .. | .writePerformed .. => none

/-- A well-formed instruction: one that no item of R44 but the place (item 11) refuses. -/
def wellFormed (i : Instr) : Bool := (illegal i).isNone

/-- A specifier the foreman accepts: class 1 below f64, or a short immediate (R33). -/
def foremanSpec : Spec → Bool
  | .scl n => n.toNat < 64
  | .imm _ => true
  | _ => false

/-- A used source on the foreman. -/
def foremanR (a b x : Bool) (f : FormR) : Bool :=
  foremanSpec f.dst && (!a || foremanSpec f.a.spec) && (!b || foremanSpec f.b.spec) && (!x || foremanSpec (xSpec f.x))

def foremanM (data : Bool) (f : FormM) : Bool := foremanSpec f.dst && foremanSpec f.addr && (!data || foremanSpec f.data.spec)

/-- The opcodes and operands the foreman executes (R33, R83, R142, R263, R287, R307, R363, R364, R420, R445). -/
def foremanOk : Instr → Bool
  | .bra _ | .nop _ | .brpq _ => true
  | .brs f | .jmp f => foremanSpec f.a.spec
  | .call f => foremanSpec f.dst
  | .smovi f => foremanSpec f.dst
  | .smovhi f => foremanSpec f.dst && foremanSpec f.a.spec
  | .smov f | .sclz f | .spopc f | .sctz f | .sbfe f | .sbrev f => foremanR true false false f
  | .scsel f | .cpyf f => foremanR true true true f && !f.x.getLsbD 10 && !f.x.getLsbD 11
  | .cpy f => foremanR true true true f && !f.x.getLsbD 10 && !f.x.getLsbD 11
  | .sadd f | .ssub f | .smul f | .smulh f | .sdiv f | .srem f | .smin f | .smax f | .sand f | .sor f | .sxor f | .sandn f
  | .sshl f | .sshr f | .ssar f | .srol f | .sbfi f | .sset f | .slea f | .dqpush f => foremanR true true false f
  | .sldU32 f | .sldU64 f => foremanM false f
  | .sstU32 f | .sstU64 f | .qpush f => foremanM true f
  | .pf f => foremanM true f && f.h.gp == 7
  | .batch f | .bnum f | .tlrd f | .dqstat f | .fmrecv f | .sysrd f | .cycrd f | .ydlrd f | .fhrd f => foremanR false false false f
  | .bwait f => foremanR true false false f
  | .batchTl f | .tlwait f | .tlsig f | .qdoor f | .grprd f => foremanR false true false f
  | .fenceAcq _ | .fenceRel _ | .fenceAr _ | .fenceSc _ | .fmend _ | .yield _ => true
  | .seamgo f | .coll f => foremanM false f
  | _ => false

/-- The foreman-only opcodes (R363). -/
def foremanOnly : Instr → Bool
  | .dqpush _ | .fmrecv _ | .fmend _ => true
  | _ => false

/-- Where a legal word runs (R33, R44 item 11): in a warp, or on the foreman. -/
def placeOk (foreman : Bool) (i : Instr) : Bool := if foreman then foremanOk i else !foremanOnly i

end Sys2Proof
end

