-- ==== Sys2Proof/Decode.lean ====
section
/-!
DEFINITION. The decoder of Jarja words (R24–R35, R42–R44) and Seam words (R383–R386), total on any bits and rejecting by name, and after it
the encoder, written from the same tables.
-/

namespace Sys2Proof

/-- A 10-bit specifier field (R31). -/
def decodeSpec (w : BitVec 10) : Spec :=
  let n := w.extractLsb' 0 8
  match (w.extractLsb' 8 2).toNat with
  | 0 => .vec n
  | 1 => .scl n
  | 2 => .spc n
  | _ => .imm n

/-- The fields common to all forms (R24). -/
def unHdr (w : BitVec 96) : Hdr :=
  { gp := w.extractLsb' 9 3, gn := w.getLsbD 12, hs := w.extractLsb' 70 4, hy := w.getLsbD 74, hd := w.getLsbD 75 }

/-- Source A: SA, MA, FA (R24). -/
def unA (w : BitVec 96) : Src := ⟨decodeSpec (w.extractLsb' 23 10), w.extractLsb' 33 12, w.getLsbD 67⟩

/-- Source B: SB, MB, FB (R24). -/
def unB (w : BitVec 96) : Src := ⟨decodeSpec (w.extractLsb' 45 10), w.extractLsb' 55 12, w.getLsbD 68⟩

/-- Form R (R26). -/
def unR (w : BitVec 96) : FormR :=
  { h := unHdr w, dst := decodeSpec (w.extractLsb' 13 10), a := unA w, b := unB w, ru := w.getLsbD 69, x := w.extractLsb' 78 18 }

/-- Form I: the immediate is X : MB : SB (R28). -/
def unI (w : BitVec 96) : FormI :=
  { h := unHdr w, dst := decodeSpec (w.extractLsb' 13 10), a := unA w, ru := w.getLsbD 69,
    imm := w.extractLsb' 78 18 ++ w.extractLsb' 55 12 ++ w.extractLsb' 45 10 }

/-- Form M: MA is the attribute field, X the offset (R29). -/
def unM (w : BitVec 96) : FormM :=
  { h := unHdr w, dst := decodeSpec (w.extractLsb' 13 10), addr := decodeSpec (w.extractLsb' 23 10), attr := w.extractLsb' 33 12,
    fa := w.getLsbD 67, data := unB w, ru := w.getLsbD 69, off := w.extractLsb' 78 18 }

/-- Form C: the displacement is X : SB, the control operand MB (R30). -/
def unC (w : BitVec 96) : FormC :=
  { h := unHdr w, dst := decodeSpec (w.extractLsb' 13 10), a := unA w, ctl := w.extractLsb' 55 12,
    disp := w.extractLsb' 78 18 ++ w.extractLsb' 45 10 }

/-- Opcodes 0x001–0x020 (R42, R43). -/
def makeCF (opc : Nat) (w : BitVec 96) : Option Instr :=
  match opc with
  | 0x001 => some (.bra (unC w))
  | 0x002 => some (.brs (unC w))
  | 0x003 => some (.brzEm (unC w))
  | 0x004 => some (.call (unC w))
  | 0x005 => some (.jmp (unC w))
  | 0x006 => some (.exit (unC w))
  | 0x007 => some (.nop (unC w))
  | 0x008 => some (.split (unC w))
  | 0x009 => some (.arrive (unC w))
  | 0x00A => some (.join (unC w))
  | 0x00B => some (.jmclr (unC w))
  | 0x00C => some (.jmrd (unC w))
  | 0x00D => some (.jmwr (unC w))
  | 0x00E => some (.meld (unC w))
  | 0x00F => some (.unmeld (unC w))
  | 0x010 => some (.ptld (unM w))
  | 0x011 => some (.ptst (unM w))
  | 0x012 => some (.prrd (unR w))
  | 0x013 => some (.prwr (unR w))
  | 0x014 => some (.gany (unR w))
  | 0x015 => some (.gall (unR w))
  | 0x016 => some (.gsame (unR w))
  | 0x017 => some (.gcount (unR w))
  | 0x018 => some (.gmask (unR w))
  | 0x019 => some (.glow (unR w))
  | 0x01A => some (.pfrom (unR w))
  | 0x01B => some (.laneid (unR w))
  | 0x01C => some (.lperm (unR w))
  | 0x01D => some (.lrise (unR w))
  | 0x01E => some (.lfall (unR w))
  | 0x01F => some (.lswap (unR w))
  | 0x020 => some (.emand (unR w))
  | _ => none

/-- Opcodes 0x021–0x02C (R42, R43). -/
def makeMB (opc : Nat) (w : BitVec 96) : Option Instr :=
  match opc with
  | 0x021 => some (.mmrd (unR w))
  | 0x022 => some (.mmwr (unR w))
  | 0x023 => some (.mmtrim (unR w))
  | 0x024 => some (.mbid (unR w))
  | 0x025 => some (.mselV (unR w))
  | 0x026 => some (.mselS (unR w))
  | 0x027 => some (.mredXF64 (unR w))
  | 0x028 => some (.mredXF32 (unR w))
  | 0x029 => some (.mredMinmax (unR w))
  | 0x02A => some (.mredInt (unR w))
  | 0x02B => some (.regrp (unR w))
  | 0x02C => some (.mvote (unR w))
  | _ => none

/-- Opcodes 0x040–0x06F (R42, R43). -/
def makeSC (opc : Nat) (w : BitVec 96) : Option Instr :=
  match opc with
  | 0x040 => some (.smovi (unI w))
  | 0x041 => some (.smovhi (unI w))
  | 0x042 => some (.smov (unR w))
  | 0x043 => some (.scsel (unR w))
  | 0x044 => some (.vbcast (unR w))
  | 0x045 => some (.vext (unR w))
  | 0x046 => some (.vins (unR w))
  | 0x047 => some (.sadd (unR w))
  | 0x048 => some (.ssub (unR w))
  | 0x049 => some (.smul (unR w))
  | 0x04A => some (.smulh (unR w))
  | 0x04B => some (.sdiv (unR w))
  | 0x04C => some (.srem (unR w))
  | 0x04D => some (.smin (unR w))
  | 0x04E => some (.smax (unR w))
  | 0x04F => some (.sand (unR w))
  | 0x050 => some (.sor (unR w))
  | 0x051 => some (.sxor (unR w))
  | 0x052 => some (.sandn (unR w))
  | 0x053 => some (.sshl (unR w))
  | 0x054 => some (.sshr (unR w))
  | 0x055 => some (.ssar (unR w))
  | 0x056 => some (.srol (unR w))
  | 0x057 => some (.sclz (unR w))
  | 0x058 => some (.spopc (unR w))
  | 0x059 => some (.sctz (unR w))
  | 0x05A => some (.sbfe (unR w))
  | 0x05B => some (.sbfi (unR w))
  | 0x05C => some (.sset (unR w))
  | 0x05D => some (.scmp (unR w))
  | 0x05E => some (.slea (unR w))
  | 0x05F => some (.vaddr (unR w))
  | 0x060 => some (.widS (unR w))
  | 0x061 => some (.widV (unR w))
  | 0x062 => some (.loop (unC w))
  | 0x063 => some (.lcrd (unR w))
  | 0x064 => some (.stbind (unM w))
  | 0x065 => some (.strel (unR w))
  | 0x066 => some (.stpos (unR w))
  | 0x067 => some (.stseek (unR w))
  | 0x068 => some (.strdV (unR w))
  | 0x069 => some (.stwrV (unR w))
  | 0x06A => some (.regacq (unI w))
  | 0x06B => some (.regrel (unR w))
  | 0x06C => some (.regcnt (unR w))
  | 0x06D => some (.fest (unR w))
  | 0x06E => some (.fewait (unR w))
  | 0x06F => some (.sbrev (unR w))
  | _ => none

/-- Opcodes 0x080–0x0AF (R42, R43). -/
def makeVEa (opc : Nat) (w : BitVec 96) : Option Instr :=
  match opc with
  | 0x080 => some (.faddF32 (unR w))
  | 0x081 => some (.fsubF32 (unR w))
  | 0x082 => some (.fmulF32 (unR w))
  | 0x083 => some (.ffmaF32 (unR w))
  | 0x084 => some (.fnmaF32 (unR w))
  | 0x085 => some (.fminF32 (unR w))
  | 0x086 => some (.fmaxF32 (unR w))
  | 0x087 => some (.fnegF32 (unR w))
  | 0x088 => some (.fabsF32 (unR w))
  | 0x089 => some (.fcpsgnF32 (unR w))
  | 0x08A => some (.fcmpF32 (unR w))
  | 0x08B => some (.fclassF32 (unR w))
  | 0x08C => some (.fredF32 (unR w))
  | 0x08D => some (.faddF64 (unR w))
  | 0x08E => some (.fsubF64 (unR w))
  | 0x08F => some (.fmulF64 (unR w))
  | 0x090 => some (.ffmaF64 (unR w))
  | 0x091 => some (.fnmaF64 (unR w))
  | 0x092 => some (.fminF64 (unR w))
  | 0x093 => some (.fmaxF64 (unR w))
  | 0x094 => some (.fnegF64 (unR w))
  | 0x095 => some (.fabsF64 (unR w))
  | 0x096 => some (.fcpsgnF64 (unR w))
  | 0x097 => some (.fcmpF64 (unR w))
  | 0x098 => some (.fclassF64 (unR w))
  | 0x099 => some (.fredF64 (unR w))
  | 0x09A => some (.faddF16x2 (unR w))
  | 0x09B => some (.fsubF16x2 (unR w))
  | 0x09C => some (.fmulF16x2 (unR w))
  | 0x09D => some (.ffmaF16x2 (unR w))
  | 0x09E => some (.fminF16x2 (unR w))
  | 0x09F => some (.fmaxF16x2 (unR w))
  | 0x0A0 => some (.faddBf16x2 (unR w))
  | 0x0A1 => some (.fsubBf16x2 (unR w))
  | 0x0A2 => some (.fmulBf16x2 (unR w))
  | 0x0A3 => some (.ffmaBf16x2 (unR w))
  | 0x0A4 => some (.fminBf16x2 (unR w))
  | 0x0A5 => some (.fmaxBf16x2 (unR w))
  | 0x0A6 => some (.fdot2F16 (unR w))
  | 0x0A7 => some (.fdot2Bf16 (unR w))
  | 0x0A8 => some (.fdot4E4m3 (unR w))
  | 0x0A9 => some (.fdot4E5m2 (unR w))
  | 0x0AA => some (.iaddB32 (unR w))
  | 0x0AB => some (.isubB32 (unR w))
  | 0x0AC => some (.imulB32 (unR w))
  | 0x0AD => some (.imulh (unR w))
  | 0x0AE => some (.imadB32 (unR w))
  | 0x0AF => some (.imin (unR w))
  | _ => none

/-- Opcodes 0x0B0–0x0DF (R42, R43). -/
def makeVEb (opc : Nat) (w : BitVec 96) : Option Instr :=
  match opc with
  | 0x0B0 => some (.imax (unR w))
  | 0x0B1 => some (.iandB32 (unR w))
  | 0x0B2 => some (.iorB32 (unR w))
  | 0x0B3 => some (.ixorB32 (unR w))
  | 0x0B4 => some (.iandnB32 (unR w))
  | 0x0B5 => some (.ishlB32 (unR w))
  | 0x0B6 => some (.ishrB32 (unR w))
  | 0x0B7 => some (.isarB32 (unR w))
  | 0x0B8 => some (.iclzB32 (unR w))
  | 0x0B9 => some (.ipopcB32 (unR w))
  | 0x0BA => some (.ibrevB32 (unR w))
  | 0x0BB => some (.ibfe (unR w))
  | 0x0BC => some (.ibfi (unR w))
  | 0x0BD => some (.icmpB32 (unR w))
  | 0x0BE => some (.vsel (unR w))
  | 0x0BF => some (.idot4 (unR w))
  | 0x0C0 => some (.ired (unR w))
  | 0x0C1 => some (.iaddB64 (unR w))
  | 0x0C2 => some (.isubB64 (unR w))
  | 0x0C3 => some (.imulw (unR w))
  | 0x0C4 => some (.vmov (unR w))
  | 0x0C5 => some (.vmovi (unI w))
  | 0x0C6 => some (.cvtF64 (unR w))
  | 0x0C7 => some (.cvtF32 (unR w))
  | 0x0C8 => some (.cvtF16 (unR w))
  | 0x0C9 => some (.cvtBf16 (unR w))
  | 0x0CA => some (.cvtE4m3 (unR w))
  | 0x0CB => some (.cvtE5m2 (unR w))
  | 0x0CC => some (.cvtE2m1 (unR w))
  | 0x0CD => some (.cvtS64 (unR w))
  | 0x0CE => some (.cvtU64 (unR w))
  | 0x0CF => some (.cvtS32 (unR w))
  | 0x0D0 => some (.cvtU32 (unR w))
  | 0x0D1 => some (.cvtS16 (unR w))
  | 0x0D2 => some (.cvtU16 (unR w))
  | 0x0D3 => some (.cvtS8 (unR w))
  | 0x0D4 => some (.cvtU8 (unR w))
  | 0x0D5 => some (.frcpF32 (unR w))
  | 0x0D6 => some (.frsqF32 (unR w))
  | 0x0D7 => some (.fsqrtF32 (unR w))
  | 0x0D8 => some (.fdivF32 (unR w))
  | 0x0D9 => some (.fexp2F32 (unR w))
  | 0x0DA => some (.flog2F32 (unR w))
  | 0x0DB => some (.fsinpiF32 (unR w))
  | 0x0DC => some (.fcospiF32 (unR w))
  | 0x0DD => some (.ftanhF32 (unR w))
  | 0x0DE => some (.fdivF64 (unR w))
  | 0x0DF => some (.fsqrtF64 (unR w))
  | _ => none

/-- Opcodes 0x0E0–0x0EB (R42, R43). -/
def makeEX (opc : Nat) (w : BitVec 96) : Option Instr :=
  match opc with
  | 0x0E0 => some (.exaddF64 (unR w))
  | 0x0E1 => some (.exaddF32 (unR w))
  | 0x0E2 => some (.exmacF64 (unR w))
  | 0x0E3 => if (unR w).x == 0 then some (.exmrg (unR w)) else if (unR w).x == 1 then some (.exmov (unR w)) else if (unR w).x == 2 then some (.exclr (unR w)) else none
  | 0x0E4 => some (.exrnd (unR w))
  | 0x0E5 => some (.exstat (unR w))
  | 0x0E6 => some (.exld (unM w))
  | 0x0E7 => some (.exst (unM w))
  | 0x0E8 => some (.exldw (unM w))
  | 0x0E9 => some (.exstw (unM w))
  | 0x0EA => some (.exaddmF64 (unM w))
  | 0x0EB => some (.exmrgm (unM w))
  | _ => none

/-- Opcodes 0x100–0x113 (R42, R43). -/
noncomputable def makeMX (opc : Nat) (w : BitVec 96) : Option Instr :=
  match opc with
  | 0x100 => some (.mmaBf16 (unR w))
  | 0x101 => some (.mmaF16 (unR w))
  | 0x102 => some (.mmaE4m3E4m3 (unR w))
  | 0x103 => some (.mmaE4m3E5m2 (unR w))
  | 0x104 => some (.mmaE5m2E4m3 (unR w))
  | 0x105 => some (.mmaE5m2E5m2 (unR w))
  | 0x106 => some (.mmaE2m1 (unR w))
  | 0x107 => some (.mmaInt8Ss (unR w))
  | 0x108 => some (.mmaInt8Su (unR w))
  | 0x109 => some (.mmaInt8Us (unR w))
  | 0x10A => some (.mmaInt8Uu (unR w))
  | 0x10B => some (.mmaF64 (unR w))
  | 0x10C => some (.mmasE4m3E4m3 (unR w))
  | 0x10D => some (.mmasE4m3E5m2 (unR w))
  | 0x10E => some (.mmasE5m2E4m3 (unR w))
  | 0x10F => some (.mmasE5m2E5m2 (unR w))
  | 0x110 => some (.mmasE2m1 (unR w))
  | 0x111 => some (.mmclr (unR w))
  | 0x112 => some (.scld (unM w))
  | 0x113 => some (.cvgo (unR w))
  | _ => none

/-- Opcodes 0x120–0x14B (R42, R43). -/
noncomputable def makeME (opc : Nat) (w : BitVec 96) : Option Instr :=
  match opc with
  | 0x120 => some (.ldU8 (unM w))
  | 0x121 => some (.ldS8 (unM w))
  | 0x122 => some (.ldU16 (unM w))
  | 0x123 => some (.ldS16 (unM w))
  | 0x124 => some (.ldU32 (unM w))
  | 0x125 => some (.ldU64 (unM w))
  | 0x126 => some (.ldU128 (unM w))
  | 0x127 => some (.stU8 (unM w))
  | 0x128 => some (.stU16 (unM w))
  | 0x129 => some (.stU32 (unM w))
  | 0x12A => some (.stU64 (unM w))
  | 0x12B => some (.stU128 (unM w))
  | 0x12C => some (.sldU32 (unM w))
  | 0x12D => some (.sldU64 (unM w))
  | 0x12E => some (.sstU32 (unM w))
  | 0x12F => some (.sstU64 (unM w))
  | 0x130 => some (.ldnU32 (unM w))
  | 0x131 => some (.ldnU64 (unM w))
  | 0x132 => some (.ldnU128 (unM w))
  | 0x133 => some (.stnU32 (unM w))
  | 0x134 => some (.stnU64 (unM w))
  | 0x135 => some (.stnU128 (unM w))
  | 0x136 => some (.pf (unM w))
  | 0x137 => some (.cwb (unM w))
  | 0x138 => some (.rooffl (unR w))
  | 0x139 => some (.ordrel (unM w))
  | 0x13A => some (.atomAddU32 (unM w))
  | 0x13B => some (.atomAddU64 (unM w))
  | 0x13C => some (.atomMinS32 (unM w))
  | 0x13D => some (.atomMaxS32 (unM w))
  | 0x13E => some (.atomMinU32 (unM w))
  | 0x13F => some (.atomMaxU32 (unM w))
  | 0x140 => some (.atomAndB32 (unM w))
  | 0x141 => some (.atomOrB32 (unM w))
  | 0x142 => some (.atomXorB32 (unM w))
  | 0x143 => some (.atomExchB32 (unM w))
  | 0x144 => some (.atomExchB64 (unM w))
  | 0x145 => some (.atomCasB32 (unM w))
  | 0x146 => some (.atomCasB64 (unM w))
  | 0x147 => some (.atomAddF32 (unM w))
  | 0x148 => some (.atomAddF64 (unM w))
  | 0x149 => some (.atomAddOrdF32 (unM w))
  | 0x14A => some (.atomAddOrdF64 (unM w))
  | 0x14B => some (.stz (unM w))
  | _ => none

/-- Opcodes 0x160–0x16F (R42, R43). -/
noncomputable def makeCP (opc : Nat) (w : BitVec 96) : Option Instr :=
  match opc with
  | 0x160 => some (.cpy (unR w))
  | 0x161 => some (.cpyf (unR w))
  | 0x162 => some (.cpyt (unR w))
  | 0x163 => some (.cpyg (unM w))
  | 0x164 => some (.halo (unR w))
  | 0x165 => if (unR w).x.getLsbD 6 then some (.batchTl (unR w)) else some (.batch (unR w))
  | 0x166 => some (.bwait (unR w))
  | 0x167 => some (.bnum (unR w))
  | 0x168 => some (.bbini (unM w))
  | 0x169 => some (.bbexp (unM w))
  | 0x16A => some (.bbarr (unM w))
  | 0x16B => some (.bbwt (unM w))
  | 0x16C => some (.bbtst (unM w))
  | 0x16D => some (.tlwait (unR w))
  | 0x16E => some (.tlsig (unR w))
  | 0x16F => some (.tlrd (unR w))
  | _ => none

/-- Opcodes 0x170–0x177 (R42, R43). -/
noncomputable def makeFT (opc : Nat) (w : BitVec 96) : Option Instr :=
  match opc with
  | 0x170 => some (.fenceAcq (unR w))
  | 0x171 => some (.fenceRel (unR w))
  | 0x172 => some (.fenceAr (unR w))
  | 0x173 => some (.fenceSc (unR w))
  | 0x174 => some (.txbegin (unC w))
  | 0x175 => some (.txend (unC w))
  | 0x176 => some (.txabt (unC w))
  | 0x177 => some (.txst (unR w))
  | _ => none

/-- Opcodes 0x180–0x18B (R42, R43). -/
noncomputable def makeLG (opc : Nat) (w : BitVec 96) : Option Instr :=
  match opc with
  | 0x180 => some (.qpush (unM w))
  | 0x181 => some (.qdoor (unR w))
  | 0x182 => some (.lhrd (unR w))
  | 0x183 => some (.advance (unR w))
  | 0x184 => some (.phrd (unR w))
  | 0x185 => some (.dqpush (unR w))
  | 0x186 => some (.dqpop (unR w))
  | 0x187 => some (.dqstat (unR w))
  | 0x188 => some (.fmpost (unR w))
  | 0x189 => some (.fmrecv (unR w))
  | 0x18A => some (.fmend (unR w))
  | 0x18B => some (.seamgo (unM w))
  | _ => none

/-- Opcodes 0x18C–0x197 (R42, R43). -/
noncomputable def makeTS (opc : Nat) (w : BitVec 96) : Option Instr :=
  match opc with
  | 0x18C => some (.trap (unI w))
  | 0x18D => if (unR w).x == 0 then some (.tret (unR w)) else if (unR w).x == 1 then some (.tretSkip (unR w)) else if (unR w).x == 2 then some (.tretTo (unR w)) else none
  | 0x18E => some (.trrd (unR w))
  | 0x18F => some (.yield (unR w))
  | 0x190 => some (.brpq (unC w))
  | 0x191 => some (.mon (unM w))
  | 0x192 => some (.mwait (unR w))
  | 0x193 => some (.sysrd (unR w))
  | 0x194 => if (unR w).x == 8 then some (.ttrootWrite (unR w)) else if (unR w).x == 9 then some (.segtabWrite (unR w)) else if (unR w).x == 10 then some (.tlbinv (unR w)) else some (.syswr (unR w))
  | 0x195 => some (.cycrd (unR w))
  | 0x196 => some (.monclr (unR w))
  | 0x197 => some (.ydlrd (unR w))
  | _ => none

/-- Opcodes 0x198–0x19F (R42, R43). -/
noncomputable def makeCR (opc : Nat) (w : BitVec 96) : Option Instr :=
  match opc with
  | 0x198 => some (.coll (unM w))
  | 0x199 => some (.grpld (unM w))
  | 0x19A => some (.grprd (unR w))
  | 0x19B => some (.fhrd (unR w))
  | 0x19C => some (.kill (unR w))
  | 0x19D => some (.deadrd (unR w))
  | 0x19E => some (.shwait (unR w))
  | 0x19F => some (.errinj (unR w))
  | _ => none

/-- The instruction an opcode and the rest of its word name, before any check; `none` where OPC, or the choice X makes within it, is
unassigned (R42). -/
noncomputable def makeJarja (opc : Nat) (w : BitVec 96) : Option Instr :=
  if 0x001 ≤ opc ∧ opc ≤ 0x020 then makeCF opc w
  else if 0x021 ≤ opc ∧ opc ≤ 0x02C then makeMB opc w
  else if 0x040 ≤ opc ∧ opc ≤ 0x06F then makeSC opc w
  else if 0x080 ≤ opc ∧ opc ≤ 0x0AF then makeVEa opc w
  else if 0x0B0 ≤ opc ∧ opc ≤ 0x0DF then makeVEb opc w
  else if 0x0E0 ≤ opc ∧ opc ≤ 0x0EB then makeEX opc w
  else if 0x100 ≤ opc ∧ opc ≤ 0x113 then makeMX opc w
  else if 0x120 ≤ opc ∧ opc ≤ 0x14B then makeME opc w
  else if 0x160 ≤ opc ∧ opc ≤ 0x16F then makeCP opc w
  else if 0x170 ≤ opc ∧ opc ≤ 0x177 then makeFT opc w
  else if 0x180 ≤ opc ∧ opc ≤ 0x18B then makeLG opc w
  else if 0x18C ≤ opc ∧ opc ≤ 0x197 then makeTS opc w
  else if 0x198 ≤ opc ∧ opc ≤ 0x19F then makeCR opc w
  else none

/-- FB must be zero in forms I and C, and RU in form C (R26). -/
def formClear (w : BitVec 96) : Instr → Bool
  | .smovi _ | .smovhi _ | .regacq _ | .vmovi _ | .trap _ => !w.getLsbD 68
  | .bra _ | .brs _ | .brzEm _ | .call _ | .jmp _ | .exit _ | .nop _ | .split _ | .arrive _ | .join _ | .jmclr _ | .jmrd _ | .jmwr _ | .meld _ | .unmeld _ | .loop _ | .txbegin _ | .txend _ | .txabt _ | .brpq _ => !w.getLsbD 68 && !w.getLsbD 69
  | _ => true

/-- Decode one Jarja word (R24–R44): the first item of R44 it breaks, or the instruction. -/
noncomputable def decodeJarja (w : BitVec 96) : Except Illegal Instr :=
  match makeJarja (w.extractLsb' 0 9).toNat w with
  | none => .error .opcode
  | some i =>
    if w.extractLsb' 76 2 != 0 then .error .reserved
    else if !formClear w i then .error .unused
    else match illegal i with
      | some e => .error e
      | none => .ok i

/-- The fields of a Seam word (R383). -/
def unSeam (w : BitVec 64) : SeamOp :=
  { d := w.extractLsb' 8 5, a := w.extractLsb' 13 5, b := w.extractLsb' 18 5, k := w.extractLsb' 23 3, f := w.extractLsb' 26 6,
    imm := w.extractLsb' 32 32 }

/-- The Seam opcodes 0x01–0x2C (R386). -/
noncomputable def makeSeam (op : Nat) (w : BitVec 64) : Option Instr :=
  match op with
  | 0x01 => some (.seamLi (unSeam w))
  | 0x02 => some (.seamLih (unSeam w))
  | 0x03 => some (.seamAlu (unSeam w))
  | 0x04 => some (.seamAluImm (unSeam w))
  | 0x05 => some (.seamBranch (unSeam w))
  | 0x06 => some (.seamJal (unSeam w))
  | 0x07 => some (.seamJr (unSeam w))
  | 0x08 => some (.seamLd (unSeam w))
  | 0x09 => some (.seamSt (unSeam w))
  | 0x0A => some (.seamSrd (unSeam w))
  | 0x0B => some (.pown (unSeam w))
  | 0x0C => some (.rgnext (unSeam w))
  | 0x0D => some (.sfence (unSeam w))
  | 0x0E => some (.tladv (unSeam w))
  | 0x0F => some (.tlwt (unSeam w))
  | 0x10 => some (.seamDone (unSeam w))
  | 0x11 => some (.seamNop (unSeam w))
  | 0x12 => some (.seamKlogic (unSeam w))
  | 0x13 => some (.kmov (unSeam w))
  | 0x14 => some (.kget (unSeam w))
  | 0x15 => some (.vld (unSeam w))
  | 0x16 => some (.vst (unSeam w))
  | 0x17 => some (.vgth (unSeam w))
  | 0x18 => some (.vsct (unSeam w))
  | 0x19 => some (.vcst (unSeam w))
  | 0x1A => some (.vred (unSeam w))
  | 0x1B => some (.vredx (unSeam w))
  | 0x1C => some (.vfArith (unSeam w))
  | 0x1D => some (.vfArithX (unSeam w))
  | 0x1E => some (.vfma (unSeam w))
  | 0x1F => some (.vfUnary (unSeam w))
  | 0x20 => some (.viArith (unSeam w))
  | 0x21 => some (.viArithX (unSeam w))
  | 0x22 => some (.vcmp (unSeam w))
  | 0x23 => some (.seamVsel (unSeam w))
  | 0x24 => some (.vcvt (unSeam w))
  | 0x25 => some (.vbc (unSeam w))
  | 0x26 => some (.seamVext (unSeam w))
  | 0x27 => some (.seamVins (unSeam w))
  | 0x28 => some (.vrdl (unSeam w))
  | 0x29 => some (.vperm (unSeam w))
  | 0x2A => some (.vsrt (unSeam w))
  | 0x2B => some (.vlane (unSeam w))
  | 0x2C => some (.seamVmov (unSeam w))
  | _ => none

/-- Decode one Seam word (R383–R386). -/
noncomputable def decodeSeam (w : BitVec 64) : Except Illegal Instr :=
  match makeSeam (w.extractLsb' 0 8).toNat w with
  | none => .error .opcode
  | some i => match illegal i with
    | some e => .error e
    | none => .ok i

/-- A little-endian number from bytes (R5). -/
def leNat : List Byte → Nat
  | [] => 0
  | b :: t => b.toNat + 256 * leNat t

/-- The `n` bytes of a number, little-endian (R5). -/
def leBytes : Nat → Nat → List Byte
  | 0, _ => []
  | n + 1, v => BitVec.ofNat 8 v :: leBytes n (v / 256)

/-- Decode the instruction at the head of a list of bytes in a warp or foreman, with the bytes after it (R25). -/
noncomputable def decodeJarjaBytes (b : List Byte) : Except Illegal (Instr × List Byte) :=
  if b.length < 12 then .error .length
  else match decodeJarja (BitVec.ofNat 96 (leNat (b.take 12))) with
    | .error e => .error e
    | .ok i => .ok (i, b.drop 12)

/-- Decode the instruction at the head of a list of bytes on a Seam core (R383). -/
noncomputable def decodeSeamBytes (b : List Byte) : Except Illegal (Instr × List Byte) :=
  if b.length < 8 then .error .length
  else match decodeSeam (BitVec.ofNat 64 (leNat (b.take 8))) with
    | .error e => .error e
    | .ok i => .ok (i, b.drop 8)

/-- The instruction the decoder reads from a word whose bits are numbered as opcode_table.json numbers them: a Seam instruction from
64 bits, a Jarja instruction from any other number of bits (the two kinds are told apart by the core that fetches them). -/
noncomputable def decodeTableWord (nbits w : Nat) : Option Instr :=
  if nbits = 64 then
    match decodeSeamBytes (leBytes 8 w) with
    | .ok (i, _) => some i
    | .error _ => none
  else
    match decodeJarjaBytes (leBytes 12 w) with
    | .ok (i, _) => some i
    | .error _ => none

/-! ## The encoder -/

/-- The specifier field of a specifier (R31). -/
def encodeSpec : Spec → BitVec 10
  | .vec n => 0#2 ++ n
  | .scl n => 1#2 ++ n
  | .spc n => 2#2 ++ n
  | .imm n => 3#2 ++ n

/-- A word from the values of its fields, in the order of R24 from bit 95 down. -/
def packWord (x : BitVec 18) (h : Hdr) (ru fb fa : Bool) (mb : BitVec 12) (sb : BitVec 10) (ma : BitVec 12) (sa dst : BitVec 10)
    (opc : BitVec 9) : BitVec 96 :=
  x ++ 0#2 ++ BitVec.ofBool h.hd ++ BitVec.ofBool h.hy ++ h.hs ++ BitVec.ofBool ru ++ BitVec.ofBool fb ++ BitVec.ofBool fa ++ mb ++ sb ++
    ma ++ sa ++ dst ++ BitVec.ofBool h.gn ++ h.gp ++ opc

def packR (opc : BitVec 9) (f : FormR) : BitVec 96 :=
  packWord f.x f.h f.ru f.b.pol f.a.pol f.b.mod (encodeSpec f.b.spec) f.a.mod (encodeSpec f.a.spec) (encodeSpec f.dst) opc

def packI (opc : BitVec 9) (f : FormI) : BitVec 96 :=
  packWord (f.imm.extractLsb' 22 18) f.h f.ru false f.a.pol (f.imm.extractLsb' 10 12) (f.imm.extractLsb' 0 10) f.a.mod
    (encodeSpec f.a.spec) (encodeSpec f.dst) opc

def packM (opc : BitVec 9) (f : FormM) : BitVec 96 :=
  packWord f.off f.h f.ru f.data.pol f.fa f.data.mod (encodeSpec f.data.spec) f.attr (encodeSpec f.addr) (encodeSpec f.dst) opc

def packC (opc : BitVec 9) (f : FormC) : BitVec 96 :=
  packWord (f.disp.extractLsb' 10 18) f.h false false f.a.pol f.ctl (f.disp.extractLsb' 0 10) f.a.mod (encodeSpec f.a.spec)
    (encodeSpec f.dst) opc

def packSeam (op : BitVec 8) (o : SeamOp) : BitVec 64 := o.imm ++ o.f ++ o.k ++ o.b ++ o.a ++ o.d ++ op

/-- The word of an instruction: Jarja (96 bits), Seam (64 bits), or none for an event. -/
inductive Encoded where
  | jarja (w : BitVec 96)
  | seam (w : BitVec 64)
  | event
  deriving DecidableEq, Repr

/-- The encoding of every instruction, from R43 and R386. -/
def encode : Instr → Encoded
  | .bra f => .jarja (packC 0x001 f)
  | .brs f => .jarja (packC 0x002 f)
  | .brzEm f => .jarja (packC 0x003 f)
  | .call f => .jarja (packC 0x004 f)
  | .jmp f => .jarja (packC 0x005 f)
  | .exit f => .jarja (packC 0x006 f)
  | .nop f => .jarja (packC 0x007 f)
  | .split f => .jarja (packC 0x008 f)
  | .arrive f => .jarja (packC 0x009 f)
  | .join f => .jarja (packC 0x00A f)
  | .jmclr f => .jarja (packC 0x00B f)
  | .jmrd f => .jarja (packC 0x00C f)
  | .jmwr f => .jarja (packC 0x00D f)
  | .meld f => .jarja (packC 0x00E f)
  | .unmeld f => .jarja (packC 0x00F f)
  | .ptld f => .jarja (packM 0x010 f)
  | .ptst f => .jarja (packM 0x011 f)
  | .prrd f => .jarja (packR 0x012 f)
  | .prwr f => .jarja (packR 0x013 f)
  | .gany f => .jarja (packR 0x014 f)
  | .gall f => .jarja (packR 0x015 f)
  | .gsame f => .jarja (packR 0x016 f)
  | .gcount f => .jarja (packR 0x017 f)
  | .gmask f => .jarja (packR 0x018 f)
  | .glow f => .jarja (packR 0x019 f)
  | .pfrom f => .jarja (packR 0x01A f)
  | .laneid f => .jarja (packR 0x01B f)
  | .lperm f => .jarja (packR 0x01C f)
  | .lrise f => .jarja (packR 0x01D f)
  | .lfall f => .jarja (packR 0x01E f)
  | .lswap f => .jarja (packR 0x01F f)
  | .emand f => .jarja (packR 0x020 f)
  | .mmrd f => .jarja (packR 0x021 f)
  | .mmwr f => .jarja (packR 0x022 f)
  | .mmtrim f => .jarja (packR 0x023 f)
  | .mbid f => .jarja (packR 0x024 f)
  | .mselV f => .jarja (packR 0x025 f)
  | .mselS f => .jarja (packR 0x026 f)
  | .mredXF64 f => .jarja (packR 0x027 f)
  | .mredXF32 f => .jarja (packR 0x028 f)
  | .mredMinmax f => .jarja (packR 0x029 f)
  | .mredInt f => .jarja (packR 0x02A f)
  | .regrp f => .jarja (packR 0x02B f)
  | .mvote f => .jarja (packR 0x02C f)
  | .smovi f => .jarja (packI 0x040 f)
  | .smovhi f => .jarja (packI 0x041 f)
  | .smov f => .jarja (packR 0x042 f)
  | .scsel f => .jarja (packR 0x043 f)
  | .vbcast f => .jarja (packR 0x044 f)
  | .vext f => .jarja (packR 0x045 f)
  | .vins f => .jarja (packR 0x046 f)
  | .sadd f => .jarja (packR 0x047 f)
  | .ssub f => .jarja (packR 0x048 f)
  | .smul f => .jarja (packR 0x049 f)
  | .smulh f => .jarja (packR 0x04A f)
  | .sdiv f => .jarja (packR 0x04B f)
  | .srem f => .jarja (packR 0x04C f)
  | .smin f => .jarja (packR 0x04D f)
  | .smax f => .jarja (packR 0x04E f)
  | .sand f => .jarja (packR 0x04F f)
  | .sor f => .jarja (packR 0x050 f)
  | .sxor f => .jarja (packR 0x051 f)
  | .sandn f => .jarja (packR 0x052 f)
  | .sshl f => .jarja (packR 0x053 f)
  | .sshr f => .jarja (packR 0x054 f)
  | .ssar f => .jarja (packR 0x055 f)
  | .srol f => .jarja (packR 0x056 f)
  | .sclz f => .jarja (packR 0x057 f)
  | .spopc f => .jarja (packR 0x058 f)
  | .sctz f => .jarja (packR 0x059 f)
  | .sbfe f => .jarja (packR 0x05A f)
  | .sbfi f => .jarja (packR 0x05B f)
  | .sset f => .jarja (packR 0x05C f)
  | .scmp f => .jarja (packR 0x05D f)
  | .slea f => .jarja (packR 0x05E f)
  | .vaddr f => .jarja (packR 0x05F f)
  | .widS f => .jarja (packR 0x060 f)
  | .widV f => .jarja (packR 0x061 f)
  | .loop f => .jarja (packC 0x062 f)
  | .lcrd f => .jarja (packR 0x063 f)
  | .stbind f => .jarja (packM 0x064 f)
  | .strel f => .jarja (packR 0x065 f)
  | .stpos f => .jarja (packR 0x066 f)
  | .stseek f => .jarja (packR 0x067 f)
  | .strdV f => .jarja (packR 0x068 f)
  | .stwrV f => .jarja (packR 0x069 f)
  | .regacq f => .jarja (packI 0x06A f)
  | .regrel f => .jarja (packR 0x06B f)
  | .regcnt f => .jarja (packR 0x06C f)
  | .fest f => .jarja (packR 0x06D f)
  | .fewait f => .jarja (packR 0x06E f)
  | .sbrev f => .jarja (packR 0x06F f)
  | .faddF32 f => .jarja (packR 0x080 f)
  | .fsubF32 f => .jarja (packR 0x081 f)
  | .fmulF32 f => .jarja (packR 0x082 f)
  | .ffmaF32 f => .jarja (packR 0x083 f)
  | .fnmaF32 f => .jarja (packR 0x084 f)
  | .fminF32 f => .jarja (packR 0x085 f)
  | .fmaxF32 f => .jarja (packR 0x086 f)
  | .fnegF32 f => .jarja (packR 0x087 f)
  | .fabsF32 f => .jarja (packR 0x088 f)
  | .fcpsgnF32 f => .jarja (packR 0x089 f)
  | .fcmpF32 f => .jarja (packR 0x08A f)
  | .fclassF32 f => .jarja (packR 0x08B f)
  | .fredF32 f => .jarja (packR 0x08C f)
  | .faddF64 f => .jarja (packR 0x08D f)
  | .fsubF64 f => .jarja (packR 0x08E f)
  | .fmulF64 f => .jarja (packR 0x08F f)
  | .ffmaF64 f => .jarja (packR 0x090 f)
  | .fnmaF64 f => .jarja (packR 0x091 f)
  | .fminF64 f => .jarja (packR 0x092 f)
  | .fmaxF64 f => .jarja (packR 0x093 f)
  | .fnegF64 f => .jarja (packR 0x094 f)
  | .fabsF64 f => .jarja (packR 0x095 f)
  | .fcpsgnF64 f => .jarja (packR 0x096 f)
  | .fcmpF64 f => .jarja (packR 0x097 f)
  | .fclassF64 f => .jarja (packR 0x098 f)
  | .fredF64 f => .jarja (packR 0x099 f)
  | .faddF16x2 f => .jarja (packR 0x09A f)
  | .fsubF16x2 f => .jarja (packR 0x09B f)
  | .fmulF16x2 f => .jarja (packR 0x09C f)
  | .ffmaF16x2 f => .jarja (packR 0x09D f)
  | .fminF16x2 f => .jarja (packR 0x09E f)
  | .fmaxF16x2 f => .jarja (packR 0x09F f)
  | .faddBf16x2 f => .jarja (packR 0x0A0 f)
  | .fsubBf16x2 f => .jarja (packR 0x0A1 f)
  | .fmulBf16x2 f => .jarja (packR 0x0A2 f)
  | .ffmaBf16x2 f => .jarja (packR 0x0A3 f)
  | .fminBf16x2 f => .jarja (packR 0x0A4 f)
  | .fmaxBf16x2 f => .jarja (packR 0x0A5 f)
  | .fdot2F16 f => .jarja (packR 0x0A6 f)
  | .fdot2Bf16 f => .jarja (packR 0x0A7 f)
  | .fdot4E4m3 f => .jarja (packR 0x0A8 f)
  | .fdot4E5m2 f => .jarja (packR 0x0A9 f)
  | .iaddB32 f => .jarja (packR 0x0AA f)
  | .isubB32 f => .jarja (packR 0x0AB f)
  | .imulB32 f => .jarja (packR 0x0AC f)
  | .imulh f => .jarja (packR 0x0AD f)
  | .imadB32 f => .jarja (packR 0x0AE f)
  | .imin f => .jarja (packR 0x0AF f)
  | .imax f => .jarja (packR 0x0B0 f)
  | .iandB32 f => .jarja (packR 0x0B1 f)
  | .iorB32 f => .jarja (packR 0x0B2 f)
  | .ixorB32 f => .jarja (packR 0x0B3 f)
  | .iandnB32 f => .jarja (packR 0x0B4 f)
  | .ishlB32 f => .jarja (packR 0x0B5 f)
  | .ishrB32 f => .jarja (packR 0x0B6 f)
  | .isarB32 f => .jarja (packR 0x0B7 f)
  | .iclzB32 f => .jarja (packR 0x0B8 f)
  | .ipopcB32 f => .jarja (packR 0x0B9 f)
  | .ibrevB32 f => .jarja (packR 0x0BA f)
  | .ibfe f => .jarja (packR 0x0BB f)
  | .ibfi f => .jarja (packR 0x0BC f)
  | .icmpB32 f => .jarja (packR 0x0BD f)
  | .vsel f => .jarja (packR 0x0BE f)
  | .idot4 f => .jarja (packR 0x0BF f)
  | .ired f => .jarja (packR 0x0C0 f)
  | .iaddB64 f => .jarja (packR 0x0C1 f)
  | .isubB64 f => .jarja (packR 0x0C2 f)
  | .imulw f => .jarja (packR 0x0C3 f)
  | .vmov f => .jarja (packR 0x0C4 f)
  | .vmovi f => .jarja (packI 0x0C5 f)
  | .cvtF64 f => .jarja (packR 0x0C6 f)
  | .cvtF32 f => .jarja (packR 0x0C7 f)
  | .cvtF16 f => .jarja (packR 0x0C8 f)
  | .cvtBf16 f => .jarja (packR 0x0C9 f)
  | .cvtE4m3 f => .jarja (packR 0x0CA f)
  | .cvtE5m2 f => .jarja (packR 0x0CB f)
  | .cvtE2m1 f => .jarja (packR 0x0CC f)
  | .cvtS64 f => .jarja (packR 0x0CD f)
  | .cvtU64 f => .jarja (packR 0x0CE f)
  | .cvtS32 f => .jarja (packR 0x0CF f)
  | .cvtU32 f => .jarja (packR 0x0D0 f)
  | .cvtS16 f => .jarja (packR 0x0D1 f)
  | .cvtU16 f => .jarja (packR 0x0D2 f)
  | .cvtS8 f => .jarja (packR 0x0D3 f)
  | .cvtU8 f => .jarja (packR 0x0D4 f)
  | .frcpF32 f => .jarja (packR 0x0D5 f)
  | .frsqF32 f => .jarja (packR 0x0D6 f)
  | .fsqrtF32 f => .jarja (packR 0x0D7 f)
  | .fdivF32 f => .jarja (packR 0x0D8 f)
  | .fexp2F32 f => .jarja (packR 0x0D9 f)
  | .flog2F32 f => .jarja (packR 0x0DA f)
  | .fsinpiF32 f => .jarja (packR 0x0DB f)
  | .fcospiF32 f => .jarja (packR 0x0DC f)
  | .ftanhF32 f => .jarja (packR 0x0DD f)
  | .fdivF64 f => .jarja (packR 0x0DE f)
  | .fsqrtF64 f => .jarja (packR 0x0DF f)
  | .exaddF64 f => .jarja (packR 0x0E0 f)
  | .exaddF32 f => .jarja (packR 0x0E1 f)
  | .exmacF64 f => .jarja (packR 0x0E2 f)
  | .exmrg f => .jarja (packR 0x0E3 f)
  | .exmov f => .jarja (packR 0x0E3 f)
  | .exclr f => .jarja (packR 0x0E3 f)
  | .exrnd f => .jarja (packR 0x0E4 f)
  | .exstat f => .jarja (packR 0x0E5 f)
  | .exld f => .jarja (packM 0x0E6 f)
  | .exst f => .jarja (packM 0x0E7 f)
  | .exldw f => .jarja (packM 0x0E8 f)
  | .exstw f => .jarja (packM 0x0E9 f)
  | .exaddmF64 f => .jarja (packM 0x0EA f)
  | .exmrgm f => .jarja (packM 0x0EB f)
  | .mmaBf16 f => .jarja (packR 0x100 f)
  | .mmaF16 f => .jarja (packR 0x101 f)
  | .mmaE4m3E4m3 f => .jarja (packR 0x102 f)
  | .mmaE4m3E5m2 f => .jarja (packR 0x103 f)
  | .mmaE5m2E4m3 f => .jarja (packR 0x104 f)
  | .mmaE5m2E5m2 f => .jarja (packR 0x105 f)
  | .mmaE2m1 f => .jarja (packR 0x106 f)
  | .mmaInt8Ss f => .jarja (packR 0x107 f)
  | .mmaInt8Su f => .jarja (packR 0x108 f)
  | .mmaInt8Us f => .jarja (packR 0x109 f)
  | .mmaInt8Uu f => .jarja (packR 0x10A f)
  | .mmaF64 f => .jarja (packR 0x10B f)
  | .mmasE4m3E4m3 f => .jarja (packR 0x10C f)
  | .mmasE4m3E5m2 f => .jarja (packR 0x10D f)
  | .mmasE5m2E4m3 f => .jarja (packR 0x10E f)
  | .mmasE5m2E5m2 f => .jarja (packR 0x10F f)
  | .mmasE2m1 f => .jarja (packR 0x110 f)
  | .mmclr f => .jarja (packR 0x111 f)
  | .scld f => .jarja (packM 0x112 f)
  | .cvgo f => .jarja (packR 0x113 f)
  | .ldU8 f => .jarja (packM 0x120 f)
  | .ldS8 f => .jarja (packM 0x121 f)
  | .ldU16 f => .jarja (packM 0x122 f)
  | .ldS16 f => .jarja (packM 0x123 f)
  | .ldU32 f => .jarja (packM 0x124 f)
  | .ldU64 f => .jarja (packM 0x125 f)
  | .ldU128 f => .jarja (packM 0x126 f)
  | .stU8 f => .jarja (packM 0x127 f)
  | .stU16 f => .jarja (packM 0x128 f)
  | .stU32 f => .jarja (packM 0x129 f)
  | .stU64 f => .jarja (packM 0x12A f)
  | .stU128 f => .jarja (packM 0x12B f)
  | .sldU32 f => .jarja (packM 0x12C f)
  | .sldU64 f => .jarja (packM 0x12D f)
  | .sstU32 f => .jarja (packM 0x12E f)
  | .sstU64 f => .jarja (packM 0x12F f)
  | .ldnU32 f => .jarja (packM 0x130 f)
  | .ldnU64 f => .jarja (packM 0x131 f)
  | .ldnU128 f => .jarja (packM 0x132 f)
  | .stnU32 f => .jarja (packM 0x133 f)
  | .stnU64 f => .jarja (packM 0x134 f)
  | .stnU128 f => .jarja (packM 0x135 f)
  | .pf f => .jarja (packM 0x136 f)
  | .cwb f => .jarja (packM 0x137 f)
  | .rooffl f => .jarja (packR 0x138 f)
  | .ordrel f => .jarja (packM 0x139 f)
  | .atomAddU32 f => .jarja (packM 0x13A f)
  | .atomAddU64 f => .jarja (packM 0x13B f)
  | .atomMinS32 f => .jarja (packM 0x13C f)
  | .atomMaxS32 f => .jarja (packM 0x13D f)
  | .atomMinU32 f => .jarja (packM 0x13E f)
  | .atomMaxU32 f => .jarja (packM 0x13F f)
  | .atomAndB32 f => .jarja (packM 0x140 f)
  | .atomOrB32 f => .jarja (packM 0x141 f)
  | .atomXorB32 f => .jarja (packM 0x142 f)
  | .atomExchB32 f => .jarja (packM 0x143 f)
  | .atomExchB64 f => .jarja (packM 0x144 f)
  | .atomCasB32 f => .jarja (packM 0x145 f)
  | .atomCasB64 f => .jarja (packM 0x146 f)
  | .atomAddF32 f => .jarja (packM 0x147 f)
  | .atomAddF64 f => .jarja (packM 0x148 f)
  | .atomAddOrdF32 f => .jarja (packM 0x149 f)
  | .atomAddOrdF64 f => .jarja (packM 0x14A f)
  | .stz f => .jarja (packM 0x14B f)
  | .cpy f => .jarja (packR 0x160 f)
  | .cpyf f => .jarja (packR 0x161 f)
  | .cpyt f => .jarja (packR 0x162 f)
  | .cpyg f => .jarja (packM 0x163 f)
  | .halo f => .jarja (packR 0x164 f)
  | .batch f => .jarja (packR 0x165 f)
  | .batchTl f => .jarja (packR 0x165 f)
  | .bwait f => .jarja (packR 0x166 f)
  | .bnum f => .jarja (packR 0x167 f)
  | .bbini f => .jarja (packM 0x168 f)
  | .bbexp f => .jarja (packM 0x169 f)
  | .bbarr f => .jarja (packM 0x16A f)
  | .bbwt f => .jarja (packM 0x16B f)
  | .bbtst f => .jarja (packM 0x16C f)
  | .tlwait f => .jarja (packR 0x16D f)
  | .tlsig f => .jarja (packR 0x16E f)
  | .tlrd f => .jarja (packR 0x16F f)
  | .fenceAcq f => .jarja (packR 0x170 f)
  | .fenceRel f => .jarja (packR 0x171 f)
  | .fenceAr f => .jarja (packR 0x172 f)
  | .fenceSc f => .jarja (packR 0x173 f)
  | .txbegin f => .jarja (packC 0x174 f)
  | .txend f => .jarja (packC 0x175 f)
  | .txabt f => .jarja (packC 0x176 f)
  | .txst f => .jarja (packR 0x177 f)
  | .ttrootWrite f => .jarja (packR 0x194 f)
  | .segtabWrite f => .jarja (packR 0x194 f)
  | .tlbinv f => .jarja (packR 0x194 f)
  | .qpush f => .jarja (packM 0x180 f)
  | .qdoor f => .jarja (packR 0x181 f)
  | .lhrd f => .jarja (packR 0x182 f)
  | .advance f => .jarja (packR 0x183 f)
  | .phrd f => .jarja (packR 0x184 f)
  | .dqpush f => .jarja (packR 0x185 f)
  | .dqpop f => .jarja (packR 0x186 f)
  | .dqstat f => .jarja (packR 0x187 f)
  | .fmpost f => .jarja (packR 0x188 f)
  | .fmrecv f => .jarja (packR 0x189 f)
  | .fmend f => .jarja (packR 0x18A f)
  | .seamgo f => .jarja (packM 0x18B f)
  | .seamLi o => .seam (packSeam 0x01 o)
  | .seamLih o => .seam (packSeam 0x02 o)
  | .seamAlu o => .seam (packSeam 0x03 o)
  | .seamAluImm o => .seam (packSeam 0x04 o)
  | .seamBranch o => .seam (packSeam 0x05 o)
  | .seamJal o => .seam (packSeam 0x06 o)
  | .seamJr o => .seam (packSeam 0x07 o)
  | .seamLd o => .seam (packSeam 0x08 o)
  | .seamSt o => .seam (packSeam 0x09 o)
  | .seamSrd o => .seam (packSeam 0x0A o)
  | .pown o => .seam (packSeam 0x0B o)
  | .rgnext o => .seam (packSeam 0x0C o)
  | .sfence o => .seam (packSeam 0x0D o)
  | .tladv o => .seam (packSeam 0x0E o)
  | .tlwt o => .seam (packSeam 0x0F o)
  | .seamDone o => .seam (packSeam 0x10 o)
  | .seamNop o => .seam (packSeam 0x11 o)
  | .seamKlogic o => .seam (packSeam 0x12 o)
  | .kmov o => .seam (packSeam 0x13 o)
  | .kget o => .seam (packSeam 0x14 o)
  | .vld o => .seam (packSeam 0x15 o)
  | .vst o => .seam (packSeam 0x16 o)
  | .vgth o => .seam (packSeam 0x17 o)
  | .vsct o => .seam (packSeam 0x18 o)
  | .vcst o => .seam (packSeam 0x19 o)
  | .vred o => .seam (packSeam 0x1A o)
  | .vredx o => .seam (packSeam 0x1B o)
  | .vfArith o => .seam (packSeam 0x1C o)
  | .vfArithX o => .seam (packSeam 0x1D o)
  | .vfma o => .seam (packSeam 0x1E o)
  | .vfUnary o => .seam (packSeam 0x1F o)
  | .viArith o => .seam (packSeam 0x20 o)
  | .viArithX o => .seam (packSeam 0x21 o)
  | .vcmp o => .seam (packSeam 0x22 o)
  | .seamVsel o => .seam (packSeam 0x23 o)
  | .vcvt o => .seam (packSeam 0x24 o)
  | .vbc o => .seam (packSeam 0x25 o)
  | .seamVext o => .seam (packSeam 0x26 o)
  | .seamVins o => .seam (packSeam 0x27 o)
  | .vrdl o => .seam (packSeam 0x28 o)
  | .vperm o => .seam (packSeam 0x29 o)
  | .vsrt o => .seam (packSeam 0x2A o)
  | .vlane o => .seam (packSeam 0x2B o)
  | .seamVmov o => .seam (packSeam 0x2C o)
  | .trap f => .jarja (packI 0x18C f)
  | .tret f => .jarja (packR 0x18D f)
  | .tretSkip f => .jarja (packR 0x18D f)
  | .tretTo f => .jarja (packR 0x18D f)
  | .trrd f => .jarja (packR 0x18E f)
  | .yield f => .jarja (packR 0x18F f)
  | .brpq f => .jarja (packC 0x190 f)
  | .mon f => .jarja (packM 0x191 f)
  | .mwait f => .jarja (packR 0x192 f)
  | .sysrd f => .jarja (packR 0x193 f)
  | .syswr f => .jarja (packR 0x194 f)
  | .cycrd f => .jarja (packR 0x195 f)
  | .monclr f => .jarja (packR 0x196 f)
  | .ydlrd f => .jarja (packR 0x197 f)
  | .coll f => .jarja (packM 0x198 f)
  | .grpld f => .jarja (packM 0x199 f)
  | .grprd f => .jarja (packR 0x19A f)
  | .fhrd f => .jarja (packR 0x19B f)
  | .kill f => .jarja (packR 0x19C f)
  | .deadrd f => .jarja (packR 0x19D f)
  | .shwait f => .jarja (packR 0x19E f)
  | .errinj f => .jarja (packR 0x19F f)
  | .canaryDemote .. | .regroupDone .. | .loopBack .. | .streamElementArrive .. | .regacqGrant .. | .exactCellRequest ..
  | .mmaMemberComplete .. | .convJobStart .. | .convJobEnd .. | .atomicRequest .. | .orderedContribution .. | .loadReturn ..
  | .copyComplete .. | .timelineAdvance .. | .txConflict .. | .replicaUpdate .. | .walk .. | .mscRequest ..
  | .uncachedLineAccess .. | .doorbell .. | .slotMap .. | .slotFetch .. | .quantumExpire .. | .slotUnstall ..
  | .nodeReady .. | .blockPlace .. | .placementReserve .. | .preqRaise .. | .nodeDone .. | .convNodeDispatch ..
  | .seamNodeDispatch .. | .activeSetDisplace .. | .warpWake .. | .phaseRise .. | .seamTaskStart .. | .seamProbeDone ..
  | .seamInstanceRun .. | .seamInstancePreempt .. | .seamLongWait .. | .seamTaskDone .. | .monitorWrite .. | .mwaitTimeout ..
  | .trapDeliver .. | .laneFault .. | .forcedSave .. | .blockSave .. | .blockRestore .. | .flitReceive ..
  | .chunkReceive .. | .combineDispatch .. | .collCancelReceive .. | .collTimeout .. | .collPeerUnreachable .. | .collComplete ..
  | .laneInterval .. | .portRetrainDone .. | .laneRetrain .. | .outputCompare .. | .shaftWireFail .. | .cxlMemRead ..
  | .cxlMemWrite .. | .hostSnoop .. | .cxlOwnershipGrant .. | .barInvalidAccess .. | .hostDoorbellWrite .. | .timelineWindowRead ..
  | .timelineWindowWrite .. | .descriptorWrite .. | .contextCreate .. | .contextReturn .. | .contextMakeNonresident .. | .residencyChangeDone ..
  | .groupWindowLoad .. | .groupLoadDecided .. | .barRegisterWrite .. | .bootclr .. | .deviceStart .. | .bootStepDone ..
  | .powerLoss | .telemetrySample .. | .inputShutdown | .capWindow .. | .marginEmergency .. | .spdmMessage ..
  | .backInvalidateResponse .. | .writePerformed .. => .event

/-- What a word decodes to, by the core that reads it. -/
noncomputable def decodeEncoded : Encoded → Except Illegal Instr
  | .jarja w => decodeJarja w
  | .seam w => decodeSeam w
  | .event => .error .opcode

/-- The bytes of an instruction as memory holds them (R25, R383); none for an event. -/
def encodeBytes (i : Instr) : List Byte :=
  match encode i with
  | .jarja w => leBytes 12 w.toNat
  | .seam w => leBytes 8 w.toNat
  | .event => []

end Sys2Proof
end

