-- ==== Sys2Proof/Machine/Num.lean ====
section
/-!
DEFINITION. Number formats and rounding (R156–R168): decoding, exact arithmetic on dyadic numbers, one rounding, encoding with overflow,
saturation and flush, and the correctly rounded special functions of R191.
-/

namespace Sys2Proof.Machine

/-- How a format treats its top exponent (R158). -/
inductive FmtKind where
  | ieee | e4m3 | e2m1
  deriving DecidableEq, Repr

/-- A floating-point format (R158). -/
structure Fmt where
  ew : Nat
  fw : Nat
  bias : Nat
  kind : FmtKind
  deriving DecidableEq, Repr

def Fmt.f64 : Fmt := ⟨11, 52, 1023, .ieee⟩
def Fmt.f32 : Fmt := ⟨8, 23, 127, .ieee⟩
def Fmt.bf16 : Fmt := ⟨8, 7, 127, .ieee⟩
def Fmt.f16 : Fmt := ⟨5, 10, 15, .ieee⟩
def Fmt.e4m3 : Fmt := ⟨4, 3, 7, .e4m3⟩
def Fmt.e5m2 : Fmt := ⟨5, 2, 15, .ieee⟩
def Fmt.e2m1 : Fmt := ⟨2, 1, 1, .e2m1⟩

def Fmt.width (f : Fmt) : Nat := 1 + f.ew + f.fw
/-- The exponent of the last place of a subnormal. -/
def Fmt.emin (f : Fmt) : Int := 1 - (f.bias : Int) - (f.fw : Int)
def Fmt.emaxField (f : Fmt) : Nat := 2 ^ f.ew - 1
def Fmt.signBit (f : Fmt) : Nat := 2 ^ (f.ew + f.fw)

/-- A decoded value: a NaN with its sign and fraction, an infinity, or `± m * 2^e`. -/
inductive Val where
  | nan (neg : Bool) (frac : Nat)
  | inf (neg : Bool)
  | fin (neg : Bool) (m : Nat) (e : Int)
  deriving DecidableEq, Repr

/-- Decode the bits of a format (R158, R159). -/
def Fmt.decode (f : Fmt) (bits : Nat) : Val :=
  let b := bits % 2 ^ f.width
  let neg := f.signBit ≤ b
  let ex := b / 2 ^ f.fw % 2 ^ f.ew
  let fr := b % 2 ^ f.fw
  let finite := if ex = 0 then Val.fin neg fr f.emin else .fin neg (2 ^ f.fw + fr) ((ex : Int) - f.bias - f.fw)
  match f.kind with
  | .ieee => if ex = f.emaxField then (if fr = 0 then .inf neg else .nan neg fr) else finite
  | .e4m3 => if ex = 15 ∧ fr = 7 then .nan neg fr else finite
  | .e2m1 => finite

/-- The default NaN (R159); E2M1 has none and gives zero (R160). -/
def Fmt.defaultNan (f : Fmt) : Nat :=
  match f.kind with
  | .ieee => f.emaxField * 2 ^ f.fw + 2 ^ (f.fw - 1)
  | .e4m3 => 0x7F
  | .e2m1 => 0

def Fmt.zero (f : Fmt) (neg : Bool) : Nat := if neg then f.signBit else 0

/-- The largest finite value's encoding without sign. -/
def Fmt.maxBits (f : Fmt) : Nat :=
  match f.kind with
  | .ieee => f.emaxField * 2 ^ f.fw - 1
  | .e4m3 => 0x7E
  | .e2m1 => 7

/-- An infinity written into the format (R164). -/
def Fmt.infBits (f : Fmt) (neg : Bool) : Nat :=
  f.zero neg + match f.kind with
    | .ieee => f.emaxField * 2 ^ f.fw
    | .e4m3 => 0x7F
    | .e2m1 => 7

/-- Rounding options of an instruction: mode (0 rne, 1 rz, 2 ru, 3 rd, 4 rs), FTZ, SAT, and the 24 random bits of rs (R163–R166). -/
structure Rnd where
  mode : Nat := 0
  ftz : Bool := false
  sat : Bool := false
  rand : Nat := 0
  deriving DecidableEq, Repr

/-- The number of binary digits of a number. -/
def bitLen (n : Nat) : Nat := if n = 0 then 0 else Nat.log2 n + 1

/-- `m * 2^e` scaled to exponent `q ≤ e`. -/
def shiftTo (m : Nat) (e q : Int) : Nat := m * 2 ^ (e - q).toNat

/-- Whether the discarded part of a magnitude rounds up (R163, R165): `rem` of `2^sh`, `sticky` when the exact value is above what is
represented. -/
def roundUp (mode rand : Nat) (neg odd : Bool) (rem sh : Nat) (sticky : Bool) : Bool :=
  let inexact := rem != 0 || sticky
  match mode with
  | 0 => 2 ^ sh < 2 * rem || (2 * rem == 2 ^ sh && (sticky || odd))
  | 1 => false
  | 2 => inexact && !neg
  | 3 => inexact && neg
  | _ => inexact && 2 ^ 24 ≤ rem * 2 ^ 24 / 2 ^ sh + rand

/-- Round the magnitude `m * 2^e` (plus less than one unit when `sticky`) to the precision of a format with its subnormal spacing and no
upper limit (R163): a significand and an exponent. -/
def roundMag (f : Fmt) (mode rand : Nat) (neg : Bool) (m : Nat) (e : Int) (sticky : Bool) : Nat × Int :=
  let q := max (e + (bitLen m : Int) - ((f.fw : Int) + 1)) f.emin
  if q ≤ e then (shiftTo m e q, q)
  else
    let sh := (q - e).toNat
    let lo := m / 2 ^ sh
    let rem := m % 2 ^ sh
    (if roundUp mode rand neg (lo % 2 = 1) rem sh sticky then lo + 1 else lo, q)

/-- Encode a rounded magnitude (R164, R166): overflow by mode and sign, saturation, flush. -/
def encodeMag (f : Fmt) (r : Rnd) (neg : Bool) (m : Nat) (q : Int) : Nat :=
  -- bring a carry out of the significand back into it
  let (m, q) := if m = 2 ^ (f.fw + 1) then (2 ^ f.fw, q + 1) else (m, q)
  if m < 2 ^ f.fw then (if r.ftz then f.zero neg else f.zero neg + m)
  else
    let ex := q + f.fw + f.bias
    let mag := (ex.toNat) * 2 ^ f.fw + (m - 2 ^ f.fw)
    if (f.maxBits : Nat) < mag then
      if r.sat || r.mode = 1 || (r.mode = 2 && neg) || (r.mode = 3 && !neg) then f.zero neg + f.maxBits
      else f.infBits neg
    else f.zero neg + mag

/-- Round and encode the exact value `n * 2^e`, with the sign an exact zero takes (R161–R166). -/
def finish (f : Fmt) (r : Rnd) (zeroNeg : Bool) (n : Int) (e : Int) (sticky : Bool := false) : Nat :=
  if n = 0 then f.zero zeroNeg
  else
    let neg := n < 0
    let (m, q) := roundMag f r.mode r.rand neg n.natAbs e sticky
    encodeMag f r neg m q

/-- A value as an exact dyadic number; infinities and NaNs count as zero here. -/
def Val.num : Val → Int × Int
  | .fin neg m e => (if neg then -(m : Int) else m, e)
  | _ => (0, 0)

def Val.neg : Val → Bool
  | .nan s _ | .inf s | .fin s _ _ => s

def Val.isNan : Val → Bool
  | .nan .. => true
  | _ => false

def Val.isInf : Val → Bool
  | .inf _ => true
  | _ => false

def Val.isZero : Val → Bool
  | .fin _ 0 _ => true
  | _ => false

/-- The sum of two dyadic numbers. -/
def dyAdd (a b : Int × Int) : Int × Int :=
  let e := min a.2 b.2
  (a.1 * 2 ^ (a.2 - e).toNat + b.1 * 2 ^ (b.2 - e).toNat, e)

def dyMul (a b : Int × Int) : Int × Int := (a.1 * b.1, a.2 + b.2)

/-- Comparison of dyadic numbers. -/
def dyLt (a b : Int × Int) : Bool := (dyAdd a (-b.1, b.2)).1 < 0

/-- Flush a subnormal source to a zero of its sign (R162). -/
def Fmt.flush (f : Fmt) (ftz : Bool) (bits : Nat) : Nat :=
  let b := bits % 2 ^ f.width
  if ftz && b / 2 ^ f.fw % 2 ^ f.ew == 0 then f.zero (f.signBit ≤ b) else b

/-- A NaN operand as a result: its quiet bit set (R159, R160). -/
def Fmt.quiet (f : Fmt) (bits : Nat) : Nat :=
  let b := bits % 2 ^ f.width
  match f.kind with
  | .ieee => if b / 2 ^ (f.fw - 1) % 2 = 1 then b else b + 2 ^ (f.fw - 1)
  | _ => b

/-- The first NaN among the sources, quieted (R160). -/
def Fmt.firstNan (f : Fmt) (l : List Nat) : Option Nat := (l.find? fun b => (f.decode b).isNan).map f.quiet

/-- The sign of an exact zero sum (R161). -/
def zeroSum (mode : Nat) (allNeg anyNeg : Bool) : Bool := if allNeg then true else mode = 3 && anyNeg

/-- The sum of two values in a format (R160, R161). -/
def addVals (f : Fmt) (r : Rnd) (x y : Val) : Nat :=
  match x, y with
  | .inf s, .inf t => if s = t then (if r.sat then f.zero s + f.maxBits else f.infBits s) else f.defaultNan
  | .inf s, _ => if r.sat then f.zero s + f.maxBits else f.infBits s
  | _, .inf s => if r.sat then f.zero s + f.maxBits else f.infBits s
  | _, _ =>
    let s := dyAdd x.num y.num
    finish f r (if x.isZero && y.isZero then zeroSum r.mode (x.neg && y.neg) (x.neg || y.neg) else r.mode = 3) s.1 s.2

/-- A product as an exact value; an invalid product is a NaN (R160). -/
def mulVal (x y : Val) : Val :=
  match x, y with
  | .nan .., _ => .nan false 0
  | _, .nan .. => .nan false 0
  | .inf s, .inf t => .inf (s != t)
  | .inf s, .fin t m _ => if m = 0 then .nan false 0 else .inf (s != t)
  | .fin s m _, .inf t => if m = 0 then .nan false 0 else .inf (s != t)
  | .fin s m e, .fin t n d => .fin (s != t) (m * n) (e + d)

/-- Encode an exact value: a product, or a converted number. -/
def encodeVal (f : Fmt) (r : Rnd) : Val → Nat
  | .nan .. => f.defaultNan
  | .inf s => if r.sat then f.zero s + f.maxBits else f.infBits s
  | .fin s m e => finish f r s (if s then -(m : Int) else m) e

/-- a + b (R182). -/
def fpAdd (f : Fmt) (r : Rnd) (a b : Nat) : Nat :=
  let a := f.flush r.ftz a
  let b := f.flush r.ftz b
  match f.firstNan [a, b] with
  | some n => n
  | none => addVals f r (f.decode a) (f.decode b)

/-- The bits with the sign inverted. -/
def Fmt.negate (f : Fmt) (b : Nat) : Nat := if f.signBit ≤ b % 2 ^ f.width then b % 2 ^ f.width - f.signBit else b % 2 ^ f.width + f.signBit

/-- a - b (R182): a NaN b keeps its own sign. -/
def fpSub (f : Fmt) (r : Rnd) (a b : Nat) : Nat :=
  let a := f.flush r.ftz a
  let b := f.flush r.ftz b
  match f.firstNan [a, b] with
  | some n => n
  | none => addVals f r (f.decode a) (f.decode (f.negate b))

/-- a * b (R182). -/
def fpMul (f : Fmt) (r : Rnd) (a b : Nat) : Nat :=
  let a := f.flush r.ftz a
  let b := f.flush r.ftz b
  match f.firstNan [a, b] with
  | some n => n
  | none => encodeVal f r (mulVal (f.decode a) (f.decode b))

/-- a * b + c, or c - a * b, rounded once (R182). -/
def fpFma (f : Fmt) (r : Rnd) (negProd : Bool) (a b c : Nat) : Nat :=
  let a := f.flush r.ftz a
  let b := f.flush r.ftz b
  let c := f.flush r.ftz c
  match f.firstNan [a, b, c] with
  | some n => n
  | none =>
    match mulVal (f.decode a) (f.decode b) with
    | .nan .. => f.defaultNan
    | .inf s => addVals f r (.inf (s != negProd)) (f.decode c)
    | .fin s m e => addVals f r (.fin (s != negProd) m e) (f.decode c)

/-- A key that orders non-NaN values with -0 below +0 (R161). -/
def Fmt.orderKey (f : Fmt) (b : Nat) : Int :=
  let b := b % 2 ^ f.width
  if f.signBit ≤ b then -((b - f.signBit : Nat) : Int) - 1 else (b : Int)

/-- The lesser or greater of two values (R183). -/
def fpMinMax (f : Fmt) (ftz isMax : Bool) (a b : Nat) : Nat :=
  let a := f.flush ftz a
  let b := f.flush ftz b
  if (f.decode a).isNan || (f.decode b).isNan then f.defaultNan
  else if (f.orderKey a < f.orderKey b) != isMax then a else b

/-- The comparisons of R184, by code: eq ne lt le gt ge ord uno. -/
def fpCmp (f : Fmt) (ftz : Bool) (cc : Nat) (a b : Nat) : Bool :=
  let a := f.flush ftz a
  let b := f.flush ftz b
  let x := f.decode a
  let y := f.decode b
  let un := x.isNan || y.isNan
  let key := fun (v : Val) (k : Nat) => if v.isZero then (0 : Int) else f.orderKey k
  let ka := key x a
  let kb := key y b
  match cc with
  | 0 => !un && ka == kb
  | 1 => un || ka != kb
  | 2 => !un && ka < kb
  | 3 => !un && ka ≤ kb
  | 4 => !un && kb < ka
  | 5 => !un && kb ≤ ka
  | 6 => !un
  | _ => un

/-- The class bit of R185. -/
def fpClass (f : Fmt) (bits : Nat) : Nat :=
  match f.decode bits with
  | .inf s => if s then 0 else 7
  | .nan _ fr => if f.kind = .ieee && fr < 2 ^ (f.fw - 1) then 8 else 9
  | .fin s m _ => if m = 0 then (if s then 3 else 4) else if m < 2 ^ f.fw then (if s then 2 else 5) else (if s then 1 else 6)

/-- The exact sum of a list of values rounded once; NaN when a term is NaN or both infinities occur; an exact zero is -0 when every term is
-0 (R171, R172), or as R161 gives in mode rd when some term is nonzero or -0 (R112). -/
def fpSum (f : Fmt) (r : Rnd) (l : List Val) : Nat :=
  if l.any Val.isNan || (l.any (fun v => v.isInf && v.neg) && l.any (fun v => v.isInf && !v.neg)) then f.defaultNan
  else match l.find? Val.isInf with
    | some v => if r.sat then f.zero v.neg + f.maxBits else f.infBits v.neg
    | none =>
      let s := l.foldl (fun acc v => dyAdd acc v.num) (0, 0)
      let allNegZero := l != [] && l.all fun v => v.isZero && v.neg
      let rd := r.mode == 3 && l.any fun v => !v.isZero || v.neg
      finish f r (allNegZero || rd) s.1 s.2

/-! ## Division and roots -/

/-- The integer square root, by `n` rounds of Newton from above. -/
def isqrtLoop : Nat → Nat → Nat → Nat
  | 0, _, x => x
  | n + 1, v, x =>
    let y := (x + v / x) / 2
    if y < x then isqrtLoop n v y else x

def isqrt (v : Nat) : Nat := if v = 0 then 0 else isqrtLoop (bitLen v + 4) v (2 ^ ((bitLen v + 1) / 2))

/-- a / b (R191). -/
def fpDiv (f : Fmt) (r : Rnd) (a b : Nat) : Nat :=
  let a := f.flush r.ftz a
  let b := f.flush r.ftz b
  match f.firstNan [a, b] with
  | some n => n
  | none =>
    match f.decode a, f.decode b with
    | .inf s, .inf _ => let _ := s; f.defaultNan
    | .inf s, y => if r.sat then f.zero (s != y.neg) + f.maxBits else f.infBits (s != y.neg)
    | x, .inf t => f.zero (x.neg != t)
    | .fin s m e, .fin t n d =>
      if n = 0 then (if m = 0 then f.defaultNan else if r.sat then f.zero (s != t) + f.maxBits else f.infBits (s != t))
      else if m = 0 then f.zero (s != t)
      else
        let k := f.fw + 4 + bitLen n
        let q := m * 2 ^ k / n
        finish f r (s != t) (if s != t then -(q : Int) else q) (e - d - k) (m * 2 ^ k % n != 0)
    | _, _ => f.defaultNan

/-- √a (R191). -/
def fpSqrt (f : Fmt) (r : Rnd) (a : Nat) : Nat :=
  let a := f.flush r.ftz a
  match f.firstNan [a] with
  | some n => n
  | none =>
    match f.decode a with
    | .inf s => if s then f.defaultNan else if r.sat then f.maxBits else f.infBits false
    | .fin s m e =>
      if m = 0 then f.zero s
      else if s then f.defaultNan
      else
        let k := 2 * f.fw + 8 + (if (e - (2 * f.fw + 8 : Nat)) % 2 = 0 then 0 else 1)
        let v := m * 2 ^ k
        let q := isqrt v
        finish f r false q ((e - k) / 2) (q * q != v)
    | .nan .. => f.defaultNan

/-- 1 / √a, correctly rounded (R191, R390). -/
def fpRsqrt (f : Fmt) (r : Rnd) (a : Nat) : Nat :=
  let a := f.flush r.ftz a
  match f.firstNan [a] with
  | some n => n
  | none =>
    match f.decode a with
    | .inf s => if s then f.defaultNan else f.zero false
    | .fin s m e =>
      if m = 0 then f.infBits s
      else if s then f.defaultNan
      else
        let (m, e) := if e % 2 = 0 then (m, e) else (2 * m, e - 1)
        let k := bitLen m + f.fw + 8
        let q := isqrt (2 ^ (2 * k) / m)
        finish f r false q (-(e / 2) - k) (q * q * m != 2 ^ (2 * k))
    | .nan .. => f.defaultNan

/-! ## The transcendental functions of R191, in fixed point with 256 fraction bits

Each lower bound differs from the exact value by less than 2^-200 of it, and no FP32 input of these functions lies that close to a
rounding boundary, so rounding the bound with its sticky bit set is the correctly rounded result (log entry 30). -/

def fixP : Nat := 256
def fixOne : Nat := 2 ^ fixP

/-- Σ_{k=1..n} 1/(k 2^k) = ln 2. -/
def lnTwoLoop : Nat → Nat
  | 0 => 0
  | n + 1 => lnTwoLoop n + fixOne / ((n + 1) * 2 ^ (n + 1))
def lnTwo : Nat := lnTwoLoop 256

/-- arctan(1/x) by its series: `n` terms left, from power `p` and odd divisor `d`. -/
def arctanLoop (x : Nat) : Nat → Nat → Nat → Int → Int
  | 0, _, _, acc => acc
  | n + 1, p, d, acc => arctanLoop x n (p / (x * x)) (d + 2) (if d % 4 = 1 then acc + ((p / d : Nat) : Int) else acc - ((p / d : Nat) : Int))

/-- π by Machin's formula. -/
def fixPi : Nat := (4 * (4 * arctanLoop 5 120 (fixOne / 5) 1 0 - arctanLoop 239 40 (fixOne / 239) 1 0)).toNat

/-- Σ t^k / k! from term `term` on. -/
def expLoop (t : Nat) : Nat → Nat → Nat → Nat → Nat
  | 0, _, _, acc => acc
  | n + 1, k, term, acc => expLoop t n (k + 1) (term * t / fixOne / k) (acc + term)

/-- 2^x for a fraction `x` in [0, 1) of `fixP` bits. -/
def fixExp2 (x : Nat) : Nat := expLoop (x * lnTwo / fixOne) 80 1 fixOne 0

/-- 2^a in FP32 (R191). -/
def fpExp2 (r : Rnd) (a : Nat) : Nat :=
  let f := Fmt.f32
  let a := f.flush r.ftz a
  match f.firstNan [a] with
  | some n => n
  | none =>
    match f.decode a with
    | .inf s => if s then 0 else f.infBits false
    | .fin s m e =>
      if 8 < e + (bitLen m : Int) then (if s then finish f r false 1 (-400) else f.infBits false)
      else
        let n : Int := if s then -(m : Int) else m
        let den := (-e).toNat
        let whole := if 0 ≤ e then n * 2 ^ e.toNat else n / (2 ^ den : Nat)
        let frac := if 0 ≤ e then 0 else (n % (2 ^ den : Nat)).toNat
        if frac = 0 then finish f r false 1 whole
        else finish f r false (fixExp2 (frac * fixOne / 2 ^ den)) (whole - fixP) true
    | .nan .. => f.defaultNan

/-- 2 artanh(z) = ln((1+z)/(1-z)) for a fraction `z`, by its series. -/
def artanhLoop (z2 : Nat) : Nat → Nat → Nat → Nat → Nat
  | 0, _, _, acc => acc
  | n + 1, p, d, acc => artanhLoop z2 n (p * z2 / fixOne) (d + 2) (acc + p / d)

/-- log₂ a in FP32 (R191): a = y 2^k with y in [1, 2). -/
def fpLog2 (r : Rnd) (a : Nat) : Nat :=
  let f := Fmt.f32
  let a := f.flush r.ftz a
  match f.firstNan [a] with
  | some n => n
  | none =>
    match f.decode a with
    | .inf s => if s then f.defaultNan else f.infBits false
    | .fin s m e =>
      if m = 0 then f.infBits true
      else if s then f.defaultNan
      else
        let k := e + (bitLen m : Int) - 1
        let one := 2 ^ (bitLen m - 1)
        if m = one then finish f r false k 0
        else
          let z := (m - one) * fixOne / (m + one)
          let ln := 2 * artanhLoop (z * z / fixOne) 170 z 1 0
          finish f r false (k * fixOne + (ln * fixOne / lnTwo : Nat)) (-(fixP : Int)) true
    | .nan .. => f.defaultNan

/-- Alternating or plain Taylor sum Σ (±1)^k x2^k / (k0+2k)!-style: term divides by (d)(d+1) each step. -/
def evenLoop (alt : Bool) (x2 : Nat) : Nat → Nat → Int → Int → Int
  | 0, _, _, acc => acc
  | n + 1, d, term, acc =>
    let next := term * x2 / fixOne / ((d * (d + 1) : Nat) : Int)
    evenLoop alt x2 n (d + 2) (if alt then -next else next) (acc + term)

/-- sin(π x) / x for a dyadic x = m 2^e in (0, 1/2]: a fixed-point number. -/
def sinRatio (m : Nat) (e : Int) : Nat :=
  let x := if 0 ≤ e then m * 2 ^ e.toNat * fixOne else m * fixOne / 2 ^ (-e).toNat
  let y := x * fixPi / fixOne
  (evenLoop true (y * y / fixOne) 50 2 (fixPi : Int) 0).toNat

/-- sin(π x), x = m 2^e in [0, 1/2], rounded with the given sign. -/
def sinPiSmall (r : Rnd) (neg : Bool) (m : Nat) (e : Int) : Nat :=
  let v : Int := m * sinRatio m e
  finish Fmt.f32 r neg (if neg then -v else v) (e - fixP) true

/-- sin(π a) or cos(π a) in FP32 (R191). -/
def fpTrigPi (r : Rnd) (cosine : Bool) (a : Nat) : Nat :=
  let f := Fmt.f32
  let a := f.flush r.ftz a
  match f.firstNan [a] with
  | some n => n
  | none =>
    match f.decode a with
    | .inf _ => f.defaultNan
    | .fin s m e =>
      -- |a| = i/2 + t with t in [0, 1/2), all over 2^d
      let d := (-e).toNat
      let n := if 0 ≤ e then m * 2 ^ e.toNat else m
      let half := 2 ^ d          -- 1/2 in units of 2^-(d+1)
      let q := 2 * n / half % 4
      let t := 2 * n % half      -- in units of 2^-(d+1)
      let quad := if cosine then (q + 1) % 4 else q
      let neg := (quad / 2 = 1) != (s && !cosine)
      if quad % 2 = 0 then
        if t = 0 then (if cosine then 0 else f.zero s)
        else sinPiSmall r neg t (-(d : Int) - 1)
      else if t = 0 then finish f r false (if neg then -1 else 1) 0
      else sinPiSmall r neg (half - t) (-(d : Int) - 1)
    | .nan .. => f.defaultNan

/-- tanh a in FP32 (R191). -/
def fpTanh (r : Rnd) (a : Nat) : Nat :=
  let f := Fmt.f32
  let a := f.flush r.ftz a
  match f.firstNan [a] with
  | some n => n
  | none =>
    match f.decode a with
    | .inf s => finish f r false (if s then -1 else 1) 0
    | .fin s m e =>
      if m = 0 then f.zero s
      else if !dyLt ((m : Int), e) (10, 0) then finish f r false (if s then -1 else 1) 0
      else
        let x := if 0 ≤ e then m * 2 ^ e.toNat * fixOne else m * fixOne / 2 ^ (-e).toNat
        let x2 := x * x / fixOne
        let sh := (evenLoop false x2 90 2 (fixOne : Int) 0).toNat
        let ch := (evenLoop false x2 90 1 (fixOne : Int) 0).toNat
        let v : Int := m * (sh * fixOne / ch)
        finish f r s (if s then -v else v) (e - fixP) true
    | .nan .. => f.defaultNan

/-! ## Conversions (R165, R167, R168, R190) -/

/-- The stochastic generator of R165: 24 bits from a seed and an element index. -/
def stochastic (seed : Word) (midx lane elem : Nat) : Nat :=
  let idx := (midx * 96 + lane) * 8 + elem
  let z := seed + 0x9E3779B97F4A7C15#64 * BitVec.ofNat 64 (idx + 1)
  let z := (z ^^^ (z >>> 30)) * 0xBF58476D1CE4E5B9#64
  let z := (z ^^^ (z >>> 27)) * 0x94D049BB133111EB#64
  let z := z ^^^ (z >>> 31)
  (z >>> 40).toNat

/-- A NaN moved to another format (R160). -/
def convertNan (src dst : Fmt) (neg : Bool) (frac : Nat) : Nat :=
  match dst.kind with
  | .e2m1 => 0
  | .e4m3 => if neg then 0xFF else 0x7F
  | .ieee =>
    let moved := if src.fw ≤ dst.fw then frac * 2 ^ (dst.fw - src.fw) else frac / 2 ^ (src.fw - dst.fw)
    dst.quiet (dst.zero neg + dst.emaxField * 2 ^ dst.fw + moved)

/-- Floating-point to floating-point (R167). -/
def convertFF (src dst : Fmt) (r : Rnd) (bits : Nat) : Nat :=
  match src.decode (src.flush r.ftz bits) with
  | .nan neg fr => convertNan src dst neg fr
  | v => encodeVal dst r v

/-- The range of an integer format. -/
def intRange (w : Nat) (signed : Bool) : Int × Int := if signed then (-(2 ^ (w - 1) : Nat), (2 ^ (w - 1) : Nat) - 1) else (0, (2 ^ w : Nat) - 1)

/-- Clamp to a range. -/
def clampTo (rg : Int × Int) (n : Int) : Int := if n < rg.1 then rg.1 else if rg.2 < n then rg.2 else n

/-- The low `w` bits of an integer. -/
def wrapBits (w : Nat) (n : Int) : Nat := (n % (2 ^ w : Nat)).toNat

/-- The value of `w` bits read as signed or unsigned. -/
def intOfBits (w : Nat) (signed : Bool) (b : Nat) : Int :=
  let b := b % 2 ^ w
  if signed && 2 ^ (w - 1) ≤ b then (b : Int) - (2 ^ w : Nat) else b

/-- An exact dyadic number rounded to an integer. -/
def roundInt (mode rand : Nat) (n : Int) (e : Int) : Int :=
  if 0 ≤ e then n * 2 ^ e.toNat
  else
    let sh := (-e).toNat
    let m := n.natAbs
    let lo := m / 2 ^ sh
    let v := if roundUp mode rand (n < 0) (lo % 2 = 1) (m % 2 ^ sh) sh false then lo + 1 else lo
    if n < 0 then -(v : Int) else v

/-- Floating-point to integer (R168). -/
def convertFI (src : Fmt) (w : Nat) (signed : Bool) (r : Rnd) (bits : Nat) : Nat :=
  let rg := intRange w signed
  let indef := if signed then 2 ^ (w - 1) else 2 ^ w - 1
  match src.decode (src.flush r.ftz bits) with
  | .nan .. => if r.sat then 0 else indef
  | .inf s => if r.sat then wrapBits w (if s then rg.1 else rg.2) else indef
  | .fin s m e =>
    let t := roundInt r.mode r.rand (if s then -(m : Int) else m) e
    if r.sat then wrapBits w (clampTo rg t) else if t < rg.1 || rg.2 < t then indef else wrapBits w t

/-- Integer to floating-point (R168). -/
def convertIF (w : Nat) (signed : Bool) (dst : Fmt) (r : Rnd) (bits : Nat) : Nat := finish dst r false (intOfBits w signed bits) 0

/-- Integer to integer (R168). -/
def convertII (ws : Nat) (ss : Bool) (wd : Nat) (sd : Bool) (sat : Bool) (bits : Nat) : Nat :=
  let v := intOfBits ws ss bits
  wrapBits wd (if sat then clampTo (intRange wd sd) v else v)

/-- A short immediate as a floating-point operand (R34). -/
def immFloat (f : Fmt) (n : BitVec 8) : Nat := finish f { sat := true } false n.toInt 0

end Sys2Proof.Machine
end

