-- ==== Sys2Proof/Config.lean ====
section
/-!
DEFINITION. What the spec leaves to the implementation or to the outside, as constants with no body: free values (R266, R285, R496)
and the contents firmware loads (R7). Nothing in Lean can evaluate one, so a statement holds whatever they are.
-/

namespace Sys2Proof

/-- The reference cycles that pass before step number `t` (R496: the spec gives no figure). Free value. -/
opaque Config.cyclesAt (t : Nat) : Nat

/-- The bytes an SPDM answer carries (R480 names the messages and the measurements and gives no format). Free value of the step, the request,
the boot-step record as it stood at start step 2 and whether firmware image B runs. -/
opaque Config.spdmAnswer (t : Nat) (code : BitVec 8) (body record : List Byte) (imageB : Bool) : List Byte

/-- A byte of a copy's destination that lies in its own source range (R275: before or after). Free choice. -/
opaque Config.overlapPick (t i : Nat) : Bool

/-- The direction in which a copy with overlapping ranges writes its bytes (R275). Free choice. -/
opaque Config.overlapDown (t : Nat) : Bool

/-- Byte `i` of a tile another agent writes while a matrix form waits to read it (R219: old or new). Free choice. -/
opaque Config.tilePick (t i : Nat) : Bool

/-- An output element of a convolution job that ends by an error (R244: old or final). Free choice. -/
opaque Config.convPick (t i : Nat) : Bool

/-- The ADDR of an invalid-parameter entry of a rule that names none (R348, R433). Free value. -/
opaque Config.noAddr (t : Nat) : BitVec 56

/-- A cached line of a core that does not lie in the part of its near store a block takes (R246). Free choice. -/
opaque Config.lineStays (t line : Nat) : Bool

/-- What port `port` adds in step `t` to its counts of flits sent, corrected and uncorrected FEC codewords (R426). Free values. -/
opaque Config.portTraffic (t port : Nat) : Nat × Nat × Nat

/-- Fields firmware loads into a port at start-up and the spec gives no value for: PEER of port `p` and its lanes' first states (R426). -/
opaque Config.portPeer (p : Nat) : BitVec 14

/-- Lanes of port `p` that are connected at start-up (R424). Free value. -/
opaque Config.portLanes (p : Nat) : BitVec 8

/-- Connected lanes of port `p` that do not meet the GOOD condition at the start made in step `t` and stay RETIRED (R424). Free value. -/
opaque Config.portRetired (t p : Nat) : BitVec 8

/-- A translation of a core, or a pointer of its walk cache, outlives a fill made in step `t` (R329: the caches are small). Free choice. -/
opaque Config.leafStays (t va : Nat) : Bool

/-- Part `i` of an access in flight had been translated when its translations changed in step `t` (R327, R330). Free choice. -/
opaque Config.translated (t i : Nat) : Bool

/-- A fetch in step `t` takes a line of code from memory although its core holds an older copy (R46). Free choice. -/
opaque Config.codeFresh (t line : Nat) : Bool

/-- An HBM4E line of the memory-side cache reads with an uncorrectable error in step `t` (R338). Free choice. -/
opaque Config.lineErr (t line : Nat) : Bool

/-- The digest of MAP, RBASE and SPAN that chunks carry (R429). Free value. -/
opaque Config.groupDigest (fields : BitVec 1039) : BitVec 64

/-- FLIM and MMIN of die `d` as firmware loads them (R478). Free values. -/
opaque Config.powerLimits (d : Nat) : BitVec 12 × BitVec 12

end Sys2Proof
end

