-- ==== Sys2Proof/Machine/Table.lean ====
section
/-!
DEFINITION. Plain tables: lists of (key, value) pairs read with a default, written in place or appended.
-/

namespace Sys2Proof.Machine

/-- A table keyed by natural numbers. -/
abbrev Tab (α : Type) := List (Nat × α)

/-- The value at a key, or the default. -/
def tget {α : Type} (d : α) : Tab α → Nat → α
  | [], _ => d
  | (k, v) :: t, n => if k = n then v else tget d t n

/-- The value at a key, if there is one. -/
def tfind {α : Type} : Tab α → Nat → Option α
  | [], _ => none
  | (k, v) :: t, n => if k = n then some v else tfind t n

/-- Write the value at a key. -/
def tset {α : Type} : Tab α → Nat → α → Tab α
  | [], n, v => [(n, v)]
  | (k, w) :: t, n, v => if k = n then (n, v) :: t else (k, w) :: tset t n v

/-- Remove a key. -/
def tdel {α : Type} (t : Tab α) (n : Nat) : Tab α := t.filter fun p => p.1 != n

/-- Change the value at a key, if there is one. -/
def tmod {α : Type} (t : Tab α) (n : Nat) (f : α → α) : Tab α := t.map fun p => if p.1 = n then (p.1, f p.2) else p

/-- Replace the element at a position; out of range changes nothing. -/
def lset {α : Type} : List α → Nat → α → List α
  | [], _, _ => []
  | _ :: t, 0, v => v :: t
  | a :: t, n + 1, v => a :: lset t n v

/-- A key above every key of the table. -/
def tfresh {α : Type} (t : Tab α) : Nat := t.foldl (fun m p => max m (p.1 + 1)) 0

end Sys2Proof.Machine
end

