-- ==== Sys2Proof/Machine/Memory.lean ====
section
/-!
DEFINITION. Memory as a canonical list of (address, byte) pairs: addresses strictly rising, no listed byte equal to what an unlisted
address reads as (zero: log entry 1). Wider accesses are built from bytes here, little-endian (R5), and nowhere else.
-/

namespace Sys2Proof.Machine

/-- A memory: listed bytes in rising address order. -/
abbrev Memory := List Host.Cell

namespace Memory

/-- What an unlisted address reads as. DESIGN CHOICE (log entry 1). -/
def unlisted : Byte := 0

/-- The byte at an address. -/
def read : Memory → Nat → Byte
  | [], _ => unlisted
  | (a, b) :: t, n => if a = n then b else if n < a then unlisted else read t n

/-- Write the byte at an address, keeping the canonical form. -/
def write : Memory → Nat → Byte → Memory
  | [], n, v => if v = unlisted then [] else [(n, v)]
  | (a, b) :: t, n, v =>
    if n < a then (if v = unlisted then (a, b) :: t else (n, v) :: (a, b) :: t)
    else if a = n then (if v = unlisted then t else (n, v) :: t)
    else (a, b) :: write t n v

/-- Every listed address is above `lo` and rising, and no listed byte is the unlisted value. -/
def wfFrom (lo : Nat) : Memory → Bool
  | [] => true
  | (a, b) :: t => lo ≤ a && b != unlisted && wfFrom (a + 1) t

/-- The canonical form. -/
def wf (m : Memory) : Bool := wfFrom 0 m

/-- `n` bytes from an address. -/
def readBytes (m : Memory) (a : Nat) : Nat → List Byte
  | 0 => []
  | n + 1 => m.read a :: readBytes m (a + 1) n

/-- Store bytes from an address on. -/
def writeBytes (m : Memory) (a : Nat) : List Byte → Memory
  | [] => m
  | b :: t => writeBytes (m.write a b) (a + 1) t

/-- Bring a range of addresses to the unlisted value. -/
def clear (m : Memory) (lo hi : Nat) : Memory := m.filter fun c => !(lo ≤ c.1 && c.1 < hi)

end Memory

end Sys2Proof.Machine
end

