-- ==== Sys2Proof/Machine/State.lean ====
section
/-!
DEFINITION. The state of the whole device as plain data, the reasons a step can stop, and the state after reset.
Every field names the rule that gives it. Fields marked MODEL'S OWN are not the spec's.
-/

namespace Sys2Proof.Machine

/-- Why the machine stops with a fault. There is no such reason: every trap, fault, error and failed start that the spec names has an effect the
spec gives (R396–R404, R457, R460, R473, R474), so it is a next state, and R323 keeps every program from an address that R318 does not back. -/
inductive Fault where
  deriving DecidableEq, Repr

/-- Why a step is refused. -/
inductive Refusal where
  /-- An arm of `exec` that has no meaning yet. Safe. -/
  | notModelled (mnemonic : String)
  /-- `exec` was asked to run a Jarja instruction when the current agent is no warp or foreman that can run it, or a Seam instruction
  when the current agent is no running Seam instance. No step of the machine raises it. Safe. -/
  | noAgent
  deriving DecidableEq, Repr

/-! ## Warps -/

/-- One member bank (R99, R101, R412). -/
structure Bank where
  num : Nat := 0                 -- 16w + h (R99)
  midx : BitVec 16 := 0          -- MIDX (R99)
  key : BitVec 32 := 0           -- regroup key (R110)
  s : Tab Word := []             -- s128–s255; em0–em2 are s253–s255 (R59)
  v : Tab (List Lane32) := []    -- private vector registers, 96 lanes each
  g : Tab LaneMask := []         -- g0–g6
  jmMask : Tab LaneMask := []    -- jm0–jm7 MASK (R65)
  jmArr : Tab LaneMask := []     -- jm0–jm7 ARR (R65)
  prLo : LaneMask := 0           -- pr bit 0 of each lane (R69)
  prHi : LaneMask := 0           -- pr bit 1 of each lane
  exited : LaneMask := 0         -- R60
  dead : LaneMask := 0           -- R60
  emptyS : BitVec 256 := 0       -- bit n: sn (n ≥ 128) is empty (R125)
  emptyV : BitVec 256 := 0       -- bit n: vn is empty
  bad : Tab LaneMask := []       -- lanes of a vector register that read uncorrectable (R449, R466)
  badG : BitVec 8 := 0           -- gn reads uncorrectable (R449, R466)
  deriving DecidableEq, Repr

/-- The kind of a split-table entry (R61). -/
inductive PathKind where
  | deferred | parkedJm (k : Nat) | parkedMeld
  deriving DecidableEq, Repr

/-- A split-table entry (R61, R411). -/
structure PathEntry where
  kind : PathKind
  pc : Word
  masks : List LaneMask
  age : Nat
  deriving DecidableEq, Repr

/-- A loop counter (R118, R138). -/
structure Loop where
  active : Bool := false
  index : BitVec 32 := 0
  count : BitVec 32 := 0
  start : Word := 0
  stop : Word := 0
  mark : Nat := 0    -- the age the split table had reached when this iteration began (R139)
  deriving DecidableEq, Repr

/-- A stream register (R131–R133). -/
structure Stream where
  bound : Bool := false
  entry : BitVec 512 := 0
  pos : Nat := 0
  exhausted : Bool := false
  ready : Nat := 0   -- prefetched elements present from element p on
  ahead : List (Nat × List Byte) := []   -- their virtual addresses and the bytes they were fetched with (R133)
  deriving DecidableEq, Repr

/-- An exact accumulator: value and status (R194, R195). -/
structure Exact where
  v : BitVec 4352 := 0
  st : BitVec 64 := 0
  deriving DecidableEq, Repr

/-- The open melded block (R70, R78). -/
structure Meld where
  opened : Bool := false
  start : Word := 0
  n : Nat := 0
  serial : Bool := false
  cur : Nat := 0                   -- the path that runs, in melded mode
  since : Nat := 0                 -- the place in program order at which it opened (R74)
  entry : List LaneMask := []      -- entry masks, by slot
  arrived : List LaneMask := []    -- lanes that have reached `unmeld`, by slot
  deriving DecidableEq, Repr

/-- The operation of an unordered atomic (R270). -/
inductive AtomOp where
  | add | min (signed : Bool) | max (signed : Bool) | and | or | xor | exch | cas | fadd
  deriving DecidableEq, Repr

/-- What an operand-log entry accesses (R402). -/
inductive Access where
  | load (size : Nat) (signed : Bool)     -- into vector registers
  | sload (size : Nat)                    -- into a scalar register
  | store (size : Nat)
  | zero                                  -- `stz`
  | atomic (op : AtomOp) (size : Nat)
  | ordered (dbl : Bool)
  | release                               -- `ordrel`
  | exactLoad | exactStore | windowLoad | windowStore | exactAdd | exactMerge
  | tableLoad | tableStore                -- `ptld`, `ptst`
  | bind (st : Nat)                       -- `stbind`
  | scales (rec1 : Nat)                   -- `scld`
  | monitor                               -- `mon`
  | copy (id : Nat)
  | command                               -- `cvgo`, `seamgo`, `qpush`
  deriving DecidableEq, Repr

/-- A cached translation (R329). -/
structure Leaf where
  core : Nat          -- whose translation caches hold it
  ctx : Nat
  va : Nat            -- page base
  size : Nat
  leaf : Word
  deriving DecidableEq, Repr

/-- A pointer entry of a core's walk cache (R329): the table of level `lvl` for a range of addresses. -/
structure Pointer where
  core : Nat
  ctx : Nat
  lvl : Nat           -- 1–3
  index : Nat         -- the address divided by what the table spans
  table : Nat
  deriving DecidableEq, Repr

/-- The translations and segment descriptors an access in flight keeps when they change (R327, R330). -/
structure View where
  segs : List (BitVec 256)
  leaves : List Leaf
  deriving DecidableEq, Repr

/-- One lane's part of an access held in the operand log (R402). Lane 96 stands for a part that belongs to no lane. -/
structure Part where
  slot : Nat
  lane : Nat
  addr : Word                                   -- formed address or near-scratch offset
  data : BitVec 128 := 0                        -- store data or operands; the value returned to a load
  ok : Bool := false                            -- complete
  fault : Option (Nat × Nat × Word) := none     -- class, cause, reported address of a pending fault
  inRec : Bool := false                         -- its fault is the one the trap record names
  retry : Bool := false                         -- it is being reissued with its fault still pending (R403)
  dead : Bool := false                          -- a dead lane that would take part (R210, R271)
  was : Option View := none                     -- the translations it was given, where they have been changed since (R327, R330)
  deriving DecidableEq, Repr

/-- An operand-log entry (R402, R413). -/
structure LogEntry where
  idx : Nat                    -- 0–7
  word : BitVec 96             -- the instruction word (R413)
  pc : Word
  seq : Nat                    -- place in program order (R305)
  sup : Bool                   -- issued in supervisor mode (R396)
  acc : Access
  near : Bool := false         -- near scratch (R268)
  attr : BitVec 12 := 0        -- memory attributes (R29)
  shared : Bool := false       -- one fetch for all members (R106)
  tx : Bool := false           -- a transactional access (R309)
  held : Bool := false         -- an output of a leading warp not yet compared (R453)
  parts : List Part
  tag : Nat := 0               -- batch number or ordered-atomic n (R413)
  path : Nat := 0              -- the path it was issued on in an open melded block; 4 outside one (R74)
  dst : Nat := 0               -- destination register after translation (R71)
  blob : List Byte := []       -- the bytes a uniform form stores, or has read
  full : Bool := false         -- a contribution of it found its slice full (R271)
  deriving DecidableEq, Repr

/-- An ordering point of a warp that is not complete yet (R117, R298(f), R300, R308): what it waits for of the accesses before it, and what
of those after it waits for it. -/
structure Fence where
  pos : Nat                    -- its place in program order: accesses from it on come after it
  readsOnly : Bool := false    -- it covers the reads before it, not the writes
  writesOnly : Bool := false   -- it holds the writes after it, not the reads
  acq : Bool := false          -- an acquire side
  rel : Bool := false          -- a release side
  sc : Bool := false           -- FENCE.sc
  scope : Nat := 0
  sup : Bool := false          -- set in supervisor mode
  deriving DecidableEq, Repr

/-- A closed batch (R278). -/
structure Batch where
  num : Nat
  copies : List Nat
  adv : Option (Nat × Word) := none
  deriving DecidableEq, Repr

/-- A copy context (R274, R278). -/
structure CopyCtx where
  opened : List Nat := []      -- copies of the open batch
  lastClosed : Nat := 0
  lastDone : Nat := 0
  closed : List Batch := []
  deriving DecidableEq, Repr

/-- The address monitor (R416, R417). -/
structure Monitor where
  armed : Bool := false
  line : Word := 0                    -- virtual line address
  pline : Nat := 0                    -- physical line
  rline : Nat := 0                    -- the line as the warp reads it: its replica's, on a replicated page
  midx : BitVec 16 := 0               -- the member index it was translated with (R325)
  written : Bool := false
  deadline : Option Nat := none       -- of an `mwait` in progress, in cycles of the die
  deriving DecidableEq, Repr

/-- An open transaction (R309–R312). -/
structure Tx where
  em : List (List Word)               -- em0–em2 of every slot at `txbegin`
  mm : BitVec 16
  target : Word
  reads : List Nat := []              -- physical lines
  writes : List Nat := []
  vlines : List (Nat × Word) := []    -- physical line and the virtual line it was reached by
  buf : Memory := []                  -- transactional writes; listed where `held`
  held : List Nat := []               -- byte addresses written
  since : Nat := 0                    -- issue order of `txbegin` (R310)
  pending : Option (Nat × Nat × Word) := none   -- cause, code and TXADDR of an abort to take
  deriving DecidableEq, Repr

/-- The state of a warp slot (R357). -/
inductive SlotState where
  | free | out | act | wait | save
  deriving DecidableEq, Repr

/-- What a warp waits for (R357, R396). -/
inductive Wait where
  | register | fragment | log | meld | engine | record | room | batch | barrier | timeline | queue | monitor | rendezvous | registers | memory
  | transaction | pair | group
  deriving DecidableEq, Repr

/-- A rendezvous a warp has reached (R115, R123, R356). -/
inductive Rdv where
  | regrp (keys : List (BitVec 32)) | regs (n : Nat) | advance
  deriving DecidableEq, Repr

/-- A trap to be taken (R397, R401). -/
structure TrapReq where
  cls : Nat
  cause : Nat := 0
  slot : Nat := 0
  lane : Nat := 0
  detail : Word := 0
  deriving DecidableEq, Repr

/-- One entry of a pair's load-value queue or output buffer (R452, R453): what the leader received or would send at one instruction. -/
structure PairEntry where
  n : Nat                      -- instructions the leader had retired before it
  pc : Word
  seq : Nat := 0               -- its operand-log entry, by seq
  parts : List Part := []
  blob : List Byte := []
  vals : List Word := []       -- the destination's value, by member slot
  next : Word := 0             -- the pc after it
  deriving DecidableEq, Repr

/-- What a launch fixes for a warp (R344–R346). -/
structure LaunchInfo where
  b : Nat := 0              -- linear block index
  pos : Nat := 0            -- position in the block
  crew : Nat := 1           -- warps per crew
  cgs : Nat := 1
  nblk : Nat := 0
  queue : Nat := 0
  mfld : Nat := 0
  widths : List Nat := []   -- W1–W5
  foff : Nat := 0           -- far-scratch offset, in MiB (R253)
  fscr : Nat := 0
  phased : Bool := false
  deriving DecidableEq, Repr

/-- A warp, or a foreman when `foreman` is set (its f0–f63 are `s` 0–63: R33, R361). -/
structure Warp where
  ctx : Nat := 0
  core : Nat := 0
  slot : Nat := 0
  blk : Nat := 0
  foreman : Bool := false
  info : LaunchInfo := {}
  st : SlotState := .free
  waitOn : Option Wait := none
  waitSince : Nat := 0                 -- the cycle of its die at which it last changed state (R359)
  foreign : Bool := false              -- the matrix form at the pc waits for a producer other than matrix work (R220)
  pc : Word := 0
  sup : Bool := false                  -- supervisor mode (R400, R418)
  ended : Bool := false
  h : Nat := 64                        -- held vector registers (R120)
  hmax : Nat := 64
  p : Nat := 1                         -- pod size
  common : BitVec 4 := 0               -- declared common groups (R101)
  mm : BitVec 16 := 1                  -- R100
  banks : List Bank := []              -- by slot: the member map (R99)
  s : Tab Word := []                   -- s0–s127, or f0–f63
  v : Tab (List Lane32) := []          -- common v0–v31
  emptyS : BitVec 256 := 0
  emptyV : BitVec 256 := 0
  emptyX : BitVec 8 := 0               -- xa0–xa7
  bad : Tab LaneMask := []             -- uncorrectable lanes of common vector registers (R449)
  jmBusy : BitVec 8 := 0               -- R65
  paths : List PathEntry := []         -- split table and spill area, oldest first (R62)
  nextAge : Nat := 0
  tables : List (List (BitVec 8)) := []   -- path tables (R69)
  meld : Meld := {}
  lc : List Loop := []
  loopBuf : Tab (BitVec 96) := []      -- loop buffer: word at each pc (R141)
  loopDue : Bool := false              -- MODEL'S OWN: a loop back is to be considered (R139)
  st8 : List Stream := []
  xa : List Exact := []
  wstat : Word := 0                    -- R459
  pathev : Word := 0                   -- R64
  txstat : Word := 0                   -- R315
  txaddr : Word := 0
  tx : Option Tx := none
  log : List LogEntry := []            -- R402
  clearing : List (Nat × Nat) := []    -- member slots and fragments of its `mmclr` instructions still in the engine (R218)
  fences : List Fence := []            -- ordering points not complete yet, oldest first (R308)
  trapDue : Option (TrapReq × Word × Bool) := none   -- a trap decided at its instruction, until its delivery: its pc, and whether at a loop back (R400)
  nextSeq : Nat := 0
  record : List Word := []             -- trap record, sel 0–15 (R401)
  recMm : BitVec 16 := 0               -- mm saved at delivery (R400)
  recEntry : Option Nat := none        -- log entry of the delivered lane-level fault, by seq
  loopTrap : Bool := false             -- the delivered trap is charged to a loop back (R140)
  mon : Monitor := {}
  copies : CopyCtx := {}
  ordN : Nat := 0                      -- ordered atomics issued (R271)
  checkKilled : Tab LaneMask := []     -- by slot: lanes a check on the instruction at the pc has killed (R197, R454)
  inject : Option (Nat × Nat × Nat × Nat) := none   -- KIND, BIT, LANE, SLOT (R466)
  canPc : Option Word := none          -- canary: the watched pc, once a transfer from it has begun an iteration (R79)
  canSig : List (Nat × Nat × LaneMask × List Nat) := []             -- register writes and stores of the iteration in progress
  canPrev : Option (List (Nat × Nat × LaneMask × List Nat)) := none   -- those of the previous iteration
  canCount : Nat := 0
  rdv : Option Rdv := none
  rdvN : Nat := 0                      -- rendezvous passed (R115)
  reqOrder : Nat := 0                  -- when its register request was issued (R122)
  tail : Option Nat := none            -- slot of its tailing warp (R451)
  lead : Option Nat := none            -- slot of its leader, in a tailing warp
  lvq : List PairEntry := []           -- load-value queue, at most 64 (R452)
  outq : List PairEntry := []          -- output buffer, at most 32 (R453)
  retired : Nat := 0                   -- instructions retired
  seen : Bool := false                 -- a lane of it has been killed (R460 DWARPS)
  saving : Option Bool := none         -- being saved: forced or not (R407)
  lcSaved : List Loop := []            -- loop state at entry to a handler (R140)
  restored : Bool := false             -- restored while waiting in `mwait` (R417)
  deriving DecidableEq, Repr

/-- What a copy moves (R290). -/
inductive CopyKind where
  | cpy | cpyf (pat : Word) | cpyt (recd : BitVec 512) | cpyg (rowb : Nat) (rows : List (Nat × Word)) | halo (recd : BitVec 1024)
  deriving DecidableEq, Repr

/-- A copy in flight (R274–R276, R290). -/
structure Copy where
  owner : Nat                     -- key of the warp or foreman
  ctx : Nat
  blk : Nat
  midx : Nat := 0
  kind : CopyKind
  dst : Word := 0
  src : Word := 0
  dns : Bool := false
  sns : Bool := false
  len : Nat := 0
  bar : Option Nat := none
  total : Nat := 0                -- bytes signalled
  entry : Nat := 0                -- seq of its operand-log entry
  slot : Nat := 0                 -- member slot it was issued for
  sup : Bool := false             -- issued in supervisor mode (R396)
  cache : Nat := 0                -- its CACHE field (R259, R274)
  since : Nat := 0                -- the step that issued it
  done : List Nat := []           -- the pieces of its rows that have been moved: its completion mask (R276)
  was : Option View := none       -- the translations it was given, where they have been changed since (R327, R330)
  deriving DecidableEq, Repr

/-- A saved warp or foreman: its position in the block (16–31 for a tailing warp, 32 for the foreman), what it held, and its held copies
(R277, R411). -/
structure SavedWarp where
  pos : Nat
  warp : Warp
  copies : Tab Copy := []
  deriving DecidableEq, Repr

/-! ## Blocks, nodes, contexts -/

/-- The error record a command accumulates for its completion entry (R460, R462). -/
structure ErrRec where
  cls : Nat := 0
  detail : Nat := 0
  unit : Nat := 0
  addr : Nat := 0
  nerr : Nat := 0
  dlanes : Nat := 0
  dwarps : Nat := 0
  kmidx : Nat := 0
  klane : Nat := 0
  kv : Bool := false
  deriving DecidableEq, Repr

inductive BlockState where
  | resident | saved | ended
  deriving DecidableEq, Repr

/-- A block of a kernel launch (R246, R253, R356, R361, R405, R414). -/
structure Block where
  node : Nat
  ctx : Nat
  b : Nat
  core : Nat
  st : BlockState := .resident
  placed : Nat := 0                      -- placement order (R354)
  wpb : Nat := 1
  ns : Nat := 0                          -- near-scratch bytes
  near : Memory := []                    -- near scratch (R247)
  nearPoison : List Nat := []            -- poisoned 8-byte words (R449)
  srec : Nat := 0
  scales : Memory := []                  -- scale records, 512 bytes each (R226)
  scalePend : List Nat := []             -- records pending from `scld` (R229)
  fscr : Nat := 0
  foff : Nat := 0
  farSave : List Byte := []
  ph : Word := 0                         -- R356
  preq : Word := 0                       -- R405
  deadline : Nat := 0                    -- in cycles of its die (R2, R407)
  dq : List (Word × Nat) := []           -- decision queue (R362)
  mbox : List Word := []                 -- mailbox (R362)
  hasForeman : Bool := false
  frames : List (Nat × Nat) := []        -- saved warps: position and pool unit (R410, R414)
  savedWarps : List SavedWarp := []      -- what the frames hold (log entry 6)
  bunit : Nat := 0
  room : List (Nat × Nat) := []          -- first unit and length of what the pool keeps for its frames while it is to yield (R405, R410)
  aborted : Bool := false
  jobs : Nat := 0                        -- convolution jobs not yet completed (R242)
  deriving DecidableEq, Repr

inductive NodeState where
  | wait | ready | run | drain | done
  deriving DecidableEq, Repr

/-- A node of the ready pool (R349–R352). -/
structure Node where
  ctx : Nat
  queue : Nat
  hdr : BitVec 1024
  st : NodeState := .wait
  bad : Option (Nat × Nat × Nat) := none    -- class, DETAIL, ADDR of an invalid or faulting node
  deps : List Nat := []
  tiles : List (Int × Int × Bool) := []     -- lo, hi, has write access (R347)
  nblk : Nat := 0
  next : Nat := 0                           -- next unplaced block
  args : List Word := []
  live : List Nat := []                     -- blocks placed and not ended
  busy : Bool := false                      -- its job or task is running
  err : ErrRec := {}
  readyAt : Nat := 0
  passedAt : Option Nat := none             -- the cycle it was first passed over (R354)
  reserved : List Nat := []                 -- cores reserved for it (R354)
  counted : Bool := false                   -- an indirect count has been read (R351)
  tileDep : Bool := false                   -- it had a tile dependence (R351)
  deriving DecidableEq, Repr

/-- A group-table entry (R427, R428). -/
structure Group where
  valid : Bool := false
  img : BitVec 1536 := 0
  own : Nat := 0
  seq : Word := 0
  deriving DecidableEq, Repr

/-- A job of a convolution engine (R236, R242). -/
structure ConvJob where
  ctx : Nat
  core : Nat
  blk : Option Nat          -- the submitting block, for `cvgo`
  place : Nat               -- near-scratch offset, or virtual address of a node's record
  node : Option Nat := none
  fields : BitVec 768
  started : Bool := false
  outs : List (Nat × List Byte) := []   -- computed outputs: virtual address and bytes
  err : ErrRec := {}
  deriving DecidableEq, Repr

/-- A context slot (R339, R418, R471, R472). -/
structure Context where
  res : Bool := false
  busy : Bool := false
  err : Bool := false
  fresh : Bool := false            -- CTXCTL.NEW
  held : Bool := false             -- the slot holds a context
  desc : BitVec 512 := 0           -- descriptor area
  ttroot : Word := 0
  segtab : Word := 0
  segs : List (BitVec 256) := []   -- segment descriptors in use (R327)
  tlblk : Word := 0
  qtab : Word := 0
  qmax : Nat := 0
  prio : Nat := 0
  quant : Nat := 0
  trapvec : Word := 0
  ydl : Word := 20000
  svpool : Word := 0
  ways : Word := 0                 -- ROOFCFG
  groups : Tab Group := []
  gimg : Tab (BitVec 1536) := []   -- group window images (R471)
  gstat : Tab Word := []
  gload : List Nat := []           -- group loads waiting (R471)
  pending : List (Nat × Nat) := [] -- pending queues and the cycle each began to wait (R341, R343)
  adv : List (Nat × Word × Option Nat) := []   -- timeline advances on their way, with the warp that made each by `tlsig` (R285, R293)
  jobs : List ConvJob := []        -- withdrawn convolution jobs (R415)
  units : List Nat := []           -- pool units in use (R410)
  mapped : List Nat := []          -- queues that were mapped when the context left residency (R342)
  deriving DecidableEq, Repr

inductive QSlotState where
  | free | fetch | stall
  deriving DecidableEq, Repr

/-- A hardware queue slot (R342). -/
structure QSlot where
  st : QSlotState := .free
  ctx : Nat := 0
  q : Nat := 0
  since : Nat := 0
  deriving DecidableEq, Repr

/-! ## Seam cores -/

inductive TaskState where
  | queued | probe | run | done
  deriving DecidableEq, Repr

/-- A Seam task (R370–R372). -/
structure SeamTask where
  ctx : Nat
  node : Option Nat := none
  rec1 : BitVec 1024
  st : TaskState := .queued
  held : List (Nat × Nat) := []             -- physical ranges of its held regions with mode write or read-write (R377, R378)
  fails : List (Nat × Nat × Nat × Nat) := []   -- instance index, CLASS, DETAIL, ADDR of each fault
  deriving DecidableEq, Repr

inductive InstState where
  | queued | running | saved | ended
  deriving DecidableEq, Repr

/-- A write of a Seam instance not yet performed (R381, R395): an element of a store, or of a reduction (`red`, the code of R386). -/
structure SeamWrite where
  group : Nat                 -- the instruction it belongs to
  pa : Nat
  leaf : Word                 -- of the page it lies in
  stride : Nat := 0           -- distance between replicas of a replicated page (R303)
  data : List Byte
  red : Option Nat := none
  deriving DecidableEq, Repr

/-- A Seam instance (R371–R374, R382). -/
structure SeamInst where
  task : Nat
  idx : Nat
  core : Nat
  ctx : Nat
  st : InstState := .queued
  fresh : Bool := true                 -- has not run yet
  x : Tab Word := []
  z : Tab (List Lane32) := []
  k : Tab (BitVec 16) := []
  pc : Word := 0
  order : Nat := 0                     -- queueing order (R373)
  writes : List SeamWrite := []        -- oldest first
  group : Nat := 0                     -- instructions that have written
  waitFrom : Option Nat := none        -- the cycle a `tlwt` began to wait
  deriving DecidableEq, Repr

/-! ## Engines -/

/-- One operation queued on a matrix engine: a member of a matrix form or `mmclr` with its captured operands (R217, R219). -/
structure MxOp where
  slot : Nat                        -- warp slot
  op : Nat                          -- opcode
  x : BitVec 18                     -- its X field
  dst : Nat                         -- first destination register, after translation
  mem : Nat                         -- member slot
  lanes : LaneMask
  a : List (List Lane32) := []      -- A registers
  tile : List Byte := []            -- the B tile, as it stood at issue
  boff : Option Nat := none         -- where it lies in near scratch, until it has been read (R219)
  shared : Bool := false            -- one read feeds every member (R221)
  draw : Nat := 0                   -- which instruction it belongs to: the step that issued it
  t : Lane32 := 0                   -- tA * tB (R170)
  scA : List Byte := []
  scB : List Byte := []
  deriving DecidableEq, Repr

/-- A chunk of what a participant contributes to a collective (R429, R430): its group rank, the chunk's place among those of the contribution,
the digest it carries and whether it matches here, the elements that carry poison (R439), and the data. -/
structure Chunk where
  src : Nat
  idx : Nat := 0
  digest : BitVec 64 := 0
  ok : Bool := true
  cancel : Option Bool := none      -- it is a cancel, for a fault there or not (R433, R439)
  poison : List Nat := []
  data : List Byte := []
  deriving DecidableEq, Repr

/-- A running collective (R430, R434). -/
structure Coll where
  ctx : Nat
  core : Nat
  g : Nat
  seq : Nat
  blk : Word                          -- virtual address of its parameter block
  params : BitVec 768                 -- bytes 0–95
  group : Group
  engine : Nat := 0
  sent : Bool := false                -- its input has been read and sent
  own : Chunk := { src := 0 }         -- what was read
  chunks : List Chunk := []           -- the chunks received
  put : List (Nat × Nat) := []        -- combining steps that have been dispatched: group rank and chunk (R436)
  last : Nat := 0                     -- the cycle a chunk last arrived, or its start (R439)
  done : Bool := false                -- it will write nothing more
  err : ErrRec := {}
  deriving DecidableEq, Repr

/-- An entry of an ordered queue (R271). -/
structure OrdEntry where
  key : List Nat      -- B, w, n, MIDX
  value : Word
  blk : Nat
  deriving DecidableEq, Repr

/-- The ordered queue of one target (R271). -/
structure OrdQueue where
  dbl : Bool          -- FP64
  node : Nat          -- the launch
  entries : List OrdEntry := []
  dead : Bool := false
  abort : Bool := false
  deriving DecidableEq, Repr

/-- A memory-side cache sector's metadata (R335). -/
structure Sector where
  tag : Nat := 0
  v : Bool := false
  d : Bool := false
  deriving DecidableEq, Repr

/-- One lane of a fabric port (R424, R426). -/
structure PortLane where
  margin : Nat := 0
  st : Nat := 0          -- 0 GOOD, 1 MARGINAL, 2 RETIRED, 3 UNUSED
  serr : Nat := 0
  trans : Nat := 0
  goodRun : Nat := 0     -- consecutive good intervals (R424)
  deriving DecidableEq, Repr

/-- A fabric port (R422–R426). -/
structure Port where
  width : Nat := 0
  peer : Nat := 0
  wchg : Nat := 0
  retraining : Option Nat := none   -- the cycle it began to retrain (R425)
  lanes : List PortLane := []
  sent : Nat := 0              -- flits sent (sel 1)
  received : Nat := 0          -- flits received (sel 2)
  replayed : Nat := 0          -- replays (sel 3)
  replays : Nat := 0           -- replays of the flit in progress
  fixed : Nat := 0             -- corrected FEC codewords (sel 4)
  unfixed : Nat := 0           -- uncorrected FEC codewords (sel 5)
  deriving DecidableEq, Repr

/-- The boot-step record (R474). -/
structure BootRec where
  seq : Nat := 0
  step : Nat := 0
  pend : Bool := false
  fail : List Nat := [0, 0, 0, 0, 0, 0, 0]
  rank : Nat := 0
  size : Nat := 0
  map : Tab (BitVec 17) := []
  route : Tab (BitVec 24) := []
  deriving DecidableEq, Repr

/-- A write on its way to one replica of a replicated page (R303). -/
structure Replica where
  owner : Nat          -- key of the writing warp
  die : Nat
  addr : Nat           -- physical address in that replica
  data : List Byte
  deriving DecidableEq, Repr

/-- What the outside sees: MODEL'S OWN output list, newest last. -/
inductive HostOut where
  | data (b : List Byte) (bad : Bool)           -- data returned to the host, and whether any of it is poisoned
  | chunk (rank key seq : Nat) (c : Chunk)      -- a chunk of a contribution sent to a peer
  | cancel (rank key seq : Nat) (fault : Bool)  -- a cancel sent to a peer, for a fault here or not
  | msix                                        -- MSI-X vector 0 raised
  | spdm (b : List Byte)                        -- an SPDM answer
  deriving DecidableEq, Repr

/-- An error of a storage cell, which the outside brings (R449). A warp is named by its key; a slot names a member's own copy, none a common one. -/
inductive Upset where
  | corrected (n copy k : Nat)                                  -- `k` corrections of counter `n`
  | vector (key : Nat) (slot : Option Nat) (reg lane : Nat)     -- a lane word of a vector register
  | scalar (key : Nat) (slot : Option Nat)                      -- a register of scalar class, met by the read of an instruction
  | accumulator (key n : Nat)
  | l1 (core line : Nat)
  | loopBuffer (key pc : Nat)
  | translation (core va : Nat)
  | near (blk a : Nat)
  | line (pa : Nat)
  deriving DecidableEq, Repr

/-- MODEL'S OWN: what the next step does. -/
inductive Turn where
  | run (a : Agent)
  | event (e : Instr)
  | upset (u : Upset)
  deriving DecidableEq, Repr

/-- The state of the device. -/
structure State where
  tick : Nat := 0                          -- MODEL'S OWN: draws free values (log entry 2)
  agenda : List Turn := []                 -- MODEL'S OWN (log entry 3)
  cur : Option Agent := none               -- MODEL'S OWN: the agent that runs (log entry 3)
  cycle : Nat := 0                         -- reference cycles since device reset (R2, R421)
  dieTime : List Nat := [0, 0, 0, 0, 0, 0, 0, 0]   -- by compute die: tenths of its own cycles since then (R2, R479)
  mem : Memory := []                       -- physical memory (R318)
  poison : List Nat := []                  -- poisoned 128-byte lines (R256)
  warps : Tab Warp := []                   -- by core * 32 + slot; the foreman at slot 31
  blocks : Tab Block := []
  nodes : Tab Node := []                   -- the ready pool
  ctxs : Tab Context := []
  qslots : Tab QSlot := []
  mappings : List Bool := []               -- device's last mappings: made under step 2 (R343)
  tasks : Tab SeamTask := []
  insts : Tab SeamInst := []
  conv : Tab (List ConvJob) := []          -- by cluster: running or waiting jobs, oldest first
  mx : Tab (List MxOp) := []               -- by core, oldest first
  mxLatch : Tab (Nat × Nat × Nat) := []    -- by core: warp slot, A base and element width held in the latch (R223)
  copies : Tab Copy := []
  colls : Tab Coll := []
  early : List (Nat × Nat × Nat × Chunk) := []   -- early chunks: ctx, entry, seq (R429)
  collAsk : List Nat := []      -- keys of the warps whose `coll` waits for a collective context, in issue order (R434)
  ways : Tab Nat := []                     -- W of each bank (R251)
  roofst : Tab Word := []                  -- ROOFST of each core (R255)
  wires : Tab Nat := []                    -- failed wires, by core * 32 + group (R256)
  spares : Tab Nat := []                   -- spare banks used, by die (R256)
  l1 : Tab (Tab (List Byte)) := []         -- L1 lines of each core (R248)
  fused : List Nat := []                   -- fused clusters (R249)
  ordq : Tab OrdQueue := []                -- by physical target (R271)
  tlb : List Leaf := []                    -- R329, oldest first
  walks : List Pointer := []               -- walk caches (R329), oldest first
  code : Tab (Tab (List Byte)) := []       -- by core and launch: lines of code as it last fetched them (R46)
  dirty : List (Nat × Nat) := []           -- core and line: what the cache ways of its bank may hold newer than memory (R254)
  mscSize : Nat := 0                       -- MSCCFG.SIZE (R333)
  sectors : Tab Sector := []               -- by HBM4E address of the sector (R335)
  replicas : List Replica := []            -- writes on their way to a replica (R303)
  hostHeld : List Nat := []                -- device lines the host may hold (R468)
  hostOwned : List Nat := []               -- host lines granted to the device (R468)
  counters : Tab Word := []                -- error counters, by n * 2048 + copy (R464)
  devlog : Tab (List Byte) := []           -- R473
  wptr : Nat := 0
  rptr : Nat := 0
  lost : Nat := 0
  rank : Nat := 0                          -- fabric rank (R422)
  route : Tab (BitVec 24) := []
  ports : Tab Port := []
  boot : BootRec := {}                     -- R474: the copy in use
  bootOld : BootRec := {}                  -- the other copy
  measured : BootRec := {}                 -- R480: the record as it stood at start step 2
  devState : Nat := 0                      -- DEVST (R476)
  devStep : Nat := 0
  devFail : Nat := 0
  devAlt : BitVec 7 := 0
  powered : Bool := true
  rails : Tab Word := []                   -- telemetry words (R477)
  pcap : Tab Word := []                    -- R478
  rdyOrder : Nat := 0                      -- placement and issue order counter
  hostOut : List HostOut := []
  deriving DecidableEq, Repr

/-- The machine right after device reset: nothing is resident, memory lists nothing, and every register the spec gives a reset value
holds it; the rest are named in INVENTORY.md with their log entries. -/
def State.reset : State :=
  { pcap := (List.range 8).map fun d => (d, 300#64) }

end Sys2Proof.Machine
end

