-- ==== Sys2Proof/Machine/Exact.lean ====
section
/-!
DEFINITION. Exact accumulators as values (R194–R198, R204–R209): adding a term, merging, rounding, the cell and the window form.
-/

namespace Sys2Proof.Machine

namespace Exact

/-- A flag of ST set. -/
def flag (a : Exact) (i : Nat) : Exact := { a with st := a.st ||| (1#64 <<< i) }

/-- COUNT (R195). -/
def count (a : Exact) : Nat := (a.st.extractLsb' 16 48).toNat

/-- COUNT raised, saturating at 2^48 − 1. -/
def addCount (a : Exact) (n : Nat) : Exact :=
  { a with st := (a.st &&& 0xFFFF#64) ||| BitVec.ofNat 64 (2 ^ 16 * min (2 ^ 48 - 1) (a.count + n)) }

/-- Add a term (R197): a value, or a product that is invalid when it is a NaN. -/
def addTerm (a : Exact) (x : Val) : Exact :=
  let b : Exact := match x with
    | .nan .. => a.flag 0
    | .inf false => a.flag 1
    | .inf true => a.flag 2
    | .fin neg m e =>
      let t := BitVec.ofNat 4352 (m * 2 ^ (e + 2152).toNat)
      { a with v := if neg then a.v - t else a.v + t }
  b.addCount 1

/-- Merge (R204). -/
def merge (d s : Exact) : Exact :=
  { v := d.v + s.v, st := (d.st &&& 0xFFFFFFFFFFFF0000#64) ||| ((d.st ||| s.st) &&& 0xF#64) : Exact }.addCount s.count

/-- One rounding to a format (R205; R432 for FP32). -/
def roundTo (a : Exact) (f : Fmt) (mode : Nat) : Nat :=
  let nan := a.st.getLsbD 0
  let pinf := a.st.getLsbD 1
  let ninf := a.st.getLsbD 2
  if nan || (pinf && ninf) then f.defaultNan
  else if pinf then f.infBits false
  else if ninf then f.infBits true
  else finish f { mode := mode } false a.v.toInt (-2152)

/-- One rounding to FP64 (R205). -/
def round (a : Exact) (mode : Nat) : Nat := a.roundTo Fmt.f64 mode

/-- The 576-byte cell (R196). -/
def toCell (a : Exact) : List Byte := leBytes 544 a.v.toNat ++ leBytes 8 (a.st &&& 0xFFFFFFFFFFFF000F#64).toNat ++ List.replicate 24 0

/-- A cell read back; ST[15:4] read as zero (R196). -/
def ofCell (b : List Byte) : Exact :=
  { v := BitVec.ofNat 4352 (leNat (b.take 544)), st := BitVec.ofNat 64 (leNat ((b.drop 544).take 8)) &&& 0xFFFFFFFFFFFF000F#64 }

/-- Word `j` of V (R194). -/
def word (a : Exact) (j : Nat) : Word := a.v.extractLsb' (64 * j) 64

/-- The fill of the window form: all ones below zero (R208). -/
def fill (neg : Bool) : Word := if neg then ~~~0#64 else 0#64

/-- The present words of the window form (R208). -/
def present (a : Exact) : List Nat :=
  let neg := a.v.getLsbD 4351
  let differ := (List.range 68).filter fun j => a.word j != fill neg
  match differ.getLast? with
  | none => []
  | some t => (List.range 68).filter fun j => j = t || (j < t && a.word j != 0)

/-- The window (R208). -/
def toWindow (a : Exact) : List Byte :=
  let ps := a.present
  let pres := ps.foldl (fun m j => m + 2 ^ j) 0 + (if a.v.getLsbD 4351 then 2 ^ 127 else 0)
  leBytes 8 (a.st &&& 0xFFFFFFFFFFFF000F#64).toNat ++ leBytes 16 pres ++ ps.flatMap fun j => leBytes 8 (a.word j).toNat

/-- The words a window's PRES names. -/
def windowWords (pres : Nat) : List Nat := (List.range 68).filter fun j => pres / 2 ^ j % 2 = 1

/-- The length of a window from its first 24 bytes. -/
def windowLen (b : List Byte) : Nat := 24 + 8 * (windowWords (leNat ((b.drop 8).take 16))).length

/-- A window read back; `none` where R209 raises the exact-format trap. -/
def ofWindow (b : List Byte) : Option Exact :=
  let pres := leNat ((b.drop 8).take 16)
  let neg := 2 ^ 127 ≤ pres
  let ws := windowWords pres
  let val := fun (i : Nat) => BitVec.ofNat 64 (leNat ((b.drop (24 + 8 * i)).take 8))
  let top := ws.getLast?
  if pres % 2 ^ 127 / 2 ^ 68 != 0 then none
  else if (match top with
    | some _ => val (ws.length - 1) == fill neg
    | none => false) then none
  else
    let get := fun (j : Nat) =>
      match ws.idxOf? j with
      | some i => val i
      | none => match top with
        | some t => if j < t then 0#64 else fill neg
        | none => fill neg
    let v := (List.range 68).foldl (fun (n : Nat) j => n + (get j).toNat * 2 ^ (64 * j)) 0
    some { v := BitVec.ofNat 4352 v, st := BitVec.ofNat 64 (leNat (b.take 8)) &&& 0xFFFFFFFFFFFF000F#64 }

end Exact

end Sys2Proof.Machine
end

