-- ==== Sys2Proof/Machine/Warp.lean ====
section
/-!
DEFINITION. One warp by itself: member banks and the execution mask (R58–R60), guards (R40), reading and writing registers through the
path tables (R71), the source modifier (R37), common and private results (R103–R105), full and empty copies (R125–R127).
-/

namespace Sys2Proof.Machine

/-- How an instruction of a warp ends. -/
inductive WRes where
  | fall (w : Warp)          -- it retires; the pc moves to pc + 12
  | jump (w : Warp)          -- it retires and has set the pc itself
  | switch (w : Warp)        -- its path ends, and another path has been selected (R63)
  | trap (w : Warp) (t : TrapReq)   -- a warp-level trap, decided before any effect (R396); `w` is the warp before it
  | done (w : Warp)          -- the warp is as given; nothing more is to be done
  | wait (r : Wait)          -- it waits and will be issued again
  | kill (w : Warp) (ks : List (Nat × LaneMask)) (cause : Nat) (retire : Bool)   -- lanes are killed by member slot (R457); then it retires, or is issued again
  | abort (cause code : Nat) (addr : Word)   -- it aborts the open transaction (R313–R316)
  deriving DecidableEq, Repr

/-! ## Banks and masks -/

namespace Bank

/-- The execution mask: em0–em2 (R59). -/
def em (b : Bank) : LaneMask :=
  (tget 0 b.s 255).extractLsb' 0 32 ++ (tget 0 b.s 254).extractLsb' 0 32 ++ (tget 0 b.s 253).extractLsb' 0 32

/-- Lanes neither exited nor dead (R60). -/
def live (b : Bank) : LaneMask := ~~~(b.exited ||| b.dead)

/-- Write one of em0–em2: the bit of an exited lane stays 0 (R59). -/
def setEmWord (b : Bank) (i : Nat) (v : Word) : Bank :=
  let ex := (b.exited.extractLsb' (32 * i) 32).setWidth 64
  { b with s := tset b.s (253 + i) (v &&& ~~~ex) }

/-- Set the mask, keeping bits [63:32] of em0–em2. -/
def setEm (b : Bank) (m : LaneMask) : Bank :=
  [0, 1, 2].foldl (fun b i =>
    let old := tget 0 b.s (253 + i)
    b.setEmWord i (old.extractLsb' 32 32 ++ m.extractLsb' (32 * i) 32)) b

/-- Write a private scalar register (R101); em0–em2 go through R59. -/
def setS (b : Bank) (n : Nat) (v : Word) : Bank :=
  if 253 ≤ n then b.setEmWord (n - 253) v else { b with s := tset b.s n v }

/-- Make lanes exited: their mask bits are cleared and held at zero (R59, R85). -/
def exit (b : Bank) (m : LaneMask) : Bank :=
  let b := { b with exited := b.exited ||| m }
  b.setEm (b.em &&& ~~~m)

/-- The path of a lane (R69). -/
def path (b : Bank) (l : Nat) : Nat := (if b.prLo.getLsbD l then 1 else 0) + (if b.prHi.getLsbD l then 2 else 0)

/-- The lanes on a path. -/
def onPath (b : Bank) (p : Nat) : LaneMask :=
  (if p % 2 = 1 then b.prLo else ~~~b.prLo) &&& (if p / 2 % 2 = 1 then b.prHi else ~~~b.prHi)

end Bank

namespace Warp

/-- The bank in a member slot (R99). -/
def bank (w : Warp) (m : Nat) : Bank := w.banks.getD m {}

def setBank (w : Warp) (m : Nat) (b : Bank) : Warp := { w with banks := lset w.banks m b }

/-- Every member slot (R99). -/
def slots (w : Warp) : List Nat := List.range w.p

/-- The active members, ascending (R100). -/
def active (w : Warp) : List Nat := w.slots.filter fun m => w.mm.getLsbD m

/-- Apply a change to the bank of each active member. -/
def eachActive (w : Warp) (f : Nat → Bank → Bank) : Warp :=
  w.active.foldl (fun w m => w.setBank m (f m (w.bank m))) w

/-- Apply a change to the bank of every slot. -/
def eachSlot (w : Warp) (f : Nat → Bank → Bank) : Warp :=
  w.slots.foldl (fun w m => w.setBank m (f m (w.bank m))) w

/-- g0–g7 of a member; g7 is always true (R32, R118). -/
def gmask (w : Warp) (m n : Nat) : LaneMask := if n = 7 then ~~~0#96 else tget 0 (w.bank m).g n

/-- The lanes whose guard holds (R40). -/
def guard (w : Warp) (h : Hdr) (m : Nat) : LaneMask :=
  let g := w.gmask m h.gp.toNat
  if h.gn then ~~~g else g

/-- The lanes of a member that take part (R40, R58, R60). -/
def part (w : Warp) (h : Hdr) (m : Nat) : LaneMask := (w.bank m).em &&& (w.bank m).live &&& w.guard h m

/-- Dead lanes that would take part if they were not dead (R197, R271), those a check on this very instruction has killed among them. -/
def deadPart (w : Warp) (h : Hdr) (m : Nat) : LaneMask :=
  (((w.bank m).em &&& (w.bank m).dead &&& ~~~(w.bank m).exited) ||| tget 0 w.checkKilled m) &&& w.guard h m

/-- The union of the taking-part lanes of the active members (R104). -/
def union (w : Warp) (h : Hdr) : LaneMask := w.active.foldl (fun u m => u ||| w.part h m) 0

/-- The lanes still live in em, in any member with its `mm` bit set or clear (R63). -/
def pathAlive (w : Warp) : Bool := w.slots.any fun m => ((w.bank m).em &&& (w.bank m).live) != 0

/-! ## Register numbers -/

/-- The pc lies in the open melded block: after `meld`, up to `unmeld` (R70, R71). A trap handler, and a path that has left the block,
run outside it. -/
def inBlock (w : Warp) : Bool :=
  w.meld.opened && w.meld.start.toNat < w.pc.toNat && w.pc.toNat ≤ w.meld.start.toNat + 12 * (w.meld.n + 1)

/-- The path the current lanes are on, inside a melded block (R70, R71). -/
def curPath (w : Warp) : Nat :=
  if !w.inBlock then 0
  else if !w.meld.serial then w.meld.cur
  else
    match w.slots.find? fun m => ((w.bank m).em &&& (w.bank m).live) != 0 with
    | none => 0
    | some m => (w.bank m).path ((((w.bank m).em &&& (w.bank m).live).toList).headD 0)

/-- A class 0 number through the path table inside a melded block (R71). -/
def xlat (w : Warp) (n : Nat) : Nat :=
  if w.inBlock && n < 32 then (((w.tables.getD w.curPath []).getD n (BitVec.ofNat 8 n))).toNat else n

/-- A common vector register (R101). -/
def commonV (w : Warp) (n : Nat) : Bool := n < 32 && w.common.getLsbD (n / 8)

/-- Whether a source operand is common (R103); class 0 numbers are translated first (R71). A predicate g0–g7 read as an operand is private
(g7 with them: log entry 75). -/
def common? (w : Warp) : Spec → Bool
  | .vec n => w.commonV (w.xlat n.toNat)
  | .scl n => n.toNat < 128
  | .spc n => 8 ≤ n.toNat
  | .imm _ => true

/-! ## Values -/

def vrow (w : Warp) (m n : Nat) : List Lane32 := if w.commonV n then tget [] w.v n else tget [] (w.bank m).v n

/-- One lane of a vector register of a member. -/
def vget (w : Warp) (m n l : Nat) : Lane32 := (w.vrow m n).getD l 0

/-- A scalar register as a member sees it (R101, R118). -/
def sget (w : Warp) (m n : Nat) : Word := if n < 128 then tget 0 w.s n else tget 0 (w.bank m).s n

/-- A row with the lanes of a mask replaced. -/
def mergeRow (row : List Lane32) (mask : LaneMask) (vals : List Lane32) : List Lane32 :=
  laneNumbers.map fun l => if mask.getLsbD l then vals.getD l 0 else row.getD l 0

/-- The canary's signature with one more register write or store, while an iteration is watched (R79): its kind and member, the register
or address, the lanes, the values. -/
def sigWith (w : Warp) (kind n : Nat) (mask : LaneMask) (vals : List Nat) : List (Nat × Nat × LaneMask × List Nat) :=
  if w.canPc.isSome then w.canSig ++ [(kind, n, mask, vals)] else w.canSig

/-- Write the lanes of a mask in one copy of a vector register; a written lane is correctable again (R449). -/
def vput (w : Warp) (m n : Nat) (mask : LaneMask) (vals : List Lane32) : Warp :=
  let sig := w.sigWith (16 + m) n mask (mask.toList.map fun l => (vals.getD l 0).toNat)
  if mask = 0 then w
  else if w.commonV n then
    { w with v := tset w.v n (mergeRow (tget [] w.v n) mask vals), bad := tmod w.bad n (fun x => x &&& ~~~mask), canSig := sig }
  else
    let b := w.bank m
    { w.setBank m { b with v := tset b.v n (mergeRow (tget [] b.v n) mask vals),
                           bad := tmod b.bad n (fun x => x &&& ~~~mask) } with canSig := sig }

/-- Write a scalar register: once when it is common, in the member's bank when it is private. -/
def sput (w : Warp) (m n : Nat) (v : Word) : Warp :=
  let sig := w.sigWith (32 + m) n 0 [v.toNat]
  if n < 128 then { w with s := tset w.s n v, canSig := sig } else { w.setBank m ((w.bank m).setS n v) with canSig := sig }

/-- Write predicate lanes of a member. -/
def gput (w : Warp) (m n : Nat) (mask vals : LaneMask) : Warp :=
  let b := w.bank m
  { w.setBank m { b with g := tset b.g n ((tget 0 b.g n &&& ~~~mask) ||| (vals &&& mask)), badG := if mask = 0 then b.badG else b.badG &&& ~~~(1#8 <<< n) } with
    canSig := w.sigWith (48 + m) n mask [(vals &&& mask).toNat] }

/-- Write an exact accumulator. -/
def xput (w : Warp) (n : Nat) (x : Exact) : Warp := { w with xa := lset w.xa n x, canSig := w.sigWith 64 n 0 [x.v.toNat, x.st.toNat] }

/-- Write `mm` (R100). -/
def mmput (w : Warp) (v : BitVec 16) : Warp := { w with mm := v, canSig := w.sigWith 65 0 0 [v.toNat] }

/-! ## The source modifier (R37) -/

/-- The lane a modifier reads for lane `l`. -/
def modLane (md : BitVec 12) (l : Nat) : Nat :=
  let s := segSize (md.extractLsb' 2 3).toNat
  let d := (md.extractLsb' 5 7).toNat
  let b := l - l % s
  match (md.extractLsb' 0 2).toNat with
  | 0 => l
  | 1 => b + (l - b + d) % s
  | 2 => l ^^^ d
  | _ => b + d

/-- One lane of register `n` through a modifier: zero from a dead lane. -/
def modGet (w : Warp) (m n : Nat) (md : BitVec 12) (l : Nat) : Lane32 :=
  let src := modLane md l
  if md != 0 && (w.bank m).dead.getLsbD src then 0 else w.vget m n src

/-- A modifier read a dead lane for some lane taking part (WSTAT.DSRC). -/
def modDead (w : Warp) (h : Hdr) (s : Src) : Bool :=
  match s.spec with
  | .vec _ => s.mod != 0 && w.active.any fun m => (w.part h m).toList.any fun l => (w.bank m).dead.getLsbD (modLane s.mod l)
  | _ => false

/-- Set WSTAT.DSRC when `c` holds (R459). -/
def dsrc (w : Warp) (c : Bool) : Warp := if c then { w with wstat := w.wstat ||| 2#64 } else w

/-- The 32-bit integer value of an operand for a lane of a member (R34, R37, R181, R265). -/
def int32 (w : Warp) (m : Nat) (s : Src) (l : Nat) : Lane32 :=
  match s.spec with
  | .vec n => w.modGet m (w.xlat n.toNat) s.mod l
  | .scl n => (w.sget m n.toNat).extractLsb' 0 32
  | .imm n => n.signExtend 32
  | .spc _ => 0

/-- The 64-bit integer value of an operand for a lane: a pair of vector registers, a scalar, or an immediate. -/
def int64 (w : Warp) (m : Nat) (s : Src) (l : Nat) : Word :=
  match s.spec with
  | .vec n =>
    let r := w.xlat n.toNat
    w.modGet m (r + 1) s.mod l ++ w.modGet m r s.mod l
  | .scl n => w.sget m n.toNat
  | .imm n => n.signExtend 64
  | .spc _ => 0

/-- The 64-bit value of a scalar operand for a member (R143). -/
def sval (w : Warp) (m : Nat) : Spec → Word
  | .scl n => w.sget m n.toNat
  | .imm n => n.signExtend 64
  | _ => 0

/-! ## Full and empty (R125–R127) -/

/-- A register copy that must be full. -/
inductive Reg where
  | v (n : Nat) | s (n : Nat) | x (k : Nat) | g (n : Nat) | st (k : Nat)
  deriving DecidableEq, Repr

/-- The copy a member sees is empty. A stream register is full when its next element is present; it is never empty for writing (R133, R134). -/
def isEmpty (w : Warp) (m : Nat) : Reg → Bool
  | .v n => if w.commonV n then w.emptyV.getLsbD n else (w.bank m).emptyV.getLsbD n
  | .s n => if n < 128 then w.emptyS.getLsbD n else (w.bank m).emptyS.getLsbD n
  | .x k => w.emptyX.getLsbD k
  | .g _ => false
  | .st k => let t := w.st8.getD k {}; t.bound && !t.entry.getLsbD 355 && !t.exhausted && t.ready = 0

/-- Set or clear one bit. -/
def putBit {n : Nat} (e : Bool) (x : BitVec n) (k : Nat) : BitVec n := if e then x ||| (1#n <<< k) else x &&& ~~~(1#n <<< k)

/-- Mark the copy a member sees empty or full. -/
def setEmpty (w : Warp) (m : Nat) (e : Bool) : Reg → Warp
  | .v n =>
    if w.commonV n then { w with emptyV := putBit e w.emptyV n }
    else w.setBank m { w.bank m with emptyV := putBit e (w.bank m).emptyV n }
  | .s n =>
    if n < 128 then { w with emptyS := putBit e w.emptyS n }
    else w.setBank m { w.bank m with emptyS := putBit e (w.bank m).emptyS n }
  | .x k => { w with emptyX := putBit e w.emptyX k }
  | .g _ => w
  | .st _ => w

/-- The specifier of a register, as the trap record names it (R401). -/
def Reg.specifier : Reg → Word
  | .v n => BitVec.ofNat 64 n
  | .s n => BitVec.ofNat 64 (0x100 + n)
  | .x k => BitVec.ofNat 64 (0x220 + k)
  | .g n => BitVec.ofNat 64 (0x200 + n)
  | .st k => BitVec.ofNat 64 (0x218 + k)

/-- A register an instruction reads or writes: the policy of the read (R38), and its modifier when it is a read. -/
structure Need where
  reg : Reg
  pol : Bool := false
  md : Option (BitVec 12) := none

/-- The registers a source operand names, `n` consecutive vector registers wide. -/
def needsOf (w : Warp) (n : Nat) (s : Src) : List Need :=
  match s.spec with
  | .vec r => (List.range n).map fun i => ⟨.v (w.xlat r.toNat + i), s.pol, some s.mod⟩
  | .scl r => [⟨.s r.toNat, s.pol, some 0⟩]
  | .spc r =>
    if 0x20 ≤ r.toNat && r.toNat ≤ 0x27 then [⟨.x (r.toNat - 0x20), s.pol, some 0⟩]
    else if 0x18 ≤ r.toNat && r.toNat ≤ 0x1F then [⟨.st (r.toNat - 0x18), s.pol, some 0⟩]
    else if r.toNat ≤ 7 then [⟨.g r.toNat, false, some 0⟩]
    else []
  | .imm _ => []

/-- The registers a destination names, `n` consecutive vector registers wide: a write waits until the copy is full (R127). -/
def needsDst (w : Warp) (n : Nat) : Spec → List Need
  | .vec r => (List.range n).map fun i => ⟨.v (w.xlat r.toNat + i), false, none⟩
  | .scl r => [⟨.s r.toNat, false, none⟩]
  | .spc r => if 0x20 ≤ r.toNat && r.toNat ≤ 0x27 then [⟨.x (r.toNat - 0x20), false, none⟩] else []
  | .imm _ => []

/-- The members whose copies an instruction meets: the active ones, or slot 0 for its common registers when none is active (R104). -/
def beatMembers (w : Warp) : List Nat := if w.active = [] then [0] else w.active

def needIsCommon (w : Warp) : Reg → Bool
  | .v n => w.commonV n
  | .s n => n < 128
  | .x _ | .st _ => true
  | .g _ => false

/-- The first empty copy an instruction meets, in beat order: a wait or the empty-register trap (R126, R127). -/
def firstEmpty (w : Warp) (ns : List Need) : Option (Nat × Need) :=
  w.beatMembers.findSome? fun m =>
    (ns.find? fun q => w.isEmpty m q.reg && (w.active != [] || w.needIsCommon q.reg)).map fun q => (m, q)

/-- A vector register at or above the held count (R120). -/
def outOfRange (w : Warp) (ns : List Need) : Bool :=
  ns.any fun q => match q.reg with
    | .v n => w.h ≤ n
    | _ => false

/-- An operand of several registers whose base, after translation, breaks the alignment its row requires (R71, R181; a 64-bit integer
pair too: log entry 83). -/
def misfit (w : Warp) (k : Nat) : Spec → Bool
  | .vec n => w.inBlock && w.xlat n.toNat % k != 0
  | _ => false

/-- The lanes of a member that would read an uncorrectable register (R449, R450): a vector lane kills the lane that reads it, a guard kills
every live lane of the member. -/
def badReads (w : Warp) (h : Hdr) (ns : List Need) (m : Nat) : LaneMask :=
  let gs : List Need := [⟨.g h.gp.toNat, false, some 0⟩]
  (gs ++ ns).foldl (fun u q =>
    match q.md, q.reg with
    | some md, .v n =>
      let bad := if w.commonV n then tget 0 w.bad n else tget 0 (w.bank m).bad n
      if bad = 0 then u else u ||| (w.part h m &&& LaneMask.ofPred fun l => bad.getLsbD (modLane md l))
    | some _, .g n => if (w.bank m).badG.getLsbD n then u ||| (w.bank m).live else u
    | _, _ => u) 0

/-- One lane of a vector register, as a member sees it, reads uncorrectable (R449). -/
def badAt' (w : Warp) (m r l : Nat) : Bool := (if w.commonV r then tget 0 w.bad r else tget 0 (w.bank m).bad r).getLsbD l

/-- The same of a vector operand. -/
def badAt (w : Warp) (m : Nat) (s : Spec) (l : Nat) : Bool :=
  match s with
  | .vec n => w.badAt' m (w.xlat n.toNat) l
  | _ => false

/-- The registers of a source whose lanes the instruction chooses itself: their uncorrectable lanes are looked at where they are read. -/
def needsPicked (w : Warp) (s : Src) : List Need := (w.needsOf 1 s).map fun q => { q with md := none }

/-- Kill the lanes that would read an uncorrectable register, before any effect (R450), or go on. -/
def sparing (w : Warp) (bad : Nat → LaneMask) (k : WRes) : WRes :=
  let ks := (w.active.map fun m => (m, bad m)).filter fun p => p.2 != 0
  if ks = [] then k else .kill w ks 7 false

/-- A register lies in a fragment that an `mmclr` still in the engine will clear: the interlock of R218 holds the instruction back. -/
def clears (w : Warp) (ns : List Need) : Bool :=
  w.active.any fun m => w.clearing.any fun c => c.1 = m && ns.any fun q => match q.reg with
    | .v n => c.2 ≤ n && n < c.2 + 16
    | _ => false

/-- The checks before any effect, in the order of R264: register range (R120), meld form (R71), common write (R105), then the full/empty
waits and traps (R126, R127), the interlock of R218, and the uncorrectable registers it would read (R449).
A form under guard 0b1111 takes them as well (DESIGN CHOICE, log entry 79). -/
def checked (w : Warp) (h : Hdr) (needs : List Need) (misfit commonWrite : Bool) (k : WRes) : WRes :=
  if w.outOfRange needs then .trap w { cls := 5 }
  else if misfit then .trap w { cls := 6 }
  else if commonWrite then .trap w { cls := 4 }
  else match w.firstEmpty needs with
    | some (m, q) => if q.pol then .trap w { cls := 3, slot := m, detail := q.reg.specifier } else .wait .register
    | none =>
      let ks := (w.active.map fun m => (m, w.badReads h needs m)).filter fun p => p.2 != 0
      if w.clears needs then .wait .register else if ks = [] then k else .kill w ks 7 false

/-! ## Writing results (R104) -/

/-- Write `k` consecutive vector registers from `r` with one list of values per lane: the lanes written follow from the class of the
destination. -/
def vecWrite (w : Warp) (h : Hdr) (r k : Nat) (f : Nat → Nat → List Lane32) : Warp :=
  let put := fun (w0 : Warp) (m : Nat) (mask : LaneMask) (src : Nat → Nat) =>
    let vals := laneNumbers.map fun l => if mask.getLsbD l then f (src l) l else []
    (List.range k).foldl (fun w1 i => w1.vput m (r + i) mask (vals.map fun v => v.getD i 0)) w0
  if w.commonV r then
    put w 0 (w.union h) fun l => (w.active.find? fun m => (w.part h m).getLsbD l).getD 0
  else w.active.foldl (fun w1 m => put w1 m (w.part h m) fun _ => m) w

/-- Write a scalar register with one value per member (R104): a common destination is written once. -/
def sclWrite (w : Warp) (n : Nat) (f : Nat → Word) : Warp :=
  if n < 128 then w.sput 0 n (f (w.active.headD 0)) else w.active.foldl (fun w1 m => w1.sput m n (f m)) w

/-- Guard 0b1111 of a uniform instruction: no effect (R40). -/
def never (h : Hdr) : Bool := h.gp == 7 && h.gn

end Warp

end Sys2Proof.Machine
end

