-- ==== Sys2Proof/Machine/Paths.lean ====
section
/-!
DEFINITION. Paths of a warp: the split table (R61, R62), the end of a path (R63), joins (R66), lost reconvergence (R67), loops (R138–R140)
and the abort of a transaction as far as it concerns the warp alone (R312).
-/

namespace Sys2Proof.Machine

/-- Add 1 to a 16-bit field of a word at bit `lo`, stopping at 0xFFFF (R64, R459). -/
def bump16 (w : Word) (lo n : Nat) : Word :=
  let old := (w.extractLsb' lo 16).toNat
  let new := min 0xFFFF (old + n)
  (w &&& ~~~((0xFFFF#64) <<< lo)) ||| (BitVec.ofNat 64 new <<< lo)

/-- The registers a logged access fills when it completes, from the translated number of its destination (R125). -/
def LogEntry.fills (e : LogEntry) : List Warp.Reg :=
  let d := e.dst
  match e.acc with
  | .load n _ => if d = 0x300 then [] else (List.range (max 1 (n / 4))).map fun i => .v (d + i)
  | .sload _ | .release => [.s d]
  | .exactLoad | .windowLoad => [.x (d - 0x20)]
  | .atomic _ n => if d = 0x300 then [] else (List.range (n / 4)).map fun i => .v (d + i)
  | _ => []

namespace Warp

/-- em of every slot. -/
def ems (w : Warp) : List LaneMask := w.slots.map fun m => (w.bank m).em

/-- Load em of every slot; exited lanes stay 0 (R59). The bit of a dead lane is loaded as it stands (R60). -/
def loadEm (w : Warp) (ms : List LaneMask) : Warp := w.eachSlot fun m b => b.setEm (ms.getD m 0)

/-- An entry still holds a live lane. -/
def entryLive (w : Warp) (e : PathEntry) : Bool := w.slots.any fun m => (e.masks.getD m 0 &&& (w.bank m).live) != 0

/-- The warp ends: every lane neither exited nor dead becomes exited (R63, R109). -/
def endWarp (w : Warp) : Warp := { w.eachSlot fun _ b => b.exit (~~~b.dead) with ended := true }

/-- Push an entry as the youngest, counting a spill when the table is full (R62, R64). -/
def pushPath (w : Warp) (k : PathKind) (pc : Word) (ms : List LaneMask) : Warp :=
  { w with
    paths := w.paths ++ [⟨k, pc, ms, w.nextAge⟩], nextAge := w.nextAge + 1,
    pathev := if 8 ≤ w.paths.length then bump16 w.pathev 0 1 else w.pathev }

/-- A 65th entry would be needed (R62). -/
def pathsFull (w : Warp) : Bool := 64 ≤ w.paths.length

/-- Free a rejoin register: busy, MASK and ARR are cleared (R65). -/
def freeJm (w : Warp) (k : Nat) : Warp :=
  let w : Warp := { w with jmBusy := w.jmBusy &&& ~~~(1#8 <<< k) }
  w.eachSlot fun _ b => { b with jmMask := tset b.jmMask k 0, jmArr := tset b.jmArr k 0 }

/-- Close the melded block. -/
def closeMeld (w : Warp) : Warp := { w with meld := {} }

/-- The union of the masks of the entries of a kind, for a slot. -/
def parkedMask (w : Warp) (k : PathKind) (m : Nat) : LaneMask :=
  (w.paths.filter fun (e : PathEntry) => e.kind = k).foldl (fun u (e : PathEntry) => u ||| e.masks.getD m 0) 0

/-- The expected and arrived sets of a join, for a slot. -/
def joinSets (w : Warp) (k : PathKind) (m : Nat) : LaneMask × LaneMask :=
  match k with
  | .parkedJm n => (tget 0 (w.bank m).jmMask n, tget 0 (w.bank m).jmArr n)
  | _ => (w.meld.entry.getD m 0, w.meld.arrived.getD m 0)

/-- The completion test of R66, with `e` the current masks. -/
def joinComplete (w : Warp) (k : PathKind) (e : List LaneMask) : Bool :=
  w.slots.all fun m =>
    let live := (w.bank m).live
    let (mask, arr) := w.joinSets k m
    let p := e.getD m 0 ||| w.parkedMask k m
    (mask &&& live &&& ~~~arr) == 0 && (arr &&& live &&& ~~~p) == 0

/-- Free the register or the meld join a kind names. -/
def freeJoin (w : Warp) : PathKind → Warp
  | .parkedJm k => w.freeJm k
  | .parkedMeld => w.closeMeld
  | .deferred => w

/-- Remove lanes from the expected and arrived sets of a join (R67 step 2). -/
def dropFromJoin (w : Warp) (k : PathKind) (ms : List LaneMask) : Warp :=
  match k with
  | .parkedJm n => w.eachSlot fun m b =>
      { b with jmMask := tset b.jmMask n (tget 0 b.jmMask n &&& ~~~(ms.getD m 0)), jmArr := tset b.jmArr n (tget 0 b.jmArr n &&& ~~~(ms.getD m 0)) }
  | .parkedMeld =>
    { w with meld := { w.meld with
        entry := w.slots.map fun m => w.meld.entry.getD m 0 &&& ~~~(ms.getD m 0),
        arrived := w.slots.map fun m => w.meld.arrived.getD m 0 &&& ~~~(ms.getD m 0) } }
  | .deferred => w

/-- Lost reconvergence on the oldest parked entry (R67). -/
def lostReconvergence (w : Warp) (e : PathEntry) : Warp :=
  let w : Warp := { w with paths := w.paths.filter fun x => x.age != e.age }
  let w := w.dropFromJoin e.kind e.masks
  let w : Warp := { w with wstat := w.wstat ||| 1#64, pathev := bump16 w.pathev 48 1, pc := e.pc + 12#64 }
  let w := w.loadEm e.masks
  let rest := w.paths.filter fun x => x.kind = e.kind
  match rest.getLast? with
  | none => w.freeJoin e.kind
  | some y =>
    if w.joinComplete e.kind [] then
      let ms := w.slots.map fun m => w.parkedMask e.kind m
      let w : Warp := { w with paths := w.paths.filter fun x => x.kind != e.kind }
      (w.freeJoin e.kind).pushPath .deferred (y.pc + 12#64) ms
    else w

/-- End active loops whose body does not hold the pc (R140). -/
def endLoops (w : Warp) : Warp :=
  { w with lc := w.lc.map fun l =>
      if l.active && !(l.start.toNat ≤ w.pc.toNat && w.pc.toNat < l.stop.toNat) then { l with active := false } else l }

/-- A path switch or a trap resets the canary (R79): the next taken backward transfer begins an iteration. -/
def resetCanary (w : Warp) : Warp := { w with canPc := none, canSig := [], canPrev := none, canCount := 0 }

/-- Select the next path after the current one ended (R63, R457): the youngest deferred entry with a live lane, else lost reconvergence on
the oldest parked one, else the warp ends. -/
def nextPath (w : Warp) : Warp :=
  let dead := fun (e : PathEntry) => !w.entryLive e
  let deferred := (w.paths.filter fun (e : PathEntry) => e.kind = PathKind.deferred).reverse
  match deferred.find? fun e => !dead e with
  | some e =>
    let gone := (deferred.takeWhile dead).map fun (x : PathEntry) => x.age
    let w : Warp := { w with paths := w.paths.filter fun x => x.age != e.age && !gone.contains x.age, pc := e.pc }
    { ((w.loadEm e.masks).endLoops).resetCanary with loopDue := false }
  | none =>
    let w1 : Warp := { w with paths := w.paths.filter fun e => e.kind != PathKind.deferred }
    let parked := w1.paths
    match parked.find? fun e => !dead e with
    | some e =>
      let gone := (parked.takeWhile dead).map fun (x : PathEntry) => x.age
      let w2 : Warp := { w1 with paths := w1.paths.filter fun x => !gone.contains x.age }
      { ((w2.lostReconvergence e).endLoops).resetCanary with loopDue := false }
    | none => { w1 with paths := [], loopDue := false }.endWarp

/-- Park the current path at a join and select the next (R66). -/
def park (w : Warp) (k : PathKind) : Warp := (w.pushPath k w.pc w.ems).nextPath

/-- Set an ordering point between the accesses outstanding and those to come (R298, R300). With none outstanding there is nothing to order. -/
def mark (w : Warp) (f : Fence) : Warp := if w.log = [] then w else { w with fences := w.fences ++ [{ f with pos := w.nextSeq, sup := w.sup }] }

/-- Complete a join: the parked lanes reunite (R66), and the accesses before it come before those after it (R298(f)). -/
def completeJoin (w : Warp) (k : PathKind) : Warp :=
  let ms := w.slots.map fun m => ((w.bank m).em ||| w.parkedMask k m) &&& (w.bank m).live
  let w : Warp := { w with paths := w.paths.filter fun e => e.kind != k }
  ((w.freeJoin k).loadEm ms).mark { pos := 0 }

/-! ## The open melded block, path by path (R70, R77, R89) -/

/-- The lanes of the entry masks that are on a path, by slot. -/
def meldLanes (w : Warp) (p : Nat) : List LaneMask :=
  w.slots.map fun m => w.meld.entry.getD m 0 &&& (w.bank m).onPath p &&& (w.bank m).live

/-- The paths that hold a live lane of the entry masks, ascending. -/
def meldPaths (w : Warp) : List Nat := (List.range 4).filter fun p => (w.meldLanes p).any (· != 0)

/-- An active loop ends after the instruction at the pc (R139). -/
def loopEnds (w : Warp) : Bool := w.lc.any fun l => l.active && l.stop == w.pc + 12#64

/-- The word after the `unmeld` of the open block, reached as from that `unmeld`: a loop that ends there considers its loop back (R139). -/
def pastUnmeld (w : Warp) : Warp :=
  let w1 : Warp := { w with pc := w.meld.start + BitVec.ofNat 64 (12 * (w.meld.n + 1)) }
  { w1 with pc := w1.pc + 12#64, loopDue := w1.loopEnds }

/-- The lanes that have reached the end of the block, with those of the current path. -/
def meldArrive (w : Warp) : Warp :=
  { w with meld := { w.meld with arrived := w.slots.map fun m => w.meld.arrived.getD m 0 ||| (w.bank m).em } }

/-- In melded mode, the next path that runs the block, if one is left. -/
def meldNext (w : Warp) : Option Nat := w.meldPaths.find? fun p => w.meld.cur < p

/-- The next path runs the block from its start. -/
def meldStart (w : Warp) (p : Nat) : Warp :=
  let w1 : Warp := { w with meld := { w.meld with cur := p }, pc := w.meld.start + 12#64, loopDue := false }
  w1.loadEm (w.meldLanes p)

/-- After the last path, all lanes reunite after `unmeld` (R70), which orders the accesses of the block before those after it (R74). -/
def meldReunite (w : Warp) : Warp :=
  ((w.pastUnmeld.loadEm (w.slots.map fun m => w.meld.arrived.getD m 0 &&& (w.bank m).live)).closeMeld).mark { pos := 0 }

/-- `unmeld` in melded mode: the next path runs, or the block is left with em as it then stands (R89). -/
def meldAdvance (w : Warp) : Warp :=
  let w1 := w.meldArrive
  match w1.meldNext with
  | some p => w1.meldStart p
  | none => w1.meldReunite

/-- The current path has lost its last live lane (R63, R77): in melded mode the other paths go on with the block, and a path whose block has no
lane left ends. -/
def endPath (w : Warp) : Warp :=
  if w.meld.opened && !w.meld.serial && (w.inBlock || w.sup) then
    let w1 := w.meldArrive
    if w1.meldNext.isNone && w1.slots.all (fun m => w1.meld.arrived.getD m 0 &&& (w1.bank m).live == 0) then w1.closeMeld.nextPath else w.meldAdvance
  else w.nextPath

/-- The distinct lines a transaction holds (R309, R315). -/
def txLines (t : Tx) : Nat := (t.reads ++ t.writes).eraseDups.length

/-- The accesses of the open transaction are complete, but for lanes that fault (R312 step 1, R314). -/
def txQuiet (w : Warp) : Bool := w.log.all fun (e : LogEntry) => !e.tx || e.parts.all fun p => p.ok || p.fault.isSome

/-- The faulting address of the lowest failing slot and lane of the oldest transactional access that faults (R315). -/
def txFaultAddr (w : Warp) : Option Word :=
  let bad := (w.log.filter fun (e : LogEntry) => e.tx).map fun (e : LogEntry) => e.parts.filter fun p => p.fault.isSome && !p.ok
  match bad.find? (· != []) with
  | some (p :: ps) =>
    let low := ps.foldl (fun (b q : Part) => if q.slot < b.slot || (q.slot = b.slot && q.lane < b.lane) then q else b) p
    low.fault.map fun f => f.2.2
  | _ => none

/-- The registers that some accesses in the log would still fill are full again, with the values they have (R125). -/
def refill (w : Warp) (f : LogEntry → Bool) : Warp :=
  (w.log.filter f).foldl (fun w e => w.slots.foldl (fun w m => e.fills.foldl (fun w r => w.setEmpty m false r) w) w) w

/-- The abort of the open transaction: its writes are discarded, a register a faulting load left empty is full again, em and mm come back, TXSTAT and TXADDR are set, and the pc moves to the target
of `txbegin` (R312, R315). -/
def dropTx (w : Warp) (cause code : Nat) (addr : Word) : Warp :=
  match w.tx with
  | none => w
  | some t =>
    let w := w.eachSlot fun m b =>
      [0, 1, 2].foldl (fun b i => b.setEmWord i ((t.em.getD m []).getD i 0)) b
    let addr := if cause = 3 then w.txFaultAddr.getD addr else addr
    let w := w.refill fun e => e.tx
    let w : Warp := { w with log := w.log.filter fun (e : LogEntry) => !e.tx }
    let st := (w.txstat &&& ~~~(0x1FFFF#64)) ||| BitVec.ofNat 64 (2 * cause + 16 * code + 4096 * min 16 (txLines t))
    endLoops { w with mm := t.mm, pc := t.target, tx := none, txstat := bump16 st 32 1, txaddr := addr, loopDue := false }

/-- A cause to abort the open transaction arises: the first one stands (R312). -/
def pendAbort (w : Warp) (cause code : Nat) (addr : Word) : Warp :=
  match w.tx with
  | some t => if t.pending.isSome then w else { w with tx := some { t with pending := some (cause, code, addr) } }
  | none => w

/-- Abort the open transaction now, or as soon as the accesses it has issued are complete (R312). -/
def abortTx (w : Warp) (cause code : Nat) (addr : Word) : Warp :=
  if w.txQuiet then w.dropTx cause code addr else w.pendAbort cause code addr

/-- Whether `i` is the youngest mark the split table may hold without the loop-form trap (R139). -/
def splitSince (w : Warp) (mark : Nat) : Bool := w.paths.any fun e => mark ≤ e.age

end Warp

end Sys2Proof.Machine
end

