-- ==== Sys2Proof/Machine/Ops.lean ====
section
/-!
DEFINITION. The operations instructions share: finding the running warp and its block, launch and context; recording errors (R462),
killing lanes (R457), aborting a block (R399), taking a trap and returning from one (R400, R403, R404), and running one warp-level
meaning on the current warp.
-/

namespace Sys2Proof.Machine

/-- The outcome of a step of this machine. -/
abbrev Res := Host.Outcome State Fault Refusal

/-- The slot number that stands for the foreman in a warp key. -/
def foremanSlot : Nat := 31

def warpKey (core slot : Nat) : Nat := core * 32 + slot

/-- The key of the warp or foreman an agent is. -/
def agentKey : Agent → Option Nat
  | .warp c k => some (warpKey c k)
  | .foreman c => some (warpKey c foremanSlot)
  | .seam _ => none

def Warp.key (w : Warp) : Nat := warpKey w.core (if w.foreman then foremanSlot else w.slot)

/-- `n` lies between two bounds, both included. -/
def inRange (lo hi n : Nat) : Bool := lo ≤ n && n ≤ hi

namespace State

def warp? (s : State) (k : Nat) : Option Warp := tfind s.warps k
def putWarp (s : State) (w : Warp) : State := { s with warps := tset s.warps w.key w }
def modWarp (s : State) (k : Nat) (f : Warp → Warp) : State :=
  match s.warp? k with
  | some w => s.putWarp (f w)
  | none => s

/-- The warp or foreman that runs. -/
def curWarp (s : State) : Option Warp :=
  match s.cur with
  | some a => match agentKey a with
    | some k => match s.warp? k with
      | some w => if w.ended || w.st = .free || w.st = .save then none else some w
      | none => none
    | none => none
  | none => none

def ctx (s : State) (x : Nat) : Context := tget {} s.ctxs x
def modCtx (s : State) (x : Nat) (f : Context → Context) : State := { s with ctxs := tset s.ctxs x (f (s.ctx x)) }
def block? (s : State) (b : Nat) : Option Block := tfind s.blocks b
def modBlock (s : State) (b : Nat) (f : Block → Block) : State := { s with blocks := tmod s.blocks b f }
def node? (s : State) (n : Nat) : Option Node := tfind s.nodes n
def modNode (s : State) (n : Nat) (f : Node → Node) : State := { s with nodes := tmod s.nodes n f }

/-- Cycles of the clock of the die a core is on (R2). -/
def coreCycle (s : State) (core : Nat) : Nat := s.dieTime.getD (core / 160) 0 / 10

/-- The warps of a block, leading and tailing, and its foreman. -/
def blockWarps (s : State) (b : Nat) : List Warp := (s.warps.map (·.2)).filter fun w => w.blk == b && w.st != .free

end State

/-! ## Errors -/

/-- A 32-bit count that stops at its top (R460). -/
def sat32 (n : Nat) : Nat := min n (2 ^ 32 - 1)

/-- Add an error to a record: the first one fills CLASS, DETAIL, UNIT and ADDR (R460, R462). -/
def ErrRec.add (e : ErrRec) (cls detail unit addr : Nat) : ErrRec :=
  if e.nerr = 0 then { e with cls := cls, detail := detail, unit := unit, addr := addr, nerr := 1 }
  else { e with nerr := sat32 (e.nerr + 1) }

/-- The 32 bytes of a completion entry (R460). -/
def ErrRec.bytes (e : ErrRec) : List Byte :=
  leBytes 8 (e.cls % 16 + 2 ^ 8 * (e.detail % 256) + 2 ^ 16 * (e.unit % 4096) + 2 ^ 31 + 2 ^ 32 * sat32 e.nerr) ++
  leBytes 8 (e.addr % 2 ^ 56) ++
  leBytes 8 (sat32 e.dlanes + 2 ^ 32 * sat32 e.dwarps) ++
  leBytes 8 (e.kmidx % 2 ^ 16 + 2 ^ 16 * (e.klane % 128) + (if e.kv then 2 ^ 23 else 0))

/-- Record an error of a block's launch (R462). -/
def State.blockError (s : State) (b cls detail unit addr : Nat) : State :=
  match s.block? b with
  | none => s
  | some bl => s.modNode bl.node fun n => { n with err := n.err.add cls detail unit addr }

/-- The key of an error counter: its number and its copy (R464). -/
def counterKey (n core : Nat) : Nat :=
  let copy := if n = 0x18 || n = 0x1B || n = 0x1F then core / 160 else if n = 0x19 || n = 0x1A || n = 0x1C then 0 else core
  n * 2048 + copy

/-- Count events in an error counter, stopping at 2^48 − 1 (R464). -/
def State.count (s : State) (n core k : Nat) : State :=
  let key := counterKey n core
  { s with counters := tset s.counters key (BitVec.ofNat 64 (min (2 ^ 48 - 1) ((tget 0 s.counters key).toNat + k))) }

/-- Raise MSI-X vector 0 after writing an entry to the device error log, or count it lost (R473). -/
def State.logDevice (s : State) (e : ErrRec) : State :=
  if (s.wptr + 1) % 256 = s.rptr then { s with lost := sat32 (s.lost + 1) }
  else { s with devlog := tset s.devlog s.wptr e.bytes, wptr := (s.wptr + 1) % 256, hostOut := s.hostOut ++ [.msix] }

/-! ## The operand log and kills -/

/-- The access reads memory. -/
def LogEntry.reads (e : LogEntry) : Bool :=
  match e.acc with
  | .load .. | .sload _ | .atomic .. | .release | .exactLoad | .windowLoad | .exactAdd | .exactMerge | .tableLoad | .bind _ | .scales _
  | .monitor => true
  | _ => false

/-- The access writes memory (R328). -/
def LogEntry.writes (e : LogEntry) : Bool :=
  match e.acc with
  | .store _ | .zero | .atomic .. | .ordered _ | .release | .exactStore | .windowStore | .exactAdd | .exactMerge | .tableStore => true
  | _ => false

/-- Copies and commands stand outside the order of R298 (R275). -/
def LogEntry.async (e : LogEntry) : Bool := match e.acc with | .copy _ | .command => true | _ => false

/-- The entry is of a command that its instruction waits for: one with a result, at the pc or at the return pc of a handler (R365, R400). -/
def LogEntry.awaited (w : Warp) (e : LogEntry) : Bool :=
  e.acc = .command && e.dst < 256 && if w.sup && !e.sup then w.record.getD 3 0 = e.pc else w.pc = e.pc

/-- Mark the destination copies of an entry full where every part of a member is complete, and drop the entry when all are (R125, R128, R402) and
no instruction waits for it. -/
def Warp.settleEntry (w : Warp) (q : Nat) : Warp :=
  match w.log.find? fun e => e.seq = q with
  | none => w
  | some e =>
    let regs := e.fills
    let allOk := e.parts.all (·.ok)
    let ms := w.slots.filter fun m => e.parts.any (fun p => p.slot = m) && (e.parts.all fun p => p.slot != m || p.ok)
    let w := ms.foldl (fun w m => regs.foldl (fun w r => if w.needIsCommon r && !allOk then w else w.setEmpty m false r) w) w
    if allOk && !e.awaited w then { w with log := w.log.filter fun x => x.seq != q } else w

/-- A contribution of an entry waits for room in its slice, or no longer does (R271). -/
def Warp.markFull (w : Warp) (q : Nat) (b : Bool) : Warp := { w with log := w.log.map fun e => if e.seq = q then { e with full := b } else e }

/-- Change the parts of one log entry, then settle it. -/
def Warp.modParts (w : Warp) (q : Nat) (f : Part → Part) : Warp :=
  ({ w with log := w.log.map fun (e : LogEntry) => if e.seq = q then { e with parts := e.parts.map f } else e }).settleEntry q

/-- Discard what killed lanes still hold: their writes are not performed, their loads count as received, their faults are dropped (R77,
R306). Warp-wide parts (lane 96) stay. -/
def Warp.dropLanes (w : Warp) (m : Nat) (mask : LaneMask) : Warp :=
  let w : Warp := { w with log := w.log.map fun e =>
    { e with parts := e.parts.map fun p =>
        if p.slot = m && mask.getLsbD p.lane && !p.ok then { p with ok := true, fault := none, dead := p.dead || e.acc = .command } else p } }
  (w.log.map LogEntry.seq).foldl (fun w q => w.settleEntry q) w

/-- The lanes become dead in a member's bank, and WSTAT records it (R457 steps 1–3, R459). -/
def Warp.killBank (w : Warp) (m : Nat) (mask : LaneMask) (cause : Nat) : Warp :=
  let b := w.bank m
  let mask := mask &&& b.live
  if mask = 0 then w
  else
    let w := w.setBank m ({ b with dead := b.dead ||| mask }.setEm (b.em &&& ~~~mask))
    let st := (w.wstat ||| 8#64) &&& ~~~(0xFF00#64) ||| BitVec.ofNat 64 (256 * cause)
    ({ w with wstat := bump16 st 16 mask.count, seen := true }).dropLanes m mask

/-- The error class of a kill: consumed errors are class 3, the others class 9 (R450, R461). -/
def killClass (cause : Nat) : Nat × Nat := if cause = 6 then (3, 0) else if cause = 7 then (3, 1) else (9, cause)

/-- Kill lanes of one member of a warp and record it in the launch's entry and the core's counters; an open transaction will abort
(R457, R462, R464, R314). The end of a path that loses its last lane is `Warp.pathCheck`. -/
def State.killLanes (s : State) (k m : Nat) (mask : LaneMask) (cause : Nat) (addr : Nat) : State :=
  match s.warp? k with
  | none => s
  | some w =>
    let mask := mask &&& (w.bank m).live
    if mask = 0 then s
    else
      let first := !w.seen
      let w' := w.killBank m mask cause
      let s := s.putWarp (w'.pendAbort 5 0 (if cause = 6 then BitVec.ofNat 64 (addr / 128 * 128) else 0))
      let s := match w.tail with
        | some t => s.modWarp (warpKey w.core t) fun x => x.killBank m mask cause
        | none => match w.lead with
          | some l => s.modWarp (warpKey w.core l) fun x => x.killBank m mask cause
          | none => s
      let s := s.count 0x1D w.core mask.count
      let s := if cause = 6 || cause = 7 then s.count 0x1E w.core 1 else s
      let (cls, det) := killClass cause
      match s.block? w.blk with
      | none => s
      | some bl => s.modNode bl.node fun n =>
        let e := n.err.add cls det w.core addr
        let e := { e with dlanes := sat32 (e.dlanes + mask.count), dwarps := if first then sat32 (e.dwarps + 1) else e.dwarps }
        let e := if e.kv then e else { e with kv := true, kmidx := (w.bank m).midx.toNat, klane := mask.toList.headD 0 }
        { n with err := e }

/-- When a kill since `w0` has left no active member a live lane in em, the path ends (R457). A path whose em is empty for another reason,
such as a write of em, goes on. -/
def Warp.pathCheck (w0 w : Warp) : Warp :=
  if w.slots.all (fun m => (w.bank m).dead == (w0.bank m).dead) || w.ended || w.active.any (fun m => ((w.bank m).em &&& (w.bank m).live) != 0) then w
  else w.endPath

/-! ## Ending warps, aborting blocks -/

/-- The operations of a warp on its core's matrix engine (R217). -/
def State.mxOf (s : State) (w : Warp) : List MxOp := if w.foreman then [] else (tget [] s.mx w.core).filter fun o => o.slot = w.slot

/-- Take a warp's operations out of its core's matrix engine. -/
def State.dropMx (s : State) (w : Warp) : State := if w.foreman then s else { s with mx := tmod s.mx w.core fun l => l.filter fun o => o.slot != w.slot }

/-- What the end of a warp releases, once its copies are complete (R277): entries of the decision queue that target it (R362), its slot state. -/
def State.finishWarp (s : State) (k : Nat) : State :=
  match s.warp? k with
  | none => s
  | some w =>
    if w.ended && w.copies.opened = [] && w.copies.closed = [] then
      let s := (s.dropMx w).putWarp { w with st := .free, waitOn := none, rdv := none, clearing := [] }
      if w.foreman then s
      else s.modBlock w.blk fun b => { b with dq := b.dq.filter fun e => e.2 != w.info.pos }
    else s

/-- Abort a block: its warps and foreman stop, its ordered contributions are withdrawn (R271, R399). -/
def State.abortBlock (s : State) (b : Nat) : State :=
  let s := (s.blockWarps b).foldl State.dropMx s
  let s : State := { s with
    warps := s.warps.map fun p => if p.2.blk = b then (p.1, { p.2.endWarp with st := .free, log := [], fences := [], clearing := [], trapDue := none, tx := none, rdv := none, saving := none }) else p,
    ordq := s.ordq.map fun p =>
      if p.2.entries.any (fun e => e.blk = b) then
        (p.1, { p.2 with entries := p.2.entries.filter (fun e => e.blk != b), abort := true })
      else p }
  s.modBlock b fun x => { x with aborted := true }

/-! ## Traps (R396–R404) -/

/-- INFO of the trap record (R401). -/
def trapInfo (t : TrapReq) (path log : Nat) (laneFlt : Bool) : Word :=
  BitVec.ofNat 64 (t.cls + 2 ^ 8 * t.cause + 2 ^ 16 * t.slot + 2 ^ 20 * t.lane + 2 ^ 27 * path + 2 ^ 29 * log +
    (if laneFlt then 2 ^ 32 else 0))

/-- Lane-level faults pending in the log, oldest entry first within the order of R76. A fault of a transactional access is never delivered
(R314). -/
def Warp.pendingFaults (w : Warp) : List (LogEntry × Part) :=
  (w.log.filter fun (e : LogEntry) => !e.tx).flatMap fun e => (e.parts.filter fun p => p.fault.isSome && !p.ok).map fun p => (e, p)

/-- What `trrd` reads (R401): the faults still pending are counted as it reads. -/
def Warp.trapWord (w : Warp) (sel : Nat) : Word :=
  if sel = 4 then BitVec.ofNat 64 (w.pendingFaults.filter fun p => !p.2.inRec).length else w.record.getD sel 0

/-- A warp that waited goes on (R357); the foreman has no active set to join. -/
def Warp.awake (w : Warp) : Warp := { w with st := if w.st = .wait then (if w.foreman then .act else .out) else w.st, waitOn := none }

/-- Deliver a handled trap (R400): the record, s120–s127, mm and the return pc are saved; mm selects the record's slot; the pc goes to the
class's handler; the mode becomes supervisor. The canary is reset (R79). -/
def Warp.enterTrap (w : Warp) (base : Word) (t : TrapReq) (trapPc retPc : Word) (path log : Nat) (laneFlt : Bool) (pend : Nat) : Warp :=
  let saved := (List.range 8).map fun i => tget 0 w.s (120 + i)
  { w.awake.resetCanary with
    lcSaved := w.lc, rdv := none, trapDue := none, foreign := false,
    record := [trapInfo t path log laneFlt, trapPc, t.detail, retPc, BitVec.ofNat 64 pend, 0, 0, 0] ++ saved,
    recMm := w.mm, mm := 1#16 <<< t.slot, sup := true,
    pc := (base &&& 0x00FFFFFFFFFFFFFC#64) + BitVec.ofNat 64 (128 * t.cls) }

/-- The context has a handler and the warp is one that may take it: otherwise a trap is unhandled (R399). -/
def State.handled (s : State) (w : Warp) (sup : Bool) : Bool :=
  !w.foreman && (s.ctx w.ctx).trapvec &&& 0x00FFFFFFFFFFFFFC#64 != 0 && !sup

/-- An unhandled trap aborts the block (R399). -/
def State.trapUnhandled (s : State) (w : Warp) (cls : Nat) (pc : Word) : State := (s.blockError w.blk 6 cls w.core pc.toNat).abortBlock w.blk

/-- A trap that arises in a transaction aborts it, unless another cause did before (R314). -/
def Warp.trapAbort (w : Warp) (addr : Word) : Warp :=
  match w.tx.bind (·.pending) with
  | some (c, k, a) => w.dropTx c k a
  | none => w.dropTx 3 0 addr

/-- Enter the handler of a warp-level trap raised at `trapPc` (R400, R314). -/
def State.enterHandler (s : State) (w : Warp) (t : TrapReq) (trapPc : Word) (loopBack : Bool) : State :=
  let w := w.trapAbort (if t.cls = 2 || t.cls = 11 then t.detail else 0)
  let w' := w.enterTrap (s.ctx w.ctx).trapvec t trapPc w.pc w.curPath 0 false w.pendingFaults.length
  s.putWarp { w' with loopTrap := loopBack, recEntry := none }

/-- Every issued instruction that no fault holds has completed (R400 step 1), seen from the log and the matrix engine alone: nothing is
outstanding. What a held access keeps waiting is settled too (`State.settled`). -/
def State.idle (s : State) (w : Warp) : Bool := w.log = [] && s.mxOf w = []

/-- Take a warp-level trap raised at `trapPc` (R396–R400): an unhandled one aborts the block (R399); a handled one is delivered once every
issued instruction has completed, and waits until then. `loopBack` marks a trap charged to a loop back (R140). -/
def State.takeTrap (s : State) (w : Warp) (t : TrapReq) (trapPc : Word) (loopBack : Bool := false) : State :=
  if !s.handled w w.sup then (s.putWarp (w.trapAbort 0)).trapUnhandled w t.cls trapPc
  else if s.idle w then s.enterHandler w t trapPc loopBack
  else s.putWarp { (w.pendAbort 3 0 (if t.cls = 2 || t.cls = 11 then t.detail else 0)).awake with trapDue := some (t, trapPc, loopBack) }

/-- Deliver a lane-level fault of a log entry (R396, R400): the return pc is the next instruction not yet issued. -/
def State.takeLaneFault (s : State) (w : Warp) (e : LogEntry) (p : Part) : State :=
  match p.fault with
  | none => s
  | some (cls, cause, addr) =>
    if !s.handled w e.sup then s.trapUnhandled w cls e.pc
    else
      let t : TrapReq := { cls := cls, cause := cause, slot := p.slot, lane := p.lane % 96, detail := addr }
      let w0 := w.trapAbort addr
      let w1 : Warp := { w0 with log := w0.log.map fun x => if x.seq = e.seq then
        { x with parts := x.parts.map fun q => if q.slot = p.slot && q.lane = p.lane then { q with inRec := true } else q } else x }
      let w' := w1.enterTrap (s.ctx w.ctx).trapvec t e.pc w1.pc (e.path % 4) e.idx true (w.pendingFaults.length - 1)
      s.putWarp { w' with loopTrap := false, recEntry := some e.seq }

/-- Leave supervisor mode: s120–s127 and mm come back from the record (R404), and the loop state from entry (R140). -/
def Warp.leaveTrap (w : Warp) : Warp :=
  let w : Warp := { w with sup := false, mm := w.recMm, lc := w.lcSaved }
  (List.range 8).foldl (fun w i => { w with s := tset w.s (120 + i) (w.record.getD (8 + i) 0) }) w

/-- A part issued again (R403): the fault the record names is no longer pending; any other stays pending until the reissue of its lane completes
or faults again. -/
def Part.again (p : Part) : Part := if p.ok then p else if p.inRec then { p with fault := none, inRec := false } else { p with retry := p.fault.isSome }

/-- The handled entry is reissued (R403): all its parts but the one lane that mode `skip` abandons, which counts as complete. An abandoned read
that its instruction waits for leaves a byte that is no entry. -/
def Warp.reissue (w : Warp) (q : Nat) (skip : Bool) : Warp :=
  let blocking := fun (e : LogEntry) => match e.acc with | .windowLoad | .bind _ => true | _ => false
  let w1 : Warp := { w with log := w.log.map fun (e : LogEntry) =>
    if e.seq = q && skip && blocking e then { e with blob := [0], parts := e.parts.map fun p => { p with fault := none, inRec := false } } else e }
  let command := w.log.any fun e => e.seq = q && e.acc = .command
  w1.modParts q fun p => if p.inRec && skip then { p with ok := true, fault := none, inRec := false, dead := p.dead || command } else p.again

/-! ## Running a warp-level meaning -/

/-- The canary after a taken transfer from `origin` to the current pc (R79): a backward one ends an iteration, or begins to watch another pc. -/
def Warp.canaryJump (w : Warp) (origin : Word) : Warp :=
  if w.pc.toNat ≤ origin.toNat then
    if w.canPc = some origin then
      { w with canCount := if w.canPrev = some w.canSig then w.canCount + 1 else 0, canPrev := some w.canSig, canSig := [] }
    else { w.resetCanary with canPc := some origin }
  else w

/-- The stores of an instruction, for the canary's signature (R79): address and data of every part. -/
def Warp.noteStores (w0 w : Warp) : Warp :=
  let new := w.log.filter fun (e : LogEntry) => w0.nextSeq ≤ e.seq && e.writes && w.canPc.isSome
  { w with canSig := new.foldl (fun sig e => e.parts.foldl (fun sig p =>
      sig ++ [(66, p.slot, (1#96 <<< p.lane), [p.addr.toNat, p.data.toNat] ++ e.blob.map (·.toNat))]) sig) w.canSig }

/-- A warp does not end while an access, a copy or a write of it to a replica is outstanding (R277, R396, R352): the instruction that would
end it waits. -/
def State.endBusy (s : State) (w0 w : Warp) : Bool :=
  w.ended && !w0.ended && (w0.log != [] || w0.fences != [] || w0.copies.opened != [] || w0.copies.closed != [] ||
    s.replicas.any fun r => r.owner = w0.key)

/-- What a release of every earlier access of the warp waits for: its log, but for copies, and its writes on the way to replicas. -/
def releaseBusy (s : State) (w : Warp) (wide : Bool) : Bool :=
  (w.log.any fun e => !e.async) || (wide && s.replicas.any fun r => r.owner = w.key)

/-- A wait in which a warp may be pre-empted (R407). -/
def Wait.preemptable : Wait → Bool
  | .registers | .rendezvous | .engine | .room | .barrier | .timeline | .queue | .monitor => true
  | _ => false

/-- PREQ.REQ of a block (R405). -/
def State.requested (s : State) (b : Nat) : Bool := match s.block? b with | some x => x.preq.getLsbD 0 | none => false

/-- The warp waits and will issue its instruction again (R357, R359); when its block must yield and the wait can be pre-empted, its save
begins (R407), and an open transaction aborts (R314). -/
def State.waits (s : State) (w0 : Warp) (r : Wait) : State :=
  let w1 : Warp := { w0 with st := .wait, waitOn := some r, foreign := r = .fragment, waitSince := if w0.waitOn = some r then w0.waitSince else s.coreCycle w0.core }
  s.putWarp (if r.preemptable && s.requested w0.blk then { w1.abortTx 4 0 0 with st := .save, saving := some false } else w1)

/-- The state a running warp returns to when it no longer waits (R357). -/
def Warp.running (w : Warp) : Warp := { w with st := .act, waitOn := none, foreign := false, checkKilled := [] }

/-- Lanes that a check kills before the instruction at the pc has run are remembered until it has (R197). -/
def Warp.noteChecked (w : Warp) (ks : List (Nat × LaneMask)) : Warp :=
  { w with checkKilled := ks.foldl (fun t k => tset t k.1 (tget 0 t k.1 ||| (k.2 &&& (w.bank k.1).em))) w.checkKilled }

/-- Move on after an instruction that retires at the pc after it. -/
def State.retire (s : State) (w0 w : Warp) : State :=
  let w1 : Warp := { w.running with pc := w.pc + 12#64, retired := w.retired + 1 }
  (s.putWarp (Warp.noteStores w0 { w1 with loopDue := w.loopEnds })).finishWarp w.key

/-- Apply the end of a warp-level meaning to the machine. -/
def State.finish (s : State) (w0 : Warp) (r : WRes) : State :=
  match r with
  | .fall w => if s.endBusy w0 w then s.waits w0 .log else s.retire w0 w
  | .jump w =>
    let w1 : Warp := { w.running with retired := w.retired + 1, loopDue := false }
    (s.putWarp ((w1.endLoops).canaryJump w0.pc)).finishWarp w.key
  | .switch w =>
    if s.endBusy w0 w then s.waits w0 .log
    else (s.putWarp { w.running with retired := w.retired + 1 }).finishWarp w.key
  | .trap w t => s.takeTrap w t w.pc
  | .done w => s.putWarp w
  | .wait r => s.waits w0 r
  | .abort c code a => s.putWarp ({ w0 with st := .act, waitOn := none }.abortTx c code a)
  | .kill w ks cause go =>
    let s1 := if go then s.retire w0 w else s.putWarp (w.noteChecked ks)
    let s2 := ks.foldl (fun s k => s.killLanes w.key k.1 k.2 cause w0.pc.toNat) s1
    (s2.modWarp w.key w0.pathCheck).finishWarp w.key

/-- Run a meaning of the current warp or foreman. -/
def warpOp (s : State) (f : Warp → WRes) : Res :=
  match s.curWarp with
  | none => .refused .noAgent
  | some w => .next (s.finish w (f w))

/-- As `warpOp`, for an instruction that aborts an open transaction with cause 7 (R313). -/
def warpOpNT (s : State) (f : Warp → WRes) : Res := warpOp s fun w => if w.tx.isSome then .abort 7 0 0 else f w

/-- Run a meaning of the current warp or foreman that changes other parts of the machine too: it answers the new machine and how the
instruction ends. -/
def machineOp (s : State) (f : State → Warp → State × WRes) : Res :=
  match s.curWarp with
  | none => .refused .noAgent
  | some w =>
    let (s1, r) := f s w
    .next (s1.finish w r)

/-- As `machineOp`, for an instruction that aborts an open transaction with cause 7 (R313). -/
def machineOpNT (s : State) (f : State → Warp → State × WRes) : Res :=
  machineOp s fun s w => if w.tx.isSome then (s, .abort 7 0 0) else f s w

end Sys2Proof.Machine
end

