-- ==== Sys2Proof/Machine/Mem.lean ====
section
/-!
DEFINITION. Physical memory and its translation: the physical map (R317–R319), where a capacity-tier byte is held (R334), reading and
performing writes with what a performed write does to others (R256, R303, R310, R416), the walk (R320–R323), segments (R325–R327) and
the cached translations (R329), the L1 (R248, R249).
-/

namespace Sys2Proof.Machine

/-! ## The physical map (R318, R319, R333) -/

def hbmTop : Nat := 0xC000000000
def capLo : Nat := 0x20000000000
def capHi : Nat := 0x40000000000
def roofLo : Nat := 0x40000000000
def roofHi : Nat := 0x41400000000
def hostLo : Nat := 0x8000000000000
def physTop : Nat := 0x10000000000000

/-- The compute die and the cluster of a core. -/
def dieOf (core : Nat) : Nat := core / 160
def clusterOf (core : Nat) : Nat := core / 8

namespace State

/-- C, the size of the memory-side cache carve-out (R333). -/
def mscC (s : State) : Nat := 2 ^ 34 * 2 ^ s.mscSize
def carveLo (s : State) : Nat := hbmTop - s.mscC
/-- The first byte of the device-reserved range (R319). -/
def reservedLo (s : State) : Nat := s.carveLo - 0x140000000

/-- The range of a physical address that only the device reaches (R319, R333). -/
def deviceOnly (s : State) (a : Nat) : Bool := s.reservedLo ≤ a && a < hbmTop

/-- The HBM4E address of the sector that fronts capacity offset `c`, and its tag (R334). -/
def sectorOf (s : State) (c : Nat) : Nat × Nat :=
  let h := s.carveLo + c % s.mscC
  (h - h % 2048, c / s.mscC)

/-- Capacity offset `c` is fronted by the cache (R334). -/
def fronted (s : State) (c : Nat) : Bool := c < 64 * s.mscC

/-- Where the newest copy of a physical byte is held: in the sector that fronts it, or at its own address (R334, R336). -/
def home (s : State) (a : Nat) : Nat :=
  if capLo ≤ a && a < capHi then
    let c := a - capLo
    if s.fronted c then
      let (sec, tag) := s.sectorOf c
      let m := tget {} s.sectors sec
      if m.v && m.tag = tag then sec + c % 2048 else a
    else a
  else a

/-- `n` bytes of physical memory from an address. -/
def physRead (s : State) (a n : Nat) : List Byte := (List.range n).map fun i => s.mem.read (s.home (a + i))

/-- The 128-byte lines a range of bytes touches. -/
def lineSpan (a n : Nat) : List Nat := if n = 0 then [] else (List.range ((a + n - 1) / 128 - a / 128 + 1)).map fun i => (a / 128 + i) * 128

/-- A byte range touches a poisoned line (R256). -/
def poisoned (s : State) (a n : Nat) : Bool := (lineSpan a n).any fun l => s.poison.contains (s.home l)

/-- Mark lines poisoned. -/
def addPoison (s : State) (ls : List Nat) : State := { s with poison := s.poison ++ (ls.map s.home).filter fun l => !s.poison.contains l }

/-- A sector that takes a write differs from LPDDR6 from then on (R335, R336). -/
def dirtySector (s : State) (a : Nat) : State :=
  if s.home a = a then s
  else { s with sectors := tmod s.sectors (s.home a - s.home a % 2048) fun m => { m with d := true } }

/-- Store bytes in physical memory: lines written whole are no longer poisoned (R256). -/
def physWrite (s : State) (a : Nat) (bs : List Byte) : State :=
  let whole := ((lineSpan a bs.length).filter fun l => a ≤ l && l + 128 ≤ a + bs.length).map s.home
  let ls := lineSpan a bs.length
  let mem := ((List.range bs.length).zip bs).foldl (fun m p => Memory.write m (s.home (a + p.1)) p.2) s.mem
  let s1 := ls.foldl dirtySector s
  { s1 with mem := mem, poison := s1.poison.filter fun l => !whole.contains l }

/-- A little-endian number in physical memory. -/
def physNat (s : State) (a n : Nat) : Nat := leNat (s.physRead a n)

/-! ## Translation (R317–R328) -/

end State

/-- What an access does, for the permission check (R328). -/
inductive Use where
  | read | write | fetch
  deriving DecidableEq, Repr

/-- A translated access: physical address and leaf. -/
structure Phys where
  pa : Nat
  leaf : Word
  deriving DecidableEq, Repr

namespace Leaf
def w (e : Word) : Bool := e.getLsbD 2
def x (e : Word) : Bool := e.getLsbD 3
def sup (e : Word) : Bool := e.getLsbD 4
def ca (e : Word) : Bool := e.getLsbD 5
def prop (e : Word) : Bool := e.getLsbD 6
def seg (e : Word) : Bool := e.getLsbD 7
def addr (e : Word) : Nat := (e.extractLsb' 8 44).toNat * 256
def tier (e : Word) : Nat := (e.extractLsb' 52 2).toNat
end Leaf

/-- The page size a leaf of a level maps, the index of a level and the size of its tables (R320). -/
def pageSize (lvl : Nat) : Nat := if lvl = 1 then 2 ^ 30 else if lvl = 2 then 2 ^ 21 else 2 ^ 16
def levelIndex (lvl va : Nat) : Nat := if lvl = 0 then va / 2 ^ 39 % 2 ^ 17 else if lvl = 1 then va / 2 ^ 30 % 512 else if lvl = 2 then va / 2 ^ 21 % 512 else va / 2 ^ 16 % 32
def tableSize (lvl : Nat) : Nat := if lvl = 0 then 2 ^ 20 else if lvl = 3 then 256 else 4096

namespace State

/-- A table lies in HBM4E outside the carve-out and the device-reserved range, aligned for its level (R322). -/
def tableOk (s : State) (t lvl : Nat) : Bool := t % tableSize lvl = 0 && t + tableSize lvl ≤ s.reservedLo

/-- The leaf rules of R323: the range of its tier, then replicated and roof-window pages. -/
def leafCheck (s : State) (e : Word) (size : Nat) : Option Nat :=
  let a := Leaf.addr e
  let n := if Leaf.prop e then 8 * size else size
  let inRange :=
    match Leaf.tier e with
    | 0 => a + n ≤ s.reservedLo
    | 1 => capLo ≤ a && a + n ≤ capHi
    | 2 => roofLo ≤ a && a + n ≤ roofHi
    | _ => hostLo ≤ a && a + n ≤ physTop
  if !inRange then some 3
  else if Leaf.prop e && (Leaf.tier e != 0 || !Leaf.ca e) then some 2
  else none

/-- The walk from a table on (R322): a leaf with its page size, or the cause of the fault. The list holds the levels still to come. -/
def walkFrom (s : State) (va : Nat) : List Nat → Nat → Except Nat (Word × Nat)
  | [], _ => .error 2
  | lvl :: rest, t =>
    let e := BitVec.ofNat 64 (s.physNat (t + 8 * levelIndex lvl va) 8)
    if !e.getLsbD 0 then .error 1
    else if e.extractLsb' 55 9 != 0 then .error 2
    else if e.getLsbD 1 then
      if lvl = 0 || Leaf.addr e % pageSize lvl != 0 then .error 2
      else match s.leafCheck e (pageSize lvl) with
        | some c => .error c
        | none => .ok (e, pageSize lvl)
    else if lvl = 3 || e.extractLsb' 2 6 != 0 || e.extractLsb' 52 12 != 0 then .error 2
    else if !s.tableOk (Leaf.addr e) (lvl + 1) then .error 2
    else walkFrom s va rest (Leaf.addr e)

/-- The addresses a table of a level spans, from 1. -/
def tableSpan (lvl : Nat) : Nat := if lvl = 1 then 2 ^ 39 else if lvl = 2 then 2 ^ 30 else 2 ^ 21

/-- The pointer of a core's walk cache from which a walk sets out: the deepest (R329). -/
def walkPointer (s : State) (core x va : Nat) : Option Pointer :=
  [3, 2, 1].findSome? fun lvl => s.walks.find? fun p => p.core = core && p.ctx = x && p.lvl = lvl && p.index = va / tableSpan lvl

/-- The root table of a context (R324). -/
def rootOfCtx (s : State) (x : Nat) : Nat := ((s.ctx x).ttroot.extractLsb' 20 32).toNat * 2 ^ 20

/-- The walk of a context's tables on behalf of a core (R322, R329). -/
def walkTables (s : State) (core x va : Nat) : Except Nat (Word × Nat) :=
  match s.walkPointer core x va with
  | some p => s.walkFrom va ([1, 2, 3].drop (p.lvl - 1)) p.table
  | none => if !s.tableOk (s.rootOfCtx x) 0 then .error 2 else s.walkFrom va [0, 1, 2, 3] (s.rootOfCtx x)

/-- The entries a walk reads: level, address, and the table each points at. -/
def stepsFrom (s : State) (va : Nat) : List Nat → Nat → List (Nat × Nat × Nat)
  | [], _ => []
  | lvl :: rest, t =>
    let a := t + 8 * levelIndex lvl va
    let e := BitVec.ofNat 64 (s.physNat a 8)
    (lvl, a, Leaf.addr e) :: (if e.extractLsb' 0 2 == 1 && s.tableOk (Leaf.addr e) (lvl + 1) then stepsFrom s va rest (Leaf.addr e) else [])

/-- The entries the walk of an address reads (R322). -/
def walkSteps (s : State) (core x va : Nat) : List (Nat × Nat × Nat) :=
  match s.walkPointer core x va with
  | some p => s.stepsFrom va ([1, 2, 3].drop (p.lvl - 1)) p.table
  | none => if s.tableOk (s.rootOfCtx x) 0 then s.stepsFrom va [0, 1, 2, 3] (s.rootOfCtx x) else []

/-- A translation that a core's caches hold (R329). -/
def cached (s : State) (core x va : Nat) : Option (Word × Nat) :=
  (s.tlb.find? fun l => l.core = core && l.ctx = x && l.va ≤ va && va < l.va + l.size).map fun l => (l.leaf, l.size)

/-- The fields of a segment descriptor in use (R326): base, size, stride. -/
def segFields (d : BitVec 256) : Option (Nat × Nat × Word) :=
  let base := (d.extractLsb' 0 56).toNat
  let size := (d.extractLsb' 64 64).toNat
  let stride := d.extractLsb' 128 64
  if size = 0 || base % 65536 != 0 || size % 65536 != 0 || stride.toNat % 65536 != 0 || 2 ^ 56 < base + size then none
  else some (base, size, stride)

/-- The stride of the lowest-numbered window that holds an address (R325). -/
def window (s : State) (x : Nat) (ea : Word) : Option Word :=
  (s.ctx x).segs.findSome? fun d =>
    match segFields d with
    | some (b, n, st) => if b ≤ ea.toNat && ea.toNat < b + n then some st else none
    | none => none

/-- The address translation is applied to: the member offset of a per-member window (R325). -/
def offsetVa (s : State) (x : Nat) (ea : Word) (midx : BitVec 16) : Word :=
  if ea.toNat < 2 ^ 56 then
    match s.window x ea with
    | some st => ea + midx.setWidth 64 * st
    | none => ea
  else ea

/-- Translation of an access made from a core (R317, R325, R328): the physical address and leaf, or the cause and the reported address. Causes
in the order of R328. -/
def translate (s : State) (core x : Nat) (ea : Word) (midx : BitVec 16) (use : Use) (sup : Bool) : Except (Nat × Word) Phys :=
  let va := s.offsetVa x ea midx
  if 2 ^ 56 ≤ va.toNat then .error (0, va)
  else
    let leaf := match s.cached core x va.toNat with
      | some r => Except.ok r
      | none => s.walkTables core x va.toNat
    match leaf with
    | .error c => .error (c, va)
    | .ok (e, size) =>
      if Leaf.seg e != (s.window x ea).isSome then .error (5, va)
      else if (use = .write && !Leaf.w e) || (use = .fetch && !Leaf.x e) || (Leaf.sup e && !sup) then .error (4, va)
      else .ok ⟨Leaf.addr e + va.toNat % size, e⟩

/-! ## The roof window (R252, R253) -/

/-- A roof-window address that reaches no far scratch: above the bank's far scratch, or at a core with no roof. -/
def roofFault (s : State) (pa : Nat) : Bool :=
  roofLo ≤ pa && pa < roofHi &&
    let g := (pa - roofLo) / 2 ^ 26
    let o := (pa - roofLo) % 2 ^ 26
    2 ^ 26 - 2 ^ 22 * tget 0 s.ways g ≤ o || (tget 0 s.roofst g).extractLsb' 0 2 == 3

def isHost (pa : Nat) : Bool := hostLo ≤ pa && pa < physTop
def isRoof (pa : Nat) : Bool := roofLo ≤ pa && pa < roofHi

/-- A line the L1 may hold: of a page that allows caching, not far scratch (R248, R252). -/
def l1Ok (p : Phys) : Bool := Leaf.ca p.leaf && !isRoof p.pa

/-! ## The cache ways of a bank (R250–R254) -/

/-- A write by a core to a page goes to the cache ways of its bank, which then hold the line newer than memory (R254, R259). -/
def waysTake (s : State) (core : Nat) (ph : Phys) (cache : Nat) : Bool :=
  Leaf.ca ph.leaf && !isRoof ph.pa && cache != 1 && tget 0 s.ways core != 0 && (tget 0 s.roofst core).extractLsb' 0 2 != 3

/-- The lines of a range are recalled from the cache ways of every core but one (R254). -/
def callBack (s : State) (core pa n : Nat) : State :=
  { s with dirty := s.dirty.filter fun p => p.1 = core || !(lineSpan pa n).contains p.2 }

/-- A core's cache ways own the lines of a range. -/
def ownLines (s : State) (core pa n : Nat) : State :=
  { s with dirty := s.dirty ++ ((lineSpan pa n).map fun l => (core, l)).filter fun p => !s.dirty.contains p }

/-- What the cache ways of a core hold is written back (R251, R269). -/
def cleanWays (s : State) (core : Nat) : State := { s with dirty := s.dirty.filter fun p => p.1 != core }

/-! ## What a performed access does to others -/

/-- A transaction of another warp that tracks a line: its abort with cause 1 (R310). -/
def conflicts (s : State) (who : Nat) (line : Nat) (write : Bool) : State :=
  { s with warps := s.warps.map fun (p : Nat × Warp) =>
      if p.1 = who then p
      else match p.2.tx with
        | none => p
        | some t =>
          if t.pending.isNone && (t.writes.contains line || (write && t.reads.contains line)) then
            (p.1, { p.2 with tx := some { t with pending := some (1, 0, tget 0 t.vlines line) } })
          else p }

/-- Armed monitors of other warps on a line are written (R416); on host memory only writes by device agents count. -/
def wakeMonitors (s : State) (who : Nat) (line : Nat) : State :=
  { s with warps := s.warps.map fun (p : Nat × Warp) =>
      if p.1 != who && p.2.mon.armed && p.2.mon.pline = line then (p.1, { p.2 with mon := { p.2.mon with written := true } }) else p }

/-- Perform a write at its serialisation point on behalf of a warp or foreman, or of another agent (`noWarp`): memory, the cache ways of other
cores (R254), monitors, open transactions of others. -/
def perform (s : State) (who a : Nat) (bs : List Byte) : State :=
  let s1 := (s.physWrite a bs).callBack (who / 32) a bs.length
  (lineSpan a bs.length).foldl (fun s l => (s.conflicts who l true).wakeMonitors who l) s1

/-- The key that stands for an agent that is no warp or foreman. -/
def noWarp : Nat := 1000000

/-- A read by an agent, as the cache ways of other cores (R254) and open transactions of others see it (R310). -/
def readBy (s : State) (who a n : Nat) : State := (lineSpan a n).foldl (fun s l => s.conflicts who l false) (s.callBack (who / 32) a n)

/-! ## Filling the translation caches (R329) -/

/-- Room for one more translation and for the pointers of its walk (R329): the caches are small and not fully associative, so a fill may put out
any entry of the core, and at capacity the oldest goes. -/
def tlbRoom (s : State) (core pointers : Nat) : State :=
  let mine := s.tlb.filter fun l => l.core = core && Config.leafStays s.tick l.va
  let held := s.walks.filter fun p => p.core = core && Config.leafStays s.tick p.table
  { s with
    tlb := s.tlb.filter (fun l => l.core != core) ++ mine.drop (mine.length - 2143),
    walks := s.walks.filter (fun p => p.core != core) ++ held.drop (held.length - (64 - pointers)) }

/-- A translation that no cache of the core holds is walked, its entries read as by an agent other than a warp; a walk that ends in a valid leaf
is kept with the pointers it followed (R322, R329). -/
def fillVa (s : State) (core x va : Nat) : State :=
  if 2 ^ 56 ≤ va || (s.cached core x va).isSome then s
  else
    let steps := s.walkSteps core x va
    let s1 := steps.foldl (fun s e => s.readBy noWarp e.2.1 8) s
    match s.walkTables core x va with
    | .error _ => s1
    | .ok (e, size) =>
      let ptrs := (steps.take (steps.length - 1)).map fun (st : Nat × Nat × Nat) => (⟨core, x, st.1 + 1, va / tableSpan (st.1 + 1), st.2.2⟩ : Pointer)
      let s2 := s1.tlbRoom core ptrs.length
      { s2 with tlb := s2.tlb ++ [⟨core, x, va - va % size, size, e⟩], walks := s2.walks ++ ptrs }

/-- The same for the address an access is translated at. -/
def fillTlb (s : State) (core x : Nat) (ea : Word) (midx : BitVec 16) : State := s.fillVa core x (s.offsetVa x ea midx).toNat

/-- The translations of a core for a context, and the context's segment descriptors, as an access in flight keeps them (R327, R330). -/
def viewNow (s : State) (core x : Nat) : View := ⟨(s.ctx x).segs, s.tlb.filter fun l => l.core = core && l.ctx = x⟩

/-- The machine as an access in flight sees its translations. -/
def under (s : State) (x : Nat) : Option View → State
  | none => s
  | some v => { s.modCtx x (fun c => { c with segs := v.segs }) with tlb := v.leaves ++ s.tlb }

/-! ## Replicated pages (R303) -/

/-- The size of the page a leaf belongs to is the distance between replicas; the leaf's page is found again from the cached or walked
translation. -/
def replicaStride (s : State) (core x : Nat) (ea : Word) (midx : BitVec 16) : Nat :=
  let va := (s.offsetVa x ea midx).toNat
  match s.cached core x va with
  | some (_, n) => n
  | none => match s.walkTables core x va with
    | .ok (_, n) => n
    | .error _ => 0

/-- Queue a write for every replica but the primary, which is die 0's (R303, R323). -/
def toReplicas (s : State) (who pa stride : Nat) (bs : List Byte) : State :=
  { s with replicas := s.replicas ++ ([1, 2, 3, 4, 5, 6, 7].map fun d => ⟨who, d, pa + d * stride, bs⟩) }

/-! ## The L1 (R248, R249) -/

/-- The core whose L1 holds a line for a core (R249). -/
def l1Core (s : State) (core pa : Nat) : Nat :=
  if s.fused.contains (clusterOf core) then clusterOf core * 8 + pa / 128 % 8 else core

def l1Line (s : State) (core pa : Nat) : Option (List Byte) := tfind (tget [] s.l1 (s.l1Core core pa)) (pa / 128 * 128)

def l1Drop (s : State) (core pa : Nat) : State :=
  let c := s.l1Core core pa
  { s with l1 := tset s.l1 c (tdel (tget [] s.l1 c) (pa / 128 * 128)) }

def l1Fill (s : State) (core pa : Nat) : State :=
  let c := s.l1Core core pa
  let l := pa / 128 * 128
  { s with l1 := tset s.l1 c (tset (tget [] s.l1 c) l (s.physRead l 128)) }

/-- A store changes its own bytes in the copy of each line it touches, when one is present (R248). -/
def l1Update (s : State) (core pa : Nat) (bs : List Byte) : State :=
  (lineSpan pa bs.length).foldl (fun s l =>
    match s.l1Line core l with
    | none => s
    | some old =>
      let c := s.l1Core core l
      let new := (List.range 128).map fun i => if pa ≤ l + i && l + i < pa + bs.length then bs.getD (l + i - pa) 0 else old.getD i 0
      { s with l1 := tset s.l1 c (tset (tget [] s.l1 c) l new) }) s

/-- The lines of a range are given up (R248, R259). -/
def l1DropSpan (s : State) (core pa n : Nat) : State := (lineSpan pa n).foldl (fun s l => s.l1Drop core l) s

/-- Invalidate the L1 of a core, with the whole cluster when it is fused (R248, R249). -/
def l1Clear (s : State) (core : Nat) : State :=
  if s.fused.contains (clusterOf core) then { s with l1 := s.l1.filter fun p => clusterOf p.1 != clusterOf core }
  else { s with l1 := tdel s.l1 core }

/-- The invalidation an acquire of a warp performs, by its scope (R248, R249): cluster or wider, die or wider when fused. -/
def acquire (s : State) (core scope : Nat) : State :=
  if (if s.fused.contains (clusterOf core) then 3 else 2) ≤ scope then s.l1Clear core else s

/-! ## Blocks that have ended (R277, R242, R361) -/

/-- A warp record holds nothing more: it has ended and nothing it issued is outstanding. -/
def warpOver (s : State) (w : Warp) : Bool :=
  w.ended && w.log = [] && !(s.copies.any fun c => c.2.owner = w.key) && !(s.replicas.any fun r => r.owner = w.key)

/-- A block has ended: its warps and foreman have ended or it was aborted, and its copies and jobs are complete. -/
def blockOver (s : State) (k : Nat) (b : Block) : Bool :=
  (b.savedWarps = [] || b.aborted) && b.jobs = 0 && ((s.warps.map (·.2)).all fun w => w.blk != k || s.warpOver w) &&
  !(s.copies.any fun c => c.2.blk = k)

end State

end Sys2Proof.Machine
end

