-- ==== Sys2Proof/Machine/Msc.lean ====
section
/-!
DEFINITION. The memory-side cache: a line request (R336), the loss of a sector (R338) and the requests of uncached lines (R492). The newest
copy of a fronted byte is in its sector while the sector holds its tag, else in LPDDR6 (R334).
-/

namespace Sys2Proof.Machine

namespace State

/-- Copy 2 KiB from one physical place to another, poison included; with `errs`, a line of the source that reads with an uncorrectable error
arrives poisoned (R338). -/
def moveSector (s : State) (src dst : Nat) (errs : Bool) : State :=
  let bs := s.mem.readBytes src 2048
  let bad := (List.range 16).filter fun i => s.poison.contains (src + 128 * i) || (errs && Config.lineErr s.tick (src + 128 * i))
  { s with
    mem := s.mem.writeBytes dst bs,
    poison := (s.poison.filter fun l => !(dst ≤ l && l < dst + 2048)) ++ bad.map fun i => dst + 128 * i }

/-- The LPDDR6 address a sector with tag `t` stands for. -/
def sectorBack (s : State) (sec t : Nat) : Nat := capLo + t * s.mscC + (sec - s.carveLo)

/-- No line of the sector reads correctly (R338). Such errors come when they will. -/
def sectorBad (s : State) (sec : Nat) : Bool := (List.range 16).all fun i => Config.lineErr s.tick (sec + 128 * i)

/-- With no good line, the sector's lines of LPDDR6 are poisoned for each of the 64 tags (R333: those within the tier), the sector becomes invalid and the loss is reported
(R338). -/
def sectorLoss (s : State) (sec : Nat) : State :=
  let ls := (List.range 64).flatMap fun t => (List.range 16).map fun i => s.sectorBack sec t + 128 * i
  let ls := ls.filter fun l => l < capHi
  let s1 : State := { s with
    sectors := tset s.sectors sec {},
    poison := (s.poison.filter fun l => !(sec ≤ l && l < sec + 2048) && !ls.contains l) ++ ls }
  s1.logDevice (({} : ErrRec).add 5 0 (0x678 + sec / 4096 % 8) sec)

/-- A request for the 128-byte line at a capacity-tier address (R336). -/
def mscServe (s : State) (line : Nat) (write mscb bypass : Bool) : State :=
  let c := line - capLo
  if line < capLo || capHi ≤ line || !s.fronted c then s
  else
    let (sec, tag) := s.sectorOf c
    let s := if s.sectorBad sec then s.sectorLoss sec else s
    let m := tget {} s.sectors sec
    if m.v && m.tag = tag then
      if write then { s with sectors := tset s.sectors sec { m with d := true } } else s
    else if mscb || bypass then s
    else
      let s1 := if m.v && m.d then s.moveSector sec (s.sectorBack sec m.tag) true else s
      let s2 := s1.moveSector (s.sectorBack sec tag) sec false
      { s2 with sectors := tset s2.sectors sec { tag := tag, v := true, d := write } }

/-- The requests an access to uncached capacity-tier lines makes below the home slice, before it is performed there (R492). -/
def uncached (s : State) (ph : Phys) (n : Nat) (read write : Bool) : State :=
  if Leaf.ca ph.leaf || Leaf.tier ph.leaf != 1 then s
  else (lineSpan ph.pa n).foldl (fun s l =>
    let s1 := if read then s.mscServe l false (ph.leaf.getLsbD 54) false else s
    if write then s1.mscServe l true (ph.leaf.getLsbD 54) false else s1) s

end State

/-- A line request at the memory-side cache (R336): a fill or a write-back of a home slice, or an uncached-bypass request. -/
def execMscRequest (line : Nat) (write mscb bypass : Bool) (s : State) : Res := .next (s.mscServe (line / 128 * 128) write mscb bypass)

/-- An access to an uncached capacity-tier line, by an agent other than a warp, goes below its home slice as a line request, with MSCB 0
(R492). A warp's own accesses make theirs when they are performed. -/
def execUncachedLineAccess (line : Nat) (write : Bool) (s : State) : Res := .next (s.mscServe (line / 128 * 128) write false false)

end Sys2Proof.Machine
end

