-- ==== Sys2Proof/Machine/Agents.lean ====
section
/-!
DEFINITION. Memory as the agents other than warps reach it: engines, Seam cores, the block scheduler and the host, at virtual addresses of a
context (R317, R325, R328), with the errors their commands record (R461).
-/

namespace Sys2Proof.Machine

/-- An error of a command: class, DETAIL and ADDR (R461). -/
structure AgentErr where
  cls : Nat
  detail : Nat
  addr : Nat
  deriving DecidableEq, Repr

namespace State

/-- Split `n` bytes from `a` at 64 KiB boundaries: offset and length of each piece. -/
def pagePieces (a n : Nat) : List (Nat × Nat) :=
  let first := 65536 - a % 65536
  if n ≤ first then (if n = 0 then [] else [(0, n)])
  else (0, first) :: (List.range ((n - first + 65535) / 65536)).map fun i => (first + 65536 * i, min 65536 (n - first - 65536 * i))

/-- Translate each piece of an access with a member index: offset, length and place; or class, cause and reported address of its first
fault (R252, R328). An access of a core goes through its translation caches; the other agents of the device share one set (R329, log
entry 77). -/
def pageLocate (s : State) (x : Nat) (va : Word) (midx : BitVec 16) (n : Nat) (use : Use) (sup : Bool) (core : Nat := noWarp) :
    Except (Nat × Nat × Word) (List (Nat × Nat × Phys)) :=
  (pagePieces va.toNat n).foldl (fun acc p => match acc with
    | .error e => .error e
    | .ok l =>
      let ea := va + BitVec.ofNat 64 p.1
      match s.translate core x ea midx use sup with
      | .error (c, a) => .error (18, c, a)
      | .ok ph => if s.roofFault ph.pa then .error (19, 0, s.offsetVa x ea midx) else .ok (l ++ [(p.1, p.2, ph)])) (.ok [])

/-- As `pageLocate`, with the error a command records. A roof-window address outside every far scratch is recorded as a leaf out of range
(log entry 40). -/
def agentLocate (s : State) (x : Nat) (va : Word) (midx : BitVec 16) (n : Nat) (use : Use) (sup : Bool := false) (core : Nat := noWarp) :
    Except AgentErr (List (Nat × Nat × Phys)) :=
  match s.pageLocate x va midx n use sup core with
  | .error (c, d, a) => .error ⟨2, if c = 19 then 3 else d, a.toNat⟩
  | .ok l => .ok l

/-- The physical address an agent on a die reads: the replica of that die on a replicated page (R303). -/
def agentReadAddr (s : State) (x die : Nat) (ea : Word) (midx : BitVec 16) (ph : Phys) (core : Nat := noWarp) : Nat :=
  if Leaf.prop ph.leaf then ph.pa + die * s.replicaStride core x ea midx else ph.pa

/-- The translations an agent has used are kept (R329), their walks read by the device (R322). -/
def agentFill (s : State) (x : Nat) (va : Word) (midx : BitVec 16) (n : Nat) (core : Nat := noWarp) : State :=
  (pagePieces va.toNat n).foldl (fun s p => s.fillTlb core x (va + BitVec.ofNat 64 p.1) midx) s

/-- The poisoned lines of an access, as virtual line addresses. -/
def agentPoisons (s : State) (x die : Nat) (va : Word) (midx : BitVec 16) (ps : List (Nat × Nat × Phys)) (core : Nat := noWarp) :
    List Nat :=
  ps.flatMap fun p =>
    let ea := va + BitVec.ofNat 64 p.1
    let pa := s.agentReadAddr x die ea midx p.2.2 core
    (lineSpan pa p.2.1).filterMap fun l =>
      if s.poison.contains (s.home l) then some ((ea.toNat + (l - pa)) / 128 * 128) else none

/-- The first of them. -/
def agentPoison (s : State) (x die : Nat) (va : Word) (midx : BitVec 16) (ps : List (Nat × Nat × Phys)) (core : Nat := noWarp) :
    Option Nat := (s.agentPoisons x die va midx ps core).head?

/-- Bytes read by an agent, its reads seen by open transactions (R310); the caller has translated them. -/
def agentBytes (s : State) (x die : Nat) (va : Word) (midx : BitVec 16) (ps : List (Nat × Nat × Phys)) (core : Nat := noWarp) :
    List Byte := ps.flatMap fun p => s.physRead (s.agentReadAddr x die (va + BitVec.ofNat 64 p.1) midx p.2.2 core) p.2.1

/-- Read `n` bytes at a virtual address for an agent, or the error its command records. -/
def agentRead (s : State) (x die : Nat) (va : Word) (midx : BitVec 16) (n : Nat) (sup : Bool := false) : Except AgentErr (List Byte) :=
  match s.agentLocate x va midx n .read sup with
  | .error e => .error e
  | .ok ps => match s.agentPoison x die va midx ps with
    | some l => .error ⟨3, 0, l⟩
    | none => .ok (s.agentBytes x die va midx ps)

/-- What a read by an agent does to others: open transactions that write the lines abort (R310), uncached capacity-tier lines are requested
(R492). -/
def agentTouch (s : State) (x die : Nat) (va : Word) (midx : BitVec 16) (n : Nat) (sup : Bool := false) (core : Nat := noWarp) :
    State :=
  match s.agentLocate x va midx n .read sup core with
  | .error _ => s
  | .ok ps => ps.foldl (fun s p =>
      (s.uncached p.2.2 p.2.1 true false).readBy noWarp (s.agentReadAddr x die (va + BitVec.ofNat 64 p.1) midx p.2.2 core) p.2.1)
      (s.agentFill x va midx n core)

/-- Write bytes at a virtual address for an agent, with the replicas of a replicated page (R303): the machine, or the error. `who` is the
agent whose write it is, or `noWarp`. -/
def agentWrite (s : State) (who x : Nat) (va : Word) (midx : BitVec 16) (bs : List Byte) (sup : Bool := false) (core : Nat := noWarp) :
    Except AgentErr State :=
  match s.agentLocate x va midx bs.length .write sup core with
  | .error e => .error e
  | .ok ps => .ok (ps.foldl (fun s p =>
      let part := (bs.drop p.1).take p.2.1
      let s1 := (s.uncached p.2.2 p.2.1 false true).perform who p.2.2.pa part
      if Leaf.prop p.2.2.leaf then s1.toReplicas who p.2.2.pa (s.replicaStride core x (va + BitVec.ofNat 64 p.1) midx) part else s1)
      (s.agentFill x va midx bs.length core))

/-- Write bytes for an agent where an error leaves memory as it is. -/
def agentStore (s : State) (x : Nat) (va : Word) (bs : List Byte) : State :=
  match s.agentWrite noWarp x va 0 bs with
  | .ok s1 => s1
  | .error _ => s

/-- The host lets a write be performed: a device line it may hold has answered the snoop, a cacheable host line has been granted (R468). -/
def hostReady (s : State) (pa n : Nat) (cacheable : Bool) : Bool :=
  (lineSpan pa n).all fun l => !(s.hostHeld.contains l) && (!isHost pa || !cacheable || s.hostOwned.contains l)

/-- The host lets an agent write these bytes; a write that faults needs no leave (R468). -/
def agentReady (s : State) (x : Nat) (va : Word) (n : Nat) : Bool :=
  match s.agentLocate x va 0 n .write with
  | .error _ => true
  | .ok ps => ps.all fun p => s.hostReady p.2.2.pa p.2.1 (Leaf.ca p.2.2.leaf)

/-- Write a completion entry at a virtual address (R460, R462): one whose own write faults goes to the device error log. -/
def writeEntry (s : State) (x : Nat) (va : Word) (e : ErrRec) : State :=
  match s.agentWrite noWarp x va 0 e.bytes with
  | .ok s1 => s1
  | .error _ => s.logDevice e

/-- The physical address and the value of a timeline counter of a context (R285). -/
def timelineAt (s : State) (x c : Nat) : Nat := (s.ctx x).tlblk.toNat + 8 * c
def timeline (s : State) (x c : Nat) : Nat := s.physNat (s.timelineAt x c) 8

/-- An advance is performed: the counter becomes the larger of its value and `v` (R285). -/
def advance (s : State) (x c : Nat) (v : Word) : State :=
  if s.timeline x c < v.toNat then s.perform noWarp (s.timelineAt x c) (leBytes 8 v.toNat) else s

/-- An advance is on its way to its counter; `owner` is the warp whose own access it is (R293). -/
def postAdvance (s : State) (x c : Nat) (v : Word) (owner : Option Nat := none) : State :=
  s.modCtx x fun k => { k with adv := k.adv ++ [(c, v, owner)] }

/-- The host lets a counter's word be written (R468). -/
def counterReady (s : State) (x c : Nat) : Bool := s.hostReady (s.timelineAt x c) 8 false

/-- Writes of agents are on their way to replicas (R303). -/
def agentWritesDue (s : State) : Bool := s.replicas.any fun r => r.owner = noWarp

/-- An agent's advance, a release of its writes (R285): it is performed at once, or is on its way until they are performed and the host lets it. -/
def signal (s : State) (x c : Nat) (v : Word) : State :=
  if s.counterReady x c && !s.agentWritesDue then s.advance x c v else s.postAdvance x c v

/-- A warp's own advance of a counter is still on its way: its later accesses of the counter come after it (R293, R298(a)). -/
def ownAdvance (s : State) (k x c : Nat) : Bool := (s.ctx x).adv.any fun a => a.1 = c && a.2.2 = some k

/-- Bytes at which a warp's own advances are still on their way. -/
def advancesDue (s : State) (k x : Nat) : List (Nat × Nat) :=
  ((s.ctx x).adv.filter fun a => a.2.2 = some k).map fun a => (s.timelineAt x a.1, 8)

end State

end Sys2Proof.Machine
end

