-- ==== Sys2Proof/Machine/Operands.lean ====
section
/-!
DEFINITION. The operand forms: integer and floating-point operands of every class (R34, R37, R181, R265), third sources (R27), the three
shapes of a register instruction — vector, scalar and predicate result — with the checks they share (R104, R105, R120, R126), soft-error
injection (R466) and duplicate mode (R81).
-/

namespace Sys2Proof

/-- The index of a specifier. -/
def Spec.num : Spec → Nat
  | .vec n | .scl n | .spc n | .imm n => n.toNat

/-- No destination (R35). -/
def Spec.none? : Spec → Bool
  | .imm _ => true
  | _ => false

end Sys2Proof

namespace Sys2Proof.Machine

/-- A source operand with no modifier and no policy: a third source (R27). -/
def plainSrc (s : Spec) : Src := ⟨s, 0, false⟩

/-- The third source of a form R word (R27). -/
def thirdSrc (x : BitVec 18) : Src := plainSrc (xSpec x)

namespace Warp

/-- A floating-point operand of at most 32 bits: element `e` of the lane (R157, R181), a scalar's bits, or a converted immediate (R34). -/
def fltSmall (w : Warp) (f : Fmt) (m : Nat) (s : Src) (l e : Nat) : Nat :=
  match s.spec with
  | .vec n => (w.modGet m (w.xlat n.toNat) s.mod l).toNat / 2 ^ (f.width * e) % 2 ^ f.width
  | .scl n => (w.sget m n.toNat).toNat / 2 ^ (f.width * e) % 2 ^ f.width
  | .imm n => immFloat f n
  | .spc _ => 0

/-- An FP64 operand. -/
def flt64 (w : Warp) (m : Nat) (s : Src) (l : Nat) : Nat :=
  match s.spec with
  | .imm n => immFloat Fmt.f64 n
  | _ => (w.int64 m s l).toNat

/-- A floating-point operand of any format. -/
def flt (w : Warp) (f : Fmt) (m : Nat) (s : Src) (l e : Nat) : Nat :=
  if f.width = 64 then w.flt64 m s l else w.fltSmall f m s l e

/-- A scalar operand as 64 bits for a member (R143). -/
def scl (w : Warp) (m : Nat) (s : Src) : Word := w.sval m s.spec

/-- One of the sources is private (R103). -/
def anyPrivate (w : Warp) (ss : List Src) : Bool := ss.any fun s => !w.common? s.spec

/-- A source and its width in vector registers. -/
abbrev Operand := Src × Nat

/-- What the source operands need, and whether one is misaligned after translation. -/
def needs (w : Warp) (os : List Operand) : List Need := os.flatMap fun o => w.needsOf o.2 o.1
def misfits (w : Warp) (os : List Operand) : Bool := os.any fun o => w.misfit o.2 o.1.spec

/-- WSTAT.DSRC is set when a modifier of a source reads a dead lane (R37). -/
def noteDead (w : Warp) (h : Hdr) (os : List Operand) : Warp := w.dsrc (os.any fun o => w.modDead h o.1)

/-- The member whose view gives a lane's value of a common result, which is computed once (R104, log entry 9): the first active member in
which the lane takes part. -/
def firstIn (w : Warp) (h : Hdr) (m l : Nat) : Nat := (w.active.find? fun x => (w.part h x).getLsbD l).getD m

/-- Values by member and lane, or computed once for all members (R104). -/
def valuesOf {α : Type} (w : Warp) (h : Hdr) (once : Bool) (f : Nat → Nat → α) : Nat → Nat → α :=
  if once then fun m l => f (w.firstIn h m l) l else f

/-- A test of the lanes taking part, in each active member, or once for a common result (R104). -/
def laneTest (w : Warp) (h : Hdr) (once : Bool) (f : Nat → Nat → Bool) : Bool :=
  if once then (w.union h).toList.any fun l => f (w.firstIn h 0 l) l else w.active.any fun m => (w.part h m).toList.any (f m)

/-- As `noteDead`, for a common result. -/
def noteDeadOnce (w : Warp) (h : Hdr) (os : List Operand) : Warp :=
  w.dsrc (w.laneTest h true fun m l =>
    os.any fun o => (match o.1.spec with | .vec _ => true | _ => false) && o.1.mod != 0 && (w.bank m).dead.getLsbD (modLane o.1.mod l))

/-- A per-lane instruction with a vector result of `k` registers: `f m l` gives the values written in lane `l` for member `m`. `priv` marks
a result that is private whatever the sources (R103); a result that is common is computed once (R104). The operands `own` are read for each
member and lane although they do not make the result private (R189: `vsel`). -/
def vecOp (w : Warp) (h : Hdr) (dst : Spec) (k : Nat) (os : List Operand) (priv : Bool) (f : Nat → Nat → List Lane32)
    (own : List Operand := []) : WRes :=
  let d := w.xlat dst.num
  let varied := priv || w.anyPrivate (os.map (·.1))
  let once := !varied && own.isEmpty
  w.checked h (w.needs (os ++ own) ++ w.needsDst k dst) (w.misfits os || w.misfit k dst) (w.commonV d && varied)
    (.fall (
      let w1 := w.vecWrite h d k (w.valuesOf h once f)
      if once || w.commonV d then w1.noteDeadOnce h os else w1.noteDead h os))

/-- A uniform instruction with a scalar result: `f m` gives the value for member `m` (R104, R143). Under guard 0b1111 its operands are still looked
at (DESIGN CHOICE, log entry 79); with `mm` = 0 a common destination is written when no source is private (log entry 80). -/
def sclOp (w : Warp) (h : Hdr) (dst : Spec) (os : List Operand) (priv : Bool) (f : Nat → Word) : WRes :=
  w.checked h (w.needs os ++ w.needsDst 1 dst) false (dst.num < 128 && (priv || w.anyPrivate (os.map (·.1))))
    (.fall (if never h || (w.active = [] && 128 ≤ dst.num) then w else w.sclWrite dst.num f))

/-- Write a predicate of every active member with a value for each lane that takes part (R104). -/
def predWrite (w : Warp) (h : Hdr) (n : Nat) (f : Nat → Nat → Bool) : Warp :=
  w.active.foldl (fun w1 m => w1.gput m n (w.part h m) (LaneMask.ofPred fun l => (w.part h m).getLsbD l && f m l)) w

/-- A per-lane instruction with a predicate result (R104): predicates are private, and common sources are computed with once. -/
def predOp (w : Warp) (h : Hdr) (dst : Spec) (os : List Operand) (f : Nat → Nat → Bool) : WRes :=
  let once := !w.anyPrivate (os.map (·.1))
  w.checked h (w.needs os) (w.misfits os) false
    (.fall (
      let w1 := w.predWrite h dst.num (w.valuesOf h once f)
      if once then w1.noteDeadOnce h os else w1.noteDead h os))

end Warp

/-- A uniform instruction under guard 0b1111 has no effect (R40). -/
def unlessNever (h : Hdr) (w : Warp) (k : WRes) : WRes := if Warp.never h then .fall w else k

namespace Warp

/-! ## Soft errors and duplicate mode (R81, R466) -/

/-- The lane a pending injection meets in this instruction, if it takes part (R466). -/
def injected (w : Warp) (h : Hdr) : Option (Nat × Nat × Nat × Nat) :=
  match w.inject with
  | some (kind, bit, lane, slot) => if w.active.contains slot && (w.part h slot).getLsbD lane then some (kind, bit, lane, slot) else none
  | none => none

/-- A lane whose operation its partner recomputes (R81): the partner does not take part and is not dead. -/
def dupChecks (w : Warp) (h : Hdr) (m l : Nat) : Bool :=
  w.wstat.getLsbD 2 && !(w.part h m).getLsbD (l ^^^ 16) && !(w.bank m).dead.getLsbD (l ^^^ 16)

/-- A lane of a vector register of one copy as it was in `w0`: the write of a lane that a check kills never becomes visible (R193). -/
def unput (w0 w : Warp) (m r l : Nat) : Warp :=
  let back := fun (row : List Lane32) => lset row l (w0.vget m r l)
  let bad := fun (x : LaneMask) => putBit (w0.badAt' m r l) x l
  if w.vget m r l = w0.vget m r l && w.badAt' m r l == w0.badAt' m r l then w
  else if w.commonV r then { w with v := tmod w.v r back, bad := tmod w.bad r bad }
  else w.setBank m { w.bank m with v := tmod (w.bank m).v r back, bad := tmod (w.bank m).bad r bad }

/-- Apply a pending injection to the result of a vector-family instruction, whose first destination register or predicate is `dst`: an
inverted bit, or an uncorrectable result (R466, R449). Where duplicate mode checks the lane it meets the mismatch: the lane is killed before
its write becomes visible (R81, R193). -/
def soften (w0 : Warp) (h : Hdr) (dst : Spec) (r : WRes) : WRes :=
  match r, w0.injected h with
  | .fall w, some (kind, bit, lane, slot) =>
    let w : Warp := { w with inject := none }
    match dst, kind with
    | .vec n, 1 =>
      let d := w0.xlat n.toNat
      if w0.dupChecks h slot lane then .kill (unput w0 (unput w0 w slot d lane) slot (d + 1) lane) [(slot, 1#96 <<< lane)] 5 true
      else .fall (w.vput slot d (1#96 <<< lane) (laneNumbers.map fun l => w.vget slot d l ^^^ (1#32 <<< bit)))
    | .vec n, _ =>
      let d := w0.xlat n.toNat
      if w.commonV d then .fall { w with bad := tset w.bad d (tget 0 w.bad d ||| (1#96 <<< lane)) }
      else .fall (w.setBank slot { w.bank slot with bad := tset (w.bank slot).bad d (tget 0 (w.bank slot).bad d ||| (1#96 <<< lane)) })
    | .spc n, 1 =>
      if bit != 0 then .fall w
      else if w0.dupChecks h slot lane then
        .kill (w.gput slot n.toNat (1#96 <<< lane) (tget 0 (w0.bank slot).g n.toNat)) [(slot, 1#96 <<< lane)] 5 true
      else .fall (w.gput slot n.toNat (1#96 <<< lane) (~~~(tget 0 (w.bank slot).g n.toNat)))
    | .spc n, _ => .fall (w.setBank slot { w.bank slot with badG := putBit true (w.bank slot).badG n.toNat })
    | _, _ => .fall w
  | r, _ => r

end Warp

end Sys2Proof.Machine
end

