-- ==== Sys2Proof/Machine/Access.lean ====
section
/-!
DEFINITION. Memory accesses of warps and foremen: forming them at issue with the checks of R264, holding them in the operand log (R402),
the order in which they may be performed (R298, R303, R305, R468), and performing loads, stores, atomics, ordered contributions, exact
cells, path tables and monitors.
-/

namespace Sys2Proof.Machine

/-! ## Forming an access (R29, R104–R106, R264, R265) -/

/-- Bytes one part of an entry covers. -/
def LogEntry.size (e : LogEntry) : Nat :=
  match e.acc with
  | .load n _ | .sload n | .store n | .atomic _ n => n
  | .zero | .tableLoad | .tableStore => 128
  | .ordered d => if d then 8 else 4
  | .release => 4
  | .exactStore | .windowStore => e.blob.length
  | .exactLoad | .windowLoad | .exactAdd | .exactMerge => 576
  | .bind _ => 64
  | .scales _ => 512
  | .monitor => 1
  | .copy _ | .command => 0

/-- Two ranges of virtual addresses may be the same bytes: they overlap within a page granule. -/
def mayAlias (a n b m : Nat) : Bool := (a + (65536 - b % 65536)) % 65536 < m || (b + (65536 - a % 65536)) % 65536 < n

/-- What a stream has taken ahead is fetched again from the first element on that an access may touch, so that no older value follows it
(R297, R298). -/
def Stream.touched (t : Stream) (rs : List (Nat × Nat)) : Stream :=
  let keep := t.ahead.takeWhile fun el => !(rs.any fun r => mayAlias el.1 el.2.length r.1 r.2)
  { t with ready := keep.length, ahead := keep }

namespace Warp

/-- The address of a form M word for a lane of a member (R29): a uniform base, or a pair of vector registers. -/
def ea (w : Warp) (addr : Spec) (off : BitVec 18) (m l : Nat) : Word :=
  (match addr with
    | .scl n => w.sget m n.toNat
    | .vec n => let r := w.xlat n.toNat; w.vget m (r + 1) l ++ w.vget m r l
    | _ => 0) + off.signExtend 64

/-- The address register as an operand: a class 0 base is a pair (R29, R71). -/
def addrOperand (f : FormM) : Operand := (⟨f.addr, 0, f.fa⟩, match f.addr with | .vec _ => 2 | _ => 1)

/-- The next free operand-log entry (R402): the lowest of the eight. -/
def freeEntry (w : Warp) : Option Nat := (List.range 8).find? fun i => !(w.log.any fun e => e.idx = i)

/-- Add an entry to the operand log. Its destination copies in the members it writes are marked empty (R125). -/
def logEntry (w : Warp) (e : LogEntry) : Warp :=
  let ms := w.slots.filter fun m => e.parts.any fun p => p.slot = m && !p.ok
  let w1 := ms.foldl (fun w m => e.fills.foldl (fun w r => w.setEmpty m true r) w) w
  let rs := if e.near || e.async then [] else e.parts.map fun p => (p.addr.toNat, e.size)
  { w1 with log := w1.log ++ [e], nextSeq := w1.nextSeq + 1, st8 := w1.st8.map fun t => t.touched rs }

end Warp

/-- The bytes of a value. -/
def dataBytes (n : Nat) (d : BitVec 128) : List Byte := leBytes n d.toNat

/-- What a form asks of the load-store unit. -/
structure Req where
  acc : Access
  size : Nat                 -- bytes of one access, and its alignment
  near : Bool := false
  attr : BitVec 12 := 0
  regs : Nat := 0            -- destination registers, 0 for none
  dst : Spec := .imm 0
  data : Option (Src × Nat) := none     -- data operand and its width in registers
  deads : Bool := false      -- dead lanes matter (R210, R271)
  perMember : Bool := false  -- never made once for all members
  single : Bool := false     -- made for member slot 0 alone

/-- The access a log entry is for. -/
def newEntry (w : Warp) (idx : Nat) (i : BitVec 96) (r : Req) (shared : Bool) (parts : List Part) (tag : Nat) : LogEntry :=
  { idx := idx, word := i, pc := w.pc, seq := w.nextSeq, sup := w.sup, acc := r.acc, near := r.near, attr := r.attr, shared := shared,
    tx := w.tx.isSome && !r.near, parts := parts, tag := tag, path := if w.inBlock then w.curPath else 4,
    dst := match r.dst with | .vec n => w.xlat n.toNat | .imm _ => 0x300 | d => d.num }

/-- The lanes of the active members that take part, with their addresses: a part for each; with `deads`, the dead lanes that would take
part too (R210, R271). -/
def lanePartsOf (w : Warp) (h : Hdr) (deads : Bool) (addr : Nat → Nat → Word) (data : Nat → Nat → BitVec 128) : List Part :=
  w.active.flatMap fun m =>
    ((w.part h m).toList.map fun l => ({ slot := m, lane := l, addr := addr m l, data := data m l } : Part)) ++
    (if deads then (w.deadPart h m).toList.map fun l => ({ slot := m, lane := l, addr := addr m l, dead := true } : Part) else [])

/-- The lowest failing slot and lane of a list of parts. -/
def firstPart (ps : List Part) (bad : Part → Bool) : Option Part := ps.find? fun p => !p.dead && bad p

/-- The near-scratch size of a warp's block (R246). -/
def State.nearSize (s : State) (w : Warp) : Nat := match s.block? w.blk with | some b => b.ns | none => 0

/-- Issue a per-lane access (R264): its checks in order, then its log entry. `ops` are the source operands, `addr m l` and `data m l` the
address and the store data or operands of a lane. -/
def issueAt (s : State) (w : Warp) (i : BitVec 96) (h : Hdr) (ops : List Warp.Operand) (r : Req) (align : Nat)
    (addr : Nat → Nat → Word) (data : Nat → Nat → BitVec 128) (tag : Nat) : WRes :=
  let common := ops.all fun o => w.common? o.1.spec
  let dstCommon := match r.dst with | .vec n => w.commonV (w.xlat n.toNat) | _ => false
  w.checked h (w.needs ops ++ w.needsDst r.regs r.dst) (w.misfits ops || w.misfit r.regs r.dst) (dstCommon && !common) (
    let all := lanePartsOf w h r.deads addr data
    let parts := all.filter fun p => !p.dead || p.addr.toNat % align = 0
    match firstPart parts fun p => p.addr.toNat % align != 0 with
    | some p => .trap w { cls := 11, slot := p.slot, lane := p.lane, detail := p.addr }
    | none =>
      match firstPart parts fun p => r.near && s.nearSize w < p.addr.toNat + r.size with
      | some p => .trap w { cls := 12, slot := p.slot, lane := p.lane }
      | none =>
        let perMember := !r.near && parts.any fun p => !p.dead && (s.window w.ctx p.addr).isSome
        if dstCommon && perMember then .trap w { cls := 4 }
        else
          let w1 := w.noteDead h ops
          if parts = [] then .fall w1
          else match w1.freeEntry with
            | none => .wait .log
            | some k => .fall (w1.logEntry (newEntry w1 k i r (common && !perMember && !r.perMember) parts tag)))

/-- Issue a per-lane memory form (R29, R264). -/
def issueLanes (s : State) (w : Warp) (i : BitVec 96) (f : FormM) (r : Req) (data : Nat → Nat → BitVec 128) (tag : Nat) : WRes :=
  issueAt s w i f.h (Warp.addrOperand f :: (match r.data with | some o => [o] | none => [])) r r.size (w.ea f.addr f.off) data tag

/-- Issue a uniform memory form (R264, R267): one access for all members when address and data are common and the page lies in no
per-member window, else one for each active member. With `mm` 0 it accesses nothing (R264). `blob` is what it stores. -/
def issueOnce (s : State) (w : Warp) (i : BitVec 96) (f : FormM) (r : Req) (align : Nat) (data : Nat → BitVec 128) (blob : List Byte)
    (tag : Nat) : WRes :=
  let ops : List Warp.Operand := (⟨f.addr, 0, f.fa⟩, 1) :: (match r.data with | some o => [o] | none => [])
  let common := ops.all fun o => w.common? o.1.spec
  let dstCommon := match r.dst with | .scl n => n.toNat < 128 | .spc _ => true | _ => false
  w.checked f.h (w.needs ops ++ w.needsDst r.regs r.dst) false (dstCommon && !(w.common? f.addr)) (unlessNever f.h w (
    let base := fun (m : Nat) => w.ea f.addr f.off m 0
    let ms := if w.active = [] then [] else if r.single then [0] else w.active
    match ms.find? fun m => (base m).toNat % align != 0 with
    | some m => .trap w { cls := 11, slot := m, detail := base m }
    | none =>
      match ms.find? fun m => r.near && s.nearSize w < (base m).toNat + r.size with
      | some m => .trap w { cls := 12, slot := m }
      | none =>
        let perMember := !r.near && ms.any fun m => (s.window w.ctx (base m)).isSome
        if dstCommon && perMember then .trap w { cls := 4 }
        else if ms = [] then .fall w
        else match w.freeEntry with
          | none => .wait .log
          | some k =>
            let parts := ms.map fun m => ({ slot := m, lane := 96, addr := base m, data := data m } : Part)
            .fall (w.logEntry { newEntry w k i r (common && !perMember && !r.perMember) parts tag with blob := blob })))

/-! ## What an entry touches -/

/-- Acquire and release (R29): inside a transaction ORD is ignored (R309); `ordrel` is both (R272). -/
def LogEntry.acquires (e : LogEntry) : Bool := !e.tx && (e.acc = .release || (e.reads && e.attr.getLsbD 0))
def LogEntry.releases (e : LogEntry) : Bool := !e.tx && (e.acc = .release || (e.writes && e.attr.getLsbD 1))
def LogEntry.scope (e : LogEntry) : Nat := if e.acc = .release then 4 else (e.attr.extractLsb' 2 3).toNat

namespace State

/-- The MIDX an access of a member slot is translated with; the foreman's is 0 (R325). -/
def midxOf (w : Warp) (m : Nat) : BitVec 16 := if w.foreman then 0 else (w.bank m).midx

/-- Translate one byte of a part, with the roof range (R252) and the placement of atomics (R260, R271): class, cause, reported address. -/
def locateByte (s : State) (w : Warp) (e : LogEntry) (p : Part) (i : Nat) : Except (Nat × Nat × Word) Phys :=
  let ea := p.addr + BitVec.ofNat 64 i
  let use : Use := if e.writes then .write else .read
  let t := s.under w.ctx p.was
  match t.translate w.core w.ctx ea (midxOf w p.slot) use e.sup with
  | .error (c, va) => .error (18, c, va)
  | .ok ph =>
    let va := t.offsetVa w.ctx ea (midxOf w p.slot)
    if s.roofFault ph.pa then .error (19, 0, va)
    else
      let atomic := match e.acc with | .atomic .. | .exactAdd | .exactMerge => true | _ => false
      let ordered := match e.acc with | .ordered _ => true | _ => false
      if isHost ph.pa && ((atomic && !Leaf.ca ph.leaf) || ordered) then .error (20, 0, va) else .ok ph

/-- Translate a part: the physical address of each 128-byte piece it covers, in order (R211: a cell may lie in two pages). -/
def locate (s : State) (w : Warp) (e : LogEntry) (p : Part) (n : Nat) : Except (Nat × Nat × Word) (List (Nat × Phys)) :=
  -- pieces start at the address and at every later page-granule boundary
  let first := 65536 - p.addr.toNat % 65536
  let starts := if n ≤ first then [0] else [0, first]
  starts.foldl (fun acc i => match acc with
    | .error x => .error x
    | .ok l => match s.locateByte w e p i with
      | .error x => .error x
      | .ok ph => .ok (l ++ [(i, ph)])) (.ok [])

/-- The physical address a warp's read uses: the replica of its die on a replicated page (R303). -/
def readAddr (s : State) (w : Warp) (p : Part) (i : Nat) (ph : Phys) : Nat :=
  if Leaf.prop ph.leaf then
    ph.pa + dieOf w.core * (s.under w.ctx p.was).replicaStride w.core w.ctx (p.addr + BitVec.ofNat 64 i) (midxOf w p.slot)
  else ph.pa

/-- Memory as the transaction of a warp sees it: its own buffered writes over what is performed. -/
def txBytes (s : State) (t : Tx) (pa n : Nat) : List Byte :=
  (List.range n).map fun i => if t.held.contains (pa + i) then t.buf.read (pa + i) else s.mem.read (s.home (pa + i))

/-- The bytes one part covers: for a window being read, as many as its header gives, as the reader sees it (R208, R209). -/
def partSize (s : State) (w : Warp) (e : LogEntry) (p : Part) : Nat :=
  match e.acc with
  | .windowLoad => match s.locateByte w e p 0 with
    | .ok ph => Exact.windowLen (match (if e.tx then w.tx else none) with
        | some t => s.txBytes t ph.pa 24
        | none => s.physRead (s.readAddr w p 0 ph) 24)
    | .error _ => 24
  | .release => match s.locateByte w e p 0 with
    | .ok ph => match tfind s.ordq ph.pa with
      | some q => if q.dbl && q.entries != [] then 8 else 4
      | none => 4
    | .error _ => 4
  | _ => e.size

/-- The physical bytes a part covers, as ranges; near scratch is told apart by a base above the physical space. -/
def rangesOf (s : State) (w : Warp) (e : LogEntry) (p : Part) : List (Nat × Nat) :=
  let n := s.partSize w e p
  if n = 0 then []
  else if e.near then [(2 ^ 60 + p.addr.toNat, n)]
  else match s.locate w e p n with
    | .error _ => []
    | .ok ps => ps.map fun q =>
        let last := match ps.find? fun r => q.1 < r.1 with | some r => r.1 | none => n
        (q.2.pa, last - q.1)

def overlap (a b : List (Nat × Nat)) : Bool := a.any fun x => b.any fun y => x.1 < y.1 + y.2 && y.1 < x.1 + x.2

/-! ## Order (R298, R303, R305, R453) -/

/-- A load stays behind an earlier `mon` of its line (R416). -/
def behindMonitor (s : State) (w : Warp) (x : LogEntry) (y : Part) (mine : List (Nat × Nat)) : Bool :=
  x.acc = .monitor && overlap ((s.rangesOf w x y).map fun r => (r.1 / 128 * 128, 128)) mine

end State

/-- An ordering point waits for what came before it (R300): for the reads alone, or for every access. -/
def Fence.covers (f : Fence) (x : LogEntry) : Bool := x.seq < f.pos && !x.async && (!f.readsOnly || x.reads)

/-- An ordering point of user mode does not hold what a handler does: a fence that waits as a trap is delivered is the instruction that the
handler returns to (R400). -/
def Fence.reaches (f : Fence) (sup : Bool) : Bool := f.sup || !sup

/-- An ordering point or an acquire read that is not performed holds an access that an instruction makes as it issues (R298(c), R300). -/
def Warp.heldByFence (w : Warp) (writes : Bool) : Bool :=
  (w.fences.any fun f => f.reaches w.sup && (writes || !f.writesOnly)) || w.log.any fun e => e.acquires && e.parts.any fun p => !p.ok

/-- An ordering point holds what comes after it (R300): the writes alone, or every access. -/
def Fence.holds (f : Fence) (e : LogEntry) : Bool := f.reaches e.sup && f.pos ≤ e.seq && (!f.writesOnly || e.writes)

namespace State

/-- R298 performs part `y` of an earlier access `x` before part `p` of `e`, whose bytes are `mine`. Lanes on different paths of one open block
are exempt from (a). -/
def precedes (s : State) (w : Warp) (x : LogEntry) (y : Part) (e : LogEntry) (p : Part) (mine : List (Nat × Nat)) : Bool :=
  x.acquires || e.releases || w.fences.any (fun f => f.covers x && f.holds e) || s.behindMonitor w x y mine ||
    (x.writes && e.writes && y.slot = p.slot && y.lane = p.lane) ||
    (!(w.meld.opened && w.meld.since ≤ x.seq && x.path < 4 && e.path < 4 && x.path != e.path) && overlap (s.rangesOf w x y) mine)

/-- The order of R298 lets a part be performed now: nothing of an earlier entry that must come first is outstanding, and no ordering point
before it is incomplete. -/
def inOrder (s : State) (w : Warp) (e : LogEntry) (p : Part) : Bool :=
  let mine := s.rangesOf w e p
  !e.held && !(w.fences.any fun f => f.holds e) && w.log.all fun x =>
    e.seq ≤ x.seq || x.async || x.parts.all fun y => y.ok || !s.precedes w x y e p mine

/-- The parts of a warp's log that only a handler can set going again: those with a fault to be delivered, and those that R298 or a fence
orders after such a part (R305). -/
def stuckParts (s : State) (w : Warp) : List (LogEntry × Part) :=
  w.log.foldl (fun acc (e : LogEntry) => e.parts.foldl (fun acc (p : Part) =>
    if p.ok || e.async then acc
    else if p.fault.isSome && !p.retry then acc ++ [(e, p)]
    else
      let mine := s.rangesOf w e p
      if acc.any fun x => x.1.seq < e.seq && s.precedes w x.1 x.2 e p mine then acc ++ [(e, p)] else acc) acc) []

/-- Every issued instruction has completed, or is held in the log by a fault (R400 step 1, R408): copies and commands apart, which go on by
themselves (log entry 76). A blocking read that has its bytes waits for its instruction alone. -/
def settled (s : State) (w : Warp) : Bool :=
  s.mxOf w = [] && (
    let stuck := s.stuckParts w
    w.log.all fun e => e.async || e.blob != [] && !e.writes || e.parts.all fun p => p.ok || stuck.contains (e, p))

/-- What follows an acquire of a warp at a scope (R133, R248, R249). -/
def acquireBy (s : State) (k core scope : Nat) : State :=
  (s.acquire core scope).modWarp k fun w => { w with st8 := w.st8.map fun x => { x with ready := 0, ahead := [] } }

/-- An ordering point is complete (R300, R301, R303): the accesses it covers are performed; a release side at scope die or wider has its writes
in every replica; FENCE.sc at device scope or wider finds no replica behind. -/
def fenceDone (s : State) (w : Warp) (f : Fence) : Bool :=
  (w.log.all fun x => !f.covers x || x.parts.all fun y => y.ok) &&
    !(f.rel && 3 ≤ f.scope && s.replicas.any fun r => r.owner = w.key) && !(f.sc && 4 ≤ f.scope && s.replicas != [])

/-- A complete command in the log that no instruction waits for any more goes. -/
def dropStale (s : State) (k : Nat) : State :=
  match s.warp? k with
  | none => s
  | some w =>
    let stale := fun (e : LogEntry) => e.acc = .command && e.parts.all (·.ok) && !e.awaited w
    if w.log.any stale then s.putWarp { w with log := w.log.filter fun e => !stale e } else s

/-- The ordering points of a warp that are complete go, with the acquire of each acquire side (R300, R308). -/
def settleFences (s : State) (k : Nat) : State :=
  match s.warp? k with
  | none => s
  | some w => w.fences.foldl (fun s f =>
      match s.warp? k with
      | none => s
      | some x =>
        if !s.fenceDone x f then s
        else
          let s1 := s.putWarp { x with fences := x.fences.erase f }
          if f.acq then s1.acquireBy k x.core f.scope else s1) s

/-- A write of this warp to these bytes has not reached the replica of its die (R303). -/
def ownReplicaDue (s : State) (k die : Nat) (rs : List (Nat × Nat)) : Bool :=
  s.replicas.any fun r => r.owner = k && r.die = die && overlap [(r.addr, r.data.length)] rs

/-- A release at scope die or wider waits for the warp's writes to reach every replica (R303). -/
def releaseReady (s : State) (k : Nat) (e : LogEntry) : Bool := !(e.releases && 3 ≤ e.scope) || !(s.replicas.any fun r => r.owner = k)

/-! ## Transactions (R309–R311) -/

/-- A line of a held write or read-write region (R378). -/
def seamHolds (s : State) (line : Nat) : Bool :=
  s.tasks.any fun p => p.2.held.any fun r => line < r.1 + r.2 && r.1 < line + 128

/-- Add a line to the sets of a warp's transaction (R309, R310): the earlier of two conflicting transactions proceeds, a seventeenth line
aborts, and so does a line of a held write or read-write region (R378). -/
def trackLine (s : State) (k line : Nat) (vline : Word) (write : Bool) : State :=
  match s.warp? k with
  | none => s
  | some w =>
    match w.tx with
    | none => s
    | some t =>
      let clash := s.warps.filter fun (p : Nat × Warp) => p.1 != k && match p.2.tx with
        | some u => u.pending.isNone && (u.writes.contains line || (write && u.reads.contains line))
        | none => false
      let loses := clash.any fun p => match p.2.tx with
        | some u => u.since < t.since || (u.since = t.since && p.1 < k)
        | none => false
      if t.pending.isSome then s
      else if loses || s.seamHolds line then s.putWarp { w with tx := some { t with pending := some (1, 0, vline) } }
      else
        let s1 := s.conflicts k line write
        let t1 : Tx := { t with
          reads := if write || t.reads.contains line then t.reads else t.reads ++ [line],
          writes := if write && !t.writes.contains line then t.writes ++ [line] else t.writes,
          vlines := tset t.vlines line vline }
        s1.putWarp { w with tx := some (if 16 < Warp.txLines t1 then { t1 with pending := some (2, 0, 0) } else t1) }

/-- The page of a transactional access: cacheable, atomic propagation, HBM4E or capacity tier (R309). -/
def txPage (ph : Phys) : Bool := Leaf.ca ph.leaf && !Leaf.prop ph.leaf && Leaf.tier ph.leaf ≤ 1

/-- Buffer a transactional write. -/
def txHold (t : Tx) (pa : Nat) (bs : List Byte) : Tx :=
  { t with buf := t.buf.writeBytes pa bs, held := t.held ++ ((List.range bs.length).map (pa + ·)).filter fun a => !t.held.contains a }

/-! ## Reading and writing memory for a warp -/

/-- The CACHE field of an access (R259). -/
def cacheOf (e : LogEntry) : Nat := (e.attr.extractLsb' 5 2).toNat

/-- Read `n` bytes of a located piece for a warp, from its L1 when the fetch hits, else from memory with the fill its CACHE field gives
(R248, R259, R297): the bytes and the machine. A read of more than one line is made of memory as a whole (R210). -/
def warpRead (s : State) (w : Warp) (e : LogEntry) (ph : Phys) (pa n : Nat) (hit : Bool) : List Byte × State :=
  match (if hit && cacheOf e != 3 && l1Ok ph && pa % 128 + n ≤ 128 then s.l1Line w.core pa else none) with
  | some line => ((line.drop (pa % 128)).take n, s)
  | none =>
    let bs := s.physRead pa n
    let s1 := s.readBy w.key pa n
    (bs, if !l1Ok ph then s1 else if cacheOf e = 3 then s1.l1DropSpan w.core pa n else (lineSpan pa n).foldl (fun s l => s.l1Fill w.core l) s1)

/-- An atomic is executed at the home of its target (R260). -/
def atHome (a : Access) : Bool := match a with | .atomic .. | .ordered _ | .release | .exactAdd | .exactMerge => true | _ => false

/-- Perform a write of a warp: memory, the cache ways (R254), its L1 copies as its CACHE field gives (R248, R259), the replicas of a replicated
page (R303). -/
def warpWrite (s : State) (w : Warp) (e : LogEntry) (p : Part) (i : Nat) (ph : Phys) (bs : List Byte) : State :=
  let s0 := s.perform w.key ph.pa bs
  let s1 := if atHome e.acc then { s0 with dirty := s0.dirty.filter fun p => !(lineSpan ph.pa bs.length).contains p.2 }
    else if s0.waysTake w.core ph (cacheOf e) then s0.ownLines w.core ph.pa bs.length else s0
  if Leaf.prop ph.leaf then
    let stride := (s.under w.ctx p.was).replicaStride w.core w.ctx (p.addr + BitVec.ofNat 64 i) (midxOf w p.slot)
    let s2 := s1.toReplicas w.key ph.pa stride bs
    s2.l1DropSpan w.core (ph.pa + dieOf w.core * stride) bs.length
  else if cacheOf e = 3 then s1.l1DropSpan w.core ph.pa bs.length
  else s1.l1Update w.core ph.pa bs

/-- A part that cannot be translated is not performed; otherwise its pieces. -/
def pieces (s : State) (w : Warp) (e : LogEntry) (p : Part) (n : Nat) : Option (List (Nat × Nat × Phys)) :=
  match s.locate w e p n with
  | .error _ => none
  | .ok ps => some (ps.map fun q =>
      let last := match ps.find? fun r => q.1 < r.1 with | some r => r.1 | none => n
      (q.1, last - q.1, q.2))

/-- A part of a transactional access on a page R309 does not admit (R313). -/
def txRefused (s : State) (w : Warp) (e : LogEntry) (p : Part) : Bool :=
  e.tx && !p.dead && match s.locate w e p (s.partSize w e p) with
    | .ok ps => ps.any fun q => !txPage q.2
    | .error _ => false

/-- Keep the translations of a part in use (R329), unless it holds its own. -/
def fillFor (s : State) (w : Warp) (p : Part) (ps : List (Nat × Nat × Phys)) : State :=
  if p.was.isSome then s else ps.foldl (fun s q => s.fillTlb w.core w.ctx (p.addr + BitVec.ofNat 64 q.1) (midxOf w p.slot)) s

/-- The virtual line that a physical line of a piece was reached by, with the member offset (R315). -/
def vlineOf (s : State) (w : Warp) (p : Part) (q : Nat × Nat × Phys) (line : Nat) : Word :=
  (((s.under w.ctx p.was).offsetVa w.ctx (p.addr + BitVec.ofNat 64 q.1) (midxOf w p.slot)) + BitVec.ofNat 64 line - BitVec.ofNat 64 q.2.2.pa) &&& ~~~127#64

/-- Track every line of a part in the open transaction (R309). -/
def trackPart (s : State) (w : Warp) (p : Part) (ps : List (Nat × Nat × Phys)) (write : Bool) : State :=
  ps.foldl (fun s q => (lineSpan q.2.2.pa q.2.1).foldl (fun s l => s.trackLine w.key l (s.vlineOf w p q l) write) s) s

/-- Read all the bytes of a part: from the transaction's view while one is open, else for the warp. The flag says whether any byte is
poisoned. -/
def readPart (s : State) (w : Warp) (e : LogEntry) (p : Part) (ps : List (Nat × Nat × Phys)) (hit : Bool) : List Byte × Bool × State :=
  let bad := ps.any fun q => s.poisoned (s.readAddr w p q.1 q.2.2) q.2.1
  match (if e.tx then w.tx else none) with
  | some t => (ps.flatMap fun q => s.txBytes t q.2.2.pa q.2.1, bad, s.trackPart w p ps false)
  | none =>
    let r := ps.foldl (fun (acc : List Byte × State) q =>
      let (bs, s1) := acc.2.warpRead w e q.2.2 (s.readAddr w p q.1 q.2.2) q.2.1 hit
      (acc.1 ++ bs, s1)) ([], s)
    (r.1, bad, r.2)

/-- Write all the bytes of a part: held by the open transaction, else performed. -/
def writePart (s : State) (w : Warp) (e : LogEntry) (p : Part) (ps : List (Nat × Nat × Phys)) (bs : List Byte) : State :=
  if e.tx then
    match w.tx with
    | none => s
    | some _ =>
      let s1 := s.trackPart w p ps true
      s1.modWarp w.key fun w => match w.tx with
        | some t => { w with tx := some (ps.foldl (fun t q => txHold t q.2.2.pa ((bs.drop q.1).take q.2.1)) t) }
        | none => w
  else ps.foldl (fun s q => s.warpWrite w e p q.1 q.2.2 ((bs.drop q.1).take q.2.1)) s

/-- A later store of a warp to near scratch is held until the engine has read a tile it overlaps (R219). -/
def tileHeld (s : State) (w : Warp) (p : Part) (n : Nat) : Bool :=
  (s.mxOf w).any fun o => match o.boff with
    | some b => p.addr.toNat < b + o.tile.length && b < p.addr.toNat + n
    | none => false

/-- A part of an access to memory may be performed as far as others are concerned: an advance of its timeline counter has arrived (R285), the
replica it reads holds its own warp's writes (R303), the host has answered for every line it writes (R260, R468), and no lane of a transactional
access is refused for its page (R313). -/
def othersReady (s : State) (w : Warp) (e : LogEntry) (p : Part) : Bool :=
  match s.pieces w e p (s.partSize w e p) with
  | none => true
  | some ps =>
    !(overlap (s.advancesDue w.key w.ctx) (ps.map fun q => (q.2.2.pa, q.2.1))) &&
      !(e.reads && s.ownReplicaDue w.key (dieOf w.core) (ps.map fun q => (s.readAddr w p q.1 q.2.2, q.2.1))) &&
      (!e.writes || e.tx || ps.all fun q => s.hostReady q.2.2.pa q.2.1 (Leaf.ca q.2.2.leaf)) && !(e.parts.any fun q => s.txRefused w e q)

/-- A part may be performed: no fault to be delivered, in order, its release waited for, the tile it would change read (R219), and others
ready. -/
def ready (s : State) (w : Warp) (e : LogEntry) (p : Part) : Bool :=
  !p.ok && (p.fault.isNone || p.retry) && s.inOrder w e p && s.releaseReady w.key e &&
    (if e.near then !(e.writes && s.tileHeld w p e.size) else s.othersReady w e p)

/-- Mark a part complete with the value it received. -/
def completePart (s : State) (k q : Nat) (p : Part) (d : BitVec 128) : State :=
  let f := fun (x : Part) => if x.slot = p.slot && x.lane = p.lane && x.dead = p.dead then { x with ok := true, data := d, fault := none, retry := false } else x
  s.modWarp k fun w =>
    let w1 := w.modParts q f
    { w1 with lvq := w1.lvq.map fun e => if e.seq = q then { e with parts := e.parts.map f } else e }

/-- The lanes killed when poisoned data come back to a part (R450): its own lane; every lane of its member that takes part when the
destination is a common vector register; every live lane of em when it is a scalar or an accumulator. -/
def consumePoison (s : State) (w : Warp) (e : LogEntry) (p : Part) (line : Nat) : State :=
  let vecCommon := match e.acc with | .load .. | .atomic .. => e.dst != 0x300 && w.commonV e.dst | _ => false
  let line := line - line % 128
  if p.lane = 96 then s.killLanes w.key p.slot ((w.bank p.slot).em &&& (w.bank p.slot).live) 6 line
  else if vecCommon then
    s.killLanes w.key p.slot (LaneMask.ofPred fun l => e.parts.any fun q => q.slot = p.slot && q.lane = l) 6 line
  else s.killLanes w.key p.slot (1#96 <<< p.lane) 6 line

/-- After an event kills lanes, a path that has none left ends; `s0` is the machine before the event. -/
def afterKill (s : State) (s0 : State) (k : Nat) : State := match s0.warp? k with
  | some w0 => (s.modWarp k w0.pathCheck).finishWarp k
  | none => s

/-- The near scratch of a warp's block. -/
def nearBytes (s : State) (w : Warp) (a n : Nat) : List Byte := match s.block? w.blk with | some b => b.near.readBytes a n | none => List.replicate n 0

/-- Poisoned 8-byte words of near scratch (R449). -/
def nearBad (s : State) (w : Warp) (a n : Nat) : Bool := match s.block? w.blk with
  | some b => b.nearPoison.any fun x => x < a + n && a < x + 8
  | none => false

/-- Store to near scratch; words written whole are no longer poisoned. -/
def nearWrite (s : State) (blk a : Nat) (bs : List Byte) : State :=
  s.modBlock blk fun b => { b with
    near := b.near.writeBytes a bs,
    nearPoison := b.nearPoison.filter fun x => !(a ≤ x && x + 8 ≤ a + bs.length) }

/-! ## Performing loads -/

/-- The value a load of `size` bytes writes into each register (R266). -/
def loadRegs (size : Nat) (signed : Bool) (v : Nat) : List Lane32 :=
  if size < 4 then [if signed then (BitVec.ofNat (8 * size) v).signExtend 32 else BitVec.ofNat 32 v]
  else (List.range (size / 4)).map fun i => BitVec.ofNat 32 (v / 2 ^ (32 * i))

/-- Write what a load returned into the registers of its destination. -/
def receive (w : Warp) (e : LogEntry) (p : Part) (bs : List Byte) : Warp :=
  let v := leNat bs
  match e.acc with
  | .load n sg => if e.dst = 0x300 then w else
    ((loadRegs n sg v).zip (List.range 4)).foldl (fun w x => w.vput p.slot (e.dst + x.2) (1#96 <<< p.lane) (List.replicate 96 x.1)) w
  | .sload _ => w.sput p.slot e.dst (BitVec.ofNat 64 v)
  | .exactLoad => w.xput (e.dst - 0x20) (Exact.ofCell bs)
  | .tableLoad =>
    { w with tables := (List.range 4).map fun i => (List.range 32).map fun j => bs.getD (32 * i + j) 0 }
  | _ => w

end State

end Sys2Proof.Machine
end

