-- ==== Sys2Proof/Machine/Loads.lean ====
section
/-!
DEFINITION. The memory family as it issues (R263–R272): loads, stores, near-scratch forms, prefetch and cache control, atomics, ordered
atomics and their release; and the path-table forms (R90). What is performed later is in Perform.
-/

namespace Sys2Proof.Machine

/-- Run an access form: it sees the machine and changes its warp alone. -/
def accessOp (s : State) (f : State → Warp → WRes) : Res := machineOp s fun s w => (s, f s w)

/-- As `accessOp`, for a form that aborts an open transaction with cause 7 (R313). -/
def accessOpNT (s : State) (f : State → Warp → WRes) : Res := machineOpNT s fun s w => (s, f s w)

/-! ## Data operands (R265) -/

/-- Integer data of up to 4 bytes, in a lane. -/
def dataInt (w : Warp) (f : FormM) (n m l : Nat) : BitVec 128 := BitVec.ofNat 128 ((w.int32 m f.data l).toNat % 2 ^ (8 * n))

/-- Integer data of 8 bytes. -/
def dataLong (w : Warp) (f : FormM) (m l : Nat) : BitVec 128 := (w.int64 m f.data l).setWidth 128

/-- Data of `k` registers from a class 0 base. -/
def dataRegs (w : Warp) (f : FormM) (k m l : Nat) : BitVec 128 :=
  match f.data.spec with
  | .vec n => (List.range k).foldl (fun (d : BitVec 128) i => d ||| ((w.modGet m (w.xlat n.toNat + i) f.data.mod l).setWidth 128 <<< (32 * i))) 0
  | _ => 0

/-- Floating-point data: a short immediate is converted to the format (R34). -/
def dataFlt (w : Warp) (f : FormM) (dbl : Bool) (m l : Nat) : BitVec 128 :=
  BitVec.ofNat 128 (if dbl then w.flt64 m f.data l else w.fltSmall Fmt.f32 m f.data l 0)

/-! ## Loads (R266, R268) -/

/-- The request of a load of `n` bytes into `max 1 (n / 4)` registers. -/
def loadReq (f : FormM) (n : Nat) (signed near : Bool) : Req :=
  { acc := .load n signed, size := n, near := near, attr := f.attr, regs := max 1 (n / 4), dst := f.dst }

/-- A load form. -/
def loadForm (opc : BitVec 9) (n : Nat) (signed near : Bool) (f : FormM) (s : State) : Res :=
  accessOp s fun s w => issueLanes s w (packM opc f) f (loadReq f n signed near) (fun _ _ => 0) 0

def execLdU8 (f : FormM) (s : State) : Res := loadForm 0x120 1 false false f s
def execLdS8 (f : FormM) (s : State) : Res := loadForm 0x121 1 true false f s
def execLdU16 (f : FormM) (s : State) : Res := loadForm 0x122 2 false false f s
def execLdS16 (f : FormM) (s : State) : Res := loadForm 0x123 2 true false f s
def execLdU32 (f : FormM) (s : State) : Res := loadForm 0x124 4 false false f s
def execLdU64 (f : FormM) (s : State) : Res := loadForm 0x125 8 false false f s
def execLdU128 (f : FormM) (s : State) : Res := loadForm 0x126 16 false false f s
def execLdnU32 (f : FormM) (s : State) : Res := loadForm 0x130 4 false true f s
def execLdnU64 (f : FormM) (s : State) : Res := loadForm 0x131 8 false true f s
def execLdnU128 (f : FormM) (s : State) : Res := loadForm 0x132 16 false true f s

/-! ## Stores (R266, R268) -/

/-- The request of a store of `n` bytes. -/
def storeReq (f : FormM) (n : Nat) (near : Bool) : Req :=
  { acc := .store n, size := n, near := near, attr := f.attr, data := some (f.data, max 1 (n / 4)) }

/-- The data of a store of `n` bytes. -/
def storeData (w : Warp) (f : FormM) (n : Nat) : Nat → Nat → BitVec 128 :=
  if n ≤ 4 then dataInt w f n else if n = 8 then dataLong w f else dataRegs w f 4

/-- A store form to memory. -/
def storeForm (opc : BitVec 9) (n : Nat) (f : FormM) (s : State) : Res :=
  accessOp s fun s w => issueLanes s w (packM opc f) f (storeReq f n false) (storeData w f n) 0

/-- A store form to near scratch (R268, R313). -/
def storeNear (opc : BitVec 9) (n : Nat) (f : FormM) (s : State) : Res :=
  accessOpNT s fun s w => issueLanes s w (packM opc f) f (storeReq f n true) (storeData w f n) 0

def execStU8 (f : FormM) (s : State) : Res := storeForm 0x127 1 f s
def execStU16 (f : FormM) (s : State) : Res := storeForm 0x128 2 f s
def execStU32 (f : FormM) (s : State) : Res := storeForm 0x129 4 f s
def execStU64 (f : FormM) (s : State) : Res := storeForm 0x12A 8 f s
def execStU128 (f : FormM) (s : State) : Res := storeForm 0x12B 16 f s
def execStnU32 (f : FormM) (s : State) : Res := storeNear 0x133 4 f s
def execStnU64 (f : FormM) (s : State) : Res := storeNear 0x134 8 f s
def execStnU128 (f : FormM) (s : State) : Res := storeNear 0x135 16 f s

/-- `stz` stores 128 zero bytes (R266). -/
def execStz (f : FormM) (s : State) : Res :=
  accessOp s fun s w => issueLanes s w (packM 0x14B f) f { acc := .zero, size := 128, attr := f.attr } (fun _ _ => 0) 0

/-! ## Scalar loads and stores (R267) -/

def scalarLoad (opc : BitVec 9) (n : Nat) (f : FormM) (s : State) : Res :=
  accessOp s fun s w => issueOnce s w (packM opc f) f { acc := .sload n, size := n, attr := f.attr, regs := 1, dst := f.dst } n (fun _ => 0) [] 0

def scalarStore (opc : BitVec 9) (n : Nat) (f : FormM) (s : State) : Res :=
  accessOp s fun s w => issueOnce s w (packM opc f) f { acc := .store n, size := n, attr := f.attr, data := some (f.data, 1) } n
    (fun m => BitVec.ofNat 128 ((w.scl m f.data).toNat % 2 ^ (8 * n))) [] 0

def execSldU32 (f : FormM) (s : State) : Res := scalarLoad 0x12C 4 f s
def execSldU64 (f : FormM) (s : State) : Res := scalarLoad 0x12D 8 f s
def execSstU32 (f : FormM) (s : State) : Res := scalarStore 0x12E 4 f s
def execSstU64 (f : FormM) (s : State) : Res := scalarStore 0x12F 8 f s

/-! ## Path tables (R69, R90) -/

/-- The image of the path tables in memory: 32 bytes a path (R56, R90). -/
def tablesImage (w : Warp) : List Byte := (List.range 4).flatMap fun p => (List.range 32).map fun j => ((w.tables.getD p []).getD j (BitVec.ofNat 8 j))

/-- `ptld` and `ptst` make one access, for member slot 0 (R90). -/
def execPtld (f : FormM) (s : State) : Res :=
  accessOpNT s fun s w =>
    issueOnce s w (packM 0x010 f) f { acc := .tableLoad, size := 128, attr := f.attr, single := true } 128 (fun _ => 0) [] 0

def execPtst (f : FormM) (s : State) : Res :=
  accessOpNT s fun s w =>
    issueOnce s w (packM 0x011 f) f { acc := .tableStore, size := 128, attr := f.attr, single := true } 128 (fun _ => 0) (tablesImage w) 0

/-! ## Prefetch and cache control (R269) -/

/-- `pf`: the line of each lane's address is fetched into the L1 for level 0; the other levels are not told apart from memory here. It never
faults and never traps on alignment. -/
def execPf (f : FormM) (s : State) : Res :=
  machineOpNT s fun s w =>
    let r := w.checked f.h (w.needs [Warp.addrOperand f]) (w.misfits [Warp.addrOperand f]) false (.fall w)
    match r with
    | .fall _ =>
      let ps := lanePartsOf w f.h false (w.ea f.addr f.off) (fun _ _ => 0)
      (if f.data.spec.num = 0 then
        ps.foldl (fun s p => match s.translate w.core w.ctx p.addr (State.midxOf w p.slot) .read w.sup with
          | .ok ph =>
            let s1 := s.fillTlb w.core w.ctx p.addr (State.midxOf w p.slot)
            if State.l1Ok ph then s1.l1Fill w.core (s.readAddr w p 0 ph) else s1
          | .error _ => s) s
      else s, r)
    | _ => (s, r)

/-- `cwb`: the lines are clean in every bank's cache ways; memory already holds their newest copy (log entry 33). It takes a log entry for no longer
than the step. -/
def execCwb (f : FormM) (s : State) : Res :=
  machineOpNT s fun s w =>
    let r := w.checked f.h (w.needs [Warp.addrOperand f]) (w.misfits [Warp.addrOperand f]) false (
      if w.union f.h != 0 && w.freeEntry.isNone then .wait .log else .fall w)
    match r with
    | .fall _ =>
      ((lanePartsOf w f.h false (w.ea f.addr f.off) (fun _ _ => 0)).foldl (fun s p =>
        match s.translate w.core w.ctx p.addr (State.midxOf w p.slot) .read w.sup with
        | .ok ph => (s.fillTlb w.core w.ctx p.addr (State.midxOf w p.slot)).callBack 1280 ph.pa 1
        | .error _ => s) s, r)
    | _ => (s, r)

namespace State

/-- Resize the bank of a core to `n` ways (R251): offsets that were or become cache ways lose their contents. -/
def resizeBank (s : State) (core n : Nat) : State :=
  let old := tget 0 s.ways core
  let lo := roofLo + core * 2 ^ 26 + 2 ^ 26 - 2 ^ 22 * max old n
  let hi := roofLo + core * 2 ^ 26 + 2 ^ 26 - 2 ^ 22 * min old n
  { s.cleanWays core with ways := tset s.ways core n, mem := s.mem.clear lo hi, poison := s.poison.filter fun l => !(lo ≤ l && l < hi) }

/-- The WAYS field of a context's ROOFCFG (R250). -/
def waysOf (s : State) (x : Nat) : Nat := ((s.ctx x).ways.extractLsb' 0 5).toNat

end State

/-- `rooffl` (R269): it waits for the warp's earlier accesses, then flushes the core's cache ways, resizing the bank when every block on the
core belongs to the warp's context (R251). -/
def execRooffl (f : FormR) (s : State) : Res :=
  machineOpNT s fun s w =>
    if Warp.never f.h then (s, .fall w)
    else if w.log.any fun e => !e.async then (s, .wait .log)
    else
      let mine := s.blocks.all fun p => p.2.core != w.core || p.2.st != .resident || p.2.ctx = w.ctx || s.blockOver p.1 p.2
      ((if mine && s.waysOf w.ctx != tget 0 s.ways w.core then s.resizeBank w.core (s.waysOf w.ctx) else s).cleanWays w.core, .fall w)

/-! ## Atomics (R270) -/

/-- The request of an unordered atomic of `n` bytes whose data operand spans `k` registers. -/
def atomReq (f : FormM) (op : AtomOp) (n k : Nat) : Req :=
  { acc := .atomic op n, size := n, attr := f.attr, regs := (match f.dst with | .vec _ => n / 4 | _ => 0), dst := f.dst, data := some (f.data, k) }

def atomForm (opc : BitVec 9) (op : AtomOp) (n k : Nat) (f : FormM) (data : Warp → Nat → Nat → BitVec 128) (s : State) : Res :=
  accessOp s fun s w => issueLanes s w (packM opc f) f (atomReq f op n k) (data w) 0

def execAtomAddU32 (f : FormM) (s : State) : Res := atomForm 0x13A .add 4 1 f (fun w => dataInt w f 4) s
def execAtomAddU64 (f : FormM) (s : State) : Res := atomForm 0x13B .add 8 2 f (fun w => dataLong w f) s
def execAtomMinS32 (f : FormM) (s : State) : Res := atomForm 0x13C (.min true) 4 1 f (fun w => dataInt w f 4) s
def execAtomMaxS32 (f : FormM) (s : State) : Res := atomForm 0x13D (.max true) 4 1 f (fun w => dataInt w f 4) s
def execAtomMinU32 (f : FormM) (s : State) : Res := atomForm 0x13E (.min false) 4 1 f (fun w => dataInt w f 4) s
def execAtomMaxU32 (f : FormM) (s : State) : Res := atomForm 0x13F (.max false) 4 1 f (fun w => dataInt w f 4) s
def execAtomAndB32 (f : FormM) (s : State) : Res := atomForm 0x140 .and 4 1 f (fun w => dataInt w f 4) s
def execAtomOrB32 (f : FormM) (s : State) : Res := atomForm 0x141 .or 4 1 f (fun w => dataInt w f 4) s
def execAtomXorB32 (f : FormM) (s : State) : Res := atomForm 0x142 .xor 4 1 f (fun w => dataInt w f 4) s
def execAtomExchB32 (f : FormM) (s : State) : Res := atomForm 0x143 .exch 4 1 f (fun w => dataInt w f 4) s
def execAtomExchB64 (f : FormM) (s : State) : Res := atomForm 0x144 .exch 8 2 f (fun w => dataLong w f) s
def execAtomCasB32 (f : FormM) (s : State) : Res := atomForm 0x145 .cas 4 2 f (fun w => dataRegs w f 2) s
def execAtomCasB64 (f : FormM) (s : State) : Res := atomForm 0x146 .cas 8 4 f (fun w => dataRegs w f 4) s
def execAtomAddF32 (f : FormM) (s : State) : Res := atomForm 0x147 .fadd 4 1 f (fun w => dataFlt w f false) s
def execAtomAddF64 (f : FormM) (s : State) : Res := atomForm 0x148 .fadd 8 2 f (fun w => dataFlt w f true) s

/-! ## Ordered atomics (R271, R272) -/

/-- An ordered atomic: each instruction counts once in the warp's n (R271). -/
def orderedForm (opc : BitVec 9) (dbl : Bool) (f : FormM) (s : State) : Res :=
  accessOpNT s fun s w =>
    let n := if dbl then 8 else 4
    let r : Req := { acc := .ordered dbl, size := n, attr := f.attr, data := some (f.data, n / 4), deads := true, perMember := true }
    match issueLanes s w (packM opc f) f r (dataFlt w f dbl) w.ordN with
    | .fall w1 => .fall { w1 with ordN := w1.ordN + 1 }
    | x => x

def execAtomAddOrdF32 (f : FormM) (s : State) : Res := orderedForm 0x149 false f s
def execAtomAddOrdF64 (f : FormM) (s : State) : Res := orderedForm 0x14A true f s

/-- `ordrel` issues once every ordered contribution of its warp has reached its queue (R272). -/
def execOrdrel (f : FormM) (s : State) : Res :=
  accessOpNT s fun s w =>
    match issueOnce s w (packM 0x139 f) f { acc := .release, size := 4, attr := f.attr, regs := 1, dst := f.dst } 4 (fun _ => 0) [] 0 with
    | .fall w1 => if (w.log.any fun e => e.acc = .ordered false || e.acc = .ordered true) && w1.log != w.log then .wait .memory else .fall w1
    | r => r

end Sys2Proof.Machine
end

