-- ==== Sys2Proof/Machine/Commands.lean ====
section
/-!
DEFINITION. The records commands hand to the device: user queues and doorbells (R340, R341, R365), Seam tasks (R369, R372), collectives
(R98, R430, R433, R434, R446) and group-table entries (R427, R428, R447), each as one attempt that can be made again when it met a fault.
-/

namespace Sys2Proof.Machine

/-! ## Queues (R340, R341) -/

/-- A queue descriptor (R340). -/
structure QDesc where
  ring : Nat
  size : Nat
  en : Bool
  wr : Nat
  rd : Nat
  deriving DecidableEq, Repr

def QDesc.ofNat (n : Nat) : QDesc :=
  { ring := n % 2 ^ 56, size := n / 2 ^ 56 % 32, en := n / 2 ^ 63 % 2 = 1, wr := n / 2 ^ 64 % 2 ^ 64, rd := n / 2 ^ 128 % 2 ^ 64 }

/-- The descriptor is valid (R340). -/
def QDesc.valid (d : QDesc) : Bool := d.en && inRange 1 16 d.size && d.ring % 4096 = 0 && d.rd ≤ d.wr && d.wr - d.rd ≤ 2 ^ d.size

/-- The virtual address of a record of a ring (R340). -/
def QDesc.place (d : QDesc) (i : Nat) : Word := BitVec.ofNat 64 (d.ring + 128 * (i % 2 ^ d.size))

namespace State

/-- The virtual address of the descriptor of a queue (R340). -/
def queueVa (s : State) (x q : Nat) : Word := (s.ctx x).qtab + BitVec.ofNat 64 (64 * q)

/-- The descriptor of a queue. -/
def readQueue (s : State) (x q : Nat) : Except AgentErr QDesc :=
  match s.agentRead x 0 (s.queueVa x q) 0 24 with
  | .error e => .error e
  | .ok bs => .ok (QDesc.ofNat (leNat bs))

/-- A queue is mapped to a slot (R342). -/
def isMapped (s : State) (x q : Nat) : Bool := s.qslots.any fun p => p.2.st != .free && p.2.ctx = x && p.2.q = q

/-- A context is resident (R341, R472). -/
def resident (s : State) (x : Nat) : Bool := (s.ctx x).res && (s.ctx x).held

/-- A doorbell (R341). -/
def doorbell (s : State) (x q : Nat) : State :=
  let ok := match s.readQueue x q with
    | .ok d => d.valid
    | .error _ => false
  if !s.resident x || (s.ctx x).qmax < q || !ok || s.isMapped x q || (s.ctx x).pending.any (fun p => p.1 = q) then s
  else s.modCtx x fun c => { c with pending := c.pending ++ [(q, s.cycle)] }

/-! ## One attempt at a command -/

/-- What an attempt at a command of a warp meets: a lane-level fault, poison, a wait, or its effect and result. -/
inductive Attempt where
  | fault (cls cause : Nat) (addr : Word)
  | poison (line : Nat)
  | wait
  | did (s : State) (r : Word)

/-- `n` bytes at an address formed by a warp, read as plain loads. -/
def cmdRead (s : State) (w : Warp) (sup : Bool) (m : Nat) (ea : Word) (n : Nat) : Attempt ⊕ List Byte :=
  let midx := midxOf w m
  match s.pageLocate w.ctx ea midx n .read sup w.core with
  | .error (c, d, a) => .inl (.fault c d a)
  | .ok ps => match s.agentPoison w.ctx (dieOf w.core) ea midx ps w.core with
    | some l => .inl (.poison l)
    | none => .inr (s.agentBytes w.ctx (dieOf w.core) ea midx ps w.core)

/-- `qpush` (R365). -/
def pushRecord (s : State) (w : Warp) (sup : Bool) (m : Nat) (ea : Word) (q : Nat) : Attempt :=
  let va := s.queueVa w.ctx q
  let fails : Attempt := .did s (~~~0#64)
  if (s.ctx w.ctx).qmax < q then fails
  else match s.pageLocate w.ctx va 0 24 .read false, s.pageLocate w.ctx va 0 16 .write false with
    | .error (c, d, a), _ => .fault c d a
    | _, .error (c, d, a) => .fault c d a
    | .ok ps, .ok _ =>
      let d := QDesc.ofNat (leNat (s.agentBytes w.ctx 0 va 0 ps))
      if !d.valid || d.wr - d.rd = 2 ^ d.size then fails
      else match s.cmdRead w sup m ea 128 with
        | .inl r => r
        | .inr bs =>
          match s.pageLocate w.ctx (d.place d.wr) 0 128 .write false with
          | .error (c, e, a) => .fault c e a
          | .ok _ =>
            if !(s.agentReady w.ctx (d.place d.wr) 128 && s.agentReady w.ctx (va + 8#64) 8) then .wait else
            let s1 := (s.agentTouch w.ctx (dieOf w.core) ea (midxOf w m) 128 sup w.core).agentStore w.ctx (d.place d.wr) bs
            let s2 := s1.agentStore w.ctx (va + 8#64) (leBytes 8 (d.wr + 1))
            .did (s2.doorbell w.ctx q) (BitVec.ofNat 64 d.wr)

/-- Seam tasks the dispatcher's queue holds: those still QUEUED (R372). -/
def seamQueue (s : State) : Nat := (s.tasks.filter fun p => p.2.st = .queued).length

/-- A Seam task enters the dispatcher (R369, R370). -/
def addTask (s : State) (x : Nat) (node : Option Nat) (bs : List Byte) : State :=
  { s with tasks := s.tasks ++ [(tfresh s.tasks, { ctx := x, node := node, rec1 := BitVec.ofNat 1024 (leNat bs) })] }

/-- `seamgo` (R369): it waits until the dispatcher can take a task, and then copies its record. -/
def submitSeam (s : State) (w : Warp) (sup : Bool) (m : Nat) (ea : Word) : Attempt :=
  if 256 ≤ s.seamQueue then .wait
  else match s.cmdRead w sup m ea 128 with
    | .inl r => r
    | .inr bs => .did ((s.agentTouch w.ctx (dieOf w.core) ea (midxOf w m) 128 sup w.core).addTask w.ctx none bs) 0

/-! ## Collectives -/

end State

/-- Fields of a collective's parameter block (R430). -/
def cfld (p : BitVec 768) (lo n : Nat) : Nat := (p.extractLsb' lo n).toNat
def cOp (p : BitVec 768) : Nat := cfld p 0 16
def cType (p : BitVec 768) : Nat := cfld p 24 8
def cMemb (p : BitVec 768) : Nat := max 1 (cfld p 40 5)
def cCount (p : BitVec 768) : Nat := cfld p 64 64
def cSend (p : BitVec 768) : Word := BitVec.ofNat 64 (cfld p 128 56)
def cRecv (p : BitVec 768) : Word := BitVec.ofNat 64 (cfld p 192 56)
def cStride (p : BitVec 768) : Word := BitVec.ofNat 64 (cfld p 256 64)
def cRop (p : BitVec 768) : Nat := cfld p 384 16
def cHint (p : BitVec 768) : Nat := cfld p 400 16
def cOpw (p : BitVec 768) (i : Nat) : Word := BitVec.ofNat 64 (cfld p (512 + 64 * i) 64)
def cInplace (p : BitVec 768) : Bool := p.getLsbD 32
def cShflag (p : BitVec 768) : Bool := p.getLsbD 33

/-- The bytes of an element of a type (R431). -/
def cSize (t : Nat) : Nat := if t = 0 || t = 4 then 8 else if t = 2 || t = 3 then 2 else if t = 7 || t = 8 then 1 else if t = 9 then 576 else 4

/-- The participants of a group image, in ascending fabric rank (R427, R428). -/
def groupRanks (img : BitVec 1536) : List Nat :=
  let base := (img.extractLsb' 1024 14).toNat
  let map := (List.range 1024).filter fun i => img.getLsbD i
  if img.getLsbD 1038 then map.flatMap fun i => (List.range 16).map fun j => base + 16 * i + j else map.map (base + ·)

def groupKey (img : BitVec 1536) : Nat := (img.extractLsb' 1056 32).toNat
def groupTmo (img : BitVec 1536) : Nat := (img.extractLsb' 1088 16).toNat

/-- The digest of MAP, RBASE and SPAN (R429). -/
def Group.digest (g : Group) : BitVec 64 := Config.groupDigest (g.img.extractLsb' 0 1039)

/-- The number of participants and the group rank of a fabric rank (R428). -/
def Group.n (g : Group) : Nat := (groupRanks g.img).length
def Group.rankOf (g : Group) (r : Nat) : Option Nat := (groupRanks g.img).findIdx? (· = r)

/-- The types a reduction operation takes (R432). -/
def ropOk (rop t : Nat) : Bool :=
  if rop ≤ 2 then t ≤ 7 else if rop = 3 then t ≤ 1 else if rop = 4 then t = 9 else rop ≤ 7 && inRange 4 7 t

/-- A parameter block that breaks R430 or R431 for a group (R433). -/
def collInvalid (p : BitVec 768) (g : Group) : Bool :=
  let op := cOp p
  let t := cType p
  let red := op ≤ 1
  let align := if t = 9 then 64 else cSize t
  let bad := fun (a : Word) => a.toNat % align != 0
  let chunk := cfld p 320 64
  let reads := !(cInplace p)
  7 < op || !(if red then ropOk (cRop p) t else if op ≤ 4 then t ≤ 8 && cRop p = 0 else t ≤ 1 && cRop p = 0) ||
  cfld p 35 5 != 0 || cfld p 45 19 != 0 || 16 < cfld p 40 5 || cfld p 184 8 != 0 || cfld p 248 8 != 0 || cfld p 422 26 != 0 || 5 < cHint p ||
  (chunk != 0 && !(chunk % 4096 = 0 && inRange 4096 (2 ^ 28) chunk)) ||
  (inRange 2 4 op && cMemb p != 1) || (cInplace p && (!(op = 0 || op = 2) || cMemb p != 1)) || (cShflag p && op != 2) ||
  (reads && (bad (cSend p) || (1 < cMemb p && bad (cStride p)))) ||
  (if op ≤ 4 then bad (cRecv p) else (cRecv p).toNat % 8 != 0) ||
  (match op with
    | 0 | 1 => if cRop p = 3 then 4 ≤ (cOpw p 0).toNat else cOpw p 0 != 0
    | 2 => if cShflag p then (cOpw p 0).toNat % 8 != 0 else cOpw p 0 != 0
    | 3 => g.n ≤ (cOpw p 0).toNat
    | 4 => cOpw p 0 != 0
    | 5 => 2 ≤ (cOpw p 0).toNat
    | 6 => g.n * cMemb p ≤ (cOpw p 0).toNat
    | _ => bad (cOpw p 0)) ||
  (if op = 5 then (if cOpw p 0 = 0 then cOpw p 1 != 0 else (cOpw p 1).toNat % 64 != 0)
   else if op = 7 then (cOpw p 1).toNat % 4 != 0 else cOpw p 1 != 0) ||
  cOpw p 2 != 0 || cOpw p 3 != 0

/-- The collective engine a collective of a core goes to, when one has a free context (R434): the nearer one, else the other. -/
def nearEngine (core : Nat) : Nat := if [0, 1, 4, 5].contains (dieOf core) then 0 else 1

namespace State

def freeEngine (s : State) (core : Nat) : Option Nat :=
  let free := fun (e : Nat) => (s.colls.filter fun p => p.2.engine = e).length < 32
  let near := nearEngine core
  if free near then some near else if free (1 - near) then some (1 - near) else none

/-- A cancel sent to every other participant of a group under a sequence number (R433). -/
def sendCancels (s : State) (g : Group) (seq : Nat) (fault : Bool) : State :=
  { s with hostOut := s.hostOut ++ ((groupRanks g.img).filter (· != s.rank)).map fun r => .cancel r (groupKey g.img) seq fault }

/-- Accept a parameter block from a core for a context (R446): the outcome of R98 for an empty entry; else the collective takes a sequence
number, and an invalid block ends as R433 gives once its context completes it. -/
def acceptColl (s : State) (x core : Nat) (va : Word) (p : BitVec 768) : Attempt :=
  match s.freeEngine core with
  | none => .wait
  | some e =>
    let gi := cfld p 16 8
    let g := tget {} (s.ctx x).groups gi
    if !g.valid then
      if !s.agentReady x (va + 96#64) 32 then .wait else
      let err : ErrRec := ({} : ErrRec).add 1 0 (0x690 + e) gi
      .did (((s.writeEntry x (va + 96#64) err)).postAdvance x (cfld p 416 6) (BitVec.ofNat 64 (cfld p 448 64))) (~~~0#64)
    else
      let s1 := s.modCtx x fun c => { c with groups := tset c.groups gi { g with seq := g.seq + 1 } }
      let bad := collInvalid p g
      let mine := s1.early.filter fun c => c.1 = x && c.2.1 = gi && c.2.2.1 = g.seq.toNat
      let c : Coll := { ctx := x, core := core, g := gi, seq := g.seq.toNat, blk := va, params := p, group := g, engine := e,
                        chunks := mine.map fun c => c.2.2.2, last := s.cycle, done := bad,
                        err := if bad then ({} : ErrRec).add 1 0 (0x690 + e) va.toNat else {} }
      let s2 : State := { s1 with colls := s1.colls ++ [(tfresh s1.colls, c)], early := s1.early.filter fun c => !(mine.contains c) }
      .did (if bad then s2.sendCancels g c.seq false else s2) g.seq

/-- A warp is waiting for a collective context, with its `coll` at the pc or issued again (R434, R446). -/
def asksColl (s : State) (k : Nat) : Bool :=
  match s.warp? k with
  | none => false
  | some v => (v.st = .wait && v.waitOn = some .queue) ||
      v.log.any fun e => e.acc = .command && e.word.extractLsb' 0 9 = 0x198#9 && e.parts.any fun p => !p.ok && (p.fault.isNone || p.retry)

/-- No earlier `coll` of the core waits (R434). -/
def collTurn (s : State) (w : Warp) : Bool :=
  match s.collAsk.find? fun k => s.asksColl k && (s.warp? k).any (·.core = w.core) with
  | some k => k = w.key
  | none => true

/-- The `coll` of a warp waits for a collective context, behind those of its core that already do (R434). -/
def askColl (s : State) (k : Nat) : State :=
  if s.collAsk.contains k && s.asksColl k then s else { s with collAsk := s.collAsk.filter (· != k) ++ [k] }

/-- `coll` (R446). -/
def submitColl (s : State) (w : Warp) (sup : Bool) (m : Nat) (ea : Word) : Attempt :=
  match s.cmdRead w sup m ea 96 with
  | .inl r => r
  | .inr bs =>
    if !(s.collTurn w) then .wait
    else ({ s with collAsk := s.collAsk.filter (· != w.key) }.agentTouch w.ctx (dieOf w.core) ea (midxOf w m) 96 sup w.core).acceptColl w.ctx w.core ea (BitVec.ofNat 768 (leNat bs))

/-- A collective of an entry is running (R447). -/
def collRuns (s : State) (x g : Nat) : Bool := s.colls.any fun p => p.2.ctx = x && p.2.g = g

/-- Load an entry from an image: the machine and the result code (R447). -/
def loadGroup (s : State) (x g : Nat) (img : BitVec 1536) : State × Nat :=
  let ranks := groupRanks img
  let reserved := img.extractLsb' 1040 16 != 0 || img.extractLsb' 1104 432 != 0
  let put := fun (e : Group) =>
    let old := tget {} (s.ctx x).groups g
    let s1 : State := if old.valid && groupKey old.img = groupKey e.img && e.valid then s else { s with early := s.early.filter fun c => !(c.1 = x && c.2.1 = g) }
    s1.modCtx x fun c => { c with groups := tset c.groups g e }
  if reserved then (s, 4)
  else if !(img.getLsbD 1039) then (put {}, 1)
  else if ranks.any (16384 ≤ ·) then (s, 4)
  else match ranks.findIdx? (· = s.rank) with
    | none => (s, 2)
    | some own =>
      let taken := s.ctxs.any fun p => p.1 != x && s.resident p.1 && p.2.groups.any fun e => e.2.valid && groupKey e.2.img = groupKey img
      if taken then (s, 3) else (put { valid := true, img := img, own := own, seq := 0 }, 0)

/-- `grpld` (R447). -/
def submitGroup (s : State) (w : Warp) (sup : Bool) (m : Nat) (ea : Word) (g : Nat) : Attempt :=
  if 255 < g then .did s 5
  else if s.collRuns w.ctx g then .wait
  else match s.cmdRead w sup m ea 192 with
    | .inl r => r
    | .inr bs =>
      let (s1, v) := (s.agentTouch w.ctx (dieOf w.core) ea (midxOf w m) 192 sup w.core).loadGroup w.ctx g (BitVec.ofNat 1536 (leNat bs))
      .did s1 (BitVec.ofNat 64 v)

/-! ## Commands in the operand log -/

end State

/-- The result of a command reaches its destination (R104): in the part's own member, and in every active member of a command made once. -/
def Warp.putResult (w : Warp) (e : LogEntry) (m : Nat) (r : Word) : Warp :=
  (w.slots.filter fun x => x = m || e.tag.testBit x).foldl (fun w x => w.sput x e.dst r) w

namespace State

/-- Attempt a command by its opcode for a member: its record at `ea`, and its further operand. -/
def attempt (s : State) (w : Warp) (sup : Bool) (opc : BitVec 9) (m : Nat) (ea : Word) (arg : Nat) : Attempt :=
  if opc = 0x180 then s.pushRecord w sup m ea arg
  else if opc = 0x18B then s.submitSeam w sup m ea
  else if opc = 0x199 then s.submitGroup w sup m ea arg
  else s.submitColl w sup m ea

/-- The fault a held command meets when it is tried again. -/
def commandFault (s : State) (w : Warp) (e : LogEntry) (p : Part) : Option (Nat × Nat × Word) :=
  match s.attempt w e.sup (e.word.extractLsb' 0 9) p.slot p.addr p.data.toNat with
  | .fault c d a => some (c, d, a)
  | _ => none

/-- A held command is tried again (R403): on success its part is complete and holds its result; poison completes it without one (R450). -/
def commandPart (s : State) (k q : Nat) (p : Part) : State :=
  match s.warp? k with
  | none => s
  | some w => match w.log.find? fun e => e.seq = q with
    | none => s
    | some e =>
      if e.acc != .command || !(e.parts.contains p) || p.ok || (p.fault.isSome && !p.retry) then s
      else match s.attempt w e.sup (e.word.extractLsb' 0 9) p.slot p.addr p.data.toNat with
        | .did s1 r =>
          let s2 := if e.awaited w || 256 ≤ e.dst then s1 else s1.modWarp k fun w => w.putResult e p.slot r
          s2.completePart k q p (r.setWidth 128)
        | .wait => if e.word.extractLsb' 0 9 = 0x198#9 then s.askColl k else s
        | .poison l => ((s.modWarp k fun w => w.modParts q fun x => if x = p then { x with ok := true, dead := true, fault := none } else x)).consumePoison w e p l
        | _ => s

end State

/-- The command of the instruction at the pc, held in the operand log by a fault: the instruction waits for it (R365, R400, R446). -/
def Warp.heldCommand (w : Warp) : Option LogEntry := w.log.find? fun e => e.acc = .command && e.dst < 256 && e.pc = w.pc && e.sup = w.sup

/-- The instruction of a held command ends once each of its parts is complete, with their results; a part abandoned or killed has none. -/
def Warp.endCommand (w : Warp) (e : LogEntry) : WRes :=
  if e.parts.all (·.ok) then
    let w1 : Warp := { w with log := w.log.filter fun x => x.seq != e.seq }
    .fall ((e.parts.filter fun p => !p.dead).foldl (fun w p => w.putResult e p.slot (p.data.setWidth 64)) w1)
  else .wait .log

/-- The instruction at the pc has its command in the log: it ends with it, or waits. Otherwise it issues. -/
def endHeld (s : State) (w : Warp) (f : Warp → State × WRes) : State × WRes :=
  match w.heldCommand with
  | some e => (s, w.endCommand e)
  | none => f w

/-- Run a command of a warp or foreman (R104, R288): once for all members, or, with private operands (`priv`), once for each active member in
slot order. A member that meets a fault is held in the operand log (R365, R369, R446), and a form with a result waits there; a wait is taken
before any member's command. -/
def commandOp (s : State) (w : Warp) (word : BitVec 96) (opc : BitVec 9) (dst : Spec) (priv : Bool) (addr : Nat → Word) (arg : Nat → Nat) :
    State × WRes :=
  let rec go (s : State) (ps : List Part) (bad : Bool) : List Nat → Option (State × List Part × Bool)
    | [] => some (s, ps, bad)
    | m :: rest =>
      let p : Part := { slot := m, lane := if 0x198 ≤ opc.toNat then 0 else 96, addr := addr m, data := BitVec.ofNat 128 (arg m) }
      match s.attempt w w.sup opc m (addr m) (arg m) with
      | .did s1 r => go s1 (ps ++ [{ p with ok := true, data := r.setWidth 128 }]) bad rest
      | .wait => none
      | .fault c d a => go s (ps ++ [{ p with fault := some (c, d, a) }]) bad rest
      | .poison l => go (s.killLanes w.key m (~~~0#96) 6 l) (ps ++ [{ p with ok := true, dead := true }]) true rest
  match go s [] false (if priv then w.active else [w.active.headD 0]) with
  | none => (if opc = 0x198#9 then s.askColl w.key else s, .wait .queue)
  | some (s1, ps, bad) =>
    let w1 := (s1.warp? w.key).getD w
    let e : LogEntry := { newEntry w 0 word { acc := .command, size := 0, dst := dst } false ps (if priv then 0 else w.mm.toNat) with tx := false }
    let ends := fun (w : Warp) => if bad then WRes.kill w [] 6 true else .fall w
    if ps.all (·.ok) then (s1, ends (if e.dst < 256 then (ps.filter fun p => !p.dead).foldl (fun w p => w.putResult e p.slot (p.data.setWidth 64)) w1 else w1))
    else match w1.freeEntry with
      | none => (s, .wait .log)
      | some k =>
        let w2 := w1.logEntry { e with idx := k, seq := w1.nextSeq }
        if e.dst < 256 then
          let w3 : Warp := { w2 with st := .wait, waitOn := some .log, waitSince := s.coreCycle w.core }
          (s1, if bad then .kill w3 [] 6 false else .done w3)
        else (s1, ends w2)

end Sys2Proof.Machine
end

