-- ==== Sys2Proof/Machine/CopyPlan.lean ====
section
/-!
DEFINITION. What a copy moves: the rows of the copy forms (R279, R280, R290), where they lie, and the fault a row meets (R276).
-/

namespace Sys2Proof.Machine

/-- A contiguous row of a copy: the lane it belongs to (96 when to none), destination, source, and length. -/
structure Row where
  lane : Nat
  dst : Word
  src : Word
  n : Nat
  deriving DecidableEq, Repr

/-- Fields of a tile record (R279). -/
def tileEsz (r : BitVec 512) : Nat := 2 ^ (r.extractLsb' 0 2).toNat
def tileN (r : BitVec 512) (lo : Nat) : Nat := (r.extractLsb' lo 16).toNat
def tileStride (r : BitVec 512) (lo : Nat) : Word := r.extractLsb' lo 64

/-- The rows of a tile (R279). -/
def tileRows (r : BitVec 512) (dst src : Word) : List Row :=
  (List.range (tileN r 48)).flatMap fun z => (List.range (tileN r 32)).map fun y =>
    let at_ := fun (b : Word) (lo : Nat) => b + tileStride r lo * BitVec.ofNat 64 y + tileStride r (lo + 64) * BitVec.ofNat 64 z
    ⟨96, at_ dst 192, at_ src 64, tileN r 16 * tileEsz r⟩

/-- Fields of a halo record (R280). -/
def haloEsz (r : BitVec 1024) : Nat := 2 ^ (r.extractLsb' 520 2).toNat
def haloE (r : BitVec 1024) (a : Nat) : Nat := (r.extractLsb' (448 + 16 * a) 16).toNat
def haloH (r : BitVec 1024) (a : Nat) : Nat := (r.extractLsb' (496 + 8 * a) 8).toNat
def haloFaces (r : BitVec 1024) : List Nat := (List.range 6).filter fun f => r.getLsbD (522 + f)
def haloTile (r : BitVec 1024) (i : Nat) : Word := BitVec.ofNat 64 (r.extractLsb' (64 * i) 56).toNat

/-- The extent of a face's region along an axis: the halo width on its own axis, the interior on the others (R280). -/
def haloLen (r : BitVec 1024) (f a : Nat) : Nat := if a = f / 2 then haloH r a else haloE r a - 2 * haloH r a

/-- Bytes a face carries (R280). -/
def haloBytes (r : BitVec 1024) (f : Nat) : Nat := haloEsz r * haloLen r f 0 * haloLen r f 1 * haloLen r f 2

/-- The rows of a halo record (R280). -/
def haloRows (r : BitVec 1024) : List Row :=
  (haloFaces r).flatMap fun f =>
    let ax := f / 2
    let hi := f % 2 = 1
    let lo := fun (own : Bool) (a : Nat) =>
      if a != ax then haloH r a
      else if own then (if hi then haloE r a - haloH r a else 0)
      else (if hi then haloH r a else haloE r a - 2 * haloH r a)
    if haloLen r f 0 = 0 then []
    else (List.range (haloLen r f 2)).flatMap fun z => (List.range (haloLen r f 1)).map fun y =>
      let elem := fun (own : Bool) => BitVec.ofNat 64 (haloEsz r * (((lo own 2 + z) * haloE r 1 + lo own 1 + y) * haloE r 0 + lo own 0))
      ⟨96, haloTile r 0 + elem true, haloTile r (f + 1) + elem false, haloEsz r * haloLen r f 0⟩

/-- The rows of a copy (R290). -/
def Copy.rows (c : Copy) : List Row :=
  match c.kind with
  | .cpy | .cpyf _ => [⟨96, c.dst, c.src, c.len⟩]
  | .cpyt r => tileRows r c.dst c.src
  | .cpyg n rows => rows.map fun p => ⟨p.1, c.dst + BitVec.ofNat 64 (p.1 * n), p.2, n⟩
  | .halo r => haloRows r

/-- A copy has a source to read; `cpyf` writes its pattern. -/
def Copy.hasSrc (c : Copy) : Bool := match c.kind with | .cpyf _ => false | _ => true

/-- The pieces a copy is moved in: its rows, cut where a side passes a page granule. -/
def Copy.cuts (c : Copy) : List Row :=
  c.rows.flatMap fun r => (State.pagePieces r.dst.toNat r.n).flatMap fun p =>
    (State.pagePieces (r.src + BitVec.ofNat 64 p.1).toNat p.2).map fun q =>
      ⟨r.lane, r.dst + BitVec.ofNat 64 (p.1 + q.1), r.src + BitVec.ofNat 64 (p.1 + q.1), q.2⟩

/-- The pieces of a copy not moved yet, with their numbers (R276). -/
def Copy.left (c : Copy) : List (Row × Nat) := (c.cuts.zip (List.range c.cuts.length)).filter fun q => !c.done.contains q.2

/-- The ranges of virtual addresses a copy reads and writes (R288). -/
def Copy.virtRanges (c : Copy) : List (Word × Nat) :=
  c.rows.flatMap fun r => (if c.dns then [] else [(r.dst, r.n)]) ++ (if c.sns || !c.hasSrc then [] else [(r.src, r.n)])

/-- The core whose copy engine runs a copy. -/
def Copy.core (c : Copy) : Nat := c.owner / 32

/-- The agent key of a copy: it is an agent of its own (R274). -/
def copyAgent (id : Nat) : Nat := 2000000 + id

namespace State

/-- Where the source or destination of a row lies, through the translations the copy goes by (R327, R329, R330). -/
def rowLocate (s : State) (c : Copy) (r : Row) (dst : Bool) : Except (Nat × Nat × Word) (List (Nat × Nat × Phys)) :=
  (s.under c.ctx c.was).pageLocate c.ctx (if dst then r.dst else r.src) (BitVec.ofNat 16 c.midx) r.n (if dst then .write else .read) c.sup c.core

/-- The physical address a copy reads a piece at: the replica of its die on a replicated page (R303). -/
def rowRead (s : State) (c : Copy) (r : Row) (p : Nat × Nat × Phys) : Nat :=
  (s.under c.ctx c.was).agentReadAddr c.ctx (dieOf c.core) (r.src + BitVec.ofNat 64 p.1) (BitVec.ofNat 16 c.midx) p.2.2 c.core

/-- Keep the translations a row has used (R329). -/
def rowFill (s : State) (c : Copy) (r : Row) : State :=
  if c.was.isSome then s
  else
    let s1 := if c.sns || !c.hasSrc then s else s.agentFill c.ctx r.src (BitVec.ofNat 16 c.midx) r.n c.core
    if c.dns then s1 else s1.agentFill c.ctx r.dst (BitVec.ofNat 16 c.midx) r.n c.core

/-- The fault a row meets: its source first, then its destination. -/
def rowFault (s : State) (c : Copy) (r : Row) : Option (Nat × Nat × Word) :=
  match (if c.sns || !c.hasSrc then .ok [] else s.rowLocate c r false) with
  | .error e => some e
  | .ok _ => match (if c.dns then .ok [] else s.rowLocate c r true) with
    | .error e => some e
    | .ok _ => none

/-- The copy a part of a log entry stands for. -/
def copyOf (s : State) (k seq slot : Nat) : Option (Nat × Copy) := s.copies.find? fun p => p.2.owner = k && p.2.entry = seq && p.2.slot = slot

/-- The fault the copy of a part meets in what is still to be moved (R276). -/
def copyFault (s : State) (k : Nat) (e : LogEntry) (p : Part) : Option (Nat × Nat × Word) :=
  match s.copyOf k e.seq p.slot with
  | none => none
  | some (_, c) => (c.left.filter fun q => q.1.lane = p.lane).findSome? fun q => s.rowFault c q.1

/-- A range of virtual addresses reaches into a per-member window (R288). -/
def windowIn (s : State) (x : Nat) (a : Word) (n : Nat) : Bool :=
  n != 0 && (s.ctx x).segs.any fun d => match segFields d with
    | some (b, z, _) => a.toNat < b + z && b < a.toNat + n
    | none => false

/-- The virtual sides of a copy lie in the shared segment (R288). -/
def sidesShared (s : State) (c : Copy) : Bool := !(c.virtRanges.any fun r => s.windowIn c.ctx r.1 r.2)

end State

end Sys2Proof.Machine
end

