-- ==== Sys2Proof/Machine/SeamMem.lean ====
section
/-!
DEFINITION. Seam cores and memory: the task record (R370), the running instance of a core (R373), its translation and the checks of its
accesses (R376, R380, R385), what it reads, and its writes on their way to memory (R379, R381, R393).
-/

namespace Sys2Proof.Machine

/-! ## The task record (R370) -/

namespace SeamTask

def fld (t : SeamTask) (lo n : Nat) : Nat := (t.rec1.extractLsb' lo n).toNat
def code (t : SeamTask) : Nat := t.fld 0 56
def argp (t : SeamTask) : Nat := t.fld 64 56
def save (t : SeamTask) : Nat := t.fld 128 56
def spread (t : SeamTask) : Nat := t.fld 192 2
def stk (t : SeamTask) : Nat := t.fld 194 3
def core (t : SeamTask) : Nat := t.fld 200 8
def tlc (t : SeamTask) : Nat := t.fld 208 6
def tle (t : SeamTask) : Bool := t.rec1.getLsbD 214
def target (t : SeamTask) : Word := t.rec1.extractLsb' 224 64
def cep (t : SeamTask) : Nat := t.fld 288 56
def base (t : SeamTask) (j : Nat) : Nat := t.fld (512 + 128 * j) 56
def mode (t : SeamTask) (j : Nat) : Nat := t.fld (568 + 128 * j) 2
def size (t : SeamTask) (j : Nat) : Nat := t.fld (576 + 128 * j) 64

/-- The regions in use: base, size and mode (R376). -/
def regions (t : SeamTask) : List (Nat × Nat × Nat) := ((List.range 4).map fun j => (t.base j, t.size j, t.mode j)).filter fun r => r.2.2 != 0

/-- A record breaks the limits of R370; those of TLC and CEP count only where they are used. -/
def invalid (t : SeamTask) : Bool :=
  t.code % 8 != 0 || t.save = 0 || t.save % 64 != 0 || t.spread = 3 || 191 < t.core || (t.node.isNone && t.cep % 32 != 0) ||
  [(56, 8), (120, 8), (184, 8), (197, 3), (215, 9), (344, 168)].any (fun r => t.fld r.1 r.2 != 0) ||
  (List.range 4).any fun j => t.fld (570 + 128 * j) 6 != 0 || t.base j % 4096 != 0 || t.size j % 4096 != 0 || (t.mode j != 0 && t.size j = 0) ||
    2 ^ 56 < t.base j + t.size j

/-- The Seam cores a task runs on, with the index of each instance (R370, R371). -/
def places (t : SeamTask) : List (Nat × Nat) :=
  match t.spread with
  | 0 => [(0, t.core)]
  | 1 => (List.range 24).map fun k => (k, 24 * t.stk + k)
  | _ => (List.range 192).map fun k => (k, k)

/-- The mode of an address: the widest of the regions that hold it, 0 where it is undeclared (R376). -/
def modeAt (t : SeamTask) (a : Nat) : Nat := ((t.regions.filter fun r => r.1 ≤ a && a < r.1 + r.2.1).map fun r => r.2.2).foldl max 0

end SeamTask

/-! ## Instances -/

/-- The stack, and so the die, of a Seam core (R21). -/
def seamDie (core : Nat) : Nat := core / 24

/-- The key that stands for a Seam core among the agents that write. -/
def seamKey (core : Nat) : Nat := State.noWarp + 1 + core

/-- Where a byte of HBM4E lies (R22). -/
structure HbmPlace where
  stack : Nat
  seam : Nat       -- Seam core within the stack
  row : Nat
  channel : Nat    -- pseudo-channel within the stack
  off : Nat        -- byte offset within the pseudo-channel
  deriving DecidableEq, Repr

/-- The interleaving of HBM4E addresses (R22), for an address below `hbmTop`. -/
def hbmPlace (a : Nat) : HbmPlace :=
  let g := a / 4096
  let k := g / 8 % 24
  let row := g / 192
  let u := a / 256 % 16
  { stack := g % 8, seam := k, row := row, channel := 8 * k + u % 8, off := row * 512 + u / 8 * 256 + a % 256 }

/-- The address of a byte of a stack (R22: the mapping is a bijection). -/
def HbmPlace.addr (p : HbmPlace) : Nat :=
  ((p.off / 512 * 24 + p.channel / 8) * 8 + p.stack) * 4096 + (p.channel % 8 + 8 * (p.off / 256 % 2)) * 256 + p.off % 256

/-- The Seam core that owns the granule of a physical address, if it lies in HBM4E (R22). -/
def seamOwner (pa : Nat) : Option Nat := if pa < hbmTop then some (24 * (hbmPlace pa).stack + (hbmPlace pa).seam) else none

/-- A fault of a Seam instruction: class, DETAIL and address (R385). -/
abbrev SeamFault := Nat × Nat × Nat

/-- An element of a vector of bytes of an access: address and length. -/
abbrev SeamRange := Word × Nat

namespace State

def task? (s : State) (id : Nat) : Option SeamTask := tfind s.tasks id

/-- The instance that runs on a Seam core. -/
def runningOn (s : State) (core : Nat) : Option (Nat × SeamInst) := s.insts.find? fun p => p.2.core = core && p.2.st = .running

/-- The instance that runs on the current Seam core. -/
def curInst (s : State) : Option (Nat × SeamInst) :=
  match s.cur with
  | some (.seam c) => s.runningOn c
  | _ => none

/-- Translate an access of a Seam instance: a user access of its context with MIDX 0 (R380). -/
def seamLocate (s : State) (x : Nat) (a : SeamRange) (use : Use) : Except SeamFault (List (Nat × Nat × Phys)) :=
  match s.agentLocate x a.1 0 a.2 use with
  | .error e => .error (e.cls, e.detail, e.addr)
  | .ok ps => .ok ps

/-- The checks of an instruction before any of its elements is read or written (R385): alignment, then translation, then the mode of the
region written. The lowest element that fails decides (log entry 51). -/
def seamCheck (s : State) (i : SeamInst) (t : SeamTask) (as : List SeamRange) (align : Nat) (use : Use) : Option SeamFault :=
  match as.find? fun a => a.1.toNat % align != 0 with
  | some a => some (6, 11, a.1.toNat)
  | none => as.findSome? fun a => match s.seamLocate i.ctx a use with
    | .error e => some e
    | .ok _ => if use = .write && t.modeAt a.1.toNat = 1 then some (2, 4, a.1.toNat) else none

/-- A write of the instance to these bytes, or one on its way to the replica it reads, is still to be performed (R303, R381). -/
def seamDue (s : State) (i : SeamInst) (rs : List (Nat × Nat)) : Bool :=
  (i.writes.any fun w => overlap [(w.pa, w.data.length)] rs) || s.ownReplicaDue (seamKey i.core) (seamDie i.core) rs

/-- The physical ranges an access reads (R303). -/
def seamRanges (s : State) (i : SeamInst) (a : SeamRange) : List (Nat × Nat × Nat × Phys) :=
  match s.seamLocate i.ctx a .read with
  | .error _ => []
  | .ok ps => ps.map fun p => (s.agentReadAddr i.ctx (seamDie i.core) (a.1 + BitVec.ofNat 64 p.1) 0 p.2.2, p.2.1, p.1, p.2.2)

/-- Keep the translations of an access in use (R329). -/
def seamFill (s : State) (x : Nat) (as : List SeamRange) : State := as.foldl (fun s a => s.agentFill x a.1 0 a.2) s

/-- What a read of an instance's elements comes to. -/
inductive SeamRead where
  | wait
  | fault (f : SeamFault)
  | got (s : State) (vals : List (List Byte))

/-- Read the elements of an instruction (R385, R387, R392): it waits behind the instance's own writes to the same bytes; poisoned data end
the instance and nothing is written. The serialisation points of R379 hold the newest copy of every byte. -/
def seamRead (s : State) (i : SeamInst) (t : SeamTask) (as : List SeamRange) (align : Nat) : SeamRead :=
  match s.seamCheck i t as align .read with
  | some f => .fault f
  | none =>
    let rs := as.map fun a => (a, s.seamRanges i a)
    if rs.any fun r => s.seamDue i (r.2.map fun q => (q.1, q.2.1)) then .wait
    else
      match rs.findSome? fun r => r.2.findSome? fun q =>
          ((lineSpan q.1 q.2.1).find? fun l => s.poison.contains (s.home l)).map fun l =>
            ((r.1.1.toNat + q.2.2.1 + l) - q.1) / 128 * 128 with
      | some l => .fault (3, 0, l)
      | none =>
        let s1 := s.seamFill i.ctx as
        let s2 := rs.foldl (fun s r => r.2.foldl (fun s q => (s.uncached q.2.2.2 q.2.1 true false).readBy (seamKey i.core) q.1 q.2.1) s) s1
        .got s2 (rs.map fun r => r.2.flatMap fun q => s2.physRead q.1 q.2.1)

/-- What a write of an instance's elements comes to: a fault, or the instance with its writes on their way (R395) and the machine. -/
def seamWrite (s : State) (i : SeamInst) (t : SeamTask) (es : List (Word × List Byte)) (align : Nat) (red : Option Nat) :
    Except SeamFault (State × SeamInst) :=
  let as := es.map fun e => (e.1, e.2.length)
  match s.seamCheck i t as align .write with
  | some f => .error f
  | none =>
    let ws := es.flatMap fun e => match s.seamLocate i.ctx (e.1, e.2.length) .write with
      | .error _ => []
      | .ok ps => ps.map fun p =>
          ({ group := i.group, pa := p.2.2.pa, leaf := p.2.2.leaf,
             stride := if Leaf.prop p.2.2.leaf then s.replicaStride noWarp i.ctx (e.1 + BitVec.ofNat 64 p.1) 0 else 0,
             data := (e.2.drop p.1).take p.2.1, red := red } : SeamWrite)
    .ok (s.seamFill i.ctx as, { i with writes := i.writes ++ ws, group := i.group + 1 })

/-- A reduction step (R393). -/
def redStep (op old v : Nat) : Nat :=
  let sg := fun (a : Nat) => (BitVec.ofNat 32 a).toInt
  match op with
  | 0 => fpAdd Fmt.f32 {} old v
  | 1 => (old + v) % 2 ^ 32
  | 2 => fpMinMax Fmt.f32 false false old v
  | 3 => fpMinMax Fmt.f32 false true old v
  | 4 => if sg v < sg old then v else old
  | 5 => if sg old < sg v then v else old
  | _ => fpAdd Fmt.f64 {} old v

/-- Perform one write of a Seam core (R379, R393): a store, or one indivisible reduction step, which poisoned memory does not take. -/
def seamApply (s : State) (core : Nat) (w : SeamWrite) : State :=
  let n := w.data.length
  let ph : Phys := ⟨w.pa, w.leaf⟩
  let s1 := s.uncached ph n w.red.isSome true
  if w.red.isSome && s1.poisoned w.pa n then s1
  else
    let bs := match w.red with
      | some op => leBytes n (redStep op (leNat (s1.physRead w.pa n)) (leNat w.data))
      | none => w.data
    let s2 := s1.perform (seamKey core) w.pa bs
    if Leaf.prop w.leaf then s2.toReplicas (seamKey core) w.pa w.stride bs else s2

/-- Write `k` of a Seam core's instance takes its place in memory (R381): writes of different instructions in program order, those of one
instruction in any order but for elements that overlap, which keep lane order (R392, R393). Reductions of one instruction at one location are applied with no
other access in between. -/
def seamPerform (s : State) (core k : Nat) : State :=
  match s.insts.find? fun p => p.2.core = core && p.2.writes != [] with
  | none => s
  | some (id, i) =>
    match i.writes[k]? with
    | none => s
    | some w =>
      let before := i.writes.take k
      let clash := before.any fun v => v.group != w.group || overlap [(v.pa, v.data.length)] [(w.pa, w.data.length)]
      if clash || !(s.hostReady w.pa w.data.length (Leaf.ca w.leaf)) then s
      else
        let mate := fun (v : SeamWrite) => w.red.isSome && v.group = w.group && v.pa = w.pa
        let s1 := (if w.red.isSome then i.writes.filter mate else [w]).foldl (fun s v => s.seamApply core v) s
        { s1 with insts := tset s1.insts id { i with writes := (i.writes.eraseIdx k).filter fun v => !mate v } }

/-- Every write of an instance has been performed, everywhere (R303, R375, R394). -/
def seamQuiet (s : State) (i : SeamInst) : Bool := i.writes = [] && !(s.replicas.any fun r => r.owner = seamKey i.core)

end State

end Sys2Proof.Machine
end

