-- ==== Sys2Proof/Machine/Perform.lean ====
section
/-!
DEFINITION. Accesses being performed: data that return to loads (R125, R266), plain stores (R297), unordered atomics (R262, R270), ordered
contributions and their release (R271, R272), exact requests (R210, R211), lane-level faults (R396), replica updates (R303) and walks
(R322).
-/

namespace Sys2Proof.Machine

/-- The parts of an entry an event names: those of the member slot, or of every slot for an access made once, in the given lanes; a part
without a lane is always named. -/
def LogEntry.named (e : LogEntry) (m : Nat) (lanes : LaneMask) : List Part :=
  e.parts.filter fun p => (e.shared || p.slot = m) && (p.lane = 96 || lanes.getLsbD p.lane)

namespace State

/-- A warp and one of its operand-log entries by index. -/
def entryOf (s : State) (k i : Nat) : Option (Warp × LogEntry) :=
  match s.warp? k with
  | none => none
  | some w => (w.log.find? fun e => e.idx = i).map fun e => (w, e)

/-- Change one log entry. -/
def modEntry (s : State) (k q : Nat) (f : LogEntry → LogEntry) : State :=
  s.modWarp k fun w => { w with log := w.log.map fun e => if e.seq = q then f e else e }

/-! ## Loads -/

/-- A load's access (R266, R402). -/
def isLoad (a : Access) : Bool :=
  match a with
  | .load .. | .sload _ | .exactLoad | .windowLoad | .tableLoad | .bind _ | .scales _ => true
  | _ => false

/-- The bytes a part reads: a window that lies in one line of the L1, when the fetch hits, is as long as the header there says (R209). -/
def readSize (s : State) (w : Warp) (e : LogEntry) (p : Part) (hit : Bool) : Nat :=
  let n := s.partSize w e p
  if e.acc = .windowLoad && hit && !e.tx && cacheOf e != 3 then
    match s.locateByte w e p 0 with
    | .ok ph =>
      match (if l1Ok ph then s.l1Line w.core (s.readAddr w p 0 ph) else none) with
      | some line =>
        let m := Exact.windowLen (line.drop (s.readAddr w p 0 ph % 128))
        if s.readAddr w p 0 ph % 128 + m ≤ 128 then m else n
      | none => n
    | .error _ => n
  else n

/-- The bytes a part reads, whether any of them is poisoned, and the machine after the read. -/
def fetchPart (s : State) (w : Warp) (e : LogEntry) (p : Part) (hit : Bool) : Option (List Byte × Bool × State) :=
  let n := s.readSize w e p hit
  if e.near then some (s.nearBytes w p.addr.toNat n, s.nearBad w p.addr.toNat n, s)
  else match s.pieces w e p n with
    | none => none
    | some ps =>
      let s1 := ps.foldl (fun s q => s.uncached q.2.2 q.2.1 true false) (s.fillFor w p ps)
      some (s1.readPart w e p ps hit)

/-- The virtual line of the first poisoned line a part reads, for the record of the kill (R315, R450). -/
def badLine (s : State) (w : Warp) (e : LogEntry) (p : Part) : Nat :=
  let n := s.partSize w e p
  if e.near then p.addr.toNat
  else match s.pieces w e p n with
    | none => p.addr.toNat
    | some ps =>
      let lines := ps.flatMap fun q => (lineSpan q.2.2.pa q.2.1).map fun l => (l, q)
      match lines.find? fun x => s.poisoned (x.1 + (s.readAddr w p x.2.1 x.2.2.2 - x.2.2.2.pa)) 1 with
      | some (l, q) => (s.vlineOf w p q l).toNat
      | none => p.addr.toNat

/-- Data have come back to a part of a load (R125, R266). Poisoned data write nothing and kill (R450). A blocking read keeps its bytes in the
entry for its instruction to take. -/
def takeData (s : State) (k : Nat) (w : Warp) (e : LogEntry) (p : Part) (bs : List Byte) (bad : Bool) (line : Nat) : State :=
  let s1 := match e.acc with
    | .scales r => s.modBlock w.blk fun b => { b with scalePend := b.scalePend.filter (· != r), scales := if bad then b.scales else b.scales.writeBytes (512 * r) bs }
    | _ => s
  if bad then (s1.completePart k e.seq p 0).consumePoison w e p line
  else match e.acc with
    | .windowLoad | .bind _ => s1.modEntry k e.seq fun x => { x with blob := bs }
    | .scales _ => s1.completePart k e.seq p 0
    | _ => (s1.modWarp k fun w => receive w e p bs).completePart k e.seq p (BitVec.ofNat 128 (leNat bs))

/-- The parts of a load that one return of data serves. A line of an access made once for all members is fetched once for the lanes of all of
them (R106): the parts of that line not yet complete, all of them ready. -/
def returnGroup (s : State) (w : Warp) (e : LogEntry) (ps : List Part) : List Part :=
  let todo := fun (p : Part) => !p.ok && (p.fault.isNone || p.retry)
  if !e.shared then ps.filter fun p => s.ready w e p
  else
    let lines := ((ps.filter todo).map fun p => p.addr.toNat / 128).eraseDups
    let whole := lines.filter fun l => e.parts.all fun p => !todo p || p.addr.toNat / 128 != l || s.ready w e p
    e.parts.filter fun p => todo p && whole.contains (p.addr.toNat / 128)

/-- Data return to parts of a load (R106, R125, R266): all of them as memory and the L1 stand now; an acquire follows the whole return. -/
def loadParts (s : State) (k i : Nat) (hit : Bool) (ps : List Part) : State :=
  match s.entryOf k i with
  | none => s
  | some (w, e) =>
    if !isLoad e.acc || e.blob != [] then s
    else
      let got := (s.returnGroup w e ps).filterMap fun p => (s.fetchPart w e p hit).map fun r => (p, r.1, r.2.1)
      let s1 := got.foldl (fun s g => ((s.fetchPart w e g.1 hit).map fun r => r.2.2).getD s) s
      let s2 := got.foldl (fun s' g => s'.takeData k w e g.1 g.2.1 g.2.2 (s.badLine w e g.1)) s1
      if e.acquires && got.any (fun g => !g.2.2) then s2.acquireBy k w.core e.scope else s2

/-- The same for one part. -/
def loadPart (s : State) (k i : Nat) (hit : Bool) (p : Part) : State := s.loadParts k i hit [p]

/-! ## Stores -/

/-- The bytes a part of a store writes. -/
def storeBytes (e : LogEntry) (p : Part) : List Byte :=
  match e.acc with
  | .zero => List.replicate 128 0
  | .store n => dataBytes n p.data
  | _ => e.blob

def isStore (a : Access) : Bool :=
  match a with
  | .store _ | .zero | .exactStore | .windowStore | .tableStore => true
  | _ => false

/-- One part of a plain store is performed (R266, R297). -/
def storePart (s : State) (k i : Nat) (p : Part) : State :=
  match s.entryOf k i with
  | none => s
  | some (w, e) =>
    if !(e.parts.contains p) || !isStore e.acc || !s.ready w e p then s
    else
      let bs := storeBytes e p
      if e.near then (s.nearWrite w.blk p.addr.toNat bs).completePart k e.seq p p.data
      else match s.pieces w e p bs.length with
        | none => s
        | some ps =>
          let s1 := ps.foldl (fun s q => if e.tx then s else s.uncached q.2.2 q.2.1 false true) (s.fillFor w p ps)
          (s1.writePart w e p ps bs).completePart k e.seq p p.data

/-! ## Unordered atomics (R262, R270) -/

/-- The new value of a location of `n` bytes. -/
def atomNew (op : AtomOp) (n : Nat) (old : Nat) (d : BitVec 128) : Nat :=
  let m := 2 ^ (8 * n)
  let b := d.toNat % m
  let sg := fun (x : Nat) => if x < m / 2 then (x : Int) else (x : Int) - m
  match op with
  | .add => (old + b) % m
  | .min true => if sg b < sg old then b else old
  | .max true => if sg old < sg b then b else old
  | .min false => min old b
  | .max false => max old b
  | .and => old &&& b
  | .or => old ||| b
  | .xor => old ^^^ b
  | .exch => b
  | .cas => if old = b then d.toNat / m % m else old
  | .fadd => fpAdd (if n = 8 then Fmt.f64 else Fmt.f32) {} old b

/-- The steps of a combined request, lanes ascending: the final value, and the value each lane received. -/
def atomSteps (op : AtomOp) (n : Nat) (parts : List Part) (old : Nat) : Nat × List (Nat × Nat) :=
  (laneNumbers.filter fun l => parts.any fun p => p.lane = l).foldl (fun acc l =>
    match parts.find? fun p => p.lane = l with
    | some p => (atomNew op n acc.1 p.data, acc.2 ++ [(l, acc.1)])
    | none => acc) (old, [])

/-- Poisoned data reach every part of a request: nothing is performed (R450). -/
def poisonParts (s : State) (k : Nat) (w : Warp) (e : LogEntry) (ps : List Part) (line : Nat) : State :=
  ps.foldl (fun s p => (s.completePart k e.seq p 0).consumePoison w e p line) s

/-- A combined atomic request is applied (R262, R270): the lanes of one member, or of all for an access made once, that address `addr`. -/
def atomicApply (s : State) (k i m : Nat) (addr : Word) : State :=
  match s.entryOf k i with
  | none => s
  | some (w, e) =>
    match e.acc with
    | .atomic op n =>
      let ps := e.parts.filter fun p => (e.shared || p.slot = m) && p.addr = addr && !p.ok
      match ps with
      | [] => s
      | p0 :: _ =>
        if !(ps.all fun p => s.ready w e p) then s
        else match s.pieces w e p0 n with
          | none => s
          | some q =>
            let s1 := q.foldl (fun s x => if e.tx then s else s.uncached x.2.2 x.2.1 true true) (s.fillFor w p0 q)
            let bad := q.any fun x => s1.poisoned x.2.2.pa x.2.1
            if bad then s1.poisonParts k w e ps (s.badLine w e p0)
            else
              let view := match (if e.tx then w.tx else none) with
                | some t => q.flatMap fun x => s1.txBytes t x.2.2.pa x.2.1
                | none => q.flatMap fun x => s1.physRead x.2.2.pa x.2.1
              let (new, olds) := atomSteps op n ps (leNat view)
              let s2 := if e.tx then s1.trackPart w p0 q false else q.foldl (fun s x => s.readBy k x.2.2.pa x.2.1) s1
              let s3 := s2.writePart w e p0 q (leBytes n new)
              let s4 := if e.acquires then s3.acquireBy k w.core e.scope else s3
              ps.foldl (fun s p =>
                let v := (olds.find? fun x => x.1 = p.lane).map (·.2) |>.getD 0
                let s' := if e.dst = 0x300 then s else s.modWarp k fun w =>
                  (List.range (n / 4)).foldl (fun w j => w.vput p.slot (e.dst + j) (1#96 <<< p.lane)
                    (List.replicate 96 (BitVec.ofNat 32 (v / 2 ^ (32 * j))))) w
                s'.completePart k e.seq p (BitVec.ofNat 128 v)) s4
    | _ => s

/-! ## Ordered atomics (R271, R272) -/

/-- The home slice of a physical address: die and slice, or the core of a roof bank (R252, R257). -/
def homeSlice (pa : Nat) : Nat := if isRoof pa then (pa - roofLo) / 2 ^ 26 else pa / 4096 % 8 * 160 + pa / 128 % 160

/-- Contributions held in a slice. -/
def sliceHeld (s : State) (slice : Nat) : Nat :=
  ((s.ordq.filter fun p => homeSlice p.1 = slice).map fun p => p.2.entries.length).foldl (· + ·) 0

/-- A contribution may not join: entries of the other format or of another launch are held (R271). -/
def ordClash (s : State) (w : Warp) (dbl : Bool) (pa : Nat) : Bool :=
  match tfind s.ordq pa, s.block? w.blk with
  | some q, some b => q.entries != [] && (q.dbl != dbl || q.node != b.node)
  | _, _ => false

/-- Ordered contributions are not permitted on a replicated page (R303), nor on host memory (R260). -/
def ordPage (ph : Phys) : Bool := !Leaf.prop ph.leaf

/-- The contribution of one member beat to one target: live lanes make an entry, dead lanes set DEAD (R271). -/
def contribute (s : State) (k i m : Nat) (addr : Word) : State :=
  match s.entryOf k i with
  | none => s
  | some (w, e) =>
    match e.acc with
    | .ordered dbl =>
      let ps := e.parts.filter fun p => p.slot = m && p.addr = addr && !p.ok
      match ps with
      | [] => s
      | p0 :: _ =>
        let live := ps.filter fun p => !p.dead
        match s.locateByte w e p0 0 with
        | .error _ => (ps.filter (·.dead)).foldl (fun s p => s.completePart k e.seq p 0) s
        | .ok ph =>
          if s.ordClash w dbl ph.pa || !ordPage ph then (ps.filter (·.dead)).foldl (fun s p => s.completePart k e.seq p 0) s
          else if !(ps.all fun p => s.ready w e p) then s
          else if live != [] && 4096 ≤ s.sliceHeld (homeSlice ph.pa) then s.modWarp k fun w => w.markFull e.seq true
          else
            let f := if dbl then Fmt.f64 else Fmt.f32
            let sum := match live with
              | [] => 0
              | p :: rest => rest.foldl (fun acc q => fpAdd f {} acc (q.data.toNat % 2 ^ f.width)) (p.data.toNat % 2 ^ f.width)
            let q0 : OrdQueue := match tfind s.ordq ph.pa with
              | some q => q
              | none => { dbl := dbl, node := 0 }
            let node := match s.block? w.blk with | some b => b.node | none => 0
            let key := [w.info.b, w.info.pos, e.tag, (midxOf w m).toNat]
            let q1 : OrdQueue := { q0 with dead := q0.dead || ps.any (·.dead) }
            let q2 : OrdQueue := if live = [] then q1 else
              { q1 with dbl := dbl, node := node, entries := q1.entries ++ [⟨key, BitVec.ofNat 64 sum, w.blk⟩] }
            let s1 : State := { s.fillFor w p0 [(0, 0, ph)] with ordq := tset s.ordq ph.pa q2 }
            ps.foldl (fun s p => s.completePart k e.seq p p.data) (s1.modWarp k fun w => w.markFull e.seq false)
    | _ => s

/-- Keys in ascending order (R271). -/
def keyLt : List Nat → List Nat → Bool
  | a :: t, b :: u => a < b || (a = b && keyLt t u)
  | _, _ => false

/-- Insert an entry by its key. -/
def ordInsert (x : OrdEntry) : List OrdEntry → List OrdEntry
  | [] => [x]
  | y :: t => if keyLt x.key y.key then x :: y :: t else y :: ordInsert x t

/-- The value and status a release produces (R272). -/
def ordRelease (q : OrdQueue) (old : Nat) : Nat × Word :=
  let f := if q.dbl then Fmt.f64 else Fmt.f32
  let sorted := q.entries.foldr ordInsert []
  (sorted.foldl (fun v e => fpAdd f {} v e.value.toNat) old,
   BitVec.ofNat 64 (q.entries.length + (if q.dead then 2 ^ 32 else 0) + (if q.abort then 2 ^ 33 else 0)))

/-- `ordrel` is performed (R272): for one part, or for all of them when the access is made once. -/
def releasePart (s : State) (k i : Nat) (p : Part) : State :=
  match s.entryOf k i with
  | none => s
  | some (w, e) =>
    if !(e.parts.contains p) || e.acc != .release || !s.ready w e p then s
    else
      let n := s.partSize w e p
      match s.pieces w e p n with
      | none => s
      | some ps =>
        let pa := (ps.map fun q => q.2.2.pa).headD 0
        let group := if e.shared then e.parts.filter fun q => !q.ok else [p]
        let q : OrdQueue := match tfind s.ordq pa with
          | some q => q
          | none => { dbl := false, node := 0 }
        if q.entries != [] && s.poisoned pa n then s.poisonParts k w e group (s.badLine w e p)
        else
          let s1 := s.fillFor w p ps
          let (v, st) := ordRelease q (leNat (s1.physRead pa n))
          let s2 := if q.entries = [] then s1 else s1.writePart w e p ps (leBytes n v)
          let s3 : State := { s2 with ordq := tdel s2.ordq pa }
          let st := if q.entries = [] then 0#64 else st
          let s4 := s3.acquireBy k w.core 4
          group.foldl (fun s x => (s.modWarp k fun w => w.sput x.slot e.dst st).completePart k e.seq x (st.setWidth 128)) s4

/-! ## Exact cells (R210, R211) -/

/-- An exact request is applied to a cell: the terms of the lanes of one member that address it, with POISON for dead ones, or a merge. -/
def exactApply (s : State) (k i m : Nat) (addr : Word) : State :=
  match s.entryOf k i with
  | none => s
  | some (w, e) =>
    if e.acc != .exactAdd && e.acc != .exactMerge then s
    else
      let ps := e.parts.filter fun p => (e.shared || p.slot = m) && p.addr = addr && !p.ok
      match ps with
      | [] => s
      | p0 :: _ =>
        let live := ps.filter fun p => !p.dead
        let drop := fun (s : State) => (ps.filter (·.dead)).foldl (fun s p => s.completePart k e.seq p 0) s
        match s.pieces w e p0 576 with
        | none => drop s
        | some q =>
          if !(ps.all fun p => s.ready w e p) then s
          else
            let s1 := q.foldl (fun s x => if e.tx then s else s.uncached x.2.2 x.2.1 true true) (s.fillFor w p0 q)
            if q.any fun x => s1.poisoned x.2.2.pa x.2.1 then drop (s1.poisonParts k w e live (s.badLine w e p0))
            else
              let old := match (if e.tx then w.tx else none) with
                | some t => q.flatMap fun x => s1.txBytes t x.2.2.pa x.2.1
                | none => q.flatMap fun x => s1.physRead x.2.2.pa x.2.1
              let cell := Exact.ofCell old
              let cell := if e.acc = .exactMerge then cell.merge (Exact.ofCell e.blob)
                else live.foldl (fun c p => c.addTerm (Fmt.f64.decode (p.data.toNat % 2 ^ 64))) cell
              let cell := if ps.any (·.dead) then cell.flag 3 else cell
              let s2 := if e.tx then s1.trackPart w p0 q false else q.foldl (fun s x => s.readBy k x.2.2.pa x.2.1) s1
              let s3 := s2.writePart w e p0 q (cell.toCell.take 552 ++ old.drop 552)
              ps.foldl (fun s p => s.completePart k e.seq p p.data) s3

/-! ## Monitors (R416) -/

/-- Arm a warp's monitor on the line of an address, whose place in memory is known; the L1 copy of the line as the warp reads it, at `rpa`, is given
up. -/
def armMonitor (s : State) (k core : Nat) (ea : Word) (pa rpa : Nat) (midx : BitVec 16) : State :=
  (s.l1Drop core rpa).modWarp k fun w => { w with mon := { armed := true, line := ea &&& ~~~127#64, pline := pa / 128 * 128, rline := rpa / 128 * 128, midx := midx } }

/-- A held `mon` is tried again (R403, R416). -/
def monitorPart (s : State) (k i : Nat) (p : Part) : State :=
  match s.entryOf k i with
  | none => s
  | some (w, e) =>
    if !(e.parts.contains p) || e.acc != .monitor || !s.ready w e p then s
    else match s.locateByte w e p 0 with
      | .error _ => s
      | .ok ph => ((s.fillFor w p [(0, 0, ph)]).armMonitor k w.core p.addr ph.pa (s.readAddr w p 0 ph) (midxOf w p.slot)).completePart k e.seq p 0

/-! ## Lane-level faults (R396) -/

/-- The fault an attempt at a part meets: class, cause and reported address (R328, R261). -/
def faultOf (s : State) (w : Warp) (e : LogEntry) (p : Part) : Option (Nat × Nat × Word) :=
  if e.near || p.dead then none
  else if e.acc = .command then s.commandFault w e p
  else if e.async then s.copyFault w.key e p
  else match s.locate w e p (s.partSize w e p) with
    | .error x => some x
    | .ok ps =>
      let va := (s.under w.ctx p.was).offsetVa w.ctx p.addr (midxOf w p.slot)
      let bad := ps.any fun q => match e.acc with
        | .ordered dbl => s.ordClash w dbl q.2.pa || !ordPage q.2
        | .release => isHost q.2.pa || !ordPage q.2
        | _ => false
      if bad then some (20, 0, va) else none

/-- The registers a form in the log would fill are full again, and the form is no longer there: it has no effect (R313). -/
def dropForm (s : State) (k q : Nat) : State :=
  s.modWarp k fun w => w.modParts q fun x => { x with ok := true, fault := none }

/-- The walk that finds a fault reads its entries (R322). -/
def fillFault (s : State) (w : Warp) (e : LogEntry) (p : Part) : State :=
  if e.near || e.async || p.was.isSome then s else s.fillTlb w.core w.ctx p.addr (midxOf w p.slot)

/-- A fault of a lane becomes known (R396), or aborts the open transaction (R313, R314). -/
def faultPart (s : State) (k i m l : Nat) : State :=
  match s.entryOf k i with
  | none => s
  | some (w, e) =>
    match e.parts.find? fun p => p.slot = m && p.lane = l && !p.dead with
    | none => s
    | some p =>
      if p.ok || (p.fault.isSome && !p.retry) || !s.inOrder w e p then s
      else if s.txRefused w e p then
        ((s.fillFault w e p).modWarp k fun w => w.pendAbort 7 0 (s.offsetVa w.ctx p.addr (midxOf w p.slot))).dropForm k e.seq
      else match s.faultOf w e p with
        | none => s
        | some f =>
          (s.fillFault w e p).modWarp k fun w =>
            (if e.tx then w.pendAbort 3 0 f.2.2 else w).modParts e.seq fun x =>
              if x.slot = m && x.lane = l && !x.dead then { x with fault := some f, retry := false } else x

end State

/-! ## The events -/

/-- Run an event of a warp or foreman; its path ends if a kill has emptied it, and an ordering point that is complete goes. -/
def agentEvent (ag : Agent) (s : State) (f : Nat → State) : Res :=
  match agentKey ag with
  | none => .next s
  | some k => .next (((f k).afterKill s k).settleFences k)

/-- LOAD_RETURN (R125): data return to lanes of one member of a load. -/
def execLoadReturn (ag : Agent) (e m : Nat) (lanes : LaneMask) (hit : Bool) (s : State) : Res :=
  agentEvent ag s fun k => match s.entryOf k e with
    | none => s
    | some (_, x) => (x.named m lanes).foldl (fun s p => (s.monitorPart k e p).commandPart k x.seq p) (s.loadParts k e hit (x.named m lanes))

/-- ATOMIC_REQUEST (R262). -/
def execAtomicRequest (ag : Agent) (e m : Nat) (addr : BitVec 64) (s : State) : Res := agentEvent ag s fun k => s.atomicApply k e m addr

/-- ORDERED_CONTRIBUTION (R271). -/
def execOrderedContribution (ag : Agent) (e m : Nat) (addr : BitVec 64) (s : State) : Res := agentEvent ag s fun k => s.contribute k e m addr

/-- EXACT_CELL_REQUEST (R211). -/
def execExactCellRequest (ag : Agent) (e m : Nat) (addr : BitVec 64) (s : State) : Res := agentEvent ag s fun k => s.exactApply k e m addr

/-- LANE_FAULT (R396). -/
def execLaneFault (ag : Agent) (e m l : Nat) (s : State) : Res := agentEvent ag s fun k => s.faultPart k e m l

/-- WRITE_PERFORMED (R297): stores of one member's lanes, or an `ordrel`, are performed; or write `e` of a Seam core (R381). -/
def execWritePerformed (ag : Agent) (e m : Nat) (lanes : LaneMask) (s : State) : Res :=
  match ag with
  | .seam c => .next (s.seamPerform c e)
  | ag => agentEvent ag s fun k => match s.entryOf k e with
    | none => s
    | some (_, x) => (x.named m lanes).foldl (fun s p => (s.storePart k e p).releasePart k e p) s

/-- The core of the warp, or of the copy's warp, that an agent key stands for. -/
def State.writerCore (s : State) (k : Nat) : Option Nat :=
  match s.warp? k with
  | some w => some w.core
  | none => (s.copies.find? fun p => copyAgent p.1 = k).map fun p => p.2.core

/-- REPLICA_UPDATE (R303): a write reaches the replica of a die, after every earlier write to the same bytes has. The writing warp's own die gives
up the L1 copy of its core that may be older (R297). -/
def execReplicaUpdate (die idx : Nat) (s : State) : Res :=
  match s.replicas[idx]? with
  | none => .next s
  | some r =>
    let earlier := (s.replicas.take idx).any fun x => x.die = r.die && State.overlap [(x.addr, x.data.length)] [(r.addr, r.data.length)]
    if r.die != die || earlier || !s.hostReady r.addr r.data.length false then .next s
    else
      let s1 : State := { s.physWrite r.addr r.data with replicas := s.replicas.eraseIdx idx }
      .next (match s1.writerCore r.owner with
        | some c => if dieOf c = die then s1.l1DropSpan c r.addr r.data.length else s1
        | none => s1)

/-- WALK (R322, R329): a core's walk for an address, which it keeps when it ends in a valid leaf. -/
def execWalk (x : Walker) (va : BitVec 64) (s : State) : Res := .next (s.fillVa x.core x.ctx va.toNat)

end Sys2Proof.Machine
end

