-- ==== Sys2Proof/Machine/Copies.lean ====
section
/-!
DEFINITION. The copy and completion family: copies and their completion (R273–R281, R287–R290), batches (R278, R291), byte-counting
barriers (R282–R284, R292), timeline counters (R285, R286, R293).
-/

namespace Sys2Proof.Machine

/-! ## Byte-counting barriers (R282, R283) -/

/-- A barrier word taken apart. -/
structure Barrier where
  bytes : Int
  arr : Nat
  init : Nat
  err : Bool
  phase : Bool
  deriving DecidableEq, Repr

def Barrier.ofWord (w : Word) : Barrier :=
  ⟨(w.extractLsb' 0 32).toInt, (w.extractLsb' 32 15).toNat, (w.extractLsb' 47 15).toNat, w.getLsbD 62, w.getLsbD 63⟩

def Barrier.word (b : Barrier) : Word :=
  BitVec.ofNat 64 (wrapBits 32 b.bytes + 2 ^ 32 * b.arr + 2 ^ 47 * b.init + (if b.err then 2 ^ 62 else 0) + (if b.phase then 2 ^ 63 else 0))

/-- One step: BYTES changes by `d`, with an arrival when `arrives`; then the phase may complete (R283). -/
def Barrier.step (b : Barrier) (d : Int) (arrives : Bool) : Barrier :=
  let y := b.bytes + d
  let b1 : Barrier := { b with bytes := (BitVec.ofInt 32 y).toInt, err := b.err || y < -(2 ^ 31) || 2 ^ 31 ≤ y }
  let b2 : Barrier := if !arrives then b1 else if b1.arr = 0 then { b1 with err := true } else { b1 with arr := b1.arr - 1 }
  if b2.arr = 0 && b2.bytes = 0 then { b2 with phase := !b2.phase, arr := b2.init } else b2

namespace State

/-- The barrier word at an offset of a block's near scratch. -/
def barrier (s : State) (blk off : Nat) : Barrier :=
  match s.block? blk with
  | some b => Barrier.ofWord (BitVec.ofNat 64 (leNat (b.near.readBytes off 8)))
  | none => Barrier.ofWord 0

def putBarrier (s : State) (blk off : Nat) (b : Barrier) : State := s.nearWrite blk off (leBytes 8 b.word.toNat)

def stepBarrier (s : State) (blk off : Nat) (d : Int) (arrives : Bool) : State := s.putBarrier blk off ((s.barrier blk off).step d arrives)

/-! ## Batches (R278) -/

end State

/-- Closed batches complete in order of their numbers: the context after it and the advances they bring (R278, R291). -/
def CopyCtx.settle (c : CopyCtx) : List Batch → CopyCtx × List (Nat × Word)
  | [] => ({ c with closed := [] }, [])
  | b :: rest =>
    if b.copies = [] then
      let (c1, l) := settle { c with lastDone := b.num } rest
      (c1, (match b.adv with | some a => [a] | none => []) ++ l)
    else ({ c with closed := b :: rest }, [])

/-- Copies of a context that have not completed (R274). -/
def CopyCtx.pending (c : CopyCtx) : Nat := c.opened.length + (c.closed.map fun b => b.copies.length).foldl (· + ·) 0

namespace State

/-- Complete what batches of a warp can complete, and post their advances. -/
def settleBatches (s : State) (k : Nat) : State :=
  match s.warp? k with
  | none => s
  | some w =>
    let (c, advs) := w.copies.settle w.copies.closed
    advs.foldl (fun s a => s.postAdvance w.ctx a.1 a.2) (s.putWarp { w with copies := c })

/-! ## Copies (R274–R277, R290) -/

/-- A copy is complete: its barrier signal, its place in its batch, its part of the log entry (R276, R278, R290). -/
def finishCopy (s : State) (id : Nat) (c : Copy) : State :=
  let s1 := match c.bar with
    | some off => s.stepBarrier c.blk off (-(c.total : Int)) false
    | none => s
  let s2 : State := { s1 with copies := tdel s1.copies id }
  let drop := fun (l : List Nat) => l.filter (· != id)
  let s3 := s2.modWarp c.owner fun w =>
    let w1 : Warp := { w with copies := { w.copies with
        opened := drop w.copies.opened, closed := w.copies.closed.map fun b => { b with copies := drop b.copies } } }
    w1.modParts c.entry fun p => if p.slot = c.slot then { p with ok := true, fault := none } else p
  (s3.settleBatches c.owner).finishWarp c.owner

/-- One byte a copy moves: where it goes, where it comes from (`none` for a pattern), its value, and whether its source line is poisoned. -/
structure Mv where
  dst : Nat
  src : Option Nat
  val : Byte
  bad : Bool
  deriving DecidableEq, Repr

/-- A base that tells near-scratch offsets from physical addresses. -/
def nearBase : Nat := 2 ^ 60

/-- The addresses of each byte of one side of a row; bytes that do not translate have none. -/
def sideAddrs (s : State) (c : Copy) (r : Row) (dst near : Bool) : List (Option Nat) :=
  if near then (List.range r.n).map fun i => some (nearBase + (if dst then r.dst else r.src).toNat + i)
  else match s.rowLocate c r dst with
    | .ok ps => ps.flatMap fun p => (List.range p.2.1).map fun i => some ((if dst then p.2.2.pa else s.rowRead c r p) + i)
    | .error _ => List.replicate r.n none

/-- The value and poison of a byte at a tagged address. -/
def byteAt (s : State) (blk a : Nat) : Byte × Bool :=
  if nearBase ≤ a then match s.block? blk with
    | some b => (b.near.read (a - nearBase), b.nearPoison.contains ((a - nearBase) / 8 * 8))
    | none => (0, false)
  else (s.mem.read (s.home a), s.poisoned a 1)

/-- The bytes one row moves; rows that lane kills or a handler abandoned are left out by the caller. -/
def rowBytes (s : State) (c : Copy) (r : Row) : List Mv :=
  let ds := s.sideAddrs c r true c.dns
  match c.kind with
  | .cpyf pat => ((List.range r.n).zip ds).filterMap fun q => q.2.map fun d => ⟨d, none, pat.extractLsb' (8 * (q.1 % 8)) 8, false⟩
  | _ => (ds.zip (s.sideAddrs c r false c.sns)).filterMap fun q => match q with
    | (some d, some a) => let v := s.byteAt c.blk a; some ⟨d, some a, v.1, v.2⟩
    | _ => none

/-- When source and destination overlap, each byte receives its source's old value or one the copy has already written (R275). -/
def resolveOverlap (t : Nat) (l : List Mv) : List Mv :=
  let dsts := l.map Mv.dst
  if l.any fun m => match m.src with | some a => dsts.contains a | none => false then
    let ord := if Config.overlapDown t then l.reverse else l
    ((ord.zip (List.range ord.length)).foldl (fun (acc : Tab Byte × List Mv) q =>
      let v := match q.1.src.bind (tfind acc.1) with
        | some x => if Config.overlapPick t q.2 then x else q.1.val
        | none => q.1.val
      (tset acc.1 q.1.dst v, acc.2 ++ [{ q.1 with val := v }])) ([], [])).2
  else l

/-- Group bytes that follow each other into ranges. -/
def joinBytes : List (Nat × Byte) → List (Nat × List Byte)
  | [] => []
  | (a, b) :: t => match joinBytes t with
    | (a', bs) :: rest => if a' = a + 1 then (a, b :: bs) :: rest else (a, [b]) :: (a', bs) :: rest
    | [] => [(a, [b])]

/-- Write a copy's bytes: near scratch, or memory with its replicas; then poison what came from poison (R276, R449). -/
def putBytes (s : State) (id : Nat) (c : Copy) (l : List Mv) : State :=
  let s1 := (joinBytes (l.map fun m => (m.dst, m.val))).foldl (fun s q =>
    if nearBase ≤ q.1 then s.nearWrite c.blk (q.1 - nearBase) q.2 else s.perform (copyAgent id) q.1 q.2) s
  let bad := (l.filter (·.bad)).map Mv.dst
  let s2 := s1.addPoison ((bad.filter (· < nearBase)).map fun a => a / 128 * 128).eraseDups
  let nb := ((bad.filter (nearBase ≤ ·)).map fun a => (a - nearBase) / 8 * 8).eraseDups
  if nb = [] then s2 else s2.modBlock c.blk fun b => { b with nearPoison := b.nearPoison ++ nb.filter fun x => !b.nearPoison.contains x }

/-- What a row does beside moving bytes: the L1 copies of its lines as its CACHE field gives (R259, R274), the replicas of what it writes on a
replicated page (R303), and the memory-side-cache requests of uncached lines (R492). -/
def rowEffects (s : State) (id : Nat) (c : Copy) (r : Row) : State :=
  let s0 := s.rowFill c r
  let s1 := if c.sns || !c.hasSrc then s0 else match s0.rowLocate c r false with
    | .ok ps => ps.foldl (fun s p =>
        let a := s.rowRead c r p
        let s2 := (s.uncached p.2.2 p.2.1 true false).readBy (copyAgent id) a p.2.1
        if !l1Ok p.2.2 then s2 else if c.cache = 3 then s2.l1DropSpan c.core a p.2.1
        else (lineSpan a p.2.1).foldl (fun s l => s.l1Fill c.core l) s2) s0
    | .error _ => s0
  if c.dns then s1 else match s1.rowLocate c r true with
    | .ok ps => ps.foldl (fun s p =>
        let s3 := s.uncached p.2.2 p.2.1 false true
        let s2 := if s3.waysTake c.core p.2.2 c.cache then s3.ownLines c.core p.2.2.pa p.2.1 else s3
        let bs := s2.physRead p.2.2.pa p.2.1
        if Leaf.prop p.2.2.leaf then
          let stride := (s2.under c.ctx c.was).replicaStride c.core c.ctx (r.dst + BitVec.ofNat 64 p.1) (BitVec.ofNat 16 c.midx)
          (s2.toReplicas (copyAgent id) p.2.2.pa stride bs).l1DropSpan c.core (p.2.2.pa + dieOf c.core * stride) p.2.1
        else if c.cache = 3 then s2.l1DropSpan c.core p.2.2.pa p.2.1
        else s2.l1Update c.core p.2.2.pa bs) s1
    | .error _ => s1

/-- A copy comes after every access that its warp made before it, every ordering point among them, and every tile that a matrix instruction
before it has still to read (R219, R275, R298, R299). -/
def copyWaits (s : State) (w : Warp) (c : Copy) : Bool :=
  (w.log.any fun x => x.seq < c.entry && !x.async && x.parts.any fun y => !y.ok) || (w.fences.any fun f => f.reaches c.sup && f.pos ≤ c.entry) ||
    (s.mxOf w).any fun o => o.boff.isSome && o.draw < c.since

/-- The part of a log entry that a row belongs to. -/
def rowPart (e : Option LogEntry) (c : Copy) (r : Row) : Option Part := e.bind fun e => e.parts.find? fun p => p.slot = c.slot && p.lane = r.lane

/-- A row that is not to be moved: its lane was killed, or a handler abandoned it (R290, R403). -/
def rowSkipped (e : Option LogEntry) (c : Copy) (r : Row) : Bool := r.lane != 96 && match rowPart e c r with | some p => p.ok | none => true

/-- A row held by a fault to be delivered (R276, R290). -/
def rowHeld (e : Option LogEntry) (c : Copy) (r : Row) : Bool := match rowPart e c r with | some p => p.fault.isSome && !p.retry | none => false

/-- A copy held in the operand log by a fault (R276). -/
def copyHeld (s : State) (c : Copy) : Bool := match s.warp? c.owner with
  | some w => w.log.any fun e => e.seq = c.entry && e.parts.any fun p => p.slot = c.slot && !p.ok && p.fault.isSome && !p.retry
  | none => false

/-- The halo copy engine of a cluster takes its records in the order of acceptance; one that a fault holds stands aside (R280, log entry 78). -/
def haloTurn (s : State) (id : Nat) (c : Copy) : Bool :=
  let halo := fun (c : Copy) => match c.kind with | .halo _ => true | _ => false
  !halo c || s.copies.all fun p => !(p.1 < id && halo p.2 && clusterOf p.2.core = clusterOf c.core) || s.copyHeld p.2

/-- A piece can be moved: no fault holds its row, it translates, its source holds its warp's own writes (R303), no advance of its warp's is on its
way to it (R285), and the host has answered for the lines it writes (R468). -/
def pieceReady (s : State) (e : Option LogEntry) (c : Copy) (r : Row) : Bool :=
  let none' : List (Nat × Nat) := []
  let src := if c.sns || !c.hasSrc then none' else match s.rowLocate c r false with
    | .ok ps => ps.map fun p => (s.rowRead c r p, p.2.1)
    | .error _ => none'
  let dst := if c.dns then none' else match s.rowLocate c r true with
    | .ok ps => ps.map fun p => (p.2.2.pa, p.2.1)
    | .error _ => none'
  let hosts := c.dns || match s.rowLocate c r true with
    | .ok ps => ps.all fun p => s.hostReady p.2.2.pa p.2.1 (Leaf.ca p.2.2.leaf)
    | .error _ => false
  !rowHeld e c r && (s.rowFault c r).isNone && !s.ownReplicaDue c.owner (dieOf c.core) src && !overlap (s.advancesDue c.owner c.ctx) (src ++ dst) && hosts

/-- Move some pieces of a copy. -/
def movePieces (s : State) (id : Nat) (c : Copy) (rs : List Row) : State :=
  rs.foldl (fun s r => s.rowEffects id c r) (s.putBytes id c (resolveOverlap s.tick (rs.flatMap fun r => s.rowBytes c r)))

/-- The lanes of a copy whose rows have been moved whole are complete in its log entry (R290). -/
def lanesDone (s : State) (c : Copy) : State :=
  s.modWarp c.owner fun w => w.modParts c.entry fun p =>
    if p.slot = c.slot && p.lane != 96 && !p.ok && !(c.left.any fun q => q.1.lane = p.lane) then { p with ok := true, fault := none, retry := false } else p

/-- COPY_COMPLETE: the copy engine moves every piece of a copy that can be moved. With nothing left to move, the copy completes once its writes
have reached every replica (R275, R276). -/
def copyStep (s : State) (id : Nat) : State :=
  match tfind s.copies id with
  | none => s
  | some c =>
    match s.warp? c.owner with
    | none => { s with copies := tdel s.copies id }
    | some w =>
      if w.blk != c.blk then { s with copies := tdel s.copies id }
      else
        let e := w.log.find? fun e => e.seq = c.entry
        if e.any (·.held) || s.copyWaits w c || !s.haloTurn id c then s
        else
          let todo := c.left.filter fun q => !rowSkipped e c q.1
          let go := todo.filter fun q => s.pieceReady e c q.1
          let c1 : Copy := { c with done := c.done ++ go.map (·.2) }
          let s1 := s.movePieces id c (go.map (·.1))
          let s2 := ({ s1 with copies := tset s1.copies id c1 }).lanesDone c1
          if go.length != todo.length || (s2.replicas.any fun r => r.owner = copyAgent id) then s2 else s2.finishCopy id c1

end State

def execCopyComplete (id : Nat) (s : State) : Res := .next (s.copyStep id)

/-! ## Issuing copies (R288–R290) -/

/-- The options of a copy form in X (R287). -/
def optDns (f : FormR) : Bool := f.x.getLsbD 10
def optSns (f : FormR) : Bool := f.x.getLsbD 11
def optBar (f : FormR) : Bool := f.x.getLsbD 12

/-- A failed check of R289: its step, and the trap. -/
abbrev Check := Nat × TrapReq

/-- The first failing check of the lowest step. -/
def firstCheck (l : List Check) : Option TrapReq :=
  [0, 1, 2].findSome? fun k => (l.find? fun c => c.1 = k).map (·.2)

def alignCheck (bad : Bool) (m l : Nat) (a : Word) : List Check := if bad then [(0, { cls := 11, slot := m, lane := l, detail := a })] else []
def rangeCheck (bad : Bool) (m l : Nat) : List Check := if bad then [(1, { cls := 12, slot := m, lane := l })] else []
def copyCheck (bad : Bool) (cause m : Nat) : List Check := if bad then [(2, { cls := 14, cause := cause, slot := m })] else []

/-- The checks of a barrier offset: alignment and range. -/
def barChecks (bl : Block) (m : Nat) (off : Nat) : List Check :=
  alignCheck (off % 8 != 0) m 0 (BitVec.ofNat 64 off) ++ rangeCheck (bl.ns < off + 8) m 0

/-- Put copies in flight: they join the open batch, under one operand-log entry with a part for each of their lanes (R274, R290, R402). A
copy of zero bytes completes at once. -/
def launchCopies (s : State) (w : Warp) (word : BitVec 96) (cs : List Copy) : State × WRes :=
  if cs = [] then (s, .fall w)
  else if 64 < w.copies.pending + cs.length then (s, .wait .room)
  else match w.freeEntry with
    | none => (s, .wait .log)
    | some k =>
      let id0 := tfresh s.copies
      let mk := (cs.zip (List.range cs.length)).map fun q =>
        (id0 + q.2, { q.1 with owner := w.key, entry := w.nextSeq, sup := w.sup, since := s.tick })
      let parts := cs.flatMap fun c => match c.kind with
        | .cpyg _ rows => if rows = [] then [({ slot := c.slot, lane := 96, addr := c.dst } : Part)]
          else rows.map fun r => ({ slot := c.slot, lane := r.1, addr := r.2 } : Part)
        | _ => [({ slot := c.slot, lane := 96, addr := c.dst } : Part)]
      let e := newEntry w k word { acc := .copy id0, size := 0 } false parts 0
      let w1 := { w.logEntry e with copies := { w.copies with opened := w.copies.opened ++ mk.map (·.1) } }
      let s1 : State := { s.putWarp w1 with copies := s.copies ++ mk }
      let s2 := (mk.filter fun p => (p.2.rows.all fun r => r.n = 0) && p.2.total = 0).foldl (fun s p => s.finishCopy p.1 p.2) s1
      (s2, .fall ((s2.warp? w.key).getD w1))

/-- The member slots a uniform form executes for (R288): once when its operands are common and its virtual sides shared. -/
def copyMembers (w : Warp) (once : Bool) : List Nat := if once then w.active.take 1 else w.active

/-- An earlier near-scratch access of the warp to some bytes is outstanding: what reads or writes them as it issues keeps its place behind it
(R298). -/
def nearBusy (w : Warp) (off n : Nat) : Bool :=
  w.log.any fun e => e.near && e.parts.any fun p => !p.ok && p.addr.toNat < off + n && off < p.addr.toNat + e.size

/-- The form of a copy has to wait for the warp's own accesses: the record it reads at once, at an offset of `n` bytes, or the barrier that a copy of
zero bytes signals at once. -/
def recordBusy (w : Warp) (cs : List Copy) (records : List (Nat × Nat)) : Bool :=
  records.any (fun r => nearBusy w r.1 r.2) || cs.any fun c => c.total = 0 && c.bar.any fun off => nearBusy w off 8

/-- `cpy`, `cpyf` and `cpyt`: `build m` gives the copy of member `m` and its failed checks; `recd m` is the near-scratch range of its record, if it
reads one. -/
def copyForm (s : State) (w : Warp) (word : BitVec 96) (f : FormR) (recd : Nat → List (Nat × Nat)) (build : Block → Nat → Copy × List Check) :
    State × WRes :=
  let third := thirdSrc f.x
  let os : List Warp.Operand := [(f.a, 1), (f.b, 1), (third, 1)]
  match w.checked f.h (w.needs os) false false (.fall w) with
  | .fall _ =>
    if Warp.never f.h || w.active = [] then (s, .fall w)
    else
      let bl := (s.block? w.blk).getD { node := 0, ctx := w.ctx, b := 0, core := w.core }
      let m0 := w.active.headD 0
      let ms := copyMembers w ((os.all fun o => w.common? o.1.spec) && s.sidesShared (build bl m0).1)
      let built := ms.map fun m => build bl m
      if (ms.flatMap recd != []) && w.heldByFence false then (s, .wait .memory)
      else if recordBusy w (built.map (·.1)) (ms.flatMap recd) then (s, .wait .log)
      else match firstCheck (built.flatMap (·.2)) with
        | some t => (s, .trap w t)
        | none => launchCopies s w word (built.map (·.1))
  | r => (s, r)

/-- A near-scratch side does not lie within NS. -/
def nearOut (bl : Block) (near : Bool) (a : Word) (n : Nat) : Bool := near && n != 0 && bl.ns < a.toNat + n

/-- The CACHE field of a copy form (R287). -/
def optCache (f : FormR) : Nat := (f.x.extractLsb' 13 2).toNat

/-- `cpy` and `cpyf` of one member (R290): LEN in [31:0] and BOFF in [50:32] of the third source. -/
def buildCpy (w : Warp) (f : FormR) (fill : Bool) (bl : Block) (m : Nat) : Copy × List Check :=
  let dst := w.scl m f.a
  let src := w.scl m f.b
  let ctl := w.scl m (thirdSrc f.x)
  let n := (ctl.extractLsb' 0 32).toNat
  let boff := (ctl.extractLsb' 32 19).toNat
  ({ owner := 0, ctx := w.ctx, blk := w.blk, midx := (State.midxOf w m).toNat, kind := if fill then .cpyf src else .cpy,
     dst := dst, src := if fill then 0 else src, dns := optDns f, sns := !fill && optSns f, len := n,
     bar := if optBar f then some boff else none, total := n, slot := m, cache := optCache f },
   (if optBar f then barChecks bl m boff else []) ++
    rangeCheck (nearOut bl (optDns f) dst n || (!fill && nearOut bl (optSns f) src n)) m 0)

def execCpy (f : FormR) (s : State) : Res :=
  machineOpNT s fun s w => copyForm s w (packR 0x160 f) f (fun _ => []) (buildCpy w f false)

def execCpyf (f : FormR) (s : State) : Res :=
  machineOpNT s fun s w => copyForm s w (packR 0x161 f) f (fun _ => []) (buildCpy w f true)

/-- The lowest and highest offsets a tile reaches from its base: used for near-scratch sides. -/
def tileSpan (r : BitVec 512) (lo : Nat) : Int × Int :=
  let sy := (tileStride r lo).toInt * ((tileN r 32 : Int) - 1)
  let sz := (tileStride r (lo + 64)).toInt * ((tileN r 48 : Int) - 1)
  (min 0 sy + min 0 sz, max 0 sy + max 0 sz + tileN r 16 * tileEsz r)

def tileOut (bl : Block) (near : Bool) (a : Word) (r : BitVec 512) (lo : Nat) : Bool :=
  let sp := tileSpan r lo
  near && tileN r 16 * tileN r 32 * tileN r 48 != 0 && ((a.toNat : Int) + sp.1 < 0 || (bl.ns : Int) < a.toNat + sp.2)

/-- `cpyt` of one member (R279): its record is taken at issue. -/
def buildCpyt (w : Warp) (f : FormR) (bl : Block) (m : Nat) : Copy × List Check :=
  let dst := w.scl m f.a
  let src := w.scl m f.b
  let at_ := w.scl m (thirdSrc f.x)
  let out := bl.ns < at_.toNat + 64
  let r := BitVec.ofNat 512 (leNat (bl.near.readBytes at_.toNat 64))
  let esz := tileEsz r
  let boff := (r.extractLsb' 320 19).toNat
  let total := tileN r 16 * tileN r 32 * tileN r 48 * esz
  let odd := [dst, src, tileStride r 64, tileStride r 128, tileStride r 192, tileStride r 256].any fun a => a.toNat % esz != 0
  ({ owner := 0, ctx := w.ctx, blk := w.blk, midx := (State.midxOf w m).toNat, kind := .cpyt r, dst := dst, src := src,
     dns := optDns f, sns := optSns f, bar := if optBar f then some boff else none, total := total, slot := m, cache := optCache f },
   if out then alignCheck (at_.toNat % 64 != 0) m 0 at_ ++ rangeCheck true m 0
   else
    alignCheck (at_.toNat % 64 != 0) m 0 at_ ++ alignCheck odd m 0 dst ++ (if optBar f then barChecks bl m boff else []) ++
      rangeCheck (tileOut bl (optDns f) dst r 192 || tileOut bl (optSns f) src r 64) m 0 ++
      copyCheck (r.extractLsb' 2 14 != 0 || r.extractLsb' 339 173 != 0 || tileN r 16 = 0 || tileN r 32 = 0 || tileN r 48 = 0) 0 m ++
      copyCheck (2 ^ 32 - 1 < total) 2 m)

def execCpyt (f : FormR) (s : State) : Res :=
  machineOpNT s fun s w => copyForm s w (packR 0x162 f) f (fun m => [((w.scl m (thirdSrc f.x)).toNat, 64)]) (buildCpyt w f)

/-- `cpyg` (R290): a row for each lane, into near scratch. With common operands in the shared segment the lanes are the union of the
members' lanes. -/
def execCpyg (f : FormM) (s : State) : Res :=
  machineOpNT s fun s w =>
    let os : List Warp.Operand := [Warp.addrOperand f, (f.data, 1)]
    match w.checked f.h (w.needs os) (w.misfits os) false (.fall w) with
    | .fall _ =>
      let bl := (s.block? w.blk).getD { node := 0, ctx := w.ctx, b := 0, core := w.core }
      let common := os.all fun o => w.common? o.1.spec
      let windowed := w.active.any fun m =>
        (w.part f.h m).toList.any fun l => s.windowIn w.ctx (w.ea f.addr f.off m l) ((w.scl m f.data).extractLsb' 19 13).toNat
      let once := common && !windowed
      let lanesOf := fun (m : Nat) => if once then w.union f.h else w.part f.h m
      let deadOf := fun (m : Nat) => if once then w.active.foldl (fun u m => u ||| w.deadPart f.h m) 0 &&& ~~~(w.union f.h) else w.deadPart f.h m
      let ms := (copyMembers w once).filter fun m => lanesOf m ||| deadOf m != 0
      let built := ms.map fun m =>
        let ctl := w.scl m f.data
        let doff := (ctl.extractLsb' 0 19).toNat
        let rowb := (ctl.extractLsb' 19 13).toNat
        let boff := (ctl.extractLsb' 32 19).toNat
        let bar := ctl.getLsbD 51
        let rows := (lanesOf m).toList.map fun l => (l, w.ea f.addr f.off m l)
        let c : Copy := { owner := 0, ctx := w.ctx, blk := w.blk, midx := (State.midxOf w m).toNat, kind := .cpyg rowb rows,
                          dst := BitVec.ofNat 64 doff, dns := true, bar := if bar then some boff else none,
                          total := rowb * (lanesOf m ||| deadOf m).count, slot := m, cache := (f.attr.extractLsb' 5 2).toNat }
        let checks := (rows.flatMap fun r => alignCheck (r.2.toNat % 4 != 0) m r.1 r.2) ++ (if bar then barChecks bl m boff else []) ++
          (rows.flatMap fun r => rangeCheck (bl.ns < doff + (r.1 + 1) * rowb) m r.1) ++ copyCheck (rowb % 4 != 0 || rowb < 4 || 4096 < rowb) 0 m
        (c, checks)
      match firstCheck (built.flatMap (·.2)) with
      | some t => (s, .trap w t)
      | none =>
        let (s1, r) := launchCopies s w (packM 0x163 f) (built.map (·.1))
        (s1, match r with | .fall w1 => .fall (w1.noteDead f.h os) | r => r)
    | r => (s, r)

/-- `halo` of one member (R280). -/
def buildHalo (w : Warp) (at_ : Word) (r : BitVec 1024) (m : Nat) : Copy :=
  { owner := 0, ctx := w.ctx, blk := w.blk, midx := (State.midxOf w m).toNat, kind := .halo r,
    bar := if r.getLsbD 528 then some (r.extractLsb' 532 19).toNat else none,
    total := ((haloFaces r).map (haloBytes r)).foldl (· + ·) 0, dst := at_, slot := m }

/-- Halo records on a cluster's engine (R280): its queue holds 16. -/
def State.haloQueue (s : State) (cl : Nat) : Nat :=
  (s.copies.filter fun p => clusterOf (p.2.owner / 32) = cl && match p.2.kind with | .halo _ => true | _ => false).length

def execHalo (f : FormR) (s : State) : Res :=
  machineOpNT s fun s w =>
    match w.checked f.h (w.needs [(f.a, 1)]) false false (.fall w) with
    | .fall _ =>
      if Warp.never f.h || w.active = [] then (s, .fall w)
      else
        let bl := (s.block? w.blk).getD { node := 0, ctx := w.ctx, b := 0, core := w.core }
        let m0 := w.active.headD 0
        let a := w.scl m0 f.a
        let r := BitVec.ofNat 1024 (leNat (bl.near.readBytes a.toNat 128))
        let out := bl.ns < a.toNat + 128
        let reserved := (List.range 7).any (fun i => r.extractLsb' (64 * i + 56) 8 != 0) || r.extractLsb' 529 3 != 0 || r.extractLsb' 551 473 != 0
        let thin := (haloFaces r).any fun i => haloE r (i / 2) < 3 * haloH r (i / 2)
        let checks := alignCheck (a.toNat % 128 != 0) m0 0 a ++ rangeCheck out m0 0 ++ (if out then [] else
          (if r.getLsbD 528 then barChecks bl m0 (r.extractLsb' 532 19).toNat else []) ++
          copyCheck (reserved || ([0, 1, 2].any fun x => haloE r x = 0) || thin) 1 m0 ++
          copyCheck (2 ^ 32 - 1 < ((haloFaces r).map (haloBytes r)).foldl (· + ·) 0) 2 m0)
        if w.heldByFence false then (s, .wait .memory)
        else if nearBusy w a.toNat 128 then (s, .wait .log)
        else match firstCheck checks with
        | some t => (s, .trap w t)
        | none =>
          let cs := (copyMembers w (s.sidesShared (buildHalo w a r m0))).map (buildHalo w a r)
          if recordBusy w cs [] then (s, .wait .log)
          else if 16 < s.haloQueue (clusterOf w.core) + cs.length then (s, .wait .queue)
          else launchCopies s w (packR 0x164 f) cs
    | r => (s, r)

/-! ## Batches (R278, R291) -/

/-- Close the open batch. -/
def CopyCtx.close (c : CopyCtx) (adv : Option (Nat × Word)) : CopyCtx :=
  { c with opened := [], lastClosed := c.lastClosed + 1, closed := c.closed ++ [⟨c.lastClosed + 1, c.opened, adv⟩] }

/-- `batch` and `batch.tl`: with a private source one batch is closed for each active member (R288). -/
def batchForm (tl : Option Nat) (f : FormR) (s : State) : Res :=
  machineOpNT s fun s w =>
    let os : List Warp.Operand := if tl.isSome then [(f.b, 1)] else []
    let dst : List Warp.Need := if f.dst.none? then [] else w.needsDst 1 f.dst
    match w.checked f.h (w.needs os ++ dst) false false (.fall w) with
    | .fall _ =>
      let priv := w.anyPrivate (os.map (·.1))
      let ms := if priv then w.active else if !f.dst.none? && 128 ≤ f.dst.num then w.active.take 1 else [w.active.headD 0]
      if Warp.never f.h || ms = [] then (s, .fall w)
      else if 16 < w.copies.closed.length + ms.length then (s, .wait .room)
      else if tl.isSome && w.heldByFence true then (s, .wait .memory)
      else if tl.isSome && releaseBusy s w true then (s, .wait .log)
      else
        let w1 := ms.foldl (fun (w1 : Warp) m =>
          let c := w1.copies.close (tl.map fun c => (c, w.scl m f.b))
          let w2 : Warp := { w1 with copies := c }
          if f.dst.none? then w2
          else if priv && 128 ≤ f.dst.num then w2.sput m f.dst.num (BitVec.ofNat 64 c.lastClosed)
          else w2.sclWrite f.dst.num fun _ => BitVec.ofNat 64 c.lastClosed) w
        let s1 := (s.putWarp w1).settleBatches w.key
        (s1, .fall ((s1.warp? w.key).getD w1))
    | r => (s, r)

def execBatch (f : FormR) (s : State) : Res := batchForm none f s
def execBatchTl (f : FormR) (s : State) : Res := batchForm (some (f.x.extractLsb' 0 6).toNat) f s

/-- The largest value of a scalar operand among the active members (R293); slot 0's when none is active. -/
def maxOperand (w : Warp) (o : Src) : Nat := ((if w.active = [] then [0] else w.active).map fun m => (w.scl m o).toNat).foldl max 0

def execBwait (f : FormR) (s : State) : Res :=
  machineOpNT s fun s w =>
    match w.checked f.h (w.needs [(f.a, 1)]) false false (.fall w) with
    | .fall _ =>
      if Warp.never f.h || (w.active = [] && !w.common? f.a.spec) then (s, .fall w)
      else if w.copies.lastDone < min (maxOperand w f.a) w.copies.lastClosed then (s, .wait .batch)
      else
        let s1 := s.acquireBy w.key w.core 4
        (s1, .fall ((s1.warp? w.key).getD w))
    | r => (s, r)

def execBnum (f : FormR) (s : State) : Res :=
  warpOpNT s fun w => w.sclOp f.h f.dst [] false fun _ => BitVec.ofNat 64 (if f.x = 0 then w.copies.lastClosed else w.copies.lastDone)

/-! ## Barrier forms (R292) -/

/-- A barrier form keeps its place behind the warp's earlier accesses to the word, and behind a tile there that an earlier matrix instruction has
still to read (R219, R298). -/
def wordBusy (s : State) (w : Warp) (off : Nat) : Bool :=
  nearBusy w off 8 || (s.mxOf w).any fun o => match o.boff with
    | some b => off < b + o.tile.length && b < off + 8
    | none => false

/-- The steps of a barrier form: for each member it executes for, the offset and the source value; or how it ends before that. -/
def barForm (s : State) (f : FormM) (hasB : Bool) (dst : List Spec) (run : State → Warp → List (Nat × Nat × Word) → State × WRes) : Res :=
  machineOpNT s fun s w =>
    let os : List Warp.Operand := (⟨f.addr, 0, f.fa⟩, 1) :: (if hasB then [(f.data, 1)] else [])
    let priv := w.anyPrivate (os.map (·.1))
    let common := dst.any fun d => d.num < 128
    match w.checked f.h (w.needs os ++ dst.flatMap (w.needsDst 1)) false (priv && common) (.fall w) with
    | .fall _ =>
      let onceDst := dst != [] && !common && w.active = []
      let ms := if priv then w.active else if onceDst then [] else [w.active.headD 0]
      if Warp.never f.h || ms = [] then (s, .fall w)
      else
        let bl := (s.block? w.blk).getD { node := 0, ctx := w.ctx, b := 0, core := w.core }
        let ops := ms.map fun m => (m, (w.ea f.addr f.off m 0).toNat, if hasB then w.scl m f.data else 0)
        match firstCheck (ops.flatMap fun o => barChecks bl o.1 o.2.1) with
        | some t => (s, .trap w t)
        | none =>
          if w.heldByFence true then (s, .wait .memory)
          else if ops.any fun o => wordBusy s w o.2.1 then (s, .wait .log) else run s w ops
    | r => (s, r)

def execBbini (f : FormM) (s : State) : Res :=
  barForm s f true [] fun s w ops =>
    (ops.foldl (fun s o =>
      let n := o.2.2.toNat
      s.putBarrier w.blk o.2.1 (if inRange 1 32767 n then ⟨0, n, n, false, false⟩ else ⟨0, 0, 0, true, false⟩)) s, .fall w)

def execBbexp (f : FormM) (s : State) : Res :=
  barForm s f true [] fun s w ops =>
    if releaseBusy s w false then (s, .wait .log)
    else (ops.foldl (fun s o => s.stepBarrier w.blk o.2.1 (o.2.2.extractLsb' 0 32).toNat true) s, .fall w)

def execBbarr (f : FormM) (s : State) : Res :=
  barForm s f false [] fun s w ops =>
    if releaseBusy s w false then (s, .wait .log) else (ops.foldl (fun s o => s.stepBarrier w.blk o.2.1 0 true) s, .fall w)

/-- After a wait acquires at a scope: the machine and the warp as they then stand. -/
def acquired (s : State) (w : Warp) (scope : Nat) (k : Warp → Warp) : State × WRes :=
  let s1 := s.acquireBy w.key w.core scope
  (s1, .fall (k ((s1.warp? w.key).getD w)))

def execBbwt (f : FormM) (s : State) : Res :=
  barForm s f true [] fun s w ops =>
    if ops.all fun o => (s.barrier w.blk o.2.1).phase != o.2.2.getLsbD 0 then acquired s w 1 id else (s, .wait .barrier)

def execBbtst (f : FormM) (s : State) : Res :=
  barForm s f true [f.dst] fun s w ops =>
    let res := fun (o : Nat × Nat × Word) =>
      let b := s.barrier w.blk o.2.1
      BitVec.ofNat 64 ((if b.phase != o.2.2.getLsbD 0 then 1 else 0) + (if b.err then 2 else 0))
    let put := fun (w : Warp) => if ops.length = 1 && w.active.length != 1 then w.sclWrite f.dst.num fun _ => res (ops.headD (0, 0, 0))
      else ops.foldl (fun w o => w.sput o.1 f.dst.num (res o)) w
    if ops.any fun o => (res o).getLsbD 0 then acquired s w 1 put else (s, .fall (put w))

/-! ## Timeline forms (R286, R293) -/

/-- An earlier access of the warp to its counter's word, or an advance of its own, is still on its way: a form that reads the counter keeps its place
behind it (R293, R298). -/
def counterBusy (s : State) (w : Warp) (c : Nat) : Bool :=
  s.ownAdvance w.key w.ctx c || w.log.any fun e => !e.near && !e.async && e.parts.any fun p =>
    !p.ok && State.overlap (s.rangesOf w e p) [(s.timelineAt w.ctx c, 8)]

/-- The counter of a timeline form. -/
def tlOf (f : FormR) : Nat := (f.x.extractLsb' 0 6).toNat

def execTlwait (f : FormR) (s : State) : Res :=
  machineOpNT s fun s w =>
    match w.checked f.h (w.needs [(f.b, 1)]) false false (.fall w) with
    | .fall _ =>
      let n := maxOperand w f.b
      if Warp.never f.h || n = 0 || (w.active = [] && !w.common? f.b.spec) then (s, .fall w)
      else if w.heldByFence false then (s, .wait .memory)
      else if counterBusy s w (tlOf f) || s.timeline w.ctx (tlOf f) < n then (s, .wait .timeline)
      else acquired s w 5 id
    | r => (s, r)

def execTlsig (f : FormR) (s : State) : Res :=
  machineOpNT s fun s w =>
    match w.checked f.h (w.needs [(f.b, 1)]) false false (.fall w) with
    | .fall _ =>
      let ms := if w.common? f.b.spec then [w.active.headD 0] else w.active
      if Warp.never f.h || ms = [] then (s, .fall w)
      else if w.heldByFence true then (s, .wait .memory)
      else if releaseBusy s w true then (s, .wait .log)
      else (ms.foldl (fun s m => s.postAdvance w.ctx (tlOf f) (w.scl m f.b) (some w.key)) s, .fall w)
    | r => (s, r)

def execTlrd (f : FormR) (s : State) : Res :=
  machineOpNT s fun s w =>
    match w.sclOp f.h f.dst [] false fun _ => BitVec.ofNat 64 (s.timeline w.ctx (tlOf f)) with
    | .fall w1 =>
      if Warp.never f.h then (s, .fall w1)
      else if w.heldByFence false then (s, .wait .memory)
      else if counterBusy s w (tlOf f) then (s, .wait .timeline)
      else
        let s1 := s.acquireBy w.key w.core 5
        (s1, .fall { w1 with st8 := ((s1.warp? w.key).getD w1).st8 })
    | r => (s, r)

/-- TIMELINE_ADVANCE (R285): the oldest advance on its way to a counter is performed by the atomic unit of the word's home slice. -/
def execTimelineAdvance (x c : Nat) (s : State) : Res :=
  .next (match (s.ctx x).adv.find? fun a => a.1 = c with
    | none => s
    | some a => if !s.counterReady x c || (a.2.2.isNone && s.agentWritesDue) then s else (s.modCtx x fun k => { k with adv := k.adv.erase a }).advance x c a.2.1)

end Sys2Proof.Machine
end

