-- ==== Sys2Proof/Machine/Frames.lean ====
section
/-!
DEFINITION. The save pool and its frames (R410–R415), saving a warp or the foreman (R407, R408), and reading a frame back (R409). A frame is
written and read as the spec lays it out; what it does not name, the machine keeps beside it (log entry 6).
-/

namespace Sys2Proof.Machine

/-- A piece of a frame: offset and bytes. -/
abbrev Piece := Nat × List Byte

/-- A lane mask as 12 bytes. -/
def maskBytes (m : LaneMask) : List Byte := leBytes 12 m.toNat

/-- A number of `n` bytes at an offset. -/
def field (off n : Nat) (v : Nat) : Piece := (off, leBytes n v)

/-- A vector register as 384 bytes. -/
def rowBytes384 (r : List Lane32) : List Byte := laneNumbers.flatMap fun l => leBytes 4 (r.getD l 0).toNat

/-- The low `n` bits of full/empty bits. -/
def emptyBytes (n : Nat) (x : Nat) : List Byte := leBytes n x

/-- The batch number of a copy form of the warp, whose copies are among `cs`, or the n of an ordered atomic (R413). -/
def LogEntry.frameTag (cs : Tab Copy) (w : Warp) (e : LogEntry) : Nat :=
  let mine := fun (l : List Nat) => l.any fun id => (tfind cs id).any fun c => c.entry = e.seq
  match e.acc with
  | .copy _ =>
    if mine w.copies.opened then w.copies.lastClosed + 1
    else match w.copies.closed.find? fun b => mine b.copies with
      | some b => b.num
      | none => 0
  | .ordered _ => e.tag
  | _ => 0

/-- The lane under which a frame holds a part: one without a lane stands at lane 0 (R413). -/
def Part.place (p : Part) : Nat := if p.lane = 96 then 0 else p.lane

/-- The lanes of a slot for which an entry is complete or in which they do not take part (R413). -/
def LogEntry.doneMask (e : LogEntry) (m : Nat) : LaneMask := LaneMask.ofPred fun l => !(e.parts.any fun p => p.slot = m && !p.ok && p.place = l)

/-- An access made once has its address and data in the entry; any other has them in the bank sections (R412, R413). -/
def LogEntry.once (e : LogEntry) : Bool := e.shared && e.parts.all fun p => p.lane = 96

/-- An operand-log entry (R413). -/
def logPieces (cs : Tab Copy) (w : Warp) (e : LogEntry) : List Piece :=
  let o := 0x900 + 256 * e.idx
  let c := if e.once then e.parts.head? else none
  [(o, leBytes 12 e.word.toNat), field (o + 12) 1 1, field (o + 16) 8 e.pc.toNat, field (o + 24) 8 (e.frameTag cs w),
   field (o + 32) 8 (match c with | some p => p.addr.toNat | none => 0), field (o + 40) 16 (match c with | some p => p.data.toNat | none => 0)] ++
    w.slots.map fun m => (o + 64 + 12 * m, maskBytes (e.doneMask m))

/-- A split-table entry (R411). -/
def pathPieces (w : Warp) (i : Nat) (e : PathEntry) : List Piece :=
  let o := 0x4000 + 256 * i
  let (kd, k) := match e.kind with
    | .deferred => (1, 0)
    | .parkedJm k => (2, k)
    | .parkedMeld => (3, 0)
  [field o 1 kd, field (o + 1) 1 k, field (o + 8) 8 e.pc.toNat, field (o + 16) 8 e.age] ++
    w.slots.map fun m => (o + 64 + 12 * m, maskBytes (e.masks.getD m 0))

/-- A bank section (R412). -/
def bankPieces (w : Warp) (m : Nat) : List Piece :=
  let b := w.bank m
  let o := 0x10000 + 0x1E000 * m
  (List.range 128).map (fun i => field (o + 8 * i) 8 (tget 0 b.s (128 + i)).toNat) ++
  (List.range 7).map (fun i => (o + 0x400 + 12 * i, maskBytes (tget 0 b.g i))) ++
  (List.range 8).flatMap (fun k => [(o + 0x460 + 24 * k, maskBytes (tget 0 b.jmMask k)), (o + 0x46C + 24 * k, maskBytes (tget 0 b.jmArr k))]) ++
  [field (o + 0x520) 24 (laneNumbers.foldl (fun n l => n + b.path l * 4 ^ l) 0), (o + 0x540, maskBytes b.exited), (o + 0x550, maskBytes b.dead),
   field (o + 0x560) 16 (b.emptyS.toNat / 2 ^ 128), field (o + 0x570) 32 b.emptyV.toNat] ++
  (w.log.filter fun e => !e.once).flatMap (fun e => (e.parts.filter fun p => p.slot = m).flatMap fun p =>
    [field (o + 0x1000 + 0x900 * e.idx + 24 * p.place) 8 p.addr.toNat, field (o + 0x1008 + 0x900 * e.idx + 24 * p.place) 16 p.data.toNat]) ++
  ((List.range w.h).filter fun n => !w.commonV n).map fun n => (o + 0x5800 + 384 * n, rowBytes384 (tget [] b.v n))

/-- The header of a warp frame (R411). -/
def frameHdr (w : Warp) (forced : Bool) (pos : Nat) : Nat :=
  (if forced then 1 else 0) + (if w.sup then 2 else 0) + (if w.mon.armed then 4 else 0) + 8 * w.p + 2 ^ 8 * (w.h / 32) + 2 ^ 12 * (w.hmax / 32) + 2 ^ 16 * pos

/-- A warp frame (R411); `cs` are its held copies. -/
def warpPieces (cs : Tab Copy) (w : Warp) (forced : Bool) (pos : Nat) : List Piece :=
  [field 0 8 (frameHdr w forced pos), field 8 8 w.pc.toNat, field 0x10 8 w.wstat.toNat, field 0x18 8 w.pathev.toNat, field 0x20 8 w.txstat.toNat,
   field 0x28 8 w.txaddr.toNat, field 0x30 8 w.ordN, field 0x38 8 w.copies.lastClosed, field 0x40 8 w.mm.toNat, field 0x48 8 w.mon.line.toNat] ++
  (List.range 16).map (fun i => field (0x100 + 8 * i) 8 (w.trapWord i).toNat) ++
  w.slots.map (fun m => (0x180 + 12 * m, maskBytes (LaneMask.ofPred fun l => w.pendingFaults.any fun p => p.2.slot = m && p.2.place = l))) ++
  [(0x280, tablesImage w)] ++
  (List.range 3).flatMap (fun k =>
    let l := w.lc.getD k {}
    [field (0x300 + 32 * k) 4 l.index.toNat, field (0x304 + 32 * k) 4 l.count.toNat, field (0x308 + 32 * k) 8 (if l.active then 1 else 0),
     field (0x310 + 32 * k) 8 l.start.toNat, field (0x318 + 32 * k) 8 l.stop.toNat]) ++
  [field 0x360 1 w.jmBusy.toNat, field 0x380 8 w.meld.start.toNat, field 0x388 1 w.meld.n, field 0x389 1 (if w.meld.serial then 1 else 0),
   field 0x38A 1 (if w.meld.opened then 1 else 0)] ++
  w.slots.map (fun m => (0x3C0 + 12 * m, maskBytes (w.meld.entry.getD m 0))) ++
  w.slots.flatMap (fun m => [field (0x480 + m) 1 (w.bank m).num, field (0x490 + 2 * m) 2 (w.bank m).midx.toNat, field (0x4B0 + 4 * m) 4 (w.bank m).key.toNat]) ++
  (List.range 8).flatMap (fun k =>
    let x := w.st8.getD k {}
    [field (0x500 + 128 * k) 64 x.entry.toNat, field (0x540 + 128 * k) 8 x.pos,
     field (0x548 + 128 * k) 8 ((if x.bound then 1 else 0) + (if x.exhausted then 2 else 0)), field (0x550 + 128 * k) 48 0]) ++
  (List.range 8).map (fun i => field (0x90C + 256 * i) 1 0) ++ w.log.flatMap (logPieces cs w) ++
  (List.range 128).map (fun i => field (0x1100 + 8 * i) 8 (tget 0 w.s i).toNat) ++
  (List.range 8).map (fun k => (0x1500 + 576 * k, (w.xa.getD k {}).toCell)) ++
  [field 0x2700 16 (w.emptyS.toNat % 2 ^ 128), field 0x2710 4 (w.emptyV.toNat % 2 ^ 32), field 0x2714 1 w.emptyX.toNat] ++
  (List.range 64).map (fun i => field (0x4000 + 256 * i) 1 0) ++ ((w.paths.zip (List.range 64)).flatMap fun q => pathPieces w q.2 q.1) ++
  ((List.range 32).filter fun n => w.commonV n).map (fun n => (0x8000 + 384 * n, rowBytes384 (tget [] w.v n))) ++
  w.slots.flatMap (bankPieces w)

/-! ## Reading a frame back (R409) -/

/-- A frame as it stands in memory: the bytes at an offset. -/
abbrev Frame := Nat → Nat → List Byte

/-- A number of `n` bytes of a frame. -/
def Frame.num (f : Frame) (off n : Nat) : Nat := leNat (f off n)
def Frame.word (f : Frame) (off : Nat) : Word := BitVec.ofNat 64 (f.num off 8)
def Frame.mask (f : Frame) (off : Nat) : LaneMask := BitVec.ofNat 96 (f.num off 12)
def Frame.row (f : Frame) (off : Nat) : List Lane32 := laneNumbers.map fun l => BitVec.ofNat 32 (f.num (off + 4 * l) 4)

/-- A table with the values a frame gives, where they differ from its own. -/
def loaded {α : Type} [DecidableEq α] (d : α) (t : Tab α) (ks : List Nat) (v : Nat → α) : Tab α :=
  ks.foldl (fun t k => if tget d t k = v k then t else tset t k (v k)) t

/-- The same for rows, whose lanes read zero beyond their end. -/
def loadedRows (t : Tab (List Lane32)) (ks : List Nat) (v : Nat → List Lane32) : Tab (List Lane32) :=
  ks.foldl (fun t k => if laneNumbers.map (fun l => (tget [] t k).getD l 0) = v k then t else tset t k (v k)) t

/-- A bank from its section (R412) and the member map. -/
def readBank (f : Frame) (w : Warp) (m : Nat) : Bank :=
  let b := w.bank m
  let o := 0x10000 + 0x1E000 * m
  let pr := f.num (o + 0x520) 24
  { b with
    num := f.num (0x480 + m) 1, midx := BitVec.ofNat 16 (f.num (0x490 + 2 * m) 2), key := BitVec.ofNat 32 (f.num (0x4B0 + 4 * m) 4),
    s := loaded 0 b.s ((List.range 128).map (128 + ·)) fun n => f.word (o + 8 * (n - 128)),
    g := loaded 0 b.g (List.range 7) fun i => f.mask (o + 0x400 + 12 * i),
    jmMask := loaded 0 b.jmMask (List.range 8) fun k => f.mask (o + 0x460 + 24 * k),
    jmArr := loaded 0 b.jmArr (List.range 8) fun k => f.mask (o + 0x46C + 24 * k),
    prLo := LaneMask.ofPred fun l => pr.testBit (2 * l), prHi := LaneMask.ofPred fun l => pr.testBit (2 * l + 1),
    exited := f.mask (o + 0x540), dead := f.mask (o + 0x550),
    emptyS := BitVec.ofNat 256 (f.num (o + 0x560) 16 * 2 ^ 128), emptyV := BitVec.ofNat 256 (f.num (o + 0x570) 32),
    v := loadedRows b.v ((List.range w.h).filter fun n => !w.commonV n) fun n => f.row (o + 0x5800 + 384 * n) }

/-- An operand-log entry from its place in the frame and the bank sections (R412, R413); none when it is no longer valid. The translations it held
are not saved. -/
def readEntry (f : Frame) (e : LogEntry) : Option LogEntry :=
  let o := 0x900 + 256 * e.idx
  if f.num (o + 12) 1 % 2 = 0 then none
  else some { e with
    word := BitVec.ofNat 96 (f.num o 12), pc := f.word (o + 16),
    tag := match e.acc with | .ordered _ => f.num (o + 24) 8 | _ => e.tag,
    parts := e.parts.map fun p =>
      let at' := if e.once then o + 32 else 0x10000 + 0x1E000 * p.slot + 0x1000 + 0x900 * e.idx + 24 * p.place
      let pending := (f.mask (0x180 + 12 * p.slot)).getLsbD p.place
      { p with
        addr := f.word at', data := BitVec.ofNat 128 (f.num (at' + 8) 16), ok := (f.mask (o + 64 + 12 * p.slot)).getLsbD p.place,
        fault := if pending then p.fault else none, was := none } }

/-- The split-table entries of a frame (R411), oldest first. -/
def readPaths (f : Frame) (w : Warp) : List PathEntry :=
  (List.range 64).filterMap fun i =>
    let o := 0x4000 + 256 * i
    let e := fun (k : PathKind) => some ({ kind := k, pc := f.word (o + 8), masks := w.slots.map fun m => f.mask (o + 64 + 12 * m), age := f.num (o + 16) 8 } : PathEntry)
    match f.num o 1 with
    | 1 => e .deferred
    | 2 => e (.parkedJm (f.num (o + 1) 1))
    | 3 => e .parkedMeld
    | _ => none

/-- A warp from its frame (R411): every field that the frame names, over what the machine keeps beside it. -/
def readWarp (f : Frame) (w : Warp) : Warp :=
  let hdr := f.num 0 8
  let w0 : Warp := { w with h := 32 * (hdr / 2 ^ 8 % 16), hmax := 32 * (hdr / 2 ^ 12 % 16) }
  { w0 with
    sup := hdr.testBit 1, pc := f.word 8, wstat := f.word 0x10, pathev := f.word 0x18, txstat := f.word 0x20, txaddr := f.word 0x28,
    ordN := f.num 0x30 8, copies := { w.copies with lastClosed := f.num 0x38 8 }, mm := BitVec.ofNat 16 (f.num 0x40 8),
    mon := { w.mon with armed := hdr.testBit 2, line := f.word 0x48 },
    record := if w.record = [] then [] else (List.range 16).map fun i => f.word (0x100 + 8 * i),
    tables := (List.range 4).map fun p => (List.range 32).map fun j => BitVec.ofNat 8 (f.num (0x280 + 32 * p + j) 1),
    lc := (List.range w.lc.length).map fun k =>
      { w.lc.getD k {} with index := BitVec.ofNat 32 (f.num (0x300 + 32 * k) 4), count := BitVec.ofNat 32 (f.num (0x304 + 32 * k) 4),
                            active := f.num (0x308 + 32 * k) 1 % 2 = 1, start := f.word (0x310 + 32 * k), stop := f.word (0x318 + 32 * k) },
    jmBusy := BitVec.ofNat 8 (f.num 0x360 1),
    meld := { w.meld with start := f.word 0x380, n := f.num 0x388 1, serial := f.num 0x389 1 = 1, opened := f.num 0x38A 1 = 1,
                          entry := w.slots.map fun m => f.mask (0x3C0 + 12 * m) },
    st8 := (List.range w.st8.length).map fun k =>
      let flags := f.num (0x548 + 128 * k) 8
      { w.st8.getD k {} with entry := BitVec.ofNat 512 (f.num (0x500 + 128 * k) 64), pos := f.num (0x540 + 128 * k) 8, bound := flags.testBit 0,
                             exhausted := flags.testBit 1, ready := 0, ahead := [] },
    log := w.log.filterMap (readEntry f),
    s := loaded 0 w.s (List.range 128) fun i => f.word (0x1100 + 8 * i),
    xa := (List.range w.xa.length).map fun k => Exact.ofCell (f (0x1500 + 576 * k) 576),
    emptyS := BitVec.ofNat 256 (f.num 0x2700 16), emptyV := BitVec.ofNat 256 (f.num 0x2710 4), emptyX := BitVec.ofNat 8 (f.num 0x2714 1),
    paths := readPaths f w,
    v := loadedRows w.v ((List.range 32).filter fun n => w.commonV n) fun n => f.row (0x8000 + 384 * n),
    banks := (List.range w.banks.length).map fun m => readBank f w0 m }

namespace State

/-! ## The pool (R410) -/

def poolBase (s : State) (x : Nat) : Nat := ((s.ctx x).svpool.extractLsb' 0 32).toNat * 2 ^ 20
def poolUnits (s : State) (x : Nat) : Nat := ((s.ctx x).svpool.extractLsb' 32 24).toNat

/-- The frame at a unit of a context's pool. -/
def frameAt (s : State) (x u : Nat) : Frame := fun off n => s.physRead (s.poolBase x + u * 2 ^ 20 + off) n

/-- The units of some places in the pool. -/
def unitsOf (l : List (Nat × Nat)) : List Nat := l.flatMap fun p => (List.range p.2).map (p.1 + ·)

/-- Units of a context's pool that hold a frame, or are kept for the frames of a block that is to yield (R405). -/
def unitsTaken (s : State) (x : Nat) : List Nat := (s.ctx x).units ++ (s.blocks.filter fun p => p.2.ctx = x).flatMap fun p => unitsOf p.2.room

/-- `n` consecutive units of a context's pool that none of `taken` is among: the lowest. -/
def freeUnits (s : State) (x n : Nat) (taken : List Nat) : Option Nat :=
  (List.range (s.poolUnits x)).find? fun u => 1 ≤ u && u + n ≤ s.poolUnits x && (List.range n).all fun i => !taken.contains (u + i)

/-- Places in a context's pool for frames of the given lengths, in order (R405, R410). -/
def poolRoom (s : State) (x : Nat) (ns : List Nat) : Option (List (Nat × Nat)) :=
  ns.foldl (fun acc n => acc.bind fun l => (s.freeUnits x n (s.unitsTaken x ++ unitsOf l)).map fun u => l ++ [(u, n)]) (some [])

/-- Units the frames of a block take (R410): 2 for each warp, and 1 + FSCR for the block. -/
def blockUnits (s : State) (b : Block) (k : Nat) : List Nat :=
  List.replicate ((s.blockWarps k).filter fun w => !w.ended && !w.foreman).length 2 ++ [1 + b.fscr]

/-- The place a block's next frame of `n` units gets: one that is kept for it, else the lowest free one. -/
def unitFor (s : State) (b : Block) (n : Nat) : Option Nat :=
  match b.room.find? fun p => p.2 = n with
  | some p => some p.1
  | none => s.freeUnits b.ctx n (s.unitsTaken b.ctx)

/-- Write pieces of a frame at a unit of a context's pool; the writes are device-internal (R408). -/
def writePieces (s : State) (x u : Nat) (ps : List Piece) : State := ps.foldl (fun s p => s.physWrite (s.poolBase x + u * 2 ^ 20 + p.1) p.2) s

/-! ## Saving a warp (R407, R408) -/

/-- A copy of a warp whose issued accesses have completed is held (R277): what it comes after is held by a fault, or each of its rows that is left
is. -/
def copySettled (s : State) (w : Warp) (c : Copy) : Bool :=
  let e := w.log.find? fun e => e.seq = c.entry
  let todo := c.left.filter fun q => !rowSkipped e c q.1
  s.copyWaits w c || (todo != [] && todo.all fun q => rowHeld e c q.1)

/-- Every issued instruction has completed: each access is performed or held by a fault, the matrix engine is done, copies are complete or
held, no trap is to be delivered and no output of a pair is held (R199, R225, R277, R408, R456). -/
def quiet (s : State) (w : Warp) : Bool :=
  s.settled w && w.trapDue.isNone && w.outq = [] && (w.log.all fun e => !e.held) &&
  (s.copies.all fun p => p.2.owner != w.key || s.copySettled w p.2) && !(s.replicas.any fun r => r.owner = w.key)

/-- The position of a warp's frame (R411): a tailing warp 16 above its leader's, the foreman after all. -/
def framePos (w : Warp) : Nat := if w.foreman then 32 else if w.lead.isSome then 16 + w.info.pos else w.info.pos

/-- A tailing warp has retired what its leader has (R456). -/
def pairLevel (s : State) (w : Warp) : Bool :=
  match w.tail, w.lead with
  | some t, _ => match s.warp? (warpKey w.core t) with
    | some y => y.retired = w.retired
    | none => true
  | _, some l => match s.warp? (warpKey w.core l) with
    | some y => y.retired = w.retired && y.outq = []
    | none => true
  | none, none => true

/-- A save in progress ends once everything issued has completed: the frame is written and the slot becomes FREE (R408). A transaction is
aborted by then (R314). -/
def endSaveOne (s : State) (k : Nat) : State :=
  match s.warp? k with
  | none => s
  | some w =>
    match w.saving, s.block? w.blk with
    | some forced, some b =>
      if !s.quiet w || !s.pairLevel w then s
      else
        let held := s.copies.filter fun p => p.2.owner = k
        let w0 := match w.tx.bind (·.pending) with
          | some (c, d, a) => w.dropTx c d a
          | none => w.dropTx 4 0 0
        let w1 : Warp := { w0 with rdv := none, saving := none, st := .out, waitOn := none, inject := none, canPc := none, canSig := [], canPrev := none,
                                   canCount := 0, loopBuf := [], restored := w.waitOn = some .monitor }
        let keep : SavedWarp := ⟨framePos w, w1, held⟩
        let latch := s.mxLatch.filter fun p => w.foreman || p.1 != w.core || p.2.1 != w.slot
        let s1 : State := { s with warps := tdel s.warps k, copies := s.copies.filter fun p => p.2.owner != k, mxLatch := latch }
        if w.foreman then s1.modBlock w.blk fun b => { b with savedWarps := b.savedWarps ++ [keep] }
        else match s1.unitFor b 2 with
          | none => s
          | some u =>
            let s2 := (s1.writePieces w.ctx u (warpPieces held w1 forced (framePos w))).modCtx w.ctx fun c => { c with units := c.units ++ [u, u + 1] }
            s2.modBlock w.blk fun b => { b with
              savedWarps := b.savedWarps ++ [keep], frames := b.frames ++ [(framePos w, u)], room := b.room.filter fun p => p.1 != u }
    | _, _ => s

/-- Begin a save (R407): issue stops; an open transaction aborts with cause 4 (R314). -/
def beginSave (s : State) (k : Nat) (forced : Bool) : State :=
  s.modWarp k fun w => if w.ended || w.saving.isSome then w else
    let w1 := w.abortTx 4 0 0
    { w1 with st := .save, saving := some forced }

/-- As `endSaveOne`; a tailing warp is saved with its leader (R456). -/
def endSave (s : State) (k : Nat) : State :=
  let s1 := s.endSaveOne k
  match s.warp? k, s1.warp? k with
  | some w, none => match w.tail with
    | some t => (s1.beginSave (warpKey w.core t) true).endSaveOne (warpKey w.core t)
    | none => s1
  | _, _ => s1

/-- Save every waiting warp of a block that may be pre-empted where it waits (R407). -/
def saveWaiting (s : State) (b : Nat) : State :=
  ((s.blockWarps b).filter fun w => w.st = .wait && match w.waitOn with | some r => r.preemptable | none => false).foldl
    (fun s w => (s.beginSave w.key false).endSave w.key) s

/-- REQ rises on a resident block whose frames fit in its context's pool (R405–R407). -/
def raiseReq (s : State) (b cause : Nat) : State :=
  match s.block? b with
  | none => s
  | some x =>
    if x.st != .resident || x.preq.getLsbD 0 || s.poolUnits x.ctx = 0 then s
    else match s.poolRoom x.ctx (s.blockUnits x b) with
      | none => s
      | some l =>
        (s.modBlock b fun y => { y with
          preq := BitVec.ofNat 64 (1 + 2 * cause), deadline := s.coreCycle x.core + ((s.ctx x.ctx).ydl.extractLsb' 0 32).toNat, room := l }).saveWaiting b

end State

/-- FORCED_SAVE (R407): a warp or the foreman still running after the deadline is saved at this boundary; a save in progress ends when its
issued work has completed. -/
def execForcedSave (ag : Agent) (s : State) : Res :=
  match agentKey ag with
  | none => .next s
  | some k => .next (match s.warp? k with
    | none => s
    | some w =>
      if w.saving.isSome then s.endSave k
      else
        let late := match s.block? w.blk with
          | some b => b.preq.getLsbD 0 && b.deadline < s.coreCycle w.core
          | none => false
        if late && !w.ended && w.st != .free && w.trapDue.isNone && !w.loopDue && w.canCount < 1024 then (s.beginSave k true).endSave k else s)

end Sys2Proof.Machine
end

