-- ==== Sys2Proof/Machine/Flags.lean ====
section
/-!
DEFINITION. The conditions the spec computes: integer comparisons (R149), floating-point comparisons (R184) and classes (R185), the lane
tests (R92), member votes (R113). The machine has no arithmetic flags (R146, R188).
-/

namespace Sys2Proof.Machine

/-- The comparison codes of R149 on words of any width. -/
def intCond {n : Nat} (cc : Nat) (a b : BitVec n) : Bool :=
  match cc with
  | 0 => a == b
  | 1 => a != b
  | 2 => a.slt b
  | 3 => a.sle b
  | 4 => b.slt a
  | 5 => b.sle a
  | 6 => a.ult b
  | 7 => a.ule b
  | 8 => b.ult a
  | _ => b.ule a

/-- The lane tests over the taking-part lanes `t` and those where the predicate holds, `q` (R92): any, all, same. -/
def laneAny (_ q : LaneMask) : Bool := q != 0
def laneAll (t q : LaneMask) : Bool := q == t
def laneSame (t q : LaneMask) : Bool := q == 0 || q == t

/-- One member's vote (R113). -/
def memberVote (all : Bool) (t q : LaneMask) : Bool := if all then t != 0 && q == t else q != 0

end Sys2Proof.Machine
end

