-- ==== Sys2Proof/Machine/Members.lean ====
section
/-!
DEFINITION. The members family: `mm` (R100, R109), bank identity (R110), member selection and reduction (R111–R113), regrouping (R115–R117).
-/

namespace Sys2Proof.Machine

def execMmrd (f : FormR) (s : State) : Res :=
  warpOp s fun w => w.sclOp f.h f.dst [] false fun _ => w.mm.setWidth 64

/-- The bits of the slots 0 to P − 1 (R100). -/
def Warp.slotBits (w : Warp) : BitVec 16 := BitVec.ofNat 16 (2 ^ w.p - 1)

def execMmwr (f : FormR) (s : State) : Res :=
  warpOp s fun w => w.checked f.h (w.needs [(f.a, 1)]) false false (unlessNever f.h w (
    .fall (w.mmput ((w.scl 0 f.a).extractLsb' 0 16 &&& w.slotBits))))

def execMmtrim (f : FormR) (s : State) : Res :=
  warpOp s fun w =>
    if Warp.never f.h then .fall w
    else .fall (w.mmput (w.active.foldl (fun mm m => if ((w.bank m).em &&& (w.bank m).live) == 0 then mm &&& ~~~(1#16 <<< m) else mm) w.mm))

def execMbid (f : FormR) (s : State) : Res :=
  warpOp s fun w => w.sclOp f.h f.dst [] true fun m =>
    match f.x.toNat with
    | 0 => BitVec.ofNat 64 m
    | 1 => (w.bank m).midx.setWidth 64
    | 2 => BitVec.ofNat 64 (w.bank m).num
    | _ => (w.bank m).key.setWidth 64

/-! ## Member selection (R111) -/

/-- The source slot of a member: none reads zero. -/
def selSlot (w : Warp) (k : Word) : Option Nat := if k.toNat < w.p && w.mm.getLsbD k.toNat then some k.toNat else none

/-- Write a vector result whose destination may be common although the sources are private (R105, R111, R112): `lanes m` are the lanes
written in member `m`, `f m l` the value. A common destination takes the union, each lane from the first member that writes it. -/
def memberWrite (w : Warp) (d k : Nat) (lanes : Nat → LaneMask) (f : Nat → Nat → List Lane32) : Warp :=
  let put := fun (w0 : Warp) (m : Nat) (mask : LaneMask) (src : Nat → Nat) =>
    let vals := laneNumbers.map fun l => if mask.getLsbD l then f (src l) l else []
    (List.range k).foldl (fun w1 i => w1.vput m (d + i) mask (vals.map fun v => v.getD i 0)) w0
  if w.commonV d then
    put w 0 (w.active.foldl (fun u m => u ||| lanes m) 0) fun l => (w.active.find? fun m => (lanes m).getLsbD l).getD 0
  else w.active.foldl (fun w1 m => put w1 m (lanes m) fun _ => m) w

def execMselV (f : FormR) (s : State) : Res :=
  warpOp s fun w =>
    let d := w.xlat f.dst.num
    let sbPriv := !w.common? f.b.spec
    let srcDead := fun (m l : Nat) => match selSlot w (w.scl m f.b) with
      | some k => (w.bank k).dead.getLsbD l || (w.bank k).dead.getLsbD (Warp.modLane f.a.mod l)
      | none => false
    w.checked f.h (w.needs [(f.a, 1), (f.b, 1)] ++ w.needsDst 1 f.dst) false (w.commonV d && sbPriv) (
      let w1 := memberWrite w d 1 (w.part f.h) fun m l =>
        match selSlot w (w.scl m f.b) with
        | none => [0]
        | some k => if srcDead m l then [0] else [w.vget k (w.xlat f.a.spec.num) (Warp.modLane f.a.mod l)]
      .fall (w1.dsrc (w.laneTest f.h (w.commonV d || !sbPriv) srcDead)))

def execMselS (f : FormR) (s : State) : Res :=
  warpOp s fun w =>
    let sbPriv := !w.common? f.b.spec
    w.checked f.h (w.needs [(f.a, 1), (f.b, 1)] ++ w.needsDst 1 f.dst) false (f.dst.num < 128 && sbPriv) (
      .fall (if Warp.never f.h || (w.active = [] && (128 ≤ f.dst.num || !w.common? f.a.spec)) then w else w.sclWrite f.dst.num fun m =>
        match selSlot w (w.scl m f.b) with
        | none => 0
        | some k => w.scl k f.a))

/-! ## Member reductions (R112) -/

/-- The members in which a lane takes part. -/
def contributors (w : Warp) (h : Hdr) (l : Nat) : List Nat := w.active.filter fun m => (w.part h m).getLsbD l

/-- A member reduction of `k` registers: `f` combines the contributors of a lane. -/
def memberReduce (w : Warp) (f : FormR) (k : Nat) (combine : List Nat → Nat → List Lane32) : WRes :=
  let d := w.xlat f.dst.num
  w.checked f.h (w.needs [(f.a, k)] ++ w.needsDst k f.dst) (w.misfits [(f.a, k)] || w.misfit k f.dst) false (
    let w1 := memberWrite w d k (w.part f.h) fun _ l => combine (contributors w f.h l) l
    let dead := w.active.any fun m => (w.bank m).dead.toList.any fun l => contributors w f.h l != []
    .fall ((w1.dsrc dead).noteDead f.h [(f.a, k)]))

/-- The two 32-bit halves of a 64-bit result (R118). -/
def halves (n : Nat) : List Lane32 := [BitVec.ofNat 32 n, BitVec.ofNat 32 (n / 2 ^ 32)]

def execMredXF64 (f : FormR) (s : State) : Res :=
  warpOp s fun w => memberReduce w f 2 fun c l =>
    halves (fpSum Fmt.f64 { mode := f.x.toNat } (c.map fun m => Fmt.f64.decode (w.flt64 m f.a l)))

def execMredXF32 (f : FormR) (s : State) : Res :=
  warpOp s fun w => memberReduce w f 1 fun c l =>
    [BitVec.ofNat 32 (fpSum Fmt.f32 { mode := f.x.toNat } (c.map fun m => Fmt.f32.decode (w.fltSmall Fmt.f32 m f.a l 0)))]

/-- The least or greatest of a list of encodings; the default NaN if any is NaN (R112). -/
def fpExtreme (f : Fmt) (isMax : Bool) : List Nat → Nat
  | [] => f.defaultNan
  | [a] => if (f.decode a).isNan then f.defaultNan else a
  | a :: t => fpMinMax f false isMax a (fpExtreme f isMax t)

def execMredMinmax (f : FormR) (s : State) : Res :=
  warpOp s fun w =>
    let isMax := f.x.getLsbD 0
    if f.x.getLsbD 1 then memberReduce w f 2 fun c l => halves (fpExtreme Fmt.f64 isMax (c.map fun m => w.flt64 m f.a l))
    else memberReduce w f 1 fun c l => [BitVec.ofNat 32 (fpExtreme Fmt.f32 isMax (c.map fun m => w.fltSmall Fmt.f32 m f.a l 0))]

/-- The integer reductions of R112 and R187, by code. -/
def intCombine (op : Nat) (a b : Lane32) : Lane32 :=
  match op with
  | 0 => a + b
  | 1 => if a.sle b then a else b
  | 2 => if b.sle a then a else b
  | 3 => if a.ule b then a else b
  | 4 => if b.ule a then a else b
  | 5 => a &&& b
  | 6 => a ||| b
  | _ => a ^^^ b

def execMredInt (f : FormR) (s : State) : Res :=
  warpOp s fun w => memberReduce w f 1 fun c l =>
    match c.map fun m => w.int32 m f.a l with
    | [] => [0]
    | a :: t => [t.foldl (intCombine f.x.toNat) a]

/-- `mvote` (R113); with `mm` = 0 a common sd is written 0 (DESIGN CHOICE, log entry 80). -/
def execMvote (f : FormR) (s : State) : Res :=
  warpOp s fun w => w.sclOp f.h f.dst [] false fun _ =>
    w.active.foldl (fun v m =>
      let t := w.part f.h m
      if memberVote (f.x.getLsbD 0) t (t &&& w.gmask m f.a.spec.num) then v ||| (1#64 <<< m) else v) 0

/-! ## Regrouping (R114–R117) -/

/-- Insertion by a lexicographic key. -/
def insertKey {α : Type} (le : α → α → Bool) (a : α) : List α → List α
  | [] => [a]
  | b :: t => if le a b then a :: b :: t else b :: insertKey le a t

def sortKey {α : Type} (le : α → α → Bool) : List α → List α
  | [] => []
  | a :: t => insertKey le a (sortKey le t)

/-- The warps of the crew a warp belongs to, by ascending position in the crew; tailing warps take no part (R114, R451). -/
def State.crew (s : State) (w : Warp) : List Warp :=
  sortKey (fun (a b : Warp) => a.info.pos ≤ b.info.pos) ((s.blockWarps w.blk).filter fun x =>
    !x.foreman && x.lead.isNone && x.info.crew = w.info.crew && x.info.pos / w.info.crew = w.info.pos / w.info.crew)

/-- A bank at its old place: crew index, slot, whether its slot was active, its key, and the bank (R116). -/
structure Placed where
  pos : Nat
  slot : Nat
  act : Bool
  key : BitVec 32
  bank : Bank
  deriving DecidableEq, Repr

/-- A warp whose banks are all fixed: it holds a deferred or parked entry or a busy rejoin register (R97, R116). -/
def Warp.diverged (w : Warp) : Bool := w.paths != [] || w.jmBusy != 0

/-- The order of R116 step 3: active before inactive; active by key then old place; inactive by old place. -/
def Placed.le (a b : Placed) : Bool :=
  let place := decide (a.pos < b.pos) || (a.pos == b.pos && decide (a.slot ≤ b.slot))
  if a.act != b.act then a.act else if a.act then (decide (a.key.toNat < b.key.toNat) || (a.key == b.key && place)) else place

/-- The rewritten member maps of a crew (R116): the warps in crew order with the keys their members brought. -/
def regroup (ws : List (Warp × List (BitVec 32))) : List Warp :=
  let all : List (Placed × Bool) := (List.range ws.length).flatMap fun i =>
    let w := (ws.getD i ({}, [])).1
    w.slots.map fun m =>
      let b := w.bank m
      (⟨i, m, w.mm.getLsbD m, (ws.getD i ({}, [])).2.getD m 0, b⟩, b.dead == ~~~0#96 || w.diverged)
  let movable := sortKey Placed.le ((all.filter fun p => !p.2).map (·.1))
  let open' := (all.filter fun p => !p.2).map fun p => (p.1.pos, p.1.slot)
  let placed : List ((Nat × Nat) × Placed) :=
    open'.zip (movable.map fun p => if p.act then { p with bank := { p.bank with key := p.key } } else p) ++
    (all.filter (·.2)).map fun p => ((p.1.pos, p.1.slot), p.1)
  (List.range ws.length).map fun i =>
    let w := (ws.getD i ({}, [])).1
    let at' := fun (m : Nat) => (placed.find? fun q => q.1 = (i, m)).map (·.2)
    { w with
      banks := w.slots.map fun m => match at' m with
        | some p => p.bank
        | none => w.bank m,
      mm := w.slots.foldl (fun mm m => match at' m with
        | some p => if p.act then mm ||| (1#16 <<< m) else mm
        | none => mm) 0#16 }

/-- A warp waits at a crew rendezvous (R115, R123): every warp of its crew that has not ended has reached its n-th. -/
def State.rendezvous (s : State) (w : Warp) (isHere : Warp → Bool) : Bool :=
  ((s.block? w.blk).all fun b => b.savedWarps = []) && (s.crew w).all fun x => x.key = w.key || x.ended || (isHere x && x.rdvN = w.rdvN)

def isRegrp : Option Rdv → Bool
  | some (.regrp _) => true
  | _ => false

/-- The rewrite that the last arrival brings about: every warp of the crew goes on at `regrp` + 12, acquires at core scope and adopts its
new map; a tailing warp adopts its leader's (R116, R117, R451). -/
def State.regroupCrew (s : State) (w : Warp) : State :=
  let ws := (s.crew w).filter fun x => !x.ended
  let keysOf := fun (x : Warp) => match x.rdv with
    | some (.regrp ks) => ks
    | _ => []
  let new := regroup (ws.map fun x => (x, keysOf x))
  let pool := (ws.filterMap fun x => x.tail.bind fun t => s.warp? (warpKey x.core t)).flatMap fun (y : Warp) => y.banks
  new.foldl (fun s x =>
    let x : Warp := { x.awake with rdv := none, rdvN := x.rdvN + 1, pc := x.pc + 12#64, retired := x.retired + 1 }
    let s1 := (s.putWarp { x with loopDue := Warp.loopEnds { x with pc := x.pc - 12#64 } }).acquireBy x.key x.core 1
    match x.tail with
    | some t => s1.modWarp (warpKey x.core t) fun y =>
      { y with mm := x.mm, banks := x.banks.map fun b => match pool.find? fun c => c.num = b.num with
          | some c => { c with key := b.key }
          | none => b }
    | none => s1) s

def execRegrp (f : FormR) (s : State) : Res :=
  machineOpNT s fun s w =>
    if Warp.never f.h then (s, .fall w)
    else match w.checked f.h (w.needs [(f.a, 1)]) false false (.fall w) with
      | .fall _ =>
        if releaseBusy s w false then (s, .wait .log)
        else if s.mxOf w != [] then (s, .wait .engine)
        else
          let keys := w.slots.map fun m => (w.scl m f.a).extractLsb' 0 32
          let w1 : Warp := { w with rdv := some (.regrp keys), st := .wait, waitOn := some .rendezvous }
          let s1 := s.putWarp w1
          if s1.rendezvous w1 fun x => isRegrp x.rdv then
            let s2 := s1.regroupCrew w1
            match s2.warp? w.key with
            | some x => (s2, .done x)
            | none => (s2, .fall w)
          else
            let s2 := s.waits { w with rdv := some (.regrp keys) } .rendezvous
            (s2, .done ((s2.warp? w.key).getD w1))
      | r => (s, r)

/-- The last arrival has been reached by another way, such as the end of a warp of the crew: the regroup takes place (R115, R116). -/
def execRegroupDone (c k : Nat) (s : State) : Res :=
  .next (match s.warp? (warpKey c k) with
    | some w => if isRegrp w.rdv && s.rendezvous w fun x => isRegrp x.rdv then s.regroupCrew w else s
    | none => s)

end Sys2Proof.Machine
end

