-- ==== Sys2Proof/Machine/Scalar.lean ====
section
/-!
DEFINITION. The scalar family: moves (R144, R145), integer arithmetic (R146–R149), addresses (R150), the work identifier (R151, R345),
full/empty tests (R155). Loops, streams and register blocks are in Streams.
-/

namespace Sys2Proof.Machine

/-! ## Moves (R144, R145) -/

def execSmovi (f : FormI) (s : State) : Res := warpOp s fun w => w.sclOp f.h f.dst [] false fun _ => f.imm.signExtend 64

def execSmovhi (f : FormI) (s : State) : Res :=
  warpOp s fun w => w.sclOp f.h f.dst [(f.a, 1)] false fun m => ((w.scl m f.a).extractLsb' 0 40).setWidth 64 ||| ((f.imm.extractLsb' 0 24).setWidth 64 <<< 40)

def execScsel (f : FormR) (s : State) : Res :=
  warpOp s fun w =>
    let c := thirdSrc f.x
    w.sclOp f.h f.dst [(f.a, 1), (f.b, 1), (c, 1)] false fun m => if w.scl m c != 0 then w.scl m f.a else w.scl m f.b

def execVbcast (f : FormR) (s : State) : Res :=
  warpOp s fun w => w.vecOp f.h f.dst 1 [(f.a, 1)] false fun m _ =>
    [(w.scl m f.a).extractLsb' (if f.x.getLsbD 0 then 32 else 0) 32]

/-- `vext` reads lane k of va, through the modifier of va for that lane (R37, R145). -/
def execVext (f : FormR) (s : State) : Res :=
  warpOp s fun w =>
    let k := fun (m : Nat) => (w.scl m f.b).toNat
    let src := fun (m : Nat) => Warp.modLane f.a.mod (k m)
    let isDead := fun (m : Nat) => k m < 96 && ((w.bank m).dead.getLsbD (k m) || (w.bank m).dead.getLsbD (src m))
    let os : List Warp.Operand := [(f.a, 1), (f.b, 1)]
    let priv := w.anyPrivate (os.map (·.1))
    let val := fun (m : Nat) => if 96 ≤ k m || isDead m then 0 else (w.vget m (w.xlat f.a.spec.num) (src m)).setWidth 64
    let ms := if Warp.never f.h then [] else if priv then w.active else w.active.take 1
    let bad := fun (m : Nat) => if ms.contains m && k m < 96 && !isDead m && w.badAt m f.a.spec (src m) then (w.bank m).em &&& (w.bank m).live else 0
    w.checked f.h (w.needsPicked f.a ++ w.needs [(f.b, 1)] ++ w.needsDst 1 f.dst) false (f.dst.num < 128 && priv) (w.sparing bad (
      .fall (if ms = [] then w else (w.sclWrite f.dst.num fun m => val (if priv then m else w.active.headD m)).dsrc (ms.any isDead))))

def execVins (f : FormR) (s : State) : Res :=
  warpOp s fun w =>
    let os : List Warp.Operand := [(f.a, 1), (f.b, 1)]
    let d := w.xlat f.dst.num
    let one := fun (m : Nat) => LaneMask.ofPred fun l => l = (w.scl m f.b).toNat
    let val := fun (m : Nat) => List.replicate 96 ((w.scl m f.a).extractLsb' 0 32)
    w.checked f.h (w.needs os ++ w.needsDst 1 f.dst) false (w.commonV d && w.anyPrivate (os.map (·.1))) (
      .fall (if w.commonV d then w.vput 0 d (w.union f.h &&& one (w.active.headD 0)) (val (w.active.headD 0))
        else w.active.foldl (fun w1 m => w1.vput m d (w.part f.h m &&& one m) (val m)) w))

/-! ## Integer arithmetic (R146–R149) -/

/-- A scalar form with two sources. -/
def sclBin (f : FormR) (g : Word → Word → Word) (s : State) : Res :=
  warpOp s fun w => w.sclOp f.h f.dst [(f.a, 1), (f.b, 1)] false fun m => g (w.scl m f.a) (w.scl m f.b)

/-- A scalar form with one source. -/
def sclUn (f : FormR) (g : Word → Word) (s : State) : Res :=
  warpOp s fun w => w.sclOp f.h f.dst [(f.a, 1)] false fun m => g (w.scl m f.a)

/-- Read as unsigned (X[0], R142). -/
def FormR.uns (f : FormR) : Bool := f.x.getLsbD 0

/-- The quotient and remainder of R147. -/
def divRem (uns : Bool) (a b : Word) : Word × Word :=
  if b = 0 then (~~~0#64, a)
  else if uns then (a.udiv b, a.umod b)
  else if a = BitVec.intMin 64 && b = ~~~0#64 then (a, 0)
  else (BitVec.ofInt 64 (a.toInt.tdiv b.toInt), BitVec.ofInt 64 (a.toInt.tmod b.toInt))

/-- The high half of a product (R146). -/
def mulHigh (uns : Bool) (a b : Word) : Word :=
  if uns then BitVec.ofNat 64 (a.toNat * b.toNat / 2 ^ 64) else BitVec.ofInt 64 ((a.toInt * b.toInt) / 2 ^ 64)

/-- Leading zeros, trailing zeros and ones of a word (R146). -/
def leadZeros {n : Nat} (x : BitVec n) : Nat := n - bitLen x.toNat
def trailZeros {n : Nat} (x : BitVec n) : Nat := ((List.range n).find? fun i => x.getLsbD i).getD n
def popCount {n : Nat} (x : BitVec n) : Nat := ((List.range n).filter fun i => x.getLsbD i).length

/-- The bits of a word in reverse order. -/
def revBits {n : Nat} (x : BitVec n) : BitVec n :=
  (List.range n).foldl (fun (r : BitVec n) i => if x.getLsbD i then r ||| (1#n <<< (n - 1 - i)) else r) 0

/-- A shift count (R146). -/
def shiftBy (b : Word) : Nat := (b.extractLsb' 0 6).toNat

def execSadd (f : FormR) (s : State) : Res := sclBin f (· + ·) s
def execSsub (f : FormR) (s : State) : Res := sclBin f (· - ·) s
def execSmul (f : FormR) (s : State) : Res := sclBin f (· * ·) s
def execSmulh (f : FormR) (s : State) : Res := sclBin f (mulHigh (FormR.uns f)) s
def execSdiv (f : FormR) (s : State) : Res := sclBin f (fun a b => (divRem (FormR.uns f) a b).1) s
def execSrem (f : FormR) (s : State) : Res := sclBin f (fun a b => (divRem (FormR.uns f) a b).2) s
def execSmin (f : FormR) (s : State) : Res := sclBin f (fun a b => if (if FormR.uns f then b.ult a else b.slt a) then b else a) s
def execSmax (f : FormR) (s : State) : Res := sclBin f (fun a b => if (if FormR.uns f then a.ult b else a.slt b) then b else a) s
def execSand (f : FormR) (s : State) : Res := sclBin f (· &&& ·) s
def execSor (f : FormR) (s : State) : Res := sclBin f (· ||| ·) s
def execSxor (f : FormR) (s : State) : Res := sclBin f (· ^^^ ·) s
def execSandn (f : FormR) (s : State) : Res := sclBin f (fun a b => a &&& ~~~b) s
def execSshl (f : FormR) (s : State) : Res := sclBin f (fun a b => a <<< shiftBy b) s
def execSshr (f : FormR) (s : State) : Res := sclBin f (fun a b => a >>> shiftBy b) s
def execSsar (f : FormR) (s : State) : Res := sclBin f (fun a b => a.sshiftRight (shiftBy b)) s
def execSrol (f : FormR) (s : State) : Res := sclBin f (fun a b => a.rotateLeft (shiftBy b)) s
def execSclz (f : FormR) (s : State) : Res := sclUn f (fun a => BitVec.ofNat 64 (leadZeros a)) s
def execSpopc (f : FormR) (s : State) : Res := sclUn f (fun a => BitVec.ofNat 64 (popCount a)) s
def execSctz (f : FormR) (s : State) : Res := sclUn f (fun a => BitVec.ofNat 64 (trailZeros a)) s
def execSbrev (f : FormR) (s : State) : Res := sclUn f revBits s

/-- POS, LEN and SGN of a bit-field form (R142). -/
def fieldPos (x : BitVec 18) : Nat := (x.extractLsb' 0 6).toNat
def fieldLen (x : BitVec 18) : Nat := (x.extractLsb' 6 7).toNat

/-- A field of `len` bits from `pos`, zero- or sign-extended (R148). -/
def extractField {n : Nat} (sgn : Bool) (pos len : Nat) (a : BitVec n) : BitVec n :=
  let v := a.toNat / 2 ^ pos % 2 ^ len
  if sgn && 2 ^ (len - 1) ≤ v then BitVec.ofInt n ((v : Int) - 2 ^ len) else BitVec.ofNat n v

/-- A word with a field replaced by the low bits of another (R148). -/
def insertField {n : Nat} (pos len : Nat) (a b : BitVec n) : BitVec n :=
  let m := BitVec.ofNat n (2 ^ len - 1) <<< pos
  (a &&& ~~~m) ||| ((b <<< pos) &&& m)

def execSbfe (f : FormR) (s : State) : Res := sclUn f (extractField (f.x.getLsbD 13) (fieldPos f.x) (fieldLen f.x)) s
def execSbfi (f : FormR) (s : State) : Res := sclBin f (insertField (fieldPos f.x) (fieldLen f.x)) s
def execSset (f : FormR) (s : State) : Res := sclBin f (fun a b => if intCond (f.x.extractLsb' 0 4).toNat a b then 1 else 0) s

def execScmp (f : FormR) (s : State) : Res :=
  warpOp s fun w => w.predOp f.h f.dst [(f.a, 1), (f.b, 1)] fun m _ => intCond (f.x.extractLsb' 0 4).toNat (w.scl m f.a) (w.scl m f.b)

/-! ## Addresses (R150) -/

def execSlea (f : FormR) (s : State) : Res := sclBin f (fun a b => a + (b <<< f.x.toNat)) s

def execVaddr (f : FormR) (s : State) : Res :=
  warpOp s fun w => w.vecOp f.h f.dst 2 [(f.a, 1), (f.b, 1)] false fun m l =>
    let v := w.int32 m f.b l
    let e : Word := if f.x.getLsbD 6 then v.setWidth 64 else v.signExtend 64
    let a := w.scl m f.a + (e <<< (f.x.extractLsb' 0 6).toNat)
    [a.extractLsb' 0 32, a.extractLsb' 32 32]

/-! ## The work identifier (R151, R345) -/

/-- Field `k` from 1 to 5 of a member's work identifier: the member field, or the roles warp, crew, block and group in ascending order. -/
def widField (i : LaunchInfo) (midx : Nat) (k : Nat) : Nat :=
  if k = i.mfld && k != 0 then midx
  else
    match (((List.range k).filter fun j => 1 ≤ j && j != i.mfld)).length with
    | 0 => i.pos % i.crew
    | 1 => i.pos / i.crew
    | 2 => i.b % i.cgs
    | 3 => i.b / i.cgs
    | _ => 0

/-- The whole identifier with field 0 as zero. -/
def widWhole (i : LaunchInfo) (midx : Nat) : Word :=
  let r := (List.range 5).foldl (fun (acc : Nat × Nat) j =>
    (acc.1 + widField i midx (j + 1) % 2 ^ i.widths.getD j 0 * 2 ^ acc.2, acc.2 + i.widths.getD j 0)) (0, 7)
  BitVec.ofNat 64 r.1

def execWidS (f : FormR) (s : State) : Res :=
  warpOp s fun w =>
    let k := f.x.toNat
    w.sclOp f.h f.dst [] (k = 6 || (k = w.info.mfld && k != 0)) fun m =>
      let midx := (w.bank m).midx.toNat
      if k = 6 then widWhole w.info midx else BitVec.ofNat 64 (widField w.info midx k)

def execWidV (f : FormR) (s : State) : Res :=
  warpOp s fun w =>
    let k := f.x.toNat
    w.vecOp f.h f.dst 1 [] (k = w.info.mfld && k != 0) fun m l =>
      [if k = 0 then BitVec.ofNat 32 l else BitVec.ofNat 32 (widField w.info (w.bank m).midx.toNat k)]

/-! ## Full/empty tests (R155) -/

/-- The registers `fest` and `fewait` name. -/
def testedRegs (w : Warp) (a : Src) : List Warp.Need := w.needsOf 1 a

/-- A stream register as `fest` sees it: full when an element can be taken or stored. -/
def streamFull (t : Stream) : Bool := t.bound && !t.exhausted && (t.entry.getLsbD 355 || 0 < t.ready)

def execFest (f : FormR) (s : State) : Res :=
  warpOp s fun w =>
    match f.a.spec with
    | .spc n =>
      if w.tx.isSome then .abort 7 0 0
      else w.sclOp f.h f.dst [] false fun _ => if streamFull (w.st8.getD (n.toNat - 0x18) {}) then 1 else 0
    | _ =>
      if w.outOfRange (testedRegs w f.a) then .trap w { cls := 5 }
      else w.sclOp f.h f.dst [] (!w.common? f.a.spec) fun m => if (testedRegs w f.a).any fun q => w.isEmpty m q.reg then 0 else 1

def execFewait (f : FormR) (s : State) : Res :=
  warpOp s fun w =>
    if Warp.never f.h then .fall w
    else if w.outOfRange (testedRegs w f.a) then .trap w { cls := 5 }
    else if (w.firstEmpty (testedRegs w f.a)).isSome then .wait .register else .fall w

end Sys2Proof.Machine
end

