-- ==== Sys2Proof/Machine/Header.lean ====
section
/-!
DEFINITION. The launch header (R344), the work identifier it defines (R345), tile operands (R347) and which records are invalid (R348).
-/

namespace Sys2Proof.Machine

/-- A 128-byte record (R344). -/
abbrev LHdr := BitVec 1024

namespace LHdr

def fld (h : LHdr) (lo n : Nat) : Nat := (h.extractLsb' lo n).toNat
def bit (h : LHdr) (i : Nat) : Bool := BitVec.getLsbD h i
def word (h : LHdr) (lo n : Nat) : Word := BitVec.ofNat 64 (fld h lo n)

def kind (h : LHdr) : Nat := fld h 0 8
def indir (h : LHdr) : Bool := bit h 8
def fuse (h : LHdr) : Bool := bit h 9
def phased (h : LHdr) : Bool := bit h 10
def shadow (h : LHdr) : Bool := bit h 11
def pod (h : LHdr) : Nat := 2 ^ fld h 16 3
def common (h : LHdr) : BitVec 4 := h.extractLsb' 24 4
def hmax (h : LHdr) : Nat := 32 * fld h 32 4
def near (h : LHdr) : Nat := 4096 * fld h 40 7
def srec (h : LHdr) : Nat := fld h 48 6
def wpb (h : LHdr) : Nat := fld h 56 5
def entry (h : LHdr) : Word := word h 64 56
def crew (h : LHdr) : Nat := fld h 120 4
def argp (h : LHdr) : Word := word h 128 56
def argn (h : LHdr) : Nat := fld h 184 8
def fentry (h : LHdr) : Word := word h 192 56
def ntile (h : LHdr) : Nat := fld h 248 3
def tilep (h : LHdr) : Word := word h 256 56
def fscr (h : LHdr) : Nat := fld h 312 7
def ngrp (h : LHdr) : Nat := fld h 320 32
def cgs (h : LHdr) : Nat := fld h 352 4
def mfld (h : LHdr) : Nat := fld h 360 3
def widths (h : LHdr) : List Nat := (List.range 5).map fun i => fld h (368 + 6 * i) 6
def mbase (h : LHdr) : Nat := fld h 400 16
def cntp (h : LHdr) : Word := word h 416 56
def tlc (h : LHdr) : Nat := fld h 480 6
def tle (h : LHdr) : Bool := bit h 486
def phl (h : LHdr) : Nat := fld h 504 8
def target (h : LHdr) : Word := word h 512 64
def px (h : LHdr) : Nat := fld h 704 16
def py (h : LHdr) : Nat := fld h 720 16
def pz (h : LHdr) : Nat := fld h 736 16
def cep (h : LHdr) : Word := word h 768 56

/-- The enabled predecessor waits: counter and value (R350). -/
def waits (h : LHdr) : List (Nat × Word) :=
  (if bit h 494 then [(fld h 488 6, word h 576 64)] else []) ++ (if bit h 502 then [(fld h 496 6, word h 640 64)] else [])

/-- The reserved fields (R344): lowest bit and length. -/
def reserved : List (Nat × Nat) :=
  [(12, 4), (19, 5), (28, 4), (36, 4), (47, 1), (54, 2), (61, 3), (124, 4), (251, 5), (319, 1), (356, 4), (363, 5), (398, 2), (472, 8), (487, 1),
   (495, 1), (503, 1), (752, 16), (824, 200)]

/-- The fields of the work identifier that carry the warp, crew, block and group, in that order: their widths (R345). -/
def roles (h : LHdr) : List Nat := ((List.range 5).filter fun i => i + 1 != mfld h && (mfld h != 0 || i < 4)).map fun i => (widths h).getD i 0

/-- Every role fits its width (R345); `groups` is the number of groups, `none` while an indirect count is unknown. -/
def rolesFit (h : LHdr) (groups : Option Nat) : Bool :=
  let r := fun (i : Nat) => 2 ^ (roles h).getD i 0
  crew h - 1 < r 0 && wpb h / crew h - 1 < r 1 && cgs h - 1 < r 2 && (match groups with | some n => n - 1 < r 3 | none => true) &&
  (if mfld h = 0 then (widths h).getD 4 0 = 0
   else mbase h + crew h * pod h - 1 < 2 ^ (widths h).getD (mfld h - 1) 0)

/-- A kernel record that breaks R344, R345 or R348, or that can never be placed by R451. -/
def kernelBad (h : LHdr) : Bool :=
  4 < fld h 16 3 || !(inRange 64 256 (hmax h)) || 120 < fld h 40 7 || 32 < srec h || !(inRange 1 16 (wpb h)) || (entry h).toNat % 4 != 0 ||
  !(inRange 1 8 (crew h)) || wpb h % crew h != 0 || (argp h).toNat % 8 != 0 || 128 < argn h || (fentry h).toNat % 4 != 0 || 64 < fscr h ||
  !(inRange 1 8 (cgs h)) || 5 < mfld h || (widths h).any (32 < ·) || 57 < (widths h).foldl (· + ·) 0 ||
  !(rolesFit h (if indir h then none else some (ngrp h))) || (indir h && (cntp h).toNat % 8 != 0) ||
  (phased h && (indir h || phl h = 0 || px h = 0 || py h = 0 || pz h = 0 || px h * py h * pz h != ngrp h * cgs h)) ||
  (shadow h && 8 < wpb h)

/-- A record that breaks the rules of its kind, tile descriptors apart (R344, R348). -/
def bad (h : LHdr) : Bool :=
  (reserved.any fun r => fld h r.1 r.2 != 0) || 3 < kind h || (cep h).toNat % 32 != 0 ||
  (kind h ≤ 2 && (4 < ntile h || (tilep h).toNat % 32 != 0)) ||
  (inRange 1 2 (kind h) && (entry h).toNat % 128 != 0) || (kind h = 0 && kernelBad h)

/-- The bytes of the vector file a warp's base block and its extension take (R102, R121). -/
def baseBytes (h : LHdr) : Nat := 384 * (8 * popCount (common h) + (64 - 8 * popCount (common h)) * pod h)
def extBytes (h : LHdr) : Nat := 384 * pod h * (hmax h - 64)

/-- Warp slots a block takes (R353). -/
def slots (h : LHdr) : Nat := if shadow h then 2 * wpb h else wpb h

end LHdr

/-- A tile operand that breaks R347. -/
def tileBad (d : BitVec 256) : Bool :=
  d.extractLsb' 56 2 == 0 || d.extractLsb' 60 4 != 0 || d.extractLsb' 64 16 == 0 || d.extractLsb' 80 16 == 0 || d.extractLsb' 96 16 == 0 ||
  d.extractLsb' 112 16 != 0

/-- The bounding interval of a tile operand, and whether it has write access (R347). -/
def tileInterval (d : BitVec 256) : Int × Int × Bool :=
  let n := fun (lo : Nat) => ((d.extractLsb' lo 16).toNat : Int)
  let y := (n 80 - 1) * (d.extractLsb' 128 64).toInt
  let z := (n 96 - 1) * (d.extractLsb' 192 64).toInt
  let base := ((d.extractLsb' 0 56).toNat : Int)
  (base + min 0 y + min 0 z, base + max 0 y + max 0 z + n 64 * 2 ^ (d.extractLsb' 58 2).toNat - 1, d.getLsbD 57)

end Sys2Proof.Machine
end

