-- ==== Sys2Proof/Machine/Matrix.lean ====
section
/-!
DEFINITION. The matrix family: the matrix engine (R213–R225, R230–R234), scale memory (R226–R229) and the submission, running and end of
convolution jobs (R235–R245).
-/

namespace Sys2Proof.Machine

/-! ## Elements (R213–R215) -/

/-- What a matrix opcode multiplies. -/
inductive MxKind where
  | float (a b : Fmt) (scaled : Bool)
  | int8 (sa sb : Bool)
  | double
  deriving DecidableEq, Repr

/-- The element formats of a matrix opcode (R230). -/
def mxKind (o : Nat) : MxKind :=
  if o = 0x100 then .float Fmt.bf16 Fmt.bf16 false
  else if o = 0x101 then .float Fmt.f16 Fmt.f16 false
  else if o = 0x102 then .float Fmt.e4m3 Fmt.e4m3 false
  else if o = 0x103 then .float Fmt.e4m3 Fmt.e5m2 false
  else if o = 0x104 then .float Fmt.e5m2 Fmt.e4m3 false
  else if o = 0x105 then .float Fmt.e5m2 Fmt.e5m2 false
  else if o = 0x106 then .float Fmt.e2m1 Fmt.e2m1 false
  else if o = 0x107 then .int8 true true
  else if o = 0x108 then .int8 true false
  else if o = 0x109 then .int8 false true
  else if o = 0x10A then .int8 false false
  else if o = 0x10B then .double
  else if o = 0x10C then .float Fmt.e4m3 Fmt.e4m3 true
  else if o = 0x10D then .float Fmt.e4m3 Fmt.e5m2 true
  else if o = 0x10E then .float Fmt.e5m2 Fmt.e4m3 true
  else if o = 0x10F then .float Fmt.e5m2 Fmt.e5m2 true
  else .float Fmt.e2m1 Fmt.e2m1 true

/-- Element width in bits. -/
def MxKind.width : MxKind → Nat
  | .float a _ _ => a.width
  | .int8 .. => 8
  | .double => 64

def MxKind.scaled : MxKind → Bool
  | .float _ _ s => s
  | _ => false

/-- K, the A registers, the D registers and the tile's bytes of a kind (R213). -/
def MxKind.k (x : MxKind) : Nat := if x.width = 64 then 4 else 512 / x.width
def MxKind.aRegs (x : MxKind) : Nat := if x.width = 64 then 8 else 16
def MxKind.dRegs (x : MxKind) : Nat := if x.width = 64 then 32 else 16
def MxKind.tileBytes (x : MxKind) : Nat := if x.width = 64 then 512 else 1024

/-- Element `k` of row `l` of A (R214). -/
def aElem (w : Nat) (regs : List (List Lane32)) (l k : Nat) : Nat :=
  let reg := fun (i : Nat) => ((regs.getD i []).getD l 0).toNat
  if w = 64 then reg (2 * k) + 2 ^ 32 * reg (2 * k + 1) else reg (k * w / 32) / 2 ^ (w * (k % (32 / w))) % 2 ^ w

/-- Element `(k, n)` of a B tile (R215). -/
def bElem (w : Nat) (tile : List Byte) (k n : Nat) : Nat :=
  if w = 64 then leNat ((tile.drop (32 * n + 8 * k)).take 8)
  else if w = 4 then (tile.getD (64 * n + k / 2) 0).toNat / 2 ^ (4 * (k % 2)) % 16
  else leNat ((tile.drop (64 * n + k * w / 8)).take (w / 8))

/-! ## One element of D (R170, R171, R232) -/

/-- Round a value to FP32 (R170). -/
def round32 (x : Val) : Val := Fmt.f32.decode (encodeVal Fmt.f32 {} x)

/-- The tree of R171 over products `ps`, from accumulator `d`; `scale j` applies the scales of group `j` (R170). -/
def mxTree (ps : List Val) (scale : Nat → Val → Val) (d : Nat) : Nat :=
  (List.range (ps.length / 8)).foldl (fun d j =>
    let g := Fmt.f32.decode (fpSum Fmt.f32 {} ((ps.drop (8 * j)).take 8))
    fpSum Fmt.f32 {} [Fmt.f32.decode d, scale j g]) d

/-- The scale of a group: block scales, then the per-tensor product (R170). -/
def mxScale (scA scB : List Byte) (t : Lane32) (l n j : Nat) (g : Val) : Val :=
  let sc := fun (b : Byte) => Fmt.e4m3.decode b.toNat
  let s := mulVal (sc (scA.getD (4 * l + j / 4) 0)) (sc (scB.getD (384 + 4 * n + j / 4) 0))
  round32 (mulVal (round32 (mulVal g s)) (Fmt.f32.decode t.toNat))

/-- The new value of column `n` of row `l`, from its old one. -/
def mxCell (o : MxOp) (l n d : Nat) : Nat :=
  let kd := mxKind o.op
  let ks := List.range kd.k
  let a := fun (k : Nat) => aElem kd.width o.a l k
  let b := fun (k : Nat) => bElem kd.width o.tile k n
  match kd with
  | .float fa fb sc =>
    let ps := ks.map fun k => mulVal (fa.decode (a k)) (fb.decode (b k))
    mxTree ps (if sc then mxScale o.scA o.scB o.t l n else fun _ g => g) d
  | .int8 sa sb => wrapBits 32 (ks.foldl (fun acc k => acc + intOfBits 8 sa (a k) * intOfBits 8 sb (b k)) (d : Int))
  | .double => fpSum Fmt.f64 {} (Fmt.f64.decode d :: ks.map fun k => mulVal (Fmt.f64.decode (a k)) (Fmt.f64.decode (b k)))

/-- The 32-bit words of D in column order that a row gets. -/
def mxRow (o : MxOp) (old : Nat → Lane32) (l : Nat) : List Lane32 :=
  if o.op = 0x10B then
    (List.range 16).flatMap fun n =>
      let r := mxCell o l n ((old (2 * n)).toNat + 2 ^ 32 * (old (2 * n + 1)).toNat)
      [BitVec.ofNat 32 r, BitVec.ofNat 32 (r / 2 ^ 32)]
  else (List.range 16).map fun n => BitVec.ofNat 32 (mxCell o l n (old n).toNat)

/-- The operation is of an `mmclr` (R234). -/
def MxOp.isClear (o : MxOp) : Bool := o.op = 0x111

/-- The D registers of an operation; one whose registers the warp has given up has none (R122). -/
def MxOp.regs (o : MxOp) : List Nat :=
  if o.dst = 0x300 then [] else (List.range (if o.isClear then 16 else (mxKind o.op).dRegs)).map (o.dst + ·)

/-! ## The engine (R217–R222) -/

/-- One member's part of a matrix form is carried out: the rows of its lanes that are still live, then its D registers turn full unless a
later operation of the warp writes them too (R178, R218, R220, R222). -/
def Warp.mxApply (w : Warp) (o : MxOp) (later : List MxOp) : Warp :=
  let lanes := o.lanes &&& (w.bank o.mem).live
  let rows := laneNumbers.map fun l => if lanes.getLsbD l && !o.isClear then mxRow o (fun i => w.vget o.mem (o.dst + i) l) l else []
  let w1 := o.regs.foldl (fun w r => w.vput o.mem r lanes (rows.map fun x => x.getD (r - o.dst) 0)) w
  if o.isClear then { w1 with clearing := w1.clearing.erase (o.mem, o.dst) }
  else (o.regs.filter fun r => !(later.any fun x => x.mem = o.mem && x.regs.contains r)).foldl (fun w r => w.setEmpty o.mem false (.v r)) w1

/-- The B tile as the engine reads it: a byte another agent has changed since issue is the old or the new one (R219). -/
def tileRead (o : MxOp) (now : List Byte) : List Byte :=
  (List.range o.tile.length).map fun i => if Config.tilePick o.draw i then now.getD i 0 else o.tile.getD i 0

/-- The oldest operation of a core's engine completes for its member. -/
def State.mxComplete (s : State) (c : Nat) : State :=
  match tget [] s.mx c with
  | [] => s
  | o :: rest =>
    match s.warp? (warpKey c o.slot) with
    | none => { s with mx := tset s.mx c rest }
    | some w =>
      let o1 : MxOp := match o.boff, s.block? w.blk with
        | some b, some bl => { o with tile := tileRead o (bl.near.readBytes b o.tile.length), boff := none }
        | _, _ => o
      let rest1 := rest.map fun x => if o1.shared && x.draw = o1.draw && x.slot = o1.slot then { x with tile := o1.tile, boff := none } else x
      { s.putWarp (w.mxApply o1 (rest1.filter fun x => x.slot = o.slot)) with mx := tset s.mx c rest1 }

/-- MMA_MEMBER_COMPLETE (R218): the last word beat of a member's part of the engine's oldest instruction. -/
def execMmaMemberComplete (c : Nat) (s : State) : Res := .next (s.mxComplete c)

/-- The instructions a core's engine holds: it executes one, and one waits (R217). -/
def State.mxFull (s : State) (core : Nat) : Bool := 2 ≤ ((tget [] s.mx core).map (·.draw)).eraseDups.length

/-- D registers keep a matrix form from issuing (R220): one has been left empty by a producer other than the warp's own matrix work; a form that
has begun to wait for that goes on only when none is pending in any way. -/
def mxBlocked (w : Warp) (mine : List MxOp) (regs : List Nat) : Bool :=
  w.active.any fun m => regs.any fun r =>
    let own := mine.any fun o => o.mem = m && o.regs.contains r
    if w.foreign then own || w.isEmpty m (.v r) else w.isEmpty m (.v r) && !own

/-- Near scratch as a matrix form finds it: an earlier near store of the warp that overlaps a tile is performed first (R219). -/
def tileBusy (w : Warp) (b n : Nat) : Bool :=
  w.log.any fun e => e.near && e.writes && e.parts.any fun p => !p.ok && p.addr.toNat < b + n && b < p.addr.toNat + e.size

/-- The fields of a B descriptor (R216). -/
def bOff (d : Word) : Nat := (d.extractLsb' 0 19).toNat
def aRec (d : Word) : Nat := (d.extractLsb' 19 5).toNat
def bRec (d : Word) : Nat := (d.extractLsb' 24 5).toNat

/-- The scale records a form names (R216): those of the active slots and of B. -/
def recsOf (w : Warp) (desc : Nat → Word) : List Nat := w.active.flatMap fun m => [bRec (desc m), aRec (desc m) + m]

/-- A matrix form at issue: the checks of R231, then its operations for the engine. -/
def mxIssue (opc : BitVec 9) (f : FormR) (s : State) (w : Warp) : State × WRes :=
  let kd := mxKind opc.toNat
  let third := thirdSrc f.x
  let srcs : List Warp.Operand := [(f.a, kd.aRegs), (f.b, 1)] ++ (if kd.scaled then [(third, 1)] else [])
  let base := w.xlat f.a.spec.num
  let dregs := (List.range kd.dRegs).map (f.dst.num + ·)
  let dneeds : List Warp.Need := dregs.map fun r => ⟨.v r, false, some 0⟩
  let desc := fun (m : Nat) => w.scl m f.b
  match s.block? w.blk with
  | none => (s, .fall w)
  | some bl =>
    if w.outOfRange (w.needs srcs ++ dneeds) then (s, .trap w { cls := 5 })
    else if 128 < base + kd.aRegs then (s, .trap w { cls := 6 })
    else match w.checked f.h (w.needs srcs) false false (.fall w) with
      | .fall _ =>
        match w.active.find? fun m => bOff (desc m) % kd.tileBytes != 0 || bl.ns < bOff (desc m) + kd.tileBytes with
        | some m =>
          if bOff (desc m) % kd.tileBytes != 0 then (s, .trap w { cls := 11, slot := m, detail := BitVec.ofNat 64 (bOff (desc m)) })
          else (s, .trap w { cls := 12, slot := m })
        | none =>
          if kd.scaled && (recsOf w desc).any fun r => bl.srec ≤ r then (s, .trap w { cls := 13 })
          else if kd.scaled && (recsOf w desc).any fun r => bl.scalePend.contains r then (s, .wait .record)
          else if mxBlocked w (s.mxOf w) dregs then (s, .wait .fragment)
          else if s.mxFull w.core then (s, .wait .engine)
          else
            let ms := w.active.filter fun m => w.part f.h m != 0
            if ms != [] && w.heldByFence false then (s, .wait .memory)
            else if ms.any fun m => tileBusy w (bOff (desc m)) kd.tileBytes then (s, .wait .log)
            else
              let kills := (ms.map fun m => (m, w.badReads f.h dneeds m)).filter fun p => p.2 != 0
              if kills != [] then (s, .kill w kills 7 false)
              else
                let op := fun (m : Nat) =>
                  let d := desc m
                  let tv := w.scl m third
                  let t := encodeVal Fmt.f32 {} (mulVal (Fmt.f32.decode (tv.toNat % 2 ^ 32)) (Fmt.f32.decode (tv.toNat / 2 ^ 32)))
                  ({ slot := w.slot, op := opc.toNat, x := f.x, dst := f.dst.num, mem := m, lanes := w.part f.h m,
                     a := (List.range kd.aRegs).map fun i => w.vrow m (base + i),
                     tile := bl.near.readBytes (bOff d) kd.tileBytes, boff := some (bOff d), shared := w.common? f.b.spec, draw := s.tick,
                     t := if kd.scaled then BitVec.ofNat 32 t else 0,
                     scA := if kd.scaled then bl.scales.readBytes (512 * (aRec d + m)) 512 else [],
                     scB := if kd.scaled then bl.scales.readBytes (512 * bRec d) 512 else [] } : MxOp)
                let w1 := ms.foldl (fun w m => dregs.foldl (fun w r => w.setEmpty m true (.v r)) w) w
                let s1 : State := if ms = [] then s else { s with
                  mx := tset s.mx w.core (tget [] s.mx w.core ++ ms.map op),
                  mxLatch := if f.ru then tset s.mxLatch w.core (w.slot, base, kd.width) else tdel s.mxLatch w.core }
                (s1, .fall w1)
      | r => (s, r)

def mxForm (opc : BitVec 9) (f : FormR) (s : State) : Res := machineOp s (mxIssue opc f)

def execMmaBf16 (f : FormR) (s : State) : Res := mxForm 0x100 f s
def execMmaF16 (f : FormR) (s : State) : Res := mxForm 0x101 f s
def execMmaE4m3E4m3 (f : FormR) (s : State) : Res := mxForm 0x102 f s
def execMmaE4m3E5m2 (f : FormR) (s : State) : Res := mxForm 0x103 f s
def execMmaE5m2E4m3 (f : FormR) (s : State) : Res := mxForm 0x104 f s
def execMmaE5m2E5m2 (f : FormR) (s : State) : Res := mxForm 0x105 f s
def execMmaE2m1 (f : FormR) (s : State) : Res := mxForm 0x106 f s
def execMmaInt8Ss (f : FormR) (s : State) : Res := mxForm 0x107 f s
def execMmaInt8Su (f : FormR) (s : State) : Res := mxForm 0x108 f s
def execMmaInt8Us (f : FormR) (s : State) : Res := mxForm 0x109 f s
def execMmaInt8Uu (f : FormR) (s : State) : Res := mxForm 0x10A f s
def execMmaF64 (f : FormR) (s : State) : Res := mxForm 0x10B f s
def execMmasE4m3E4m3 (f : FormR) (s : State) : Res := mxForm 0x10C f s
def execMmasE4m3E5m2 (f : FormR) (s : State) : Res := mxForm 0x10D f s
def execMmasE5m2E4m3 (f : FormR) (s : State) : Res := mxForm 0x10E f s
def execMmasE5m2E5m2 (f : FormR) (s : State) : Res := mxForm 0x10F f s
def execMmasE2m1 (f : FormR) (s : State) : Res := mxForm 0x110 f s

/-- `mmclr` (R234): it waits until the fragment is full (R127) and a place in the engine is free; the engine writes +0 into the fragment's rows in
order of issue, and the warp's other instructions that name the fragment wait for it (R218). -/
def execMmclr (f : FormR) (s : State) : Res :=
  machineOp s fun s w =>
    let regs := (List.range 16).map (f.dst.num + ·)
    match w.checked f.h (regs.map fun r => ⟨.v r, false, none⟩) false false (.fall w) with
    | .fall _ =>
      if s.mxFull w.core then (s, .wait .engine)
      else
        let ms := w.active.filter fun m => w.part f.h m != 0
        let op := fun (m : Nat) => ({ slot := w.slot, op := 0x111, x := 0, dst := f.dst.num, mem := m, lanes := w.part f.h m, draw := s.tick } : MxOp)
        (if ms = [] then s else { s with mx := tset s.mx w.core (tget [] s.mx w.core ++ ms.map op) },
         .fall { w with clearing := w.clearing ++ ms.map fun m => (m, f.dst.num) })
    | r => (s, r)

/-! ## Scale memory (R226–R229) -/

/-- `scld` (R229): one load of 512 bytes into a scale record, pending until it completes. -/
def execScld (f : FormM) (s : State) : Res :=
  machineOpNT s fun s w =>
    match w.checked f.h (w.needs [(⟨f.addr, 0, f.fa⟩, 1), (f.data, 1)]) false false (.fall w) with
    | .fall _ =>
      if Warp.never f.h then (s, .fall w)
      else
        let m := w.active.headD 0
        let ea := w.ea f.addr f.off m 0
        let r := (w.scl m f.data).toNat
        match s.block? w.blk with
        | none => (s, .fall w)
        | some bl =>
          if ea.toNat % 128 != 0 then (s, .trap w { cls := 11, slot := m, detail := ea })
          else if bl.srec ≤ r then (s, .trap w { cls := 13 })
          else if bl.scalePend.contains r then (s, .wait .record)
          else if (List.range 4).any fun i => (s.window w.ctx (ea + BitVec.ofNat 64 (128 * i))).isSome then (s, .trap w { cls := 4 })
          else match w.freeEntry with
            | none => (s, .wait .log)
            | some k =>
              let q : Req := { acc := .scales r, size := 512, attr := f.attr }
              let parts : List Part := [{ slot := m, lane := 96, addr := ea }]
              (s.modBlock w.blk fun b => { b with scalePend := b.scalePend ++ [r] },
               .fall (w.logEntry (newEntry w k (packM 0x112 f) q true parts 0)))
    | r => (s, r)

/-! ## The convolution engine (R235–R245) -/

/-- A field of a job record. -/
def ConvJob.fld (j : ConvJob) (lo n : Nat) : Nat := (j.fields.extractLsb' lo n).toNat

def ConvJob.ndim (j : ConvJob) : Nat := j.fld 32 8
def ConvJob.dtype (j : ConvJob) : Nat := j.fld 8 8
def ConvJob.otype (j : ConvJob) : Nat := j.fld 16 8
def ConvJob.acc (j : ConvJob) : Bool := j.fields.getLsbD 48
def ConvJob.cin (j : ConvJob) : Nat := j.fld 384 16
def ConvJob.cout (j : ConvJob) : Nat := j.fld 400 16
def ConvJob.batches (j : ConvJob) : Nat := j.fld 352 32

/-- A field of axis `a`; an axis from NDIM on acts as the default (R236). -/
def ConvJob.axis (j : ConvJob) (a lo n dflt : Nat) : Nat := if a < j.ndim then j.fld lo n else dflt
def ConvJob.ext (j : ConvJob) (a : Nat) : Nat := j.axis a (64 * a + 448) 32 1
def ConvJob.ker (j : ConvJob) (a : Nat) : Nat := j.axis a (64 * a + 480) 8 1
def ConvJob.str (j : ConvJob) (a : Nat) : Nat := j.axis a (64 * a + 488) 8 1
def ConvJob.dil (j : ConvJob) (a : Nat) : Nat := j.axis a (64 * a + 496) 8 1
def ConvJob.plo (j : ConvJob) (a : Nat) : Nat := j.axis a (16 * a + 640) 16 0
def ConvJob.phi (j : ConvJob) (a : Nat) : Nat := j.axis a (16 * a + 688) 16 0

/-- The output extent of an axis (R238): the floor is mathematical. -/
def ConvJob.outExt (j : ConvJob) (a : Nat) : Int :=
  if j.str a = 0 then 0
  else (((j.ext a + j.plo a + j.phi a : Nat) : Int) - j.dil a * ((j.ker a : Int) - 1) - 1).fdiv (j.str a) + 1

/-- OUTCNT (R238). -/
def ConvJob.outCount (j : ConvJob) : Nat :=
  if [0, 1, 2].any fun a => j.outExt a ≤ 0 then 0
  else j.batches * j.cout * (j.outExt 0 * j.outExt 1 * j.outExt 2).toNat

/-- A record that is invalid (R241). -/
def ConvJob.bad (j : ConvJob) : Bool :=
  j.fld 0 8 != 0 || 3 < j.dtype || 4 < j.otype || 2 < j.fld 24 8 || !inRange 1 3 j.ndim || 3 < j.fld 40 8 || j.fld 50 6 != 0 || 63 < j.fld 56 8 ||
  ((List.range (min 3 j.ndim)).any fun a =>
    !inRange 1 (2 ^ 24) (j.ext a) || !inRange 1 255 (j.ker a) || !inRange 1 255 (j.str a) || !inRange 1 255 (j.dil a)) ||
  !inRange 1 65535 j.batches || !inRange 1 4096 j.cin || !inRange 1 4096 j.cout ||
  (j.dtype != 3 && 3 ≤ j.otype) || (j.dtype = 3 && (j.otype = 1 || j.otype = 2 || (j.otype = 0 && j.acc))) || 2 ^ 32 - 1 < j.outCount

/-- Bytes of an element of a data type and of an output type. -/
def convSize (dtype : Nat) : Nat := if dtype = 0 then 4 else if dtype = 3 then 1 else 2
def convOutSize (otype : Nat) : Nat := if otype = 0 || otype = 3 then 4 else if otype = 4 then 1 else 2
/-- The floating-point format of a data or output type 0–2. -/
def convFmt (t : Nat) : Fmt := if t = 0 then Fmt.f32 else if t = 1 then Fmt.bf16 else Fmt.f16

/-- The coordinate of tap `t` at output position `p` of an axis, and whether it lies in the padding (R239). -/
def ConvJob.coord (j : ConvJob) (a p t : Nat) : Int × Bool :=
  let q := (p * j.str a + t * j.dil a : Nat) - (j.plo a : Int)
  let n : Int := j.ext a
  (clampTo (0, n - 1) q, q < 0 || n ≤ q)

/-- Where a job's addresses start (R236). -/
def ConvJob.base (j : ConvJob) (lo : Nat) : Word := BitVec.ofNat 64 (j.fld lo 56)

/-- The virtual address of an input, filter or output element (R237): `hi` and `lo` are its first two indices. -/
def convAddr (base : Word) (size hi lo dim2 : Nat) (e : Nat → Nat) (x : Nat → Nat) : Word :=
  base + BitVec.ofNat 64 (size * ((((hi * dim2 + lo) * e 2 + x 2) * e 1 + x 1) * e 0 + x 0))

namespace State

/-- A number read by a job. -/
def convRead (s : State) (j : ConvJob) (va : Word) (n : Nat) : Except AgentErr Nat :=
  match s.agentRead j.ctx (dieOf j.core) va 0 n with
  | .error e => .error e
  | .ok bs => .ok (leNat bs)

/-- The taps of a filter, as positions on three axes. -/
def convTaps (j : ConvJob) : List (Nat → Nat) :=
  (List.range (j.ker 2)).flatMap fun z => (List.range (j.ker 1)).flatMap fun y => (List.range (j.ker 0)).map fun x =>
    fun a => if a = 0 then x else if a = 1 then y else z

/-- The products of one channel at one output position: input and filter values as raw numbers, or the first error. -/
def convPairs (s : State) (j : ConvJob) (b o c : Nat) (pos : Nat → Nat) : Except AgentErr (List (Nat × Nat)) :=
  let size := convSize j.dtype
  (convTaps j).foldl (fun acc t => match acc with
    | .error e => .error e
    | .ok l =>
      let q := fun (a : Nat) => j.coord a (pos a) (t a)
      let pad := (q 0).2 || (q 1).2 || (q 2).2
      let input := if pad && j.fld 24 8 = 0 then .ok 0
        else if pad && j.fld 24 8 = 1 then .ok (j.fld 320 32 % 2 ^ (8 * size))
        else s.convRead j (convAddr (j.base 128) size b c j.cin j.ext fun a => (q a).1.toNat) size
      match input, s.convRead j (convAddr (j.base 192) size o c j.cin j.ker t) size with
      | .ok x, .ok y => .ok (l ++ [(x, y)])
      | .error e, _ => .error e
      | _, .error e => .error e) (.ok [])

/-- Convert the accumulator to the output type (R240). -/
def convOut (j : ConvJob) (acc : Nat) : Nat :=
  let r : Rnd := { mode := j.fld 40 8, sat := j.fields.getLsbD 49 }
  if j.dtype = 3 then
    if j.otype = 0 then convertIF 32 true Fmt.f32 r acc
    else convertII 32 true (if j.otype = 3 then 32 else 8) true r.sat acc
  else convertFF Fmt.f32 (convFmt j.otype) r acc

/-- One output element (R240): its bytes. -/
def convElem (s : State) (j : ConvJob) (b o : Nat) (pos : Nat → Nat) (va : Word) : Except AgentErr (List Byte) :=
  let osize := convOutSize j.otype
  let start : Except AgentErr Nat := if !j.acc then .ok 0
    else match s.convRead j va osize with
      | .error e => .error e
      | .ok v => .ok (if j.dtype = 3 then (if j.otype = 4 then wrapBits 32 (intOfBits 8 true v) else v) else convertFF (convFmt j.otype) Fmt.f32 {} v)
  let total := (List.range j.cin).foldl (fun acc c => match acc with
    | .error e => .error e
    | .ok d => match s.convPairs j b o c pos with
      | .error e => .error e
      | .ok ps =>
        if j.dtype = 3 then .ok (wrapBits 32 (ps.foldl (fun (t : Int) p => t + intOfBits 8 true p.1 * intOfBits 8 true p.2) (d : Int)))
        else
          let f := convFmt j.dtype
          let terms := ps.map fun p => mulVal (f.decode p.1) (f.decode p.2)
          .ok (fpSum Fmt.f32 {} (Fmt.f32.decode d :: terms))) start
  match total with
  | .error e => .error e
  | .ok d => .ok (leBytes osize (convOut j d))

/-- Every output element of a job: its virtual address, and its bytes or the error it met. -/
def convOutputs (s : State) (j : ConvJob) : List (Word × Except AgentErr (List Byte)) :=
  if j.outCount = 0 then []
  else
    let m := fun (a : Nat) => (j.outExt a).toNat
    (List.range j.batches).flatMap fun b => (List.range j.cout).flatMap fun o =>
      (List.range (m 2)).flatMap fun z => (List.range (m 1)).flatMap fun y => (List.range (m 0)).map fun x =>
        let pos := fun (a : Nat) => if a = 0 then x else if a = 1 then y else z
        let va := convAddr (j.base 256) (convOutSize j.otype) b o j.cout m pos
        let e := match s.convElem j b o pos va with
          | .error e => .error e
          | .ok bs => match s.agentLocate j.ctx va 0 bs.length .write with
            | .error e => .error e
            | .ok _ => .ok bs
        (va, e)

/-- Run a job (R240, R244): the outputs it will store and the error it records. After an error each output that was computed is stored or
not. -/
def convRun (s : State) (j : ConvJob) : List (Nat × List Byte) × ErrRec :=
  let unit := 0x5C0 + clusterOf j.core
  if j.bad then ([], ({} : ErrRec).add 1 0 unit j.place)
  else
    let all := s.convOutputs j
    let good := all.filterMap fun p => match p.2 with | .ok bs => some (p.1.toNat, bs) | .error _ => none
    match all.findSome? fun p => match p.2 with | .error e => some e | .ok _ => none with
    | none => (good, {})
    | some e =>
      ((good.zip (List.range good.length)).filterMap fun p => if Config.convPick s.tick p.2 then some p.1 else none,
       ({} : ErrRec).add e.cls e.detail unit e.addr)

/-- What a job reads (R237, R240): virtual addresses and lengths. -/
def convReads (j : ConvJob) : List (Word × Nat) :=
  if j.bad || j.outCount = 0 then []
  else
    let m := fun (a : Nat) => (j.outExt a).toNat
    let size := convSize j.dtype
    (List.range j.batches).flatMap fun b => (List.range j.cout).flatMap fun o =>
      (List.range (m 2)).flatMap fun z => (List.range (m 1)).flatMap fun y => (List.range (m 0)).flatMap fun x =>
        let pos := fun (a : Nat) => if a = 0 then x else if a = 1 then y else z
        (if j.acc then [(convAddr (j.base 256) (convOutSize j.otype) b o j.cout m pos, convOutSize j.otype)] else []) ++
          (List.range j.cin).flatMap fun c => (convTaps j).flatMap fun t =>
            let q := fun (a : Nat) => j.coord a (pos a) (t a)
            let pad := (q 0).2 || (q 1).2 || (q 2).2
            (if pad && j.fld 24 8 ≤ 1 then [] else [(convAddr (j.base 128) size b c j.cin j.ext fun a => (q a).1.toNat, size)]) ++
              [(convAddr (j.base 192) size o c j.cin j.ker t, size)]

/-- The reads of a job as others see them (R310, R492). -/
def convTouch (s : State) (j : ConvJob) : State := (convReads j).foldl (fun s r => s.agentTouch j.ctx (dieOf j.core) r.1 0 r.2) s

/-- CONV_JOB_START (R235): the oldest job of a cluster's queue starts when none runs. -/
def convStart (s : State) (cl : Nat) : State :=
  match tget [] s.conv cl with
  | [] => s
  | j :: rest =>
    if j.started then s
    else
      let (outs, e) := s.convRun j
      { s.convTouch j with conv := tset s.conv cl ({ j with started := true, outs := outs, err := e } :: rest) }

/-- Write OUTCNT and CE into a job's record (R236, R243): in near scratch, or at a node's virtual address. -/
def convRecord (s : State) (j : ConvJob) : State :=
  let cnt := leBytes 4 (if j.bad then 0 else j.outCount)
  match j.blk with
  | some b => s.modBlock b fun x => { x with near := (x.near.writeBytes (j.place + 52) cnt).writeBytes (j.place + 96) j.err.bytes, jobs := x.jobs - 1 }
  | none =>
    match s.agentWrite noWarp j.ctx (BitVec.ofNat 64 (j.place + 52)) 0 cnt with
    | .ok s1 => s1.writeEntry j.ctx (BitVec.ofNat 64 (j.place + 96)) j.err
    | .error _ => s.logDevice j.err

/-- The host lets the outputs and the record of a job be written (R468). -/
def convReady (s : State) (j : ConvJob) : Bool :=
  (j.outs.all fun o => s.agentReady j.ctx (BitVec.ofNat 64 o.1) o.2.length) &&
  (j.blk.isSome || (s.agentReady j.ctx (BitVec.ofNat 64 (j.place + 52)) 4 && s.agentReady j.ctx (BitVec.ofNat 64 (j.place + 96)) 32))

/-- CONV_JOB_END (R243): the outputs, then the record, then the advance. -/
def convEnd (s : State) (cl : Nat) : State :=
  match tget [] s.conv cl with
  | [] => s
  | j :: rest =>
    if !j.started || !s.convReady j then s
    else
      let s1 := j.outs.foldl (fun s o => s.agentStore j.ctx (BitVec.ofNat 64 o.1) o.2) s
      let s2 := s1.convRecord j
      let s3 : State := { s2 with conv := tset s2.conv cl rest }
      let s4 := if j.node.isNone && j.fld 56 8 ≤ 63 then s3.postAdvance j.ctx (j.fld 56 8) (BitVec.ofNat 64 (j.fld 64 64)) else s3
      match j.node with
      | some n => s4.modNode n fun x => { x with busy := false, err := j.err }
      | none => s4

end State

def execConvJobStart (cl : Nat) (s : State) : Res := .next (s.convStart cl)

/-- Entries in a cluster's convolution queue (R235). -/
def convRoom : Nat := 16

/-- `cvgo` (R242): it waits, as a release, for the warp's earlier accesses, and for a free queue entry; then the record's first 96 bytes
are taken into the queue. -/
def execCvgo (f : FormR) (s : State) : Res :=
  machineOpNT s fun s w =>
    match w.checked f.h (w.needs [(f.a, 1)]) false false (.fall w) with
    | .fall _ =>
      if Warp.never f.h then (s, .fall w)
      else
        let m := w.active.headD 0
        let a := (w.scl m f.a)
        match s.block? w.blk with
        | none => (s, .fall w)
        | some bl =>
          if a.toNat % 128 != 0 then (s, .trap w { cls := 11, slot := m, detail := a })
          else if bl.ns < a.toNat + 128 then (s, .trap w { cls := 12, slot := m })
          else if w.freeEntry.isNone || (w.log.any fun e => !e.async) || s.replicas.any fun r => r.owner = w.key then (s, .wait .log)
          else if convRoom ≤ (tget [] s.conv (clusterOf w.core)).length then (s, .wait .queue)
          else
            let j : ConvJob := { ctx := w.ctx, core := w.core, blk := some w.blk, place := a.toNat,
                                 fields := BitVec.ofNat 768 (leNat (bl.near.readBytes a.toNat 96)) }
            let s1 : State := { s with conv := tset s.conv (clusterOf w.core) (tget [] s.conv (clusterOf w.core) ++ [j]) }
            (s1.modBlock w.blk fun b => { b with jobs := b.jobs + 1 }, .fall w)
    | r => (s, r)

end Sys2Proof.Machine
end

