-- ==== Sys2Proof/Machine/Queues.lean ====
section
/-!
DEFINITION. Queue slots (R342, R343), delivery of records to the ready pool and their dependences (R348, R349), readiness and completion of
nodes (R350–R352), and the dispatch of jobs and tasks (R355).
-/

namespace Sys2Proof.Machine

namespace State

/-! ## Mapping queues (R343) -/

/-- The pending queues of resident contexts: PRIO, the cycle the wait began, context slot, queue number. -/
def pendingQueues (s : State) : List (Nat × Nat × Nat × Nat) :=
  s.ctxs.flatMap fun p => if s.resident p.1 then p.2.pending.map fun q => (p.2.prio, q.2, p.1, q.1) else []

/-- Longer waiting first; ties to the lower context slot, then the lower queue number. -/
def waitsLonger (a b : Nat × Nat × Nat × Nat) : Bool :=
  a.2.1 < b.2.1 || (a.2.1 = b.2.1 && (a.2.2.1 < b.2.2.1 || (a.2.2.1 = b.2.2.1 && a.2.2.2 ≤ b.2.2.2)))

/-- The queue the selector maps, and whether under step 2 (R343). -/
def selectQueue (s : State) : Option ((Nat × Nat × Nat × Nat) × Bool) :=
  let step1 := s.mappings.length = 7 && s.mappings.all id
  let le := fun (a b : Nat × Nat × Nat × Nat) => if step1 || a.1 = b.1 then waitsLonger a b else b.1 < a.1
  match sortKey le s.pendingQueues with
  | [] => none
  | q :: _ => some (q, !step1)

end State

def execDoorbell (x q : Nat) (s : State) : Res := .next (s.doorbell x q)

/-- SLOT_MAP (R343): a FREE slot maps the queue the selector chooses. -/
def execSlotMap (n : Nat) (s : State) : Res :=
  .next (
    if 64 ≤ n || (tget {} s.qslots n).st != .free then s
    else match s.selectQueue with
      | none => s
      | some ((_, _, x, q), step2) =>
        let s1 := s.modCtx x fun c => { c with pending := c.pending.filter fun p => p.1 != q }
        let last := s1.mappings ++ [step2]
        { s1 with qslots := tset s1.qslots n { st := .fetch, ctx := x, q := q, since := s.cycle },
                  mappings := last.drop (last.length - 7) })

namespace State

/-! ## Delivery (R342, R348, R349) -/

/-- Incomplete nodes of a queue (R342, R349). -/
def queueNodes (s : State) (x q : Nat) : List (Nat × Node) := s.nodes.filter fun p => p.2.ctx = x && p.2.queue = q

/-- The pool or the queue's graph window is full (R342). -/
def slotBlocked (s : State) (x q : Nat) : Bool := 4096 ≤ s.nodes.length || 1024 ≤ (s.queueNodes x q).length

/-- The slot becomes FREE. -/
def freeSlot (s : State) (n : Nat) : State := { s with qslots := tset s.qslots n {} }

/-- A faulting descriptor or record counts as invalid: an entry goes to the queue's error record (R342, R462). -/
def queueError (s : State) (n x q : Nat) (e : AgentErr) : State :=
  let va := (s.ctx x).qtab + BitVec.ofNat 64 (64 * ((s.ctx x).qmax + 1) + 32 * q)
  if !s.agentReady x va 32 then s else (s.writeEntry x va (({} : ErrRec).add e.cls e.detail 0x693 e.addr)).freeSlot n

/-- The tile operands of a record: their intervals; or the error of an invalid or faulting descriptor (R347, R348). -/
def readTiles (s : State) (x : Nat) (h : LHdr) : Except AgentErr (List (Int × Int × Bool)) :=
  if h.kind = 3 || h.ntile = 0 then .ok []
  else match s.agentRead x 0 h.tilep 0 (32 * h.ntile) with
    | .error e => .error e
    | .ok bs =>
      let ds := (List.range h.ntile).map fun i => BitVec.ofNat 256 (leNat ((bs.drop (32 * i)).take 32))
      if ds.any tileBad then .error ⟨1, 0, (Config.noAddr s.tick).toNat⟩ else .ok (ds.map tileInterval)

/-- Two intervals meet and one of them is written (R349). -/
def tilesMeet (a b : List (Int × Int × Bool)) : Bool := a.any fun p => b.any fun q => p.1 ≤ q.2.1 && q.1 ≤ p.2.1 && (p.2.2 || q.2.2)

/-! ## Room on an idle device (R356) -/

/-- Blocks of a launch that an idle core holds (R353), by the roof it has. -/
def idleRoom (s : State) (x : Nat) (h : LHdr) (core : Nat) : Nat :=
  let none3 := (tget 0 s.roofst core).extractLsb' 0 2 == 3
  let ways := ((s.ctx x).ways.extractLsb' 0 5).toNat
  if none3 && (h.fscr != 0 || ways != 0) then 0
  else ((List.range 17).filter fun n =>
    n * h.slots ≤ 16 && (n = 0 || n * h.slots * h.baseBytes + h.slots * h.extBytes ≤ 2097152) && n * h.near ≤ 491520 && n * h.srec ≤ 32 &&
    n * h.fscr ≤ 64 - 4 * ways && (h.fentry = 0 || n ≤ 1)).foldl max 0

/-- Groups of `k` blocks on distinct cores that cores with room for `rooms` blocks hold. -/
def groupsIn (rooms : List Nat) (k : Nat) : Nat :=
  let total := fun (g : Nat) => (rooms.map fun r => min r g).foldl (· + ·) 0
  ((List.range (16 * rooms.length + 1)).filter fun g => g * k ≤ total g).foldl max 0

/-- A phase-led launch would fit on an otherwise idle device (R356). -/
def fitsIdle (s : State) (x : Nat) (h : LHdr) : Bool :=
  h.ngrp ≤ ((List.range 160).map fun cl => groupsIn ((List.range 8).map fun i => s.idleRoom x h (8 * cl + i)) h.cgs).foldl (· + ·) 0

/-- Deliver a record to the pool (R348, R349). -/
def deliver (s : State) (x q : Nat) (h : LHdr) : State :=
  let invalid : Nat × Nat × Nat := (1, 0, (Config.noAddr s.tick).toNat)
  let (bad, tiles) : Option (Nat × Nat × Nat) × List (Int × Int × Bool) :=
    if h.bad || (h.kind = 0 && h.phased && !s.fitsIdle x h) then (some invalid, [])
    else match s.readTiles x h with
      | .error e => (some (e.cls, e.detail, e.addr), [])
      | .ok l => (none, l)
  let before := s.queueNodes x q
  let byTile := before.filter fun p => tilesMeet tiles p.2.tiles
  let byCut := before.filter fun p => h.kind = 3 || LHdr.kind p.2.hdr = 3
  let nd : Node := { ctx := x, queue := q, hdr := h, bad := bad, tiles := tiles, deps := ((byTile ++ byCut).map (·.1)).eraseDups,
                     tileDep := byTile != [], nblk := if h.kind = 0 && !h.indir then h.ngrp * h.cgs else 0 }
  let s1 := if bad.isNone && h.kind != 3 then s.agentTouch x 0 h.tilep 0 (32 * h.ntile) else s
  { s1 with nodes := s1.nodes ++ [(tfresh s1.nodes, nd)] }

/-- One step of a slot in FETCH (R342). -/
def slotStep (s : State) (n : Nat) : State :=
  let t := tget {} s.qslots n
  let s := if t.st = .fetch then s.agentTouch t.ctx 0 (s.queueVa t.ctx t.q) 0 24 else s
  if t.st != .fetch then s
  else match s.readQueue t.ctx t.q with
    | .error e => s.queueError n t.ctx t.q e
    | .ok d =>
      if !d.valid || d.rd = d.wr then s.freeSlot n
      else if s.slotBlocked t.ctx t.q then { s with qslots := tset s.qslots n { t with st := .stall } }
      else match s.agentRead t.ctx 0 (d.place d.rd) 0 128 with
        | .error e => s.queueError n t.ctx t.q e
        | .ok bs =>
          if !s.agentReady t.ctx (s.queueVa t.ctx t.q + 16#64) 8 then s else
          match (s.agentTouch t.ctx 0 (d.place d.rd) 0 128).agentWrite noWarp t.ctx (s.queueVa t.ctx t.q + 16#64) 0 (leBytes 8 (d.rd + 1)) with
          | .error e => s.queueError n t.ctx t.q e
          | .ok s1 => s1.deliver t.ctx t.q (BitVec.ofNat 1024 (leNat bs))

end State

def execSlotFetch (n : Nat) (s : State) : Res := .next (s.slotStep n)

/-- QUANTUM_EXPIRE (R342): the quantum of R339 has passed and another queue is pending. -/
def execQuantumExpire (n : Nat) (s : State) : Res :=
  .next (
    let t := tget {} s.qslots n
    if t.st = .free || s.cycle < t.since + (s.ctx t.ctx).quant || s.pendingQueues = [] then s
    else (s.freeSlot n).modCtx t.ctx fun c => { c with pending := c.pending ++ [(t.q, s.cycle)] })

/-- SLOT_UNSTALL (R342). -/
def execSlotUnstall (n : Nat) (s : State) : Res :=
  .next (
    let t := tget {} s.qslots n
    if t.st != .stall || s.slotBlocked t.ctx t.q then s else { s with qslots := tset s.qslots n { t with st := .fetch } })

namespace State

/-! ## Readiness (R350, R351) -/

/-- An error makes a node invalid or faulting. -/
def nodeFails (s : State) (id : Nat) (e : AgentErr) : State := s.modNode id fun n => { n with bad := some (e.cls, e.detail, e.addr) }

/-- The count word of an indirect launch is read (R351). -/
def readCount (s : State) (id : Nat) (nd : Node) : State :=
  let h : LHdr := nd.hdr
  match s.agentRead nd.ctx 0 h.cntp 0 8 with
  | .error e => s.nodeFails id e
  | .ok bs =>
    let c := leNat bs
    let s1 := (s.agentTouch nd.ctx 0 h.cntp 0 8)
    if 2 ^ 32 ≤ c || !(h.rolesFit (some c)) then s1.nodeFails id ⟨1, 0, (Config.noAddr s.tick).toNat⟩
    else s1.modNode id fun n => { n with counted := true, nblk := c * h.cgs }

/-- The launch arguments are read at readiness (R351). -/
def readArgs (s : State) (id : Nat) (nd : Node) : State :=
  let h : LHdr := nd.hdr
  if h.kind != 0 || h.argn = 0 then s
  else match s.agentRead nd.ctx 0 h.argp 0 (8 * h.argn) with
    | .error e => s.nodeFails id e
    | .ok bs => (s.agentTouch nd.ctx 0 h.argp 0 (8 * h.argn)).modNode id fun n =>
        { n with args := (List.range h.argn).map fun i => BitVec.ofNat 64 (leNat ((bs.drop (8 * i)).take 8)) }

end State

/-- NODE_READY (R350): every node it depends on is DONE and every enabled wait is met. Then it reads its arguments and, with predecessors,
its indirect count (R351). -/
def execNodeReady (id : Nat) (s : State) : Res :=
  .next (match s.node? id with
    | none => s
    | some nd =>
      let h : LHdr := nd.hdr
      let met := (h.waits.all fun p => p.2.toNat ≤ s.timeline nd.ctx p.1) && nd.deps.all fun d => (s.node? d).isNone
      if nd.st != .wait || !met || !s.resident nd.ctx then s
      else
        let s1 : State := { s.modNode id (fun n => { n with st := .ready, readyAt := s.rdyOrder }) with
          rdyOrder := s.rdyOrder + 1, code := s.code.filter fun p => p.1 / 2048 != id }
        if nd.bad.isSome || h.kind != 0 then s1
        else
          let s2 := s1.readArgs id nd
          let s3 := if h.indir && (nd.tileDep || h.waits != []) then s2.readCount id nd else s2
          s3.modNode id fun n =>
            if n.bad.isNone && n.nblk != 0 then { n with st := .run } else n)

namespace State

/-- Blocks that have ended give back what they hold (R246, R226, R253, R410). -/
def reap (s : State) : State :=
  (s.blocks.filter fun p => s.blockOver p.1 p.2).foldl (fun s p =>
    let s1 : State := { s with blocks := tdel s.blocks p.1, warps := s.warps.filter fun q => q.2.blk != p.1 }
    let s2 := s1.modNode p.2.node fun n => { n with live := n.live.filter (· != p.1) }
    let mine := p.2.frames.flatMap (fun f => [f.2, f.2 + 1]) ++ (if p.2.st = .saved then (List.range (1 + p.2.fscr)).map (p.2.bunit + ·) else [])
    s2.modCtx p.2.ctx fun c => { c with units := c.units.filter fun u => !mine.contains u }) s

/-! ## Completion of nodes (R352) -/

/-- A node has nothing more to do (R350). -/
def nodeFinished (s : State) (nd : Node) : Bool :=
  let h : LHdr := nd.hdr
  match nd.st with
  | .ready => nd.bad.isSome || h.kind = 3 || (h.kind = 0 && nd.nblk = 0 && (!h.indir || nd.counted))
  | .drain => if h.kind = 0 then nd.live = [] else !nd.busy && !(s.replicas.any fun r => r.owner = noWarp)
  | _ => false

/-- The host lets a node's completion entry be written (R468). -/
def entryReady (s : State) (nd : Node) : Bool := LHdr.cep nd.hdr = 0 || s.agentReady nd.ctx (LHdr.cep nd.hdr) 32

/-- A node's completion: its entry, then its advance; it leaves the pool (R352). -/
def completeNode (s : State) (id : Nat) (nd : Node) : State :=
  let h : LHdr := nd.hdr
  let e := match nd.bad with
    | some (c, d, a) => ({} : ErrRec).add c d 0x693 a
    | none => nd.err
  let s1 := if h.cep = 0 then s else s.writeEntry nd.ctx h.cep e
  let s2 := if h.tle then s1.signal nd.ctx h.tlc h.target else s1
  { s2 with nodes := tdel s2.nodes id }

end State

def execNodeDone (id : Nat) (s : State) : Res :=
  .next (
    let s := s.reap
    match s.node? id with
    | none => s
    | some nd => if s.nodeFinished nd && s.entryReady nd then s.completeNode id nd else s)

/-! ## Jobs and tasks (R355) -/

/-- The engine whose queue is shortest; ties go to the lower cluster of a die, then to the lower die (R355). -/
def State.shortestEngine (s : State) : Nat :=
  let order := (List.range 20).flatMap fun cl => (List.range 8).map fun d => 20 * d + cl
  let len := fun (e : Nat) => (tget [] s.conv e).length
  order.foldl (fun best e => if len e < len best then e else best) 0

/-- CONV_NODE_DISPATCH (R355): the job record lies at virtual address ENTRY. -/
def execConvNodeDispatch (id : Nat) (s : State) : Res :=
  .next (match s.node? id with
    | none => s
    | some nd =>
      let h : LHdr := nd.hdr
      let e := s.shortestEngine
      if nd.st != .ready || nd.bad.isSome || h.kind != 2 || !s.resident nd.ctx || convRoom ≤ (tget [] s.conv e).length then s
      else match s.agentRead nd.ctx (e / 20) h.entry 0 128 with
        | .error x => s.nodeFails id x
        | .ok bs =>
          let j : ConvJob := { ctx := nd.ctx, core := 8 * e, blk := none, place := h.entry.toNat, node := some id,
                               fields := BitVec.ofNat 768 (leNat (bs.take 96)) }
          let s1 := s.agentTouch nd.ctx (e / 20) h.entry 0 128
          let s2 : State := { s1 with conv := tset s1.conv e (tget [] s1.conv e ++ [j]) }
          s2.modNode id fun n => { n with st := .drain, busy := true })

/-- SEAM_NODE_DISPATCH (R355, R372). -/
def execSeamNodeDispatch (id : Nat) (s : State) : Res :=
  .next (match s.node? id with
    | none => s
    | some nd =>
      let h : LHdr := nd.hdr
      if nd.st != .ready || nd.bad.isSome || h.kind != 1 || !s.resident nd.ctx || 256 ≤ s.seamQueue then s
      else match s.agentRead nd.ctx 0 h.entry 0 128 with
        | .error x => s.nodeFails id x
        | .ok bs => ((s.agentTouch nd.ctx 0 h.entry 0 128).addTask nd.ctx (some id) bs).modNode id fun n => { n with st := .drain, busy := true })

end Sys2Proof.Machine
end

