-- ==== Sys2Proof/Machine/Fetch.lean ====
section
/-!
DEFINITION. Fetching an instruction of a warp or foreman (R25, R141, R328, R450) and what happens at an instruction boundary before the
next instruction issues (R139, R312, R396, R407).
-/

namespace Sys2Proof.Machine

/-- The outermost active loop whose body holds the pc (R141). -/
def Warp.outerLoop (w : Warp) : Option Loop :=
  let inside := w.lc.filter fun (l : Loop) => l.active && l.start.toNat ≤ w.pc.toNat && w.pc.toNat < l.stop.toNat
  inside.foldl (fun best l => match best with
    | none => some l
    | some b => if b.stop.toNat - b.start.toNat < l.stop.toNat - l.start.toNat then some l else some b) none

/-- The lowest byte of an instruction that cannot be fetched, with the class and cause of the trap, or the physical address of each byte (R25,
R328; the roof range, R252: log entry 77). -/
def State.fetchAddrs (s : State) (core x die : Nat) (pc : Word) (sup : Bool) (n : Nat) : Except (Nat × Nat × Word) (List Nat) :=
  (List.range n).foldl (fun acc i =>
    match acc with
    | .error e => .error e
    | .ok l =>
      let ea := pc + BitVec.ofNat 64 i
      match s.translate core x ea 0 .fetch sup with
      | .error (c, va) => .error (2, c, va)
      | .ok p =>
        if s.roofFault p.pa then .error (19, 0, s.offsetVa x ea 0)
        else
          let pa := if Leaf.prop p.leaf then p.pa + die * s.replicaStride core x ea 0 else p.pa
          .ok (l ++ [pa])) (.ok [])

/-- The key of a warp's code: its core and its launch (R46: a new launch meets no code older than its predecessors). -/
def State.codeKey (s : State) (w : Warp) : Nat := w.core + 2048 * (match s.block? w.blk with | some b => b.node | none => 0)

/-- The copy of a line of code that a core's fetch uses instead of memory: one it has, unless the fetch takes the newest (R46). -/
def State.oldCode (s : State) (key line : Nat) : Option (List Byte) :=
  match tfind (tget [] s.code key) line with
  | none => none
  | some l => if Config.codeFresh s.tick line then none else some l

/-- A byte of code as a core's fetch finds it (R46). -/
def State.codeByte (s : State) (key a : Nat) : Byte :=
  match s.oldCode key (a / 128 * 128) with
  | some l => l.getD (a % 128) 0
  | none => s.mem.read (s.home a)

/-- A fetch meets poison: in a line that it takes from memory. -/
def State.codePoisoned (s : State) (key a : Nat) : Bool := (s.oldCode key (a / 128 * 128)).isNone && s.poisoned a 1

/-- The core keeps the lines a fetch took from memory (R46), and the translations the fetch used (R329). -/
def State.keepCode (s : State) (key core x : Nat) (pc : Word) (as : List Nat) : State :=
  let lines := (as.map fun a => a / 128 * 128).eraseDups
  let code := lines.foldl (fun t l => match s.oldCode key l with
    | some _ => t
    | none => tset t l (s.physRead l 128)) (tget [] s.code key)
  [0, 11].foldl (fun s i => s.fillTlb core x (pc + BitVec.ofNat 64 i) 0) { s with code := tset s.code key code }

/-- What the front of a warp finds at its pc. -/
inductive Front where
  | word (w : BitVec 96)
  | trap (t : TrapReq)
  | poisoned
  deriving DecidableEq, Repr

/-- Fetch the word at the pc of a warp: from the loop buffer while a loop runs from it (R141), else from memory. -/
def State.fetch (s : State) (w : Warp) : Front :=
  if w.pc.toNat % 4 != 0 then .trap { cls := 1 }
  else
    match (if w.outerLoop.isSome then tfind w.loopBuf w.pc.toNat else none) with
    | some x => .word x
    | none =>
      match s.fetchAddrs w.core w.ctx (dieOf w.core) w.pc w.sup 12 with
      | .error (k, c, va) => .trap { cls := k, cause := c, detail := va }
      | .ok as =>
        if as.any fun a => s.codePoisoned (s.codeKey w) a then .poisoned
        else .word (BitVec.ofNat 96 (leNat (as.map fun a => s.codeByte (s.codeKey w) a)))

/-- A word fetched inside a loop is kept in the loop buffer (R141); the buffer is empty once no loop is active. A trap handler leaves the
interrupted loop's words. -/
def Warp.keepWord (w : Warp) (x : BitVec 96) : Warp :=
  if w.outerLoop.isSome then (if (tfind w.loopBuf w.pc.toNat).isSome then w else { w with loopBuf := tset w.loopBuf w.pc.toNat x })
  else if w.sup || w.lc.any (fun l => l.active) then w
  else { w with loopBuf := [] }

/-- What a fetch from memory leaves behind: the core's copies of the code and its translations, and the word in the loop buffer. -/
def State.fetched (s : State) (w : Warp) (x : BitVec 96) : State :=
  let buffered := w.outerLoop.isSome && (tfind w.loopBuf w.pc.toNat).isSome
  let s1 := match buffered, s.fetchAddrs w.core w.ctx (dieOf w.core) w.pc w.sup 12 with
    | false, .ok as => s.keepCode (s.codeKey w) w.core w.ctx w.pc as
    | _, _ => s
  s1.modWarp w.key fun w => w.keepWord x

/-- A fault that may be delivered now: one of an access issued in user mode while the warp is in user mode, or one issued in supervisor
mode (R396, R399). -/
def Warp.faultDue (w : Warp) : Bool := w.pendingFaults.any fun p => p.1.sup || !w.sup

/-- An OUT warp joins the active set when it holds fewer than 8 and no other OUT warp of the core has been out longer (R359). -/
def State.joinActive (s : State) (w : Warp) : State :=
  let peers := (s.warps.map (·.2)).filter fun x => x.core = w.core && !x.foreman && x.key != w.key
  let full := 8 ≤ (peers.filter fun x => x.st = .act).length
  let later := peers.any fun x => x.st = .out && (x.waitSince < w.waitSince || (x.waitSince = w.waitSince && x.slot < w.slot))
  if full || later then s else s.putWarp { w with st := .act, waitSince := s.coreCycle w.core }

/-- A warp or foreman of a block that must yield, still running after the deadline cycle (R407). -/
def State.overdue (s : State) (w : Warp) : Bool :=
  match s.block? w.blk with
  | some b => b.preq.getLsbD 0 && b.deadline < s.coreCycle w.core
  | none => false

/-- The agent a warp or foreman is. -/
def Warp.agent (w : Warp) : Agent := if w.foreman then .foreman w.core else .warp w.core w.slot

/-- A blocking read of the instruction at the pc has its bytes: the instruction completes before an abort is taken (R312). -/
def Warp.readBack (w : Warp) : Bool := w.log.any fun (e : LogEntry) => e.acc = .windowLoad && e.blob != [] && e.pc = w.pc

/-- The boundary event that comes before the next instruction of a warp, if it is time for one: a demotion at the target of a transfer (R80), a
loop back (R139), the abort of its transaction once what it has issued is complete (R312), a forced save (R407). -/
noncomputable def State.boundary (s : State) (w : Warp) : Option Instr :=
  if 1024 ≤ w.canCount then some (.canaryDemote w.core w.slot)
  else if w.loopDue then some (.loopBack w.core w.slot)
  else match w.tx.bind (·.pending) with
    | some (c, _, a) =>
      if w.txQuiet && w.trapDue.isNone then some (.txConflict w.core w.slot (if c = 1 then a.toNat else 0))
      else none
    | none => if s.overdue w && w.trapDue.isNone then some (.forcedSave w.agent) else none

/-- The next instruction of a warp does not issue yet: a trap or a fault is to be delivered, or a transaction to be aborted. -/
def State.boundaryWait (w : Warp) : Bool := w.trapDue.isSome || w.faultDue || ((w.tx.bind (·.pending)).isSome && !w.readBack)

/-- What a warp or foreman does when it is its turn: the instruction or boundary event that runs next, or the machine as the front end
leaves it. A warp one of whose ordered contributions waits for room waits with it (R271). -/
noncomputable def State.frontWarp (s : State) (w : Warp) : State × Option Instr :=
  match s.boundary w with
  | some i => (s, some i)
  | none =>
    if State.boundaryWait w then
      if !s.settled w then (s, none)
      else match w.trapDue with
        | some (t, pc, back) => (s.enterHandler w t pc back, none)
        | none => if w.faultDue then (s, some (.trapDeliver w.core (if w.foreman then foremanSlot else w.slot))) else (s, none)
    else if w.st = .wait || w.log.any (·.full) then (s, none)
    else if w.st = .out then (s.joinActive w, none)
    else match s.fetch w with
      | .trap t => (s.takeTrap w t w.pc, none)
      | .poisoned =>
        let s1 := w.slots.foldl (fun s m => s.killLanes w.key m (~~~0#96) 6 w.pc.toNat) s
        ((s1.modWarp w.key w.pathCheck).finishWarp w.key, none)
      | .word x =>
        let s1 := s.fetched w x
        match decodeJarja x with
        | .error _ => (s1.takeTrap ((s1.warp? w.key).getD w) { cls := 0 } w.pc, none)
        | .ok i => if placeOk w.foreman i then (s1, some i) else (s1.takeTrap ((s1.warp? w.key).getD w) { cls := 0 } w.pc, none)

/-- The rate of a die's clock in tenths of the reference clock's: VF steps 0–3 run it at 1.5, 1.35, 1.2 and 1.05 GHz (R2, R479). -/
def State.dieRate (s : State) (die : Nat) : Nat := 10 - ((tget 0 s.pcap die).extractLsb' 40 2).toNat

/-- Time passes (log entry 2): the step count that draws free values, the reference cycles, and the cycles of each die's own clock (R2). -/
def State.tickOn (s : State) : State :=
  { s with
    tick := s.tick + 1, cycle := s.cycle + Config.cyclesAt s.tick,
    dieTime := (List.range 8).map fun d => s.dieTime.getD d 0 + Config.cyclesAt s.tick * s.dieRate d }

end Sys2Proof.Machine
end

