-- ==== Sys2Proof/Machine/Control.lean ====
section
/-!
DEFINITION. The control family: branches (R84), exit (R85), split, arrive, join and the rejoin registers (R65–R67, R86–R88), melded blocks
(R70–R75, R89), the path register (R91), lane tests and counts (R92), masks (R93–R95), lane exchanges (R96), the canary (R80).
-/

namespace Sys2Proof.Machine

/-- The target of a form C word (R30). -/
def FormC.target (f : FormC) (pc : Word) : Word := pc + 12#64 * f.disp.signExtend 64

/-- Bits of the control operand (R30). -/
def FormC.ctlNat (f : FormC) (lo n : Nat) : Nat := (f.ctl.extractLsb' lo n).toNat

/-! ## Branches (R84) -/

def execBra (f : FormC) (s : State) : Res := warpOp s fun w => unlessNever f.h w (.jump { w with pc := FormC.target f w.pc })

def execBrs (f : FormC) (s : State) : Res :=
  warpOp s fun w => w.checked f.h (w.needs [(f.a, 1)]) false false (unlessNever f.h w (
    if (w.scl 0 f.a != 0) != f.ctl.getLsbD 0 then .jump { w with pc := FormC.target f w.pc } else .fall w))

def execBrzEm (f : FormC) (s : State) : Res :=
  warpOp s fun w => unlessNever f.h w (
    if w.active.all fun m => ((w.bank m).em &&& (w.bank m).live) == 0 then .jump { w with pc := FormC.target f w.pc } else .fall w)

def execCall (f : FormC) (s : State) : Res :=
  warpOp s fun w => w.checked f.h (w.needsDst 1 f.dst) false false (unlessNever f.h w (
    .jump { w.sput 0 f.dst.num (w.pc + 12#64) with pc := FormC.target f w.pc }))

def execJmp (f : FormC) (s : State) : Res :=
  warpOp s fun w => w.checked f.h (w.needs [(f.a, 1)]) false false (unlessNever f.h w (
    let t := w.scl 0 f.a
    if t.toNat % 4 != 0 then .trap w { cls := 1 } else .jump { w with pc := t }))

def execNop (_ : FormC) (s : State) : Res := warpOp s fun w => .fall w

/-! ## Exit (R85, R63, R109) -/

def execExit (f : FormC) (s : State) : Res :=
  warpOpNT s fun w =>
    let w1 := w.eachActive fun m b => b.exit (w.part f.h m)
    if w1.pathAlive then .fall w1 else .switch w1.endPath

/-! ## Rejoin registers (R65–R67, R86–R88) -/

/-- What `split` finds in each slot: MASK, the lanes that leave, the lanes that stay (R86). -/
def splitSets (w : Warp) (g : Nat) (neg : Bool) : List (LaneMask × LaneMask × LaneMask) :=
  w.slots.map fun m =>
    let b := w.bank m
    if w.mm.getLsbD m then
      let e := b.em &&& b.live
      let c := if neg then ~~~(w.gmask m g) else w.gmask m g
      (e, e &&& c, e &&& ~~~c)
    else (0, 0, b.em)

def execSplit (f : FormC) (s : State) : Res :=
  warpOpNT s fun w =>
    let k := FormC.ctlNat f 0 3
    w.checked f.h (w.needs [(f.a, 1)]) false false (unlessNever f.h w (
    if w.jmBusy.getLsbD k then .trap w { cls := 8 }
    else
      let sets := splitSets w f.a.spec.num (f.ctl.getLsbD 3)
      let armed := w.eachSlot fun m b =>
        { b with jmMask := tset b.jmMask k (sets.getD m (0, 0, 0)).1, jmArr := tset b.jmArr k 0 }
      let armed : Warp := { armed with jmBusy := armed.jmBusy ||| (1#8 <<< k) }
      let leave := sets.map (·.2.1)
      let stay := sets.map (·.2.2)
      if leave.all (· == 0) then .fall armed
      else if w.active.all fun m => stay.getD m 0 == 0 then
        .jump { armed.eachActive fun m b => b.setEm (leave.getD m 0) with pc := FormC.target f w.pc }
      else if w.pathsFull then .trap w { cls := 7 }
      else .fall ((armed.pushPath .deferred (FormC.target f w.pc) leave).loadEm stay)))

def execArrive (f : FormC) (s : State) : Res :=
  warpOpNT s fun w =>
    let k := FormC.ctlNat f 0 3
    .fall (if w.jmBusy.getLsbD k then
      w.eachActive fun m b => { b with jmArr := tset b.jmArr k (tget 0 b.jmArr k ||| w.part f.h m) } else w)

/-- Reach a join: it completes, or the path parks (R66). -/
def reachJoin (w : Warp) (k : PathKind) : WRes :=
  if w.joinComplete k w.ems then .fall (w.completeJoin k)
  else if w.pathsFull then .trap w { cls := 7 }
  else .switch (w.park k)

def execJoin (f : FormC) (s : State) : Res :=
  warpOpNT s fun w => unlessNever f.h w (
    let k := FormC.ctlNat f 0 3
    if w.jmBusy.getLsbD k then reachJoin w (.parkedJm k) else .fall w)

def execJmclr (f : FormC) (s : State) : Res :=
  warpOpNT s fun w => unlessNever f.h w (
    let k := FormC.ctlNat f 0 3
    let w1 : Warp := { w with paths := w.paths.map fun e => if e.kind = .parkedJm k then { e with kind := .deferred, pc := e.pc + 12#64 } else e }
    .fall (w1.freeJm k))

/-- The word a selector of `jmrd` and `jmwr` names (R88): MASK 0–2, ARR 3–5. -/
def jmWord (b : Bank) (k sel : Nat) : Word :=
  (if sel < 3 then (tget 0 b.jmMask k).extractLsb' (32 * sel) 32 else (tget 0 b.jmArr k).extractLsb' (32 * (sel - 3)) 32).setWidth 64

/-- One 32-bit word of a lane mask replaced. -/
def putWord32 (m : LaneMask) (i : Nat) (v : Lane32) : LaneMask :=
  (m &&& ~~~((0xFFFFFFFF#96) <<< (32 * i))) ||| (v.setWidth 96 <<< (32 * i))

def execJmrd (f : FormC) (s : State) : Res :=
  warpOp s fun w =>
    let k := FormC.ctlNat f 0 3
    let sel := FormC.ctlNat f 3 3
    w.sclOp f.h f.dst [] true fun m => if sel = 6 then (if w.jmBusy.getLsbD k then 1 else 0) else jmWord (w.bank m) k sel

def execJmwr (f : FormC) (s : State) : Res :=
  warpOpNT s fun w =>
    let k := FormC.ctlNat f 0 3
    let sel := FormC.ctlNat f 3 3
    w.checked f.h (w.needs [(f.a, 1)]) false false (unlessNever f.h w (
    if sel = 6 then
      if w.active = [] && !w.common? f.a.spec then .fall w
      else if (w.scl (w.active.headD 0) f.a).getLsbD 0 then .fall { w with jmBusy := w.jmBusy ||| (1#8 <<< k) }
      else .fall (w.freeJm k)
    else .fall (w.eachActive fun m b =>
      let v := (w.scl m f.a).extractLsb' 0 32
      if sel < 3 then { b with jmMask := tset b.jmMask k (putWord32 (tget 0 b.jmMask k) sel v) }
      else { b with jmArr := tset b.jmArr k (putWord32 (tget 0 b.jmArr k) (sel - 3) v) })))

/-! ## Melded blocks (R70–R75, R89) -/

/-- The four forms of the Jarja word (R26). -/
inductive Form where
  | r | i | m | c
  deriving DecidableEq, Repr

/-- The form of an opcode (R26). -/
def formOf (o : Nat) : Form :=
  if o ≤ 0x00F || o = 0x062 || (0x174 ≤ o && o ≤ 0x176) || o = 0x190 then .c
  else if o = 0x040 || o = 0x041 || o = 0x06A || o = 0x0C5 || o = 0x18C then .i
  else if o = 0x010 || o = 0x011 || o = 0x064 || (0x0E6 ≤ o && o ≤ 0x0EB) || o = 0x112 || (0x120 ≤ o && o ≤ 0x14B && o != 0x138) ||
    o = 0x163 || (0x168 ≤ o && o ≤ 0x16C) || o = 0x180 || o = 0x18B || o = 0x191 || o = 0x198 || o = 0x199 then .m
  else .r

/-- The fields of a word that R72 and R75 look at. -/
def wordOpc (x : BitVec 96) : Nat := (x.extractLsb' 0 9).toNat
def wordDisp (x : BitVec 96) : Word := (x.extractLsb' 78 18 ++ x.extractLsb' 45 10).signExtend 64

/-- A specifier field names s253–s255, or `mm` (R72 item 4). -/
def namesMask (f : BitVec 10) : Bool := (0x1FD ≤ f && f ≤ 0x1FF) || f == 0x229

/-- A word that keeps its block out of melded mode (R72 items 2–5). -/
def forcesSerial (x : BitVec 96) : Bool :=
  let o := wordOpc x
  let ma := x.extractLsb' 33 12 != 0
  let mb := x.extractLsb' 55 12 != 0
  let modified := match formOf o with
    | .r => ma || mb
    | .i | .c => ma
    | .m => mb
  let third := o = 0x043 || (0x160 ≤ o && o ≤ 0x162) || (0x10C ≤ o && o ≤ 0x110)
  let names := namesMask (x.extractLsb' 13 10) || namesMask (x.extractLsb' 23 10) ||
    ((formOf o = .r || formOf o = .m) && namesMask (x.extractLsb' 45 10)) || (third && namesMask (x.extractLsb' 78 10))
  (1 ≤ o && o ≤ 0x020 && o != 0x007 && o != 0x006 && o != 0x012 && o != 0x01B) || modified || names || (0x021 ≤ o && o ≤ 0x02C) ||
    o = 0x08C || o = 0x099 || o = 0x0C0

/-- A word that a melded block may not hold, at `pc` in a block that starts at `start` and holds `n` words (R75). -/
def badInBlock (start pc : Word) (n : Nat) (x : BitVec 96) : Bool :=
  let o := wordOpc x
  let t := (pc + 12#64 * wordDisp x).toNat
  o = 0x00E || o = 0x00F || o = 0x004 || o = 0x005 || o = 0x010 || o = 0x013 ||
    ((o = 0x001 || o = 0x002 || o = 0x003 || o = 0x008 || o = 0x190) && (t < start.toNat + 12 || start.toNat + 12 * (n + 1) < t))

/-- The block's words and the `unmeld` after them, or the first fault of their fetch. -/
def State.fetchBlock (s : State) (w : Warp) (n : Nat) : Except (Nat × Nat × Word) (List (BitVec 96)) :=
  (List.range (n + 1)).foldl (fun acc i =>
    match acc with
    | .error e => .error e
    | .ok l =>
      match s.fetchAddrs w.core w.ctx (dieOf w.core) (w.pc + BitVec.ofNat 64 (12 * (i + 1))) w.sup 12 with
      | .error e => .error e
      | .ok as => .ok (l ++ [BitVec.ofNat 96 (leNat (as.map fun a => s.codeByte (s.codeKey w) a))])) (.ok [])

/-- Meld-buffer entries in use on a core: 128 shared by its warps (R72). -/
def State.meldUsed (s : State) (core : Nat) : Nat :=
  ((s.warps.map (·.2)).filter fun w => w.core = core && w.meld.opened && !w.meld.serial).foldl (fun n w => n + w.meld.n) 0

/-- Open the block: `pr` of the active members, the entry masks, and the first path (R70, R72, R89). With no live lane no path runs the block
(R70, R73): the warp goes on after `unmeld`. -/
def Warp.openMeld (w : Warp) (ga gb : Nat) (two : Bool) (n : Nat) (serial : Bool) : WRes :=
  let w1 := w.eachActive fun m b =>
    let l := b.em &&& b.live
    let hi := if two then 0 else w.gmask m gb
    { b with prLo := (b.prLo &&& ~~~l) ||| (w.gmask m ga &&& l), prHi := (b.prHi &&& ~~~l) ||| (hi &&& l) }
  let w2 : Warp := { w1 with
    meld := { opened := true, start := w.pc, n := n, serial := serial, since := w.nextSeq, entry := w1.slots.map fun m => (w1.bank m).em &&& (w1.bank m).live,
              arrived := [] },
    pathev := if serial then bump16 w1.pathev 32 1 else w1.pathev }
  match w2.meldPaths with
  | [] => .switch w2.pastUnmeld.closeMeld
  | p :: rest =>
    if serial then
      if 64 < w.paths.length + rest.length then .trap w { cls := 7 }
      else
        let w3 := rest.reverse.foldl (fun w q => w.pushPath .deferred (w2.pc + 12#64) (w2.meldLanes q)) w2
        .fall (w3.loadEm (w2.meldLanes p))
    else .fall ({ w2 with meld := { w2.meld with cur := p } }.loadEm (w2.meldLanes p))

def execMeld (f : FormC) (s : State) : Res :=
  machineOpNT s fun s w =>
    if Warp.never f.h then (s, .fall w)
    else if w.log.any fun e => e.acc = .tableLoad then (s, .wait .log)
    else if w.meld.opened then (s, .trap w { cls := 6 })
    else
      let n := FormC.ctlNat f 4 6 + 1
      match s.fetchBlock w n with
      | .error (k, c, va) => (s, .trap w { cls := k, cause := c, detail := va })
      | .ok ws =>
        let body := ws.take n
        let bad := (List.range n).any fun i => badInBlock w.pc (w.pc + BitVec.ofNat 64 (12 * (i + 1))) n (body.getD i 0)
        if wordOpc (ws.getD n 0) != 0x00F || bad then (s, .trap w { cls := 6 })
        else
          let serial := 128 < s.meldUsed w.core + n || body.any forcesSerial
          (s, w.openMeld f.a.spec.num (FormC.ctlNat f 0 3) (f.ctl.getLsbD 3) n serial)

def execUnmeld (f : FormC) (s : State) : Res :=
  warpOpNT s fun w =>
    if Warp.never f.h then .fall w
    else if !w.meld.opened then .trap w { cls := 6 }
    else if w.meld.serial then
      reachJoin w.meldArrive .parkedMeld
    else .switch w.meldAdvance

/-! ## The path register (R91) -/

def execPrrd (f : FormR) (s : State) : Res :=
  warpOp s fun w => w.vecOp f.h f.dst 1 [] true fun m l => [BitVec.ofNat 32 ((w.bank m).path l)]

def execPrwr (f : FormR) (s : State) : Res :=
  warpOp s fun w => w.checked f.h (w.needs [(f.a, 1)]) false false (
    .fall ((w.eachActive fun m b =>
      let t := w.part f.h m
      let bit := fun (i : Nat) => LaneMask.ofPred fun l => t.getLsbD l && (w.int32 m f.a l).getLsbD i
      { b with prLo := (b.prLo &&& ~~~t) ||| bit 0, prHi := (b.prHi &&& ~~~t) ||| bit 1 }).noteDead f.h [(f.a, 1)]))

/-! ## Lane tests, counts and masks (R92–R95) -/

/-- The lanes of T where the predicate operand holds (R92). -/
def laneQ (w : Warp) (f : FormR) (m : Nat) : LaneMask := w.part f.h m &&& w.gmask m f.a.spec.num

def execGany (f : FormR) (s : State) : Res :=
  warpOp s fun w => w.predOp f.h f.dst [(f.a, 1)] fun m _ => laneAny (w.part f.h m) (laneQ w f m)

def execGall (f : FormR) (s : State) : Res :=
  warpOp s fun w => w.predOp f.h f.dst [(f.a, 1)] fun m _ => laneAll (w.part f.h m) (laneQ w f m)

def execGsame (f : FormR) (s : State) : Res :=
  warpOp s fun w => w.predOp f.h f.dst [(f.a, 1)] fun m _ => laneSame (w.part f.h m) (laneQ w f m)

/-- A per-lane guard with a scalar result: it is written whatever the guard leaves (R92). -/
def openGuard (h : Hdr) : Hdr := { h with gp := 7, gn := false }

def execGcount (f : FormR) (s : State) : Res :=
  warpOp s fun w => w.sclOp (openGuard f.h) f.dst [(f.a, 1)] true fun m => BitVec.ofNat 64 (laneQ w f m).count

def execGmask (f : FormR) (s : State) : Res :=
  warpOp s fun w => w.sclOp (openGuard f.h) f.dst [(f.a, 1)] true fun m => ((laneQ w f m).extractLsb' (32 * f.x.toNat) 32).setWidth 64

def execGlow (f : FormR) (s : State) : Res :=
  warpOp s fun w => w.sclOp (openGuard f.h) f.dst [(f.a, 1)] true fun m => BitVec.ofNat 64 ((laneQ w f m).toList.headD 96)

def execPfrom (f : FormR) (s : State) : Res :=
  warpOp s fun w =>
    let lo := 32 * f.x.toNat
    w.checked f.h (w.needs [(f.a, 1)]) false false (
      .fall (w.active.foldl (fun w1 m =>
        let t := w.part f.h m &&& (0xFFFFFFFF#96 <<< lo)
        w1.gput m f.dst.num t (((w.scl m f.a).extractLsb' 0 32).setWidth 96 <<< lo)) w))

def execLaneid (f : FormR) (s : State) : Res :=
  warpOp s fun w => w.vecOp f.h f.dst 1 [] false fun _ l => [BitVec.ofNat 32 l]

def execEmand (f : FormR) (s : State) : Res :=
  warpOp s fun w => w.checked f.h (w.needs [(f.a, 1)]) false false (unlessNever f.h w (
    .fall (w.eachActive fun m b => b.setEm (b.em &&& b.live &&& w.gmask m f.a.spec.num))))

/-! ## Lane exchanges (R96) -/

/-- A lane exchange: `src m l` is the lane a value comes from, or none for the fill. A source lane that is dead gives zero and sets WSTAT.DSRC,
as does a dead lane that the modifier of va reads for it (R37, R96). -/
def laneExchange (w : Warp) (f : FormR) (src : Nat → Nat → Option Nat) : WRes :=
  let c := thirdSrc f.x
  let d := w.xlat f.dst.num
  let once := !w.anyPrivate [f.a, f.b, c]
  let gone := fun (m l : Nat) => match src m l with
    | some k => (w.bank m).dead.getLsbD k || (w.bank m).dead.getLsbD (Warp.modLane f.a.mod k)
    | none => false
  let bad := fun (m : Nat) => w.part f.h m &&& LaneMask.ofPred fun l => match src m l with
    | some k => !gone m l && w.badAt m f.a.spec (Warp.modLane f.a.mod k)
    | none => w.badAt m c.spec l
  w.checked f.h (w.needsPicked f.a ++ w.needs [(f.b, 1)] ++ w.needsPicked c ++ w.needsDst 1 f.dst) false
    (w.commonV d && !once) (w.sparing bad (
    let w1 := w.vecWrite f.h d 1 (w.valuesOf f.h once fun m l => match src m l with
      | none => [w.int32 m c l]
      | some k => if gone m l then [0] else [w.int32 m f.a k])
    .fall (w1.dsrc (w.laneTest f.h once fun m l => gone m l || (f.b.mod != 0 && (w.bank m).dead.getLsbD (Warp.modLane f.b.mod l))))))

/-- The segment size a lane exchange names in X[12:10]. -/
def exchangeSeg (f : FormR) : Nat := segSize (f.x.extractLsb' 10 3).toNat

def execLperm (f : FormR) (s : State) : Res :=
  warpOp s fun w => laneExchange w f fun m l =>
    let k := (w.int32 m f.b l).toNat
    if k < 96 then some k else none

def execLrise (f : FormR) (s : State) : Res :=
  warpOp s fun w => laneExchange w f fun m l =>
    let d := (w.scl m f.b).toNat
    if d ≤ l % exchangeSeg f then some (l - d) else none

def execLfall (f : FormR) (s : State) : Res :=
  warpOp s fun w => laneExchange w f fun m l =>
    let d := (w.scl m f.b).toNat
    if l % exchangeSeg f + d < exchangeSeg f then some (l + d) else none

def execLswap (f : FormR) (s : State) : Res :=
  warpOp s fun w => laneExchange w f fun m l =>
    let k := (l % exchangeSeg f) ^^^ (w.scl m f.b).toNat
    if k < exchangeSeg f then some (l - l % exchangeSeg f + k) else none

/-! ## The canary (R80) -/

/-- Demote the current path behind every deferred one, when there is one. -/
def Warp.demote (w : Warp) : Warp :=
  let w0 : Warp := { w with canCount := 0 }
  if w.tx.isSome || !(w.paths.any fun e => e.kind = .deferred) then w0
  else
    let e : PathEntry := ⟨.deferred, w.pc, w.ems, w.nextAge⟩
    let w1 : Warp := { w0 with
      paths := e :: w.paths, nextAge := w.nextAge + 1,
      pathev := bump16 (if 8 ≤ w.paths.length then bump16 w.pathev 0 1 else w.pathev) 16 1 }
    w1.nextPath

def execCanaryDemote (c k : Nat) (s : State) : Res :=
  .next (s.modWarp (warpKey c k) fun w => if 1024 ≤ w.canCount then w.demote else w)

end Sys2Proof.Machine
end

