-- ==== Sys2Proof/Machine/Streams.lean ====
section
/-!
DEFINITION. Loops (R138–R140, R152), streams (R131–R136, R153) and register blocks (R120–R124, R154).
-/

namespace Sys2Proof.Machine

/-! ## Loops (R139, R140, R152) -/

/-- The counter a class 2 specifier 0x210–0x212 names (R32). -/
def lcOf (d : Spec) : Nat := d.num - 0x10

def execLoop (f : FormC) (s : State) : Res :=
  warpOp s fun w => w.checked f.h (w.needs [(f.a, 1)]) false false (unlessNever f.h w (
    let k := FormC.ctlNat f 0 2
    let n := f.disp.toInt - 1
    let stop := FormC.target f w.pc
    let beyond := w.lc.any fun l => l.active && l.start.toNat ≤ w.pc.toNat && w.pc.toNat < l.stop.toNat && l.stop.toNat < stop.toNat
    if w.meld.opened || (w.lc.getD k {}).active || n < 1 || 256 < n || beyond then .trap w { cls := 9 }
    else
      let c := (w.scl 0 f.a).extractLsb' 0 32
      if c = 0 then .jump { w with pc := stop }
      else
        -- the first iteration of an outermost loop is fetched from memory (R141)
        let buf := if w.outerLoop.isSome then w.loopBuf else w.loopBuf.filter fun p => !(w.pc.toNat ≤ p.1 && p.1 < stop.toNat)
        .fall { w with lc := lset w.lc k ⟨true, 0, c, w.pc + 12#64, stop, w.nextAge⟩, loopBuf := buf }))

/-- The innermost active loop that ends at the pc (R139). -/
def Warp.innerLoop (w : Warp) : Option Nat :=
  ((List.range 3).filter fun k => (w.lc.getD k {}).active && (w.lc.getD k {}).stop == w.pc).foldl (fun best k =>
    match best with
    | none => some k
    | some b => if (w.lc.getD b {}).start.toNat < (w.lc.getD k {}).start.toNat then some k else some b) none

/-- Consider the loop back, from the innermost loop outward (R139): the warp after it, and whether the loop-form trap is raised. -/
def Warp.loopBack (w : Warp) : Nat → Warp × Bool
  | 0 => ({ w with loopDue := false }, false)
  | n + 1 =>
    match w.innerLoop with
    | none => ({ w with loopDue := false }, false)
    | some k =>
      let l := w.lc.getD k {}
      if w.splitSince l.mark then ({ w with loopDue := false }, true)
      else
        let i := l.index + 1
        if i.toNat < l.count.toNat then
          ({ w with lc := lset w.lc k { l with index := i, mark := w.nextAge }, pc := l.start, loopDue := false }, false)
        else loopBack { w with lc := lset w.lc k { l with index := i, active := false } } n

/-- LOOP_BACK (R139, R140): the trap is charged to the loop back, with the pc at `end`. -/
def execLoopBack (c k : Nat) (s : State) : Res :=
  .next (match s.warp? (warpKey c k) with
    | none => s
    | some w =>
      if !w.loopDue then s
      else match w.loopBack 4 with
        | (w1, true) => s.takeTrap w1 { cls := 9 } w1.pc true
        | (w1, false) => s.putWarp w1)

def execLcrd (f : FormR) (s : State) : Res :=
  warpOp s fun w => w.sclOp f.h f.dst [] false fun _ =>
    let l := w.lc.getD (lcOf f.a.spec) {}
    match f.x.toNat with
    | 0 => l.index.setWidth 64
    | 1 => l.count.setWidth 64
    | _ => if l.active then 1 else 0

/-! ## Streams (R131–R136) -/

namespace Stream

def count (t : Stream) (i : Nat) : Nat := (t.entry.extractLsb' (256 + 32 * i) 32).toNat
def stride (t : Stream) (i : Nat) : Word := t.entry.extractLsb' (64 + 64 * i) 64
def total (t : Stream) : Nat := t.count 0 * t.count 1 * t.count 2
def size (t : Stream) : Nat := if t.entry.getLsbD 352 then 8 else 4
def isVector (t : Stream) : Bool := t.entry.getLsbD 354
def isWrite (t : Stream) : Bool := t.entry.getLsbD 355
def wraps (t : Stream) : Bool := t.entry.getLsbD 356

/-- The address of element `p` (R132). -/
def addr (t : Stream) (p : Nat) : Word :=
  let i0 := p % t.count 0
  let i1 := p / t.count 0 % t.count 1
  let i2 := p / (t.count 0 * t.count 1)
  (t.entry.extractLsb' 0 56).setWidth 64 + BitVec.ofNat 64 i0 * t.stride 0 + BitVec.ofNat 64 i1 * t.stride 1 + BitVec.ofNat 64 i2 * t.stride 2

/-- A binding R131 calls valid. -/
def valid (t : Stream) : Bool := t.total != 0 && !t.entry.getLsbD 353 && !(t.isVector && t.entry.getLsbD 352)

/-- Advance by one element (R132). -/
def advance (t : Stream) : Stream :=
  let p := t.pos + 1
  let t : Stream := { t with ready := t.ready - 1, ahead := t.ahead.tail }
  if p = t.total then (if t.wraps then { t with pos := 0 } else { t with pos := p, exhausted := true }) else { t with pos := p }

/-- Elements prefetched at most (R133). -/
def depth (t : Stream) : Nat := if t.isVector then 4 else 16

/-- The cause of the stream trap a use raises (R136). -/
def cause (t : Stream) (write vector : Bool) : Option Nat :=
  if !t.bound then some 0
  else if t.isWrite != write then some 2
  else if t.isVector != vector then some 3
  else if t.exhausted then some 4
  else none

/-- What was taken ahead is given up (R133, R153). -/
def discard (t : Stream) : Stream := { t with ready := 0, ahead := [] }

end Stream

/-- The stream a class 2 specifier 0x218–0x21F names (R32). -/
def stOf (d : Spec) : Nat := d.num - 0x18

def isStream : Spec → Bool
  | .spc n => 0x18 ≤ n.toNat && n.toNat ≤ 0x1F
  | _ => false

/-- Advance a stream of a warp after the instruction that used it has issued (R135). -/
def advanced (k : Nat) : WRes → WRes
  | .fall w => .fall { w with st8 := lset w.st8 k (w.st8.getD k {}).advance }
  | r => r

/-- An element that is present is taken as it was fetched, when nothing the warp has issued must be performed before the read (R133, R298): its
bytes reach the destination, from byte `4 * lane` of a vector element. -/
def fed (s : State) (k : Nat) (old : Warp) : WRes → WRes
  | .fall w =>
    match (old.st8.getD k {}).ahead.head?, (if w.log.length = old.log.length then none else w.log.getLast?) with
    | some (_, bs), some e =>
      if !(e.parts.all fun p => s.inOrder w e p) then .fall w
      else
        let w1 := (e.parts.foldl (fun w p => State.receive w e p (if p.lane = 96 then bs else (bs.drop (4 * p.lane)).take 4)) w).modParts e.seq
          fun p => { p with ok := true }
        .fall { w1 with st8 := old.st8 }
    | _, _ => .fall w
  | r => r

/-- The address form of a scalar element, as `issueOnce` takes it: the element's address is the same for every member (R132).
A misaligned one traps with `mm` = 0 too (DESIGN CHOICE, log entry 81). -/
def elementOnce (s : State) (w : Warp) (i : BitVec 96) (h : Hdr) (r : Req) (addr : Word) (data : Nat → BitVec 128) (tag : Nat) : WRes :=
  let ops : List Warp.Operand := match r.data with | some o => [o] | none => []
  let common := ops.all fun o => w.common? o.1.spec
  let dstCommon := match r.dst with | .scl n => n.toNat < 128 | _ => false
  w.checked h (w.needs ops ++ w.needsDst r.regs r.dst) false false (
    if addr.toNat % r.size != 0 then .trap w { cls := 11, slot := w.active.headD 0, detail := addr }
    else
      let perMember := (s.window w.ctx addr).isSome
      if dstCommon && perMember then .trap w { cls := 4 }
      else if w.active = [] then .fall w
      else match w.freeEntry with
        | none => .wait .log
        | some k =>
          let parts := w.active.map fun m => ({ slot := m, lane := 96, addr := addr, data := data m } : Part)
          .fall (w.logEntry (newEntry w k i r (common && !perMember) parts tag)))

/-- `smov` between scalars, from a stream and to a stream (R133, R134, R144). -/
def execSmov (f : FormR) (s : State) : Res :=
  if isStream f.a.spec then
    accessOpNT s fun s w => unlessNever f.h w (
      let k := stOf f.a.spec
      let t := w.st8.getD k {}
      match t.cause false false with
      | some c => .trap w { cls := 10, cause := c }
      | none => advanced k (fed s k w (elementOnce s w (packR 0x042 f) f.h { acc := .sload t.size, size := t.size, regs := 1, dst := f.dst }
          (t.addr t.pos) (fun _ => 0) (k + 1))))
  else if isStream f.dst then
    accessOpNT s fun s w => unlessNever f.h w (
      let k := stOf f.dst
      let t := w.st8.getD k {}
      match t.cause true false with
      | some c => .trap w { cls := 10, cause := c }
      | none => advanced k (elementOnce s w (packR 0x042 f) f.h { acc := .store t.size, size := t.size, data := some (f.a, 1) } (t.addr t.pos)
          (fun m => BitVec.ofNat 128 ((w.scl m f.a).toNat % 2 ^ (8 * t.size))) 0))
  else warpOp s fun w => w.sclOp f.h f.dst [(f.a, 1)] false fun m => w.scl m f.a

/-- `strd.v` (R153): lane L of element p. The stream trap comes first, and a misaligned element that no lane takes does not trap (DESIGN CHOICE, log
entry 81). -/
def execStrdV (f : FormR) (s : State) : Res :=
  accessOpNT s fun s w =>
    let k := stOf f.a.spec
    let t := w.st8.getD k {}
    match t.cause false true with
    | some c => .trap w { cls := 10, cause := c }
    | none => advanced k (fed s k w (issueAt s w (packR 0x068 f) f.h [] { acc := .load 4 false, size := 4, regs := 1, dst := f.dst } 4
        (fun _ l => t.addr t.pos + BitVec.ofNat 64 (4 * l)) (fun _ _ => 0) (k + 1)))

/-- `stwr.v` (R153). -/
def execStwrV (f : FormR) (s : State) : Res :=
  accessOpNT s fun s w =>
    let k := stOf f.dst
    let t := w.st8.getD k {}
    match t.cause true true with
    | some c => .trap w { cls := 10, cause := c }
    | none => advanced k (issueAt s w (packR 0x069 f) f.h [(f.a, 1)] { acc := .store 4, size := 4, data := some (f.a, 1) } 4
        (fun _ l => t.addr t.pos + BitVec.ofNat 64 (4 * l)) (fun m l => (w.int32 m f.a l).setWidth 128) 0)

/-- `stbind` waits for its entry, so that the stream trap is raised by it (R131, R136, R153). -/
def execStbind (f : FormM) (s : State) : Res :=
  accessOpNT s fun s w =>
    let k := stOf f.dst
    match w.log.find? fun e => e.acc = .bind k && e.pc = w.pc && e.sup = w.sup with
    | some e =>
      if e.blob = [] then .wait .memory
      else
        let w1 := w.modParts e.seq fun p => { p with ok := true }
        if e.blob.length < 64 then .fall w1
        else
          let t : Stream := { bound := true, entry := BitVec.ofNat 512 (leNat e.blob) }
          if t.valid then .fall { w1 with st8 := lset w1.st8 k t }
          else .trap { w1 with st8 := lset w1.st8 k {} } { cls := 10, cause := 1 }
    | none =>
      match issueOnce s w (packM 0x064 f) f { acc := .bind k, size := 64, attr := f.attr, dst := f.dst } 64 (fun _ => 0) [] 0 with
      | .fall w1 => if w1.log.length = w.log.length then .fall w1 else .done { w1 with st := .wait, waitOn := some .memory, waitSince := s.coreCycle w.core }
      | r => r

def execStrel (f : FormR) (s : State) : Res :=
  warpOpNT s fun w => unlessNever f.h w (w.checked f.h (w.needsOf 1 f.a) false false (.fall { w with st8 := lset w.st8 (stOf f.a.spec) {} }))

/-- `stpos` (R153) traps on an unbound register, not on an exhausted one (DESIGN CHOICE, log entry 81). -/
def execStpos (f : FormR) (s : State) : Res :=
  warpOpNT s fun w =>
    let t := w.st8.getD (stOf f.a.spec) {}
    if Warp.never f.h then .fall w
    else if !t.bound then .trap w { cls := 10, cause := 0 }
    else w.checked f.h (w.needsOf 1 f.a) false false (w.sclOp f.h f.dst [] false fun _ => BitVec.ofNat 64 t.pos)

/-- `stseek` (R153) traps on an unbound register, not on an exhausted one, and looks at its operand first (DESIGN CHOICE, log entry 81). -/
def execStseek (f : FormR) (s : State) : Res :=
  warpOpNT s fun w => w.checked f.h (w.needs [(f.a, 1)]) false false (unlessNever f.h w (
    let k := stOf f.dst
    let t := w.st8.getD k {}
    let p := (w.scl 0 f.a).toNat
    if !t.bound then .trap w { cls := 10, cause := 0 }
    else
      let t := t.discard
      .fall { w with st8 := lset w.st8 k (
        if p < t.total then { t with pos := p, exhausted := false }
        else if t.wraps then { t with pos := p % t.total, exhausted := false }
        else { t with pos := t.total, exhausted := true }) }))

/-- STREAM_ELEMENT_ARRIVE (R133): the element a waiting destination asked for arrives; with none waiting, the next element ahead of use is
present, with the bytes it has now. An element in a per-member window, or one whose data are poisoned or do not translate, is left to its
use. -/
def execStreamElementArrive (c k st : Nat) (s : State) : Res :=
  let key := warpKey c k
  .next (match s.warp? key with
    | none => s
    | some w =>
      match w.log.find? fun e => e.tag = st + 1 && (match e.acc with | .load .. | .sload _ => true | _ => false) with
      | some e => (e.parts.foldl (fun s p => s.loadPart key e.idx false p) s).afterKill s key
      | none =>
        let t := w.st8.getD st {}
        if t.bound && !t.isWrite && !t.exhausted && t.ready < t.depth && (t.wraps || t.pos + t.ready < t.total) then
          let a := t.addr ((t.pos + t.ready) % t.total)
          let n := if t.isVector then 384 else t.size
          match s.pageLocate w.ctx a 0 n .read w.sup w.core with
          | .error _ => s
          | .ok ps =>
            let at_ := fun (q : Nat × Nat × Phys) => s.agentReadAddr w.ctx (dieOf w.core) (a + BitVec.ofNat 64 q.1) 0 q.2.2 w.core
            let mine := ps.flatMap fun q => [(q.2.2.pa, q.2.1), (at_ q, q.2.1)]
            let due := s.ownReplicaDue key (dieOf w.core) mine || State.overlap (s.advancesDue key w.ctx) mine ||
              w.log.any fun x => !x.async && x.parts.any fun y => !y.ok && State.overlap (s.rangesOf w x y) mine
            if due || s.windowIn w.ctx a n || (ps.any fun q => s.poisoned (at_ q) q.2.1) then s
            else
              let el := (a.toNat, ps.flatMap fun q => s.physRead (at_ q) q.2.1)
              let s1 := (s.agentFill w.ctx a 0 n w.core).modWarp key fun w =>
                { w with st8 := lset w.st8 st { t with ready := t.ready + 1, ahead := t.ahead ++ [el] } }
              ps.foldl (fun s q =>
                let s2 := (s.uncached q.2.2 q.2.1 true false).readBy key (at_ q) q.2.1
                if State.l1Ok q.2.2 then (State.lineSpan (at_ q) q.2.1).foldl (fun s l => s.l1Fill w.core l) s2 else s2) s1
        else s)

/-! ## Register blocks (R120–R124, R154) -/

/-- The bytes of the vector file a warp holds (R102, R121). -/
def Warp.footprint (w : Warp) : Nat :=
  let c := 8 * popCount w.common
  384 * (c + (64 - c) * w.p) + 384 * w.p * (w.h - 64)

/-- The free bytes of the vector file of a core (R102). -/
def State.regRoom (s : State) (core : Nat) : Nat :=
  2097152 - ((s.warps.map (·.2)).filter fun w => w.core = core && !w.foreman && !w.ended && w.st != .free).foldl (fun n w => n + w.footprint) 0

/-- The held count changes (R122): released registers are lost at once, with whatever is on its way into them; added ones read zero and are
full. -/
def Warp.setHeld (w : Warp) (n : Nat) : Warp :=
  let keep := BitVec.ofNat 256 (2 ^ n - 1)
  { w with
    log := w.log.map fun e => if e.fills.any fun r => match r with | .v i => n ≤ i | _ => false then { e with dst := 0x300 } else e,
    h := n, clearing := w.clearing.filter fun c => c.2 < n, banks := w.banks.map fun b =>
    { b with v := b.v.filter (fun p => p.1 < n), emptyV := b.emptyV &&& keep, bad := b.bad.filter fun p => p.1 < n } }

def regsAsked : Option Rdv → Option Nat
  | some (.regs n) => some n
  | _ => none

namespace State

/-- The count a crew's requests come to (R123): the largest. -/
def crewHeld (s : State) (w : Warp) : Nat := (s.crew w).foldl (fun n x => max n ((regsAsked x.rdv).getD 0)) 0

/-- The crew's warps that have not ended, with their tailing warps (R123, R451). -/
def crewAll (s : State) (w : Warp) : List Warp :=
  ((s.crew w).filter fun x => !x.ended).flatMap fun x => x :: (match x.tail.bind fun t => s.warp? (warpKey x.core t) with | some y => [y] | none => [])

/-- The bytes a crew's request adds (R121, R123). -/
def crewAdds (s : State) (w : Warp) : Nat := (s.crewAll w).foldl (fun n x => n + 384 * x.p * (s.crewHeld w - x.h)) 0

/-- Every warp of the crew has reached the request (R123). -/
def crewAsked (s : State) (w : Warp) : Bool := (regsAsked w.rdv).isSome && s.rendezvous w fun x => (regsAsked x.rdv).isSome

/-- An older complete request of the core that adds registers still waits (R122). -/
def olderAsked (s : State) (w : Warp) : Bool :=
  (s.warps.map (·.2)).any fun x => x.core = w.core && x.reqOrder < w.reqOrder && s.crewAsked x && s.crewAdds x != 0 &&
    !((s.crew w).any fun y => y.key = x.key)

/-- Grant a crew's request when its registers fit and no older request waits (R122, R123); a request that adds nothing is granted at
once. -/
def grantRegs (s : State) (w : Warp) : Option State :=
  if !s.crewAsked w then none
  else
    let add := s.crewAdds w
    if add != 0 && (s.regRoom w.core < add || s.olderAsked w) then none
    else
      let n := s.crewHeld w
      some ((s.crewAll w).foldl (fun s x =>
        let s : State := { s with mx := tmod s.mx x.core fun l => l.map fun o => if o.slot = x.slot && n ≤ o.dst then { o with dst := 0x300 } else o }
        if x.lead.isSome then s.putWarp (x.setHeld n)
        else
          let y : Warp := { (x.setHeld n).awake with rdv := none, rdvN := x.rdvN + 1, pc := x.pc + 12#64, retired := x.retired + 1 }
          s.putWarp { y with loopDue := x.loopEnds }) s)

end State

/-- `regacq n` and `regrel` (R122–R124): a count above HMAX is illegal before anything else is looked at (R44, R45); else the warp waits until its
crew has asked and the registers fit. -/
def askRegs (h : Hdr) (n : Nat) (s : State) : Res :=
  machineOp s fun s w =>
    if w.hmax < n && n != 64 then (s, .trap w { cls := 0 })
    else if w.tx.isSome then (s, .abort 7 0 0)
    else if Warp.never h then (s, .fall w)
    else
      let fresh := w.rdv.isNone
      let w1 : Warp := { w with
        rdv := some (.regs n), st := .wait, waitOn := some .registers, reqOrder := if fresh then s.rdyOrder else w.reqOrder,
        waitSince := if fresh then s.coreCycle w.core else w.waitSince }
      let s1 : State := { s.putWarp w1 with rdyOrder := if fresh then s.rdyOrder + 1 else s.rdyOrder }
      match s1.grantRegs w1 with
      | some s2 => match s2.warp? w.key with
        | some x => (s2, .done x)
        | none => (s2, .fall w)
      | none =>
        let s2 := s1.waits { w1 with st := w.st, waitOn := w.waitOn, waitSince := w.waitSince } .registers
        (s2, .done ((s2.warp? w.key).getD w1))

def execRegacq (f : FormI) (s : State) : Res := askRegs f.h f.imm.toNat s
def execRegrel (f : FormR) (s : State) : Res := askRegs f.h 64 s
def execRegcnt (f : FormR) (s : State) : Res := warpOp s fun w => w.sclOp f.h f.dst [] false fun _ => BitVec.ofNat 64 w.h

/-- REGACQ_GRANT (R122): the oldest waiting request of a core that fits is granted, a crew's by its first arrival (DESIGN CHOICE, log entry 82). -/
def execRegacqGrant (c : Nat) (s : State) : Res :=
  let waiting := (s.warps.map (·.2)).filter fun w => w.core = c && w.lead.isNone && s.crewAsked w
  let oldest := waiting.foldl (fun best w => match best with
    | none => some w
    | some (b : Warp) => if w.reqOrder < b.reqOrder then some w else some b) none
  .next (match oldest with
    | some w => (s.grantRegs w).getD s
    | none => s)

end Sys2Proof.Machine
end

