-- ==== Sys2Proof/Machine/Place.lean ====
section
/-!
DEFINITION. The block scheduler: where a block fits (R353), the start of its warps and foreman (R119, R346, R361, R451), the order of
placement, reservation and pre-emption for priority (R354), and saving and restoring blocks (R409, R414, R415).
-/

namespace Sys2Proof.Machine

/-! ## The start of warps -/

/-- A bank at warp start (R99, R119). -/
def startBank (h : LHdr) (pos m : Nat) : Bank :=
  let w := pos % h.crew
  ({ num := 16 * w + m, midx := BitVec.ofNat 16 (h.mbase + w * h.pod + m) } : Bank).setEm (~~~0#96)

/-- A warp at its start (R119, R346). -/
def startWarp (h : LHdr) (x core slot blk pos : Nat) (info : LaunchInfo) (args : List Word) (now : Nat) : Warp :=
  { ctx := x, core := core, slot := slot, blk := blk, info := { info with pos := pos, crew := h.crew }, st := .out, waitSince := now,
    pc := h.entry, hmax := h.hmax, p := h.pod, common := h.common, mm := BitVec.ofNat 16 (2 ^ h.pod - 1),
    banks := (List.range h.pod).map (startBank h pos), s := (List.range args.length).map fun i => (i, args.getD i 0),
    lc := List.replicate 3 {}, st8 := List.replicate 8 {}, xa := List.replicate 8 {}, wstat := if h.shadow then 16 else 0 }

/-- The foreman at its start (R361). -/
def startForeman (h : LHdr) (x core blk : Nat) (info : LaunchInfo) (args : List Word) (now : Nat) : Warp :=
  { ctx := x, core := core, slot := foremanSlot, blk := blk, foreman := true, info := info, st := .act, waitSince := now, pc := h.fentry,
    banks := [({} : Bank).setEm (~~~0#96)], s := (List.range (min args.length 64)).map fun i => (i, args.getD i 0),
    lc := List.replicate 3 {}, st8 := List.replicate 8 {}, xa := List.replicate 8 {} }

namespace State

/-! ## Where a block fits (R353) -/

/-- The blocks a core holds. -/
def held (s : State) (core : Nat) : List (Nat × Block) := s.blocks.filter fun p => p.2.core = core && p.2.st = .resident && !s.blockOver p.1 p.2

/-- The free warp slots of a core: no warp holds one, and nothing a warp that ended there issued is outstanding. -/
def freeSlots (s : State) (core : Nat) : List Nat :=
  (List.range 16).filter fun k => match s.warp? (warpKey core k) with
    | none => true
    | some w => w.st = .free && s.warpOver w

def roofMode (s : State) (core : Nat) : Nat := ((tget 0 s.roofst core).extractLsb' 0 2).toNat

/-- The lowest offset in MiB at which `n` MiB of a core's far scratch are free with `ways` cache ways (R253). -/
def farOffset (s : State) (core ways n : Nat) : Option Nat :=
  let used := (s.held core).map fun p => (p.2.foff, p.2.fscr)
  (List.range 65).find? fun o => o + n ≤ 64 - 4 * ways && !(overlap [(o, n)] used)

/-- What a cluster's fusion asks of a block (R249). -/
def fuseOk (s : State) (core : Nat) (fuse : Bool) : Bool :=
  let cl := clusterOf core
  ((List.range 8).all fun i => s.held (8 * cl + i) = []) || s.fused.contains cl = fuse

/-- A core meets every condition for one more block of a launch (R353). -/
def coreFits (s : State) (x : Nat) (h : LHdr) (core : Nat) : Bool :=
  let on := s.held core
  let ways := s.waysOf x
  core < 1280 && h.slots ≤ (s.freeSlots core).length && h.slots * (h.baseBytes + h.extBytes) ≤ s.regRoom core &&
  on.foldl (fun n p => n + p.2.ns) h.near ≤ 491520 && on.foldl (fun n p => n + p.2.srec) h.srec ≤ 32 &&
  (if s.roofMode core = 3 then h.fscr = 0 && ways = 0
   else (tget 0 s.ways core = ways || on = []) && (h.fscr = 0 || (s.farOffset core ways h.fscr).isSome)) &&
  s.fuseOk core h.fuse && (h.fentry = 0 || !(on.any fun p => p.2.hasForeman))

/-! ## Placing a block -/

/-- Ready a core for a block: fuse or part its cluster (R249), resize its bank (R251), take its part of the near store (R246). -/
def readyCore (s : State) (x : Nat) (fuse : Bool) (near core : Nat) : State :=
  let cl := clusterOf core
  let idle := (List.range 8).all fun i => s.held (8 * cl + i) = []
  let s1 : State := if idle && s.fused.contains cl != fuse then
      { s with fused := if fuse then s.fused ++ [cl] else s.fused.filter (· != cl), l1 := s.l1.filter fun p => clusterOf p.1 != cl }
    else s
  let s2 := if s1.roofMode core != 3 && tget 0 s1.ways core != s1.waysOf x then s1.resizeBank core (s1.waysOf x) else s1
  if near = 0 then s2
  else { s2 with l1 := tset s2.l1 core ((tget [] s2.l1 core).filter fun p => Config.lineStays s.tick p.1) }

/-- Place block `b` of a node on a core (R346, R353, R361, R451). Its warps start behind the node's predecessors and the waits it has acquired at
system scope (R286, R350, R352), so no line of the core's L1 is older. -/
def placeBlock (s : State) (id : Nat) (nd : Node) (b core : Nat) : State :=
  let h : LHdr := nd.hdr
  let s1 := (s.readyCore nd.ctx h.fuse h.near core).l1Clear core
  let k := tfresh s1.blocks
  let foff := if h.fscr = 0 then 0 else (s1.farOffset core (s1.waysOf nd.ctx) h.fscr).getD 0
  let info : LaunchInfo := { b := b, crew := h.crew, cgs := h.cgs, nblk := nd.nblk, queue := nd.queue, mfld := h.mfld, widths := h.widths,
                             foff := foff, fscr := h.fscr, phased := h.phased }
  let blk : Block := { node := id, ctx := nd.ctx, b := b, core := core, placed := s1.rdyOrder, wpb := h.wpb, ns := h.near, srec := h.srec,
                       fscr := h.fscr, foff := foff, hasForeman := h.fentry != 0 }
  let free := s1.freeSlots core
  let slotOf := fun (i : Nat) => free.getD i 0
  let lead := (List.range h.wpb).map fun p =>
    { startWarp h nd.ctx core (slotOf p) k p info nd.args (s.coreCycle core) with tail := if h.shadow then some (slotOf (h.wpb + p)) else none }
  let tails := if h.shadow then (List.range h.wpb).map fun p =>
      { startWarp h nd.ctx core (slotOf (h.wpb + p)) k p info nd.args (s.coreCycle core) with lead := some (slotOf p) }
    else []
  let fore := if h.fentry = 0 then [] else [startForeman h nd.ctx core k info nd.args (s.coreCycle core)]
  let s2 : State := { s1 with blocks := s1.blocks ++ [(k, blk)], rdyOrder := s1.rdyOrder + 1,
                              mxLatch := s1.mxLatch.filter fun p => p.1 != core || !((lead ++ tails).any fun w => w.slot = p.2.1) }
  ((lead ++ tails ++ fore).foldl State.putWarp s2).modNode id fun n => { n with live := n.live ++ [k] }

/-- Place consecutive blocks on the given cores, each where it fits; none when one does not. -/
def placeAll (s : State) (id : Nat) (nd : Node) (b : Nat) : List Nat → Option State
  | [] => some s
  | c :: rest => if s.coreFits nd.ctx nd.hdr c then (s.placeBlock id nd b c).placeAll id nd (b + 1) rest else none

/-- Cut a list into groups of `k`. -/
def groupsOf (k : Nat) (l : List Nat) : List (List Nat) := (List.range ((l.length + k - 1) / k)).map fun i => (l.drop (k * i)).take k

/-- Distinct cores of one cluster (R353). -/
def oneCluster (cs : List Nat) : Bool := cs.eraseDups.length = cs.length && cs.all fun c => clusterOf c = clusterOf (cs.headD 0)

/-- The blocks that a node places in one step (R353, R356). -/
def placeStep (nd : Node) : Nat := if LHdr.phased nd.hdr then nd.nblk else LHdr.cgs nd.hdr

/-- No other node has the core reserved (R354). -/
def unreserved (s : State) (id core : Nat) : Bool := s.nodes.all fun p => p.1 = id || !(p.2.reserved.contains core)

/-- The saved blocks of a node. -/
def savedOf (s : State) (id : Nat) : List (Nat × Block) := s.blocks.filter fun p => p.2.node = id && p.2.st = .saved && !p.2.aborted

/-- A saved block fits on a core (R253, R353, R409). -/
def restoreFits (s : State) (id : Nat) (nd : Node) (b : Block) (core : Nat) : Bool :=
  let h : LHdr := nd.hdr
  s.coreFits nd.ctx h core && s.unreserved id core &&
  (b.fscr = 0 || (core = b.core && b.foff + b.fscr ≤ 64 - 4 * s.waysOf nd.ctx && !(overlap [(b.foff, b.fscr)] ((s.held core).map fun p => (p.2.foff, p.2.fscr)))))

/-- How many more blocks of a launch a core holds. -/
def roomFor (s : State) (x : Nat) (h : LHdr) (core : Nat) : Nat :=
  let on := s.held core
  let far := ((List.range (65 - 4 * s.waysOf x)).filter fun o => !(overlap [(o, 1)] (on.map fun p => (p.2.foff, p.2.fscr)))).length
  ((List.range 17).filter fun n =>
    n * h.slots ≤ (s.freeSlots core).length && (n = 0 || n * h.slots * h.baseBytes + h.slots * h.extBytes ≤ s.regRoom core) &&
    on.foldl (fun k p => k + p.2.ns) (n * h.near) ≤ 491520 && on.foldl (fun k p => k + p.2.srec) (n * h.srec) ≤ 32 && n * h.fscr ≤ far &&
    (h.fentry = 0 || n ≤ 1)).foldl max 0

/-- Some core takes a saved block, or some cluster the next group, of a node (R353). A group needs as many distinct cores as it has blocks;
a phase-led launch, room for all of its groups. -/
def canPlace (s : State) (id : Nat) (nd : Node) : Bool :=
  let h : LHdr := nd.hdr
  let fit := fun (cl : Nat) => (List.range 8).filter fun i => s.unreserved id (8 * cl + i) && s.coreFits nd.ctx h (8 * cl + i)
  ((s.savedOf id).any fun p => (List.range 1280).any fun c => s.restoreFits id nd p.2 c) ||
  (nd.next < nd.nblk && (if h.phased
    then h.ngrp ≤ ((List.range 160).map fun cl => groupsIn ((fit cl).map fun i => s.roomFor nd.ctx h (8 * cl + i)) h.cgs).foldl (· + ·) 0
    else (List.range 160).any fun cl => h.cgs ≤ (fit cl).length))

/-- Kernel nodes with a block to place or restore. -/
def placing (s : State) : List (Nat × Node) :=
  s.nodes.filter fun p => (p.2.st = .run || (p.2.st = .ready && LHdr.indir p.2.hdr && !p.2.counted)) && p.2.bad.isNone && LHdr.kind p.2.hdr = 0 &&
    s.resident p.2.ctx && (p.2.next < p.2.nblk || !p.2.counted || s.savedOf p.1 != [])

/-- A node the scheduler takes before another (R354): higher PRIO, or ready earlier within a priority. -/
def before (s : State) (a b : Nat × Node) : Bool :=
  let pa := (s.ctx a.2.ctx).prio
  let pb := (s.ctx b.2.ctx).prio
  pb < pa || (pa = pb && a.2.readyAt < b.2.readyAt)

/-- No node that comes first could be placed; those passed over begin to count (R354). -/
def firstInTurn (s : State) (id : Nat) (nd : Node) : Bool := s.placing.all fun p => p.1 = id || !(s.before p (id, nd)) || !(s.canPlace p.1 p.2)
def passOver (s : State) (id : Nat) (nd : Node) : State :=
  (s.placing.filter fun p => p.1 != id && s.before p (id, nd)).foldl (fun s p =>
    s.modNode p.1 fun n => { n with passedAt := some (n.passedAt.getD s.cycle) }) s

/-- Nothing of the node is left to place: it drains (R350). -/
def drainIfPlaced (s : State) (id : Nat) : State :=
  s.modNode id fun n => { n with st := if n.next = n.nblk && s.savedOf id = [] then .drain else .run, passedAt := none, reserved := [] }

end State

/-- BLOCK_PLACE (R353, R354): the next group of a node, or all blocks of a phase-led one, on the cores the scheduler chooses; an indirect count
not yet read is read first (R351). -/
def execBlockPlace (id : Nat) (cores : List Nat) (s : State) : Res :=
  .next (
    let s := s.reap
    match s.node? id with
    | none => s
    | some nd =>
      let h : LHdr := nd.hdr
      if !(s.placing.any fun p => p.1 = id) then s
      else if nd.st = .ready then
        (s.readCount id nd).modNode id fun n => if n.bad.isNone && n.nblk != 0 then { n with st := .run } else n
      else
        let ok := nd.next < nd.nblk && cores.length = State.placeStep nd && ((State.groupsOf h.cgs cores).all State.oneCluster) &&
          (cores.all fun c => s.unreserved id c) && s.firstInTurn id nd &&
          (s.savedOf id).all fun p => (List.range 1280).all fun c => !(s.restoreFits id nd p.2 c)
        if !ok then s
        else match s.placeAll id nd nd.next cores with
          | none => s
          | some s1 => ((s1.passOver id nd).modNode id fun n => { n with next := n.next + cores.length }).drainIfPlaced id)

/-- PLACEMENT_RESERVE (R354): a node that does not fit is passed over; after 100,000 cycles the scheduler keeps a core or cluster for it. -/
def execPlacementReserve (id : Nat) (cores : List Nat) (s : State) : Res :=
  .next (match s.placing.find? fun p => p.1 = id with
    | none => s
    | some (_, nd) =>
      if s.canPlace id nd then s
      else match nd.passedAt with
        | none => s.modNode id fun n => { n with passedAt := some s.cycle }
        | some t =>
          let fits := cores != [] && (cores.all fun c => c < 1280 && s.unreserved id c) && ((State.groupsOf (LHdr.cgs nd.hdr) cores).all State.oneCluster)
          if s.cycle < t + 100000 || !fits then s else s.modNode id fun n => { n with reserved := cores })

namespace State

/-- The machine as it would stand with some blocks gone. -/
def without (s : State) (ks : List Nat) : State :=
  { s with blocks := s.blocks.filter fun p => !ks.contains p.1, warps := s.warps.filter fun p => !ks.contains p.2.blk }

/-- Blocks that leave together with a block (R356). -/
def together (s : State) (k : Nat) (b : Block) : List Nat :=
  match s.node? b.node with
  | some n => if LHdr.phased n.hdr then (s.blocks.filter fun p => p.2.node = b.node && p.2.st = .resident).map (·.1) else [k]
  | none => [k]

/-- Every one of some blocks has room for its frames in its context's pool (R405, R410). -/
def poolTakes (s : State) (x : Nat) (ks : List Nat) : Bool :=
  s.poolUnits x != 0 && (s.poolRoom x (ks.flatMap fun k => match s.block? k with | some b => s.blockUnits b k | none => [])).isSome

/-- The block to be asked to yield next for a node of priority `p` (R354): of the lowest priority, then the most recently placed. -/
def victim (s : State) (p : Nat) : Option (Nat × Block) :=
  let open' := s.blocks.filter fun q => q.2.st = .resident && !q.2.preq.getLsbD 0 && !s.blockOver q.1 q.2 && s.resident q.2.ctx &&
    (s.ctx q.2.ctx).prio < p && s.poolTakes q.2.ctx (s.together q.1 q.2)
  (sortKey (fun (a b : Nat × Block) =>
    let pa := (s.ctx a.2.ctx).prio
    let pb := (s.ctx b.2.ctx).prio
    pa < pb || (pa = pb && b.2.placed ≤ a.2.placed)) open').head?

end State

/-- PREQ_RAISE (R354): a node that cannot be placed has blocks of lower priority asked to yield, until its next block would fit. -/
def execPreqRaise (id : Nat) (s : State) : Res :=
  .next (match s.placing.find? fun p => p.1 = id with
    | none => s
    | some (_, nd) =>
      let asked := (s.blocks.filter fun p => p.2.preq.getLsbD 0 && p.2.st = .resident).map (·.1)
      if (s.without asked).canPlace id nd then s
      else match s.victim (s.ctx nd.ctx).prio with
        | none => s
        | some (k, b) => (s.together k b).foldl (fun s k => s.raiseReq k 1) s)

/-! ## Saving and restoring a block (R409, R414, R415, R245) -/

/-- The block frame (R414). -/
def blockPieces (b : Block) : List Piece :=
  let f := b.savedWarps.find? fun w => w.pos = 32
  [field 0 8 b.b, field 8 8 b.ph.toNat, field 0x10 8 (match f with | some w => w.warp.pc.toNat | none => 0),
   field 0x18 8 (if b.hasForeman then (if f.isSome then 1 else 3) else 0), field 0x20 8 (b.dq.length + 256 * b.mbox.length), field 0x28 8 (b.foff * 2 ^ 20)] ++
  b.frames.map (fun p => field (0x80 + 4 * p.1) 4 p.2) ++
  (match f with
    | some w => (List.range 64).map (fun i => field (0x400 + 8 * i) 8 (tget 0 w.warp.s i).toNat) ++ [field 0x600 8 (w.warp.emptyS.toNat % 2 ^ 64)]
    | none => []) ++
  ((List.range b.dq.length).flatMap fun i => let e := b.dq.getD i (0, 0); [field (0x800 + 16 * i) 8 e.1.toNat, field (0x808 + 16 * i) 1 e.2]) ++
  ((List.range b.mbox.length).map fun i => field (0xC00 + 8 * i) 8 (b.mbox.getD i 0).toNat) ++
  [(0x4000, b.scales.readBytes 0 (512 * b.srec)), (0x8000, b.near.readBytes 0 b.ns), (0x100000, b.farSave)]

/-- The context frame (R415). -/
def ctxPieces (js : List ConvJob) : List Piece :=
  field 0 8 js.length :: ((List.range js.length).zip js).flatMap fun p =>
    let o := 0x100 + 128 * p.1
    [(o, leBytes 96 p.2.fields.toNat), field (o + 96) 4 (clusterOf p.2.core), field (o + 100) 4 p.2.core, field (o + 104) 24 0]

namespace State

/-- Withdrawn convolution jobs of a resident context return to their clusters' queues in the order of its frame, as far as there is room (R235, R245,
R415): a block's once the block is back. The frame then holds the rest. -/
def requeueJobs (s : State) (x : Nat) : State :=
  let all := (s.ctx x).jobs
  let js := if s.poolUnits x = 0 then all
    else ((List.range all.length).zip all).map fun p => { p.2 with fields := BitVec.ofNat 768 ((s.frameAt x 0).num (0x100 + 128 * p.1) 96) }
  let home := fun (j : ConvJob) => match j.blk.bind s.block? with
    | some b => b.st = .resident || b.aborted
    | none => true
  let r := js.foldl (fun (acc : State × List ConvJob) j =>
    let cl := clusterOf j.core
    let q := tget [] acc.1.conv cl
    if home j && q.length < convRoom && !(acc.2.any fun k => clusterOf k.core = cl) then
      ({ acc.1 with conv := tset acc.1.conv cl (q ++ [j]) }, acc.2)
    else (acc.1, acc.2 ++ [j])) (s, [])
  if !s.resident x || r.2.length = all.length then s
  else
    let s1 := r.1.modCtx x fun c => { c with jobs := r.2 }
    if s1.poolUnits x = 0 then s1 else s1.writePieces x 0 (ctxPieces r.2)

/-- The far scratch of a block as a range of physical addresses (R253). -/
def farLo (core foff : Nat) : Nat := roofLo + core * 2 ^ 26 + foff * 2 ^ 20

/-- BLOCK_SAVE (R409): when every warp and the foreman of a block are saved or have ended, and no job of it runs. One whose warps have all ended has
jobs left to withdraw. -/
def saveBlock (s : State) (k : Nat) : State :=
  match s.block? k with
  | none => s
  | some b =>
    let cl := clusterOf b.core
    let q := tget [] s.conv cl
    let mine := fun (j : ConvJob) => j.blk = some k && !j.started
    let ready := b.st = .resident && !b.aborted && (b.savedWarps != [] || (b.preq.getLsbD 0 && b.jobs != 0)) && ((s.warps.map (·.2)).all fun w => w.blk != k || s.warpOver w) &&
      !(q.any fun j => j.blk = some k && j.started)
    match s.unitFor b (1 + b.fscr), ready with
    | some u, true =>
      let far := if b.fscr = 0 then [] else s.physRead (farLo b.core b.foff) (b.fscr * 2 ^ 20)
      let b1 : Block := { b with st := .saved, farSave := far, bunit := u, room := [] }
      let s1 : State := { s with blocks := tset s.blocks k b1, conv := tset s.conv cl (q.filter fun j => !mine j),
                                 warps := s.warps.filter fun p => p.2.blk != k }
      let s2 := s1.modCtx b.ctx fun c => { c with units := c.units ++ (List.range (1 + b.fscr)).map (u + ·), jobs := c.jobs ++ q.filter mine }
      let s3 := (s2.writePieces b.ctx u (blockPieces b1)).writePieces b.ctx 0 (ctxPieces (s2.ctx b.ctx).jobs)
      s3.modNode b.node fun n => { n with st := .run }
    | _, _ => s

/-- Bring a saved warp back on a core (R409): it stands OUT, its keys and its copies renewed, its monitor armed again, and what its log holds is
issued again (R128). -/
def restoreWarp (s : State) (core slot : Nat) (slotOf : Nat → Option Nat) (v : SavedWarp) : State :=
  let s0 : State := { s with mxLatch := s.mxLatch.filter fun p => p.1 != core || p.2.1 != slot }
  let w0 : Warp := v.warp
  let id0 := tfresh s0.copies
  let ids := (v.copies.map (·.1)).zip ((List.range v.copies.length).map (id0 + ·))
  let re := fun (i : Nat) => ((ids.find? fun p => p.1 = i).map (·.2)).getD i
  let w : Warp := { w0 with
    core := core, slot := if w0.foreman then foremanSlot else slot, st := if w0.foreman then .act else .out, waitSince := s.coreCycle core,
    tail := w0.tail.bind fun _ => slotOf (16 + w0.info.pos), lead := w0.lead.bind fun _ => slotOf w0.info.pos,
    log := w0.log.map fun e => match e.acc with | .copy i => { e with acc := .copy (re i) } | _ => e,
    copies := { w0.copies with opened := w0.copies.opened.map re, closed := w0.copies.closed.map fun b => { b with copies := b.copies.map re } } }
  let key := w.key
  let cs := v.copies.map fun p => (re p.1, { p.2 with owner := key, was := none })
  let s1 : State := { s0.putWarp w with copies := s0.copies ++ cs }
  if !w.mon.armed then s1
  else match s1.translate core w.ctx w.mon.line w.mon.midx .read w.sup with
    | .ok ph =>
      let r := s1.agentReadAddr w.ctx (dieOf core) w.mon.line w.mon.midx ph core
      s1.modWarp key fun w => { w with mon := { w.mon with pline := ph.pa / 128 * 128, rline := r / 128 * 128 } }
    | .error _ => s1

/-- A block from its frame (R414), and its warps from theirs (R409 step 1). -/
def readBlock (s : State) (b : Block) : Block :=
  let f := s.frameAt b.ctx b.bunit
  let counts := f.num 0x20 8
  let foreman := fun (w : Warp) => { w with
    pc := f.word 0x10, s := loaded 0 w.s (List.range 64) fun i => f.word (0x400 + 8 * i), emptyS := BitVec.ofNat 256 (f.num 0x600 8) }
  { b with
    ph := f.word 8,
    dq := (List.range (counts % 256)).map fun i => (f.word (0x800 + 16 * i), f.num (0x808 + 16 * i) 1),
    mbox := (List.range (counts / 256 % 256)).map fun i => f.word (0xC00 + 8 * i),
    scales := b.scales.writeBytes 0 (f 0x4000 (512 * b.srec)), near := b.near.writeBytes 0 (f 0x8000 b.ns),
    farSave := f 0x100000 (b.fscr * 2 ^ 20),
    savedWarps := b.savedWarps.map fun v =>
      if v.pos = 32 then { v with warp := foreman v.warp }
      else match b.frames.find? fun p => p.1 = v.pos with
        | some p => { v with warp := readWarp (s.frameAt b.ctx p.2) v.warp }
        | none => v }

/-- The held entries of a restored warp are issued again: their pending faults are cleared unless the warp is in a handler for them. -/
def reissueAll (s : State) (k : Nat) : State :=
  s.modWarp k fun w => w.log.foldl (fun (w : Warp) e => if e.parts.any (·.inRec) then w else w.reissue e.seq false) w

end State

def execBlockSave (blk : Nat) (s : State) : Res := .next (s.saveBlock blk)

/-- CONV_JOB_END (R243): a job ends, and a withdrawn one may take its place in the queue. -/
def execConvJobEnd (cl : Nat) (s : State) : Res :=
  .next ((List.range 16).foldl State.requeueJobs (s.convEnd cl))

/-- BLOCK_RESTORE (R409): a saved block comes back from its frames on a core that meets R353, after every saved block before it that would fit; no
line of the core's L1 is older than what its warps have done or seen (R297, R303, R408). One whose far scratch can no longer lie where it lay is aborted with the roof-loss class (R253). -/
def execBlockRestore (blk core : Nat) (s : State) : Res :=
  .next (
    let s := s.reap
    match s.block? blk with
    | none => s
    | some b =>
      match s.node? b.node with
      | none => s
      | some nd =>
        let h : LHdr := nd.hdr
        let lost := b.fscr != 0 && (s.roofMode b.core = 3 || 64 - 4 * s.waysOf nd.ctx < b.foff + b.fscr)
        if b.st != .saved || b.aborted || !s.resident b.ctx then s
        else if lost then
          let s1 := (s.blockError blk 4 0 b.core 0).abortBlock blk
          let s2 := (s1.modBlock blk fun x => { x with savedWarps := [] }).requeueJobs b.ctx
          s2.reap.drainIfPlaced b.node
        else
          let earlier := (s.savedOf b.node).any fun p => p.2.b < b.b && (List.range 1280).any fun c => s.restoreFits b.node nd p.2 c
          let moved := dieOf core != dieOf b.core && !(s.replicas.isEmpty)
          if earlier || moved || !(s.restoreFits b.node nd b core) || !(s.firstInTurn b.node nd) then s
          else
            let b := s.readBlock b
            let s1 := ((s.passOver b.node nd).readyCore nd.ctx h.fuse b.ns core).l1Clear core
            let far := if b.fscr = 0 then s1 else s1.physWrite (State.farLo core b.foff) b.farSave
            let gone := b.frames.flatMap (fun f => [f.2, f.2 + 1]) ++ (List.range (1 + b.fscr)).map (b.bunit + ·)
            let s2 := far.modCtx b.ctx fun c => { c with units := c.units.filter fun u => !gone.contains u }
            let free := s2.freeSlots core
            let ps := (b.savedWarps.filter fun v => v.pos != 32).map (·.pos)
            let slotOf := fun (p : Nat) => (ps.findIdx? (· = p)).map fun i => free.getD i 0
            let b1 : Block := { b with st := .resident, core := core, preq := 0, savedWarps := [], frames := [], farSave := [], placed := s2.rdyOrder }
            let s3 := ({ s2 with blocks := tset s2.blocks blk b1, rdyOrder := s2.rdyOrder + 1 } : State).requeueJobs b.ctx
            let s4 := b.savedWarps.foldl (fun s v => s.restoreWarp core ((slotOf v.pos).getD foremanSlot) slotOf v) s3
            let s5 := ((s4.warps.filter fun p => p.2.blk = blk).map (·.1)).foldl State.reissueAll s4
            s5.drainIfPlaced b.node)

end Sys2Proof.Machine
end

