-- ==== Sys2Proof/Machine/Launch.lean ====
section
/-!
DEFINITION. The launch family (R364–R369), phases (R356), and the active set of a core (R357, R359).
-/

namespace Sys2Proof.Machine

/-! ## The active set (R357, R359) -/

/-- ACTIVE_SET_DISPLACE: an OUT warp that has waited 256 cycles while the set is full displaces the warp that has been in it longest. -/
def execActiveSetDisplace (c k : Nat) (s : State) : Res :=
  .next (match s.warp? (warpKey c k) with
    | none => s
    | some w =>
      let set := (s.warps.map (·.2)).filter fun x => x.core = c && !x.foreman && x.st = .act
      match (sortKey (fun (a b : Warp) => a.waitSince < b.waitSince || (a.waitSince = b.waitSince && a.slot ≤ b.slot)) set).head? with
      | some y =>
        if w.foreman || w.st != .out || set.length < 8 || s.coreCycle c < w.waitSince + 256 then s
        else (s.putWarp { y with st := .out, waitSince := s.coreCycle c }).putWarp { w with st := .act, waitSince := s.coreCycle c }
      | none => s)

/-- WARP_WAKE (R357): the cause of a wait clears and the warp is eligible again; it issues its instruction again. -/
def execWarpWake (c k : Nat) (s : State) : Res :=
  .next (s.modWarp (warpKey c k) fun w => if w.st = .wait then { w.awake with waitSince := s.coreCycle w.core } else w)

/-! ## Submitting work (R365, R369) -/

/-- A command form with a 128-byte record: the checks, the release at device scope, then one attempt per member. -/
def recordForm (opc : BitVec 9) (dst : Spec) (hasB : Bool) (f : FormM) (s : State) : Res :=
  machineOpNT s fun s w => endHeld s w fun w =>
    let os : List Warp.Operand := (⟨f.addr, 0, f.fa⟩, 1) :: (if hasB then [(f.data, 1)] else [])
    let priv := w.anyPrivate (os.map (·.1))
    let common := match dst with | .scl n => n.toNat < 128 | _ => true
    let hasDst := match dst with | .scl _ => true | _ => false
    match w.checked f.h (w.needs os ++ w.needsDst 1 dst) false (priv && hasDst && common) (.fall w) with
    | .fall _ =>
      if Warp.never f.h || (w.active = [] && (priv || !common)) then (s, .fall w)
      else
        let addr := fun (m : Nat) => w.ea f.addr f.off m 0
        let ms := if priv then w.active else [w.active.headD 0]
        match ms.find? fun m => (addr m).toNat % 128 != 0 with
        | some m => (s, .trap w { cls := 11, slot := m, detail := addr m })
        | none =>
          if releaseBusy s w true || w.freeEntry.isNone then (s, .wait .log)
          else commandOp s w (packM opc f) opc dst priv addr fun m => if hasB then (w.scl m f.data).toNat else 0
    | r => (s, r)

def execQpush (f : FormM) (s : State) : Res := recordForm 0x180 f.dst true f s
def execSeamgo (f : FormM) (s : State) : Res := recordForm 0x18B (.imm 0) false f s

def execQdoor (f : FormR) (s : State) : Res :=
  machineOpNT s fun s w =>
    match w.checked f.h (w.needs [(f.b, 1)]) false false (.fall w) with
    | .fall _ =>
      if Warp.never f.h then (s, .fall w)
      else if releaseBusy s w true then (s, .wait .log)
      else
        let ms := if w.anyPrivate [f.b] then w.active else [w.active.headD 0]
        let s1 := ms.foldl (fun s m => let q := (w.scl m f.b).toNat; if q ≤ (s.ctx w.ctx).qmax then s.doorbell w.ctx q else s) s
        (s1, .fall w)
    | r => (s, r)

/-! ## Reading the launch (R366) -/

def execLhrd (f : FormR) (s : State) : Res :=
  machineOpNT s fun s w => (s, w.sclOp f.h f.dst [] false fun _ =>
    BitVec.ofNat 64 (match f.x.toNat with
      | 0 => w.info.b
      | 1 => w.info.pos
      | 2 => w.info.nblk
      | 3 => w.info.queue
      | 4 => w.info.foff * 2 ^ 20
      | _ => w.core))

/-! ## Phases (R356) -/

namespace State

/-- The header of a block's launch. -/
def headerOf (s : State) (b : Block) : LHdr := match s.node? b.node with | some n => n.hdr | none => 0

/-- The neighbours of a block of a phase-led launch that have not ended. -/
def neighbours (s : State) (b : Block) : List Block :=
  let h := s.headerOf b
  let at' := fun (i : Nat) => (i % h.px, i / h.px % h.py, i / (h.px * h.py))
  let near := fun (i j : Nat) => (i + 1 = j) || (j + 1 = i)
  let adjacent := fun (p q : Nat × Nat × Nat) =>
    (near p.1 q.1 && p.2 = q.2) || (p.1 = q.1 && near p.2.1 q.2.1 && p.2.2 = q.2.2) || (p.1 = q.1 && p.2.1 = q.2.1 && near p.2.2 q.2.2)
  (s.blocks.filter fun p => p.2.node = b.node && adjacent (at' b.b) (at' p.2.b) && !s.blockOver p.1 p.2).map (·.2)

/-- The warps of a block that match `advance`: those that lead and have not ended. -/
def advancing (s : State) (k : Nat) : List Warp := (s.blockWarps k).filter fun w => !w.foreman && w.lead.isNone && !w.ended

/-- The matching set of a block is complete and the lead limit allows the rise (R356). -/
def phaseMay (s : State) (k : Nat) : Bool :=
  match s.block? k with
  | none => false
  | some b =>
    let ws := s.advancing k
    b.savedWarps = [] && ws != [] && (ws.all fun w => w.rdv = some .advance) &&
    (s.neighbours b).all fun n => b.ph.toNat + 1 ≤ n.ph.toNat + (s.headerOf b).phl

/-- The phase rises and the matching set goes on, each warp with an acquire at device scope (R356). -/
def phaseUp (s : State) (k : Nat) : State :=
  let ws := s.advancing k
  ws.foldl (fun s w =>
    let w1 : Warp := { w.awake with rdv := none, pc := w.pc + 12#64, retired := w.retired + 1, loopDue := w.loopEnds }
    (s.putWarp w1).acquireBy w.key w.core 4) (s.modBlock k fun b => { b with ph := b.ph + 1 })

end State

def execAdvance (f : FormR) (s : State) : Res :=
  machineOpNT s fun s w =>
    if Warp.never f.h then (s, .fall w)
    else if releaseBusy s w true then (s, .wait .log)
    else if !w.info.phased then (s.modBlock w.blk fun b => { b with ph := b.ph + 1 }, .fall w)
    else
      let w1 : Warp := { w with rdv := some .advance, st := .wait, waitOn := some .rendezvous }
      let s1 := s.putWarp w1
      if s1.phaseMay w.blk then
        let s2 := s1.phaseUp w.blk
        (s2, .done ((s2.warp? w.key).getD w1))
      else
        let s2 := s.waits { w with rdv := some .advance } .rendezvous
        (s2, .done ((s2.warp? w.key).getD w1))

def execPhaseRise (blk : Nat) (s : State) : Res := .next (if s.phaseMay blk then s.phaseUp blk else s)

def execPhrd (f : FormR) (s : State) : Res :=
  machineOpNT s fun s w => (s, w.sclOp f.h f.dst [] false fun _ =>
    match s.block? w.blk with
    | none => 0
    | some b =>
      if f.x = 0 then b.ph
      else
        let ns := (s.neighbours b).map fun n => n.ph.toNat
        match ns with
        | [] => ~~~0#64
        | a :: t => if w.info.phased then BitVec.ofNat 64 (t.foldl min a + (s.headerOf b).phl) - b.ph else ~~~0#64)

/-! ## The decision queue and the mailbox (R362, R367, R368) -/

namespace State

/-- A leading warp of a block at a position has not ended. -/
def warpLives (s : State) (b : Nat) (pos : Nat) : Bool :=
  ((s.blockWarps b).any fun w => !w.foreman && w.lead.isNone && w.info.pos = pos && !w.ended) ||
  match s.block? b with
  | some x => x.savedWarps.any fun v => v.pos = pos
  | none => false

/-- The foreman of a block has not ended. -/
def foremanLives (s : State) (b : Nat) : Bool :=
  ((s.blockWarps b).any fun w => w.foreman && !w.ended) || match s.block? b with
  | some x => x.savedWarps.any fun v => v.pos = 32
  | none => false

end State

/-- Run a queue form on the block of the running warp or foreman, once for all members or once for each (R104): `step` answers the block and
the value read, a trap, or a wait. The whole form waits or traps when one of its members does. -/
def queueForm (s : State) (w : Warp) (h : Hdr) (dst : Spec) (os : List Warp.Operand) (scopeRel : Bool)
    (step : Block → Nat → Except WRes (Block × Word)) : State × WRes :=
  match w.checked h (w.needs os ++ w.needsDst 1 dst) false false (.fall w) with
  | .fall _ =>
    let hasDst := match dst with | .scl _ => true | _ => false
    if Warp.never h || (w.active = [] && hasDst && 128 ≤ dst.num) then (s, .fall w)
    else if scopeRel && releaseBusy s w false then (s, .wait .log)
    else
      let ms := if w.anyPrivate (os.map (·.1)) then w.active else [w.active.headD 0]
      let b0 := (s.block? w.blk).getD { node := 0, ctx := w.ctx, b := 0, core := w.core }
      let r : Except WRes (Block × Word) := ms.foldl (fun acc m => match acc with
        | .error e => .error e
        | .ok (b, _) => step b m) (.ok (b0, 0))
      match r with
      | .error e => (s, e)
      | .ok (b, v) => (s.modBlock w.blk fun _ => b, .fall (if hasDst then w.sclWrite dst.num fun _ => v else w))
  | r => (s, r)

def execDqpush (f : FormR) (s : State) : Res :=
  machineOpNT s fun s w =>
    let live := fun (b : Block) (m : Nat) => (w.scl m f.b).toNat < b.wpb && s.warpLives w.blk (w.scl m f.b).toNat
    let b0 := (s.block? w.blk).getD { node := 0, ctx := w.ctx, b := 0, core := w.core }
    queueForm s w f.h (.imm 0) [(f.a, 1), (f.b, 1)] (live b0 (w.active.headD 0)) fun b m =>
      if !live b m then .ok (b, 0)
      else if 64 ≤ b.dq.length then .error (.wait .queue)
      else .ok ({ b with dq := b.dq ++ [(w.scl m f.a, (w.scl m f.b).toNat)] }, 0)

/-- After a queue form has taken a value: the acquire at core scope (R367). -/
def takeAcquire (k : State × WRes) (w : Warp) : State × WRes :=
  match k with
  | (s, .fall w1) =>
    let s1 := (s.putWarp w1).acquireBy w.key w.core 1
    (s1, .fall ((s1.warp? w.key).getD w1))
  | r => r

def execDqpop (f : FormR) (s : State) : Res :=
  machineOpNT s fun s w =>
    let r := queueForm s w f.h f.dst [] false fun b _ =>
      match b.dq.findIdx? fun e => e.2 = w.info.pos with
      | some i => .ok ({ b with dq := b.dq.eraseIdx i }, ((b.dq.getD i (0, 0)).1))
      | none => if s.foremanLives w.blk then .error (.wait .queue) else .error (.trap w { cls := 17 })
    if Warp.never f.h then r else takeAcquire r w

def execDqstat (f : FormR) (s : State) : Res :=
  machineOpNT s fun s w => queueForm s w f.h f.dst [] false fun b _ =>
    .ok (b, BitVec.ofNat 64 (if w.foreman then (64 - b.dq.length) + 2 ^ 32 * b.mbox.length
      else (b.dq.filter fun e => e.2 = w.info.pos).length + 2 ^ 32 * (16 - b.mbox.length)))

def execFmpost (f : FormR) (s : State) : Res :=
  machineOpNT s fun s w => queueForm s w f.h (.imm 0) [(f.a, 1)] true fun b m =>
    if 16 ≤ b.mbox.length then .error (.wait .queue) else .ok ({ b with mbox := b.mbox ++ [w.scl m f.a] }, 0)

def execFmrecv (f : FormR) (s : State) : Res :=
  machineOpNT s fun s w =>
    let r := queueForm s w f.h f.dst [] false fun b _ =>
      match b.mbox with
      | v :: rest => .ok ({ b with mbox := rest }, v)
      | [] => if (List.range b.wpb).any fun p => s.warpLives w.blk p then .error (.wait .queue) else .error (.trap w { cls := 17 })
    if Warp.never f.h then r else takeAcquire r w

/-- `fmend` ends the foreman (R368). -/
def execFmend (f : FormR) (s : State) : Res := machineOpNT s fun s w => (s, if Warp.never f.h then .fall w else .switch w.endWarp)

end Sys2Proof.Machine
end

