-- ==== Sys2Proof/Machine/Fabric.lean ====
section
/-!
DEFINITION. Fabric ports and their lanes (R422–R426) and the forms of the collectives family (R445–R448).
-/

namespace Sys2Proof.Machine

/-! ## Lanes and ports (R424–R426) -/

/-- A lane carries flits: GOOD or MARGINAL. -/
def PortLane.up (l : PortLane) : Bool := l.st ≤ 1

/-- The numbers of the lanes of a port for which `p` holds. -/
def Port.lanesWith (p : Port) (f : PortLane → Bool) : List Nat := (List.range 8).filter fun i => match p.lanes[i]? with | some l => f l | none => false

/-- W (R425). -/
def Port.fitWidth (p : Port) : Nat :=
  let n := (p.lanesWith PortLane.up).length
  if 8 ≤ n then 8 else if 4 ≤ n then 4 else if 2 ≤ n then 2 else n

/-- A port none of whose lanes is connected (R424, R448). -/
def Port.unconnected (p : Port) : Bool := p.lanesWith (fun l => l.st != 3) = []

def bitsOf (l : List Nat) : Nat := l.foldl (fun n i => n + 2 ^ i) 0

/-- The PORTST word (R426). -/
def Port.status (p : Port) : Word :=
  if p.unconnected then 0x30
  else BitVec.ofNat 64 (p.width + 16 * (if p.width = 8 then 0 else if p.width = 0 then 2 else 1) + 2 ^ 8 * bitsOf ((p.lanesWith PortLane.up).take p.width) +
    2 ^ 16 * bitsOf (p.lanesWith fun l => l.st = 1) + 2 ^ 24 * bitsOf (p.lanesWith fun l => 2 ≤ l.st) + 2 ^ 32 * p.peer + 2 ^ 48 * min p.wchg 0xFFFF)

/-- The word of a lane (R426). -/
def PortLane.word (l : PortLane) : Word :=
  BitVec.ofNat 64 (min l.margin 1023 + 2 ^ 10 * l.st + 2 ^ 16 * sat32 l.serr + 2 ^ 48 * min l.trans 0xFFFF)

/-- A health word of a port (R426). -/
def State.portWord (s : State) (port sel : Nat) : Word :=
  let p := tget {} s.ports port
  if sel = 0 then p.status
  else if p.unconnected then 0
  else if sel ≤ 5 then BitVec.ofNat 64 ([p.sent, p.received, p.replayed, p.fixed, p.unfixed].getD (sel - 1) 0)
  else if sel ≤ 7 then 0
  else ((p.lanes[sel - 8]?).getD {}).word

def execFhrd (f : FormR) (s : State) : Res :=
  machineOpNT s fun s w => (s, w.sclOp f.h f.dst [] false fun _ => s.portWord (f.x.extractLsb' 0 5).toNat (f.x.extractLsb' 5 4).toNat)

/-- The next state of a lane at the end of an interval, and its run of good intervals (R424). -/
def PortLane.next (l : PortLane) (margin serr : Nat) (high : Bool) : Nat × Nat :=
  let failing := margin < 150 || high
  match l.st with
  | 0 => if failing then (2, 0) else if margin < 350 || 1000000 < serr then (1, 0) else (0, 0)
  | 1 =>
    let run := if 450 ≤ margin && serr ≤ 10000 then l.goodRun + 1 else 0
    if failing then (2, 0) else if 64 ≤ run then (0, 0) else (1, run)
  | n => (n, 0)

/-- A lane changes to a state. -/
def PortLane.moveTo (l : PortLane) (st : Nat) : PortLane := if st = l.st then l else { l with st := st, trans := l.trans + 1, goodRun := 0 }

/-- The width follows the lanes; a change retrains the port (R425). -/
def Port.refit (p : Port) (now : Nat) : Port :=
  let w := p.fitWidth
  if w = p.width then p else { p with width := w, wchg := p.wchg + 1, retraining := some now }

/-- The counts of a port grow by what it has sent, corrected and failed to correct (R426, log entry 42). -/
def Port.traffic (p : Port) (n : Nat × Nat × Nat) : Port :=
  { p with sent := p.sent + n.1, fixed := p.fixed + n.2.1, unfixed := p.unfixed + n.2.2 }

/-- LANE_INTERVAL (R424): every connected lane of a port is measured; entering MARGINAL or RETIRED is reported (R473). -/
def execLaneInterval (port : Nat) (margins serrs : List Nat) (highRate : BitVec 8) (s : State) : Res :=
  .next (match tfind s.ports port with
    | none => s
    | some p =>
      let step := fun (i : Nat) (l : PortLane) =>
        if l.st = 3 then l
        else
          let (st, run) := l.next (margins.getD i 0) (serrs.getD i 0) (highRate.getLsbD i)
          { l.moveTo st with margin := margins.getD i 0, serr := serrs.getD i 0, goodRun := run }
      let new := (List.range p.lanes.length).map fun i => step i ((p.lanes[i]?).getD {})
      let worse := (List.range p.lanes.length).filter fun i =>
        let a := ((p.lanes[i]?).getD {}).st
        let b := ((new[i]?).getD {}).st
        a != b && (b = 1 || b = 2)
      let s1 : State := { s with ports := tset s.ports port (({ p with lanes := new }.traffic (Config.portTraffic s.tick port)).refit s.cycle) }
      worse.foldl (fun s _ => s.logDevice (({} : ErrRec).add 8 0 (0x660 + port) p.peer)) s1)

/-- PORT_RETRAIN_DONE (R425): retraining takes 2^16 cycles. -/
def execPortRetrainDone (port : Nat) (s : State) : Res :=
  .next (match tfind s.ports port with
    | none => s
    | some p => match p.retraining with
      | some t => if s.cycle < t + 65536 then s else { s with ports := tset s.ports port { p with retraining := none } }
      | none => s)

/-- LANE_RETRAIN (R424): firmware retrains a RETIRED lane. -/
def execLaneRetrain (port lane : Nat) (meetsGood : Bool) (s : State) : Res :=
  .next (match tfind s.ports port with
    | none => s
    | some p => match p.lanes[lane]? with
      | none => s
      | some l =>
        if l.st != 2 || !meetsGood then s
        else { s with ports := tset s.ports port ({ p with lanes := lset p.lanes lane (l.moveTo 0) }.refit s.cycle) })

/-- FLIT_RECEIVE (R423): an intact flit is accepted; one that fails its CRC is replayed, up to 16 times, and then its port retrains. -/
def execFlitReceive (port : Nat) (crcOk : Bool) (s : State) : Res :=
  .next (match tfind s.ports port with
    | none => s
    | some p0 =>
      let p := p0.traffic (Config.portTraffic s.tick port)
      if p.width = 0 || p.retraining.isSome then s
      else if crcOk then { s with ports := tset s.ports port { p with received := p.received + 1, replays := 0 } }
      else if 16 ≤ p.replays then { s with ports := tset s.ports port { p with replays := 0, retraining := some s.cycle } }
      else ({ s with ports := tset s.ports port { p with replays := p.replays + 1, replayed := p.replayed + 1 } }).count 0x1C 0 1)

/-- A rank with no live port in its route (R423). -/
def State.unreachable (s : State) (r : Nat) : Bool :=
  let route := tget 0 s.route r
  r != s.rank && !((List.range 24).any fun p => route.getLsbD p && (tget {} s.ports p).width != 0)

/-! ## Reading and loading groups (R447, R448) -/

/-- A form that names a record by common scalar registers and is made once: the checks, then one attempt (R446, R447). `pre` is a trap to be
taken first. -/
def fabricForm (opc : BitVec 9) (f : FormM) (hasB : Bool) (align : Nat) (pre : Warp → Option TrapReq) (release : Bool) (s : State) : Res :=
  machineOpNT s fun s w => endHeld s w fun w =>
    let hasDst := match f.dst with | .scl _ => true | _ => false
    let os : List Warp.Operand := (⟨f.addr, 0, f.fa⟩, 1) :: (if hasB then [(f.data, 1)] else [])
    match w.checked f.h (w.needs os ++ w.needsDst 1 f.dst) false false (.fall w) with
    | .fall _ =>
      let ea := w.ea f.addr f.off (w.active.headD 0) 0
      if Warp.never f.h || (w.active = [] && hasDst && 128 ≤ f.dst.num) then (s, .fall w)
      else match pre w with
        | some t => (s, .trap w t)
        | none =>
          if ea.toNat % align != 0 then (s, .trap w { cls := 11, slot := w.active.headD 0, detail := ea })
          else if (release && releaseBusy s w true) || w.freeEntry.isNone then (s, .wait .log)
          else commandOp s w (packM opc f) opc f.dst false (fun _ => ea) fun _ => if hasB then (w.scl 0 f.data).toNat else 0
    | r => (s, r)

/-- `grpld` (R447): privileged; it waits for the collectives of the entry. -/
def execGrpld (f : FormM) (s : State) : Res := fabricForm 0x199 f true 64 (fun w => if w.sup then none else some { cls := 23 }) false s

/-- `coll` (R446): it releases at device scope (R438). -/
def execColl (f : FormM) (s : State) : Res := fabricForm 0x198 f false 128 (fun _ => none) true s

/-- `grprd` (R448). -/
def execGrprd (f : FormR) (s : State) : Res :=
  machineOpNT s fun s w => (s, w.sclOp f.h f.dst [(f.b, 1)] false fun m =>
    let g := (w.scl m f.b).toNat
    let e := if 255 < g then {} else tget {} (s.ctx w.ctx).groups g
    if f.x = 4 then BitVec.ofNat 64 s.rank
    else if !e.valid then 0
    else match f.x.toNat with
      | 0 => 1
      | 1 => BitVec.ofNat 64 e.n
      | 2 => BitVec.ofNat 64 e.own
      | _ => e.seq)

end Sys2Proof.Machine
end

