-- ==== Sys2Proof/Machine/Reliability.lean ====
section
/-!
DEFINITION. The reliability family (R465, R466), the comparison of a pair's outputs (R453, R455), and the repair of a shaft (R256) with the
boot-step record it writes (R474).
-/

namespace Sys2Proof.Machine

/-! ## The reliability family (R466) -/

def execKill (f : FormR) (s : State) : Res :=
  warpOpNT s fun w => w.checked f.h [] false false (.kill w (w.active.map fun m => (m, w.part f.h m)) 8 true)

/-- Word `n` of a lane mask. -/
def maskWord (x : LaneMask) (n : Nat) : Word := (x.extractLsb' (32 * n) 32).setWidth 64

def execDeadrd (f : FormR) (s : State) : Res :=
  warpOpNT s fun w => w.sclOp f.h f.dst [] true fun m => maskWord (w.bank m).dead f.x.toNat

/-- The tailing warp of a leader has retired what the leader has, and no output of the pair is held (R466). -/
def State.pairIdle (s : State) (w : Warp) : Bool := s.pairLevel w && w.outq = []

def execShwait (f : FormR) (s : State) : Res :=
  machineOpNT s fun s w => (s, if Warp.never f.h || w.tail.isNone || s.pairIdle w then .fall w else .wait .pair)

/-- The injection `errinj` makes pending, or none (R466). -/
def injection (v : Word) : Option (Nat × Nat × Nat × Nat) :=
  let kind := (v.extractLsb' 0 2).toNat
  let lane := (v.extractLsb' 7 7).toNat
  if kind = 0 || kind = 3 || v.extractLsb' 18 46 != 0 || 95 < lane then none
  else some (kind, (v.extractLsb' 2 5).toNat, lane, (v.extractLsb' 14 4).toNat)

/-- `errinj`: a private `sa` is read for each active member in turn, so the last one decides (R104, R466). -/
def execErrinj (f : FormR) (s : State) : Res :=
  warpOpNT s fun w => w.checked f.h (w.needs [(f.a, 1)]) false false (unlessNever f.h w (
    if !w.sup then .trap w { cls := 23 }
    else .fall { w with inject := injection (w.scl (if w.common? f.a.spec then 0 else w.active.getLastD 0) f.a) }))

/-! ## Outputs of a pair (R453, R455) -/

/-- Two parts of the same lane ask for the same output: address and data, and whether the lane is dead. -/
def Part.agrees (p q : Part) : Bool := p.slot = q.slot && p.lane = q.lane && p.dead = q.dead && p.addr = q.addr && p.data = q.data

/-- The lanes of a member slot whose outputs differ; a uniform output that differs counts for every lane of the member (R455). -/
def outputDiff (a b : PairEntry) (m : Nat) : LaneMask :=
  let mine := a.parts.filter fun p => p.slot = m
  let other := b.parts.filter fun p => p.slot = m
  let bad := (mine.filter fun p => !(other.any p.agrees)) ++ (other.filter fun p => !(mine.any p.agrees))
  if bad.any (fun p => p.lane = 96) || (a.blob != b.blob && mine.any fun p => p.lane = 96) then ~~~0#96
  else bad.foldl (fun u p => u ||| (1#96 <<< p.lane)) 0

/-- A held output is released: what matched will be performed, what did not match is dropped (R453). -/
def Warp.release (w : Warp) (q : Nat) (lost : Nat → LaneMask) : Warp :=
  ({ w with log := w.log.map fun (e : LogEntry) => if e.seq = q then { e with held := false } else e }).modParts q fun p =>
    if (lost p.slot).getLsbD p.lane || (p.lane = 96 && lost p.slot != 0) then { p with ok := true, fault := none } else p

/-- OUTPUT_COMPARE (R453): the oldest output the tailing warp has produced is compared with the leader's; lanes that differ are killed with
cause 1 (R455) and the rest of the output goes to be performed. -/
def execOutputCompare (c k : Nat) (s : State) : Res :=
  let key := warpKey c k
  match s.warp? key with
  | none => .next s
  | some w =>
    match w.tail.bind fun t => s.warp? (warpKey c t) with
    | none => .next s
    | some y =>
      match w.outq, y.outq with
      | a :: rest, b :: others =>
        if a.n != b.n then .next s
        else
          let once := w.log.any fun e => e.seq = a.seq && e.shared
          let diff := fun (m : Nat) => outputDiff a b m
          let lost := fun (m : Nat) =>
            if once && w.slots.any (fun m => diff m == ~~~0#96) then ~~~0#96 else diff m
          let s1 := (s.putWarp (({ w with outq := rest }).release a.seq lost)).modWarp y.key fun y => { y with outq := others }
          let s2 := w.slots.foldl (fun s m => s.killLanes key m (lost m) 1 a.pc.toNat) s1
          .next ((s2.afterKill s key).afterKill s y.key)
      | _, _ => .next s

/-! ## The boot-step record (R474) -/

/-- The record is written: the other copy takes it, with SEQ increased by one (R474). -/
def State.writeBoot (s : State) (f : BootRec → BootRec) : State :=
  { s with bootOld := s.boot, boot := { f s.boot with seq := s.boot.seq + 1 } }

/-! ## Shaft repair (R255, R256) -/

/-- The fields of ROOFST (R255). -/
def roofWord (mode spare used hgrp : Nat) : Word := BitVec.ofNat 64 (mode % 4 + 4 * (spare % 4) + 16 * (used % 256) + 2 ^ 12 * (hgrp % 32))
def roofUsed (v : Word) : Nat := (v.extractLsb' 4 8).toNat
def roofGroup (v : Word) : Nat := (v.extractLsb' 12 5).toNat

namespace State

/-- Report the loss of a roof in the entry of every launch with a block on the core (R256). -/
def roofLoss (s : State) (core : Nat) : State :=
  let ids := ((s.blocks.filter fun p => p.2.core = core && p.2.st = .resident && !p.2.aborted && !s.blockOver p.1 p.2).map fun p => p.2.node).eraseDups
  ids.foldl (fun s id => s.modNode id fun n => { n with err := n.err.add 4 0 core 0 }) s

/-- The repair steps 2 to 4 are logged (R473). -/
def logRoof (s : State) (core : Nat) : State := s.logDevice (({} : ErrRec).add 4 0 core 0)

/-- Every line of the far scratch of a bank. -/
def farLines (s : State) (core : Nat) : List Nat :=
  (List.range ((2 ^ 26 - 2 ^ 22 * tget 0 s.ways core) / 128)).map fun i => roofLo + core * 2 ^ 26 + 128 * i

/-- Retire a bank (R256 steps 3 and 4): of the lines its ways may hold dirty, those that `dirty` names are lost; a spare bank of the die takes its place, or the core runs with no roof. -/
def retireBank (s : State) (core : Nat) (dirty : List Nat) : State :=
  let v := tget 0 s.roofst core
  let s1 := (s.addPoison ((dirty.map fun a => a / 128 * 128).filter fun l => s.dirty.contains (core, l))).cleanWays core
  let n := tget 0 s.spares (dieOf core)
  let s2 : State :=
    if n < 4 then
      ({ s1 with roofst := tset s1.roofst core (roofWord 2 n (roofUsed v) 0), spares := tset s1.spares (dieOf core) (n + 1) }).addPoison
        (s1.farLines core)
    else { s1 with roofst := tset s1.roofst core (roofWord 3 0 (roofUsed v) 0) }
  let s3 := s2.writeBoot fun b => { b with map := tset b.map core ((tget 0 s2.roofst core).extractLsb' 0 17) }
  (s3.roofLoss core).logRoof core

/-- One wire of a group of a core's shaft fails (R256). -/
def wireFails (s : State) (core g : Nat) (dirty : List Nat) : State :=
  let v := tget 0 s.roofst core
  let mode := (v.extractLsb' 0 2).toNat
  let key := core * 32 + g
  let used := tget 0 s.wires key
  if 2 ≤ mode then s
  else if used < 4 then
    ({ s with wires := tset s.wires key (used + 1), roofst := tset s.roofst core (roofWord mode 0 (roofUsed v + 1) (roofGroup v)) }).count 0x15 core 1
  else if mode = 0 then ({ s with roofst := tset s.roofst core (roofWord 1 0 (roofUsed v) g) }).logRoof core
  else if roofGroup v = g then s
  else s.retireBank core dirty

end State

/-- SHAFT_WIRE_FAIL (R256): `dirty` are the lines that the cache ways still hold dirty, among those they may (log entry 7). -/
def execShaftWireFail (core group : Nat) (dirty : List Nat) (s : State) : Res :=
  .next (if core < 1280 && group < 32 then s.wireFails core group dirty else s)

end Sys2Proof.Machine
end

