-- ==== Sys2Proof/Machine/Boot.lean ====
section
/-!
DEFINITION. Starting and stopping the device (R474–R476), its power stage (R477–R479) and its identity messages (R480).
-/

namespace Sys2Proof.Machine

/-! ## The start (R474–R476) -/

/-- Steps 4 and 7 can be skipped (R475). -/
def canSkip (n : Nat) : Bool := n = 4 || n = 7

/-- Step 1 has no alternative (R475). -/
def hasAlt (n : Nat) : Bool := n != 1

/-- FAILCNT of step `n`. -/
def BootRec.failOf (b : BootRec) (n : Nat) : Nat := b.fail.getD (n - 1) 0
def BootRec.addFail (b : BootRec) (n : Nat) : BootRec := { b with fail := lset b.fail (n - 1) (min 255 (b.failOf n + 1)) }

/-- One step of the CRC-32 of IEEE 802.3, least significant bit first. -/
def crcStep (c : BitVec 32) : BitVec 32 := if c.getLsbD 0 then (c >>> 1) ^^^ 0xEDB88320#32 else c >>> 1

/-- The CRC-32 of IEEE 802.3 (R474). -/
def crc32 (bs : List Byte) : BitVec 32 :=
  ~~~(bs.foldl (fun c b => crcStep (crcStep (crcStep (crcStep (crcStep (crcStep (crcStep (crcStep (c ^^^ b.setWidth 32))))))))) (BitVec.allOnes 32))

/-- The bytes of a copy of the record before its CRC (R474). -/
def BootRec.body (b : BootRec) : List Byte :=
  let zeros := fun (n : Nat) => List.replicate n (0#8)
  leBytes 8 b.seq ++ leBytes 1 b.step ++ leBytes 1 (if b.pend then 1 else 0) ++ zeros 6 ++
  (List.range 7).flatMap (fun i => leBytes 1 (b.failOf (i + 1))) ++ zeros 41 ++ leBytes 2 b.rank ++ leBytes 1 b.size ++ zeros 189 ++
  (List.range 1280).flatMap (fun g => leBytes 4 (tget 0 b.map g).toNat) ++ zeros 0xB00 ++
  (List.range 16384).flatMap (fun r => leBytes 3 (tget 0 b.route r).toNat) ++ zeros 0x1FFC

/-- A copy of the record as flash holds it: 64 KiB (R474). -/
def BootRec.image (b : BootRec) : List Byte := b.body ++ leBytes 4 (crc32 b.body).toNat

/-- A copy in flash is valid when its CRC-32 is correct (R474). -/
def bootValid (bs : List Byte) : Bool := leNat ((bs.drop 0xFFFC).take 4) = (crc32 (bs.take 0xFFFC)).toNat

namespace State

/-- The start halts at step `n` (R475). -/
def halt (s : State) (n : Nat) : State := { s with devState := 2, devFail := n }

/-- The last step is over: the device is ready (R476). -/
def readyNow (s : State) : State := { s with devState := 1 }

/-- What step `n` leaves when its work succeeds, after `f` failures (R255, R333, R422, R424, R426, R478). -/
def stepEffect (s : State) (n f : Nat) : State :=
  match n with
  | 2 => { s with pcap := (List.range 8).map fun d =>
      (d, BitVec.ofNat 64 (300 + 2 ^ 16 * (Config.powerLimits d).1.toNat + 2 ^ 28 * (Config.powerLimits d).2.toNat)) }
  | 4 =>
    let img := fun (g : Nat) => (tget 0 s.boot.map g)
    let spare := fun (d : Nat) => (List.range 160).foldl (fun n i =>
      let v := img (160 * d + i)
      if v.extractLsb' 0 2 = 2 then max n ((v.extractLsb' 2 2).toNat + 1) else n) 0
    { s with roofst := s.boot.map.map fun p => (p.1, p.2.setWidth 64), spares := (List.range 8).map fun d => (d, spare d) }
  | 5 => { s with mscSize := if f = 0 && s.boot.size ≤ 4 then s.boot.size else 0, sectors := [] }
  | 7 =>
    let lane := fun (p i : Nat) =>
      ({ st := if !(Config.portLanes p).getLsbD i then 3 else if (Config.portRetired s.tick p).getLsbD i then 2 else 0 } : PortLane)
    let port := fun (p : Nat) =>
      let q : Port := { lanes := (List.range 8).map (lane p), peer := if Config.portLanes p = 0 then 0 else (Config.portPeer p).toNat }
      { q with width := q.fitWidth }
    { s with rank := s.boot.rank, route := s.boot.route, ports := (List.range 24).map fun p => (p, port p) }
  | _ => s

/-- The skip of step 7: every port is down (R475). A lane that is not connected is UNUSED all the same (R424). -/
def portsDown (s : State) : State :=
  let lane := fun (p i : Nat) => ({ st := if (Config.portLanes p).getLsbD i then 2 else 3 } : PortLane)
  { s with rank := s.boot.rank, route := s.boot.route,
           ports := (List.range 24).map fun p => (p, { lanes := (List.range 8).map (lane p),
                                                       peer := if Config.portLanes p = 0 then 0 else (Config.portPeer p).toNat }) }

/-- Begin step `n`, or what comes after it when it is skipped (R475). The record that step 2 writes as it begins is the one measured (R480,
log entry 62). -/
def beginStep (s : State) : List Nat → State
  | [] => s.readyNow
  | n :: rest =>
    let f := s.boot.failOf n
    if 3 ≤ f then s.halt n
    else if 2 ≤ f && n = 7 then beginStep ({ s with devAlt := s.devAlt ||| (1#7 <<< (n - 1)) }.portsDown) rest
    else
      let s1 := { s.writeBoot (fun b => { b with step := n, pend := true }) with devStep := n }
      if n = 2 then { s1 with measured := s1.boot } else s1

/-- Steps `n` to 7. -/
def bootSteps (n : Nat) : List Nat := (List.range (8 - n)).map (n + ·)

/-- A start from step 1 on (R475): everything but the flash and what the outside has seen is as after reset. -/
def startUp (s : State) : State :=
  let s1 : State := { State.reset with
    tick := s.tick, agenda := s.agenda, hostOut := s.hostOut,
    boot := if s.boot.seq < s.bootOld.seq then s.bootOld else s.boot, bootOld := if s.boot.seq < s.bootOld.seq then s.boot else s.bootOld }
  let s2 := if s1.boot.pend then s1.writeBoot fun b => { b.addFail b.step with pend := false } else s1
  s2.beginStep (bootSteps 1)

/-- The step in progress succeeds (R475, R476). -/
def stepOk (s : State) : State :=
  let n := s.devStep
  let f := s.boot.failOf n
  let alt := if f = 0 || (!hasAlt n && !(2 ≤ f && canSkip n)) then s.devAlt else s.devAlt ||| (1#7 <<< (n - 1))
  let s1 : State := { (s.writeBoot fun b => { b with pend := false }) with devAlt := alt }
  (s1.stepEffect n f).beginStep (bootSteps (n + 1))

/-- The step in progress fails: the start begins again, or halts at the third failure (R475). -/
def stepFail (s : State) : State :=
  let n := s.devStep
  let s1 := s.writeBoot fun b => { b.addFail n with pend := false }
  if 3 ≤ s1.boot.failOf n then s1.halt n else s1.startUp

/-- Everything the device holds outside its flash is lost. -/
def powerDown (s : State) : State :=
  { State.reset with tick := s.tick, agenda := s.agenda, hostOut := s.hostOut, boot := s.boot, bootOld := s.bootOld, powered := false }

/-- DEVST (R476). -/
def devst (s : State) : Word := BitVec.ofNat 64 (s.devState + 4 * s.devStep + 32 * s.devFail + 2 ^ 8 * s.devAlt.toNat)

end State

/-- DEVICE_START (R475): a start after power-on, or a CXL hot reset. -/
def execDeviceStart (hot : Bool) (s : State) : Res :=
  .next (if hot || !s.powered || (s.devState = 0 && s.devStep = 0) then s.startUp else s)

/-- BOOT_STEP_DONE (R475): the step in progress succeeds or fails. -/
def execBootStepDone (ok : Bool) (s : State) : Res :=
  .next (if s.devState = 0 && s.devStep != 0 && s.boot.pend then (if ok then s.stepOk else s.stepFail) else s)

/-- A write to BOOTCLR zeroes every FAILCNT (R475), whatever its value. -/
def execBootclr (_ : BitVec 64) (s : State) : Res :=
  .next (if s.powered then s.writeBoot fun b => { b with fail := [0, 0, 0, 0, 0, 0, 0] } else s)

/-- POWER_LOSS (R475): a step in progress leaves PEND set in the record. -/
def execPowerLoss (s : State) : Res := .next s.powerDown

/-! ## Power (R477–R479) -/

/-- TELEMETRY_SAMPLE (R477). -/
def execTelemetrySample (rail : Nat) (mv ca temp : BitVec 16) (s : State) : Res :=
  .next (if 28 ≤ rail || !s.powered then s else
    let n := (tget 0 s.rails rail).extractLsb' 48 16 + 1
    { s with rails := tset s.rails rail (n ++ temp ++ ca ++ mv) })

/-- INPUT_SHUTDOWN (R477): the input stage shuts the module down. -/
def execInputShutdown (s : State) : Res := .next s.powerDown

/-- The fields of PCAP (R478). -/
def plim (v : Word) : Nat := (v.extractLsb' 0 16).toNat
def flim (v : Word) : Nat := (v.extractLsb' 16 12).toNat
def mmin (v : Word) : Nat := (v.extractLsb' 28 12).toNat
def vfStep (v : Word) : Nat := (v.extractLsb' 40 2).toNat
def throttle (v : Word) : Nat := (v.extractLsb' 42 6).toNat
/-- PCAP with other VF and THR. -/
def setCaps (v : Word) (vf thr : Nat) : Word := (v &&& 0xFFFFFFFFFF#64) ||| BitVec.ofNat 64 (2 ^ 40 * vf + 2 ^ 42 * thr)

/-- CAP_WINDOW (R479): the end of a 1 ms window, with the die's power, peak flux and least margin in the units of PCAP. -/
def execCapWindow (die power flux margin : Nat) (s : State) : Res :=
  .next (if 8 ≤ die || !s.powered then s else
    let v := tget 0 s.pcap die
    let above := plim v < power || flim v < flux || margin < mmin v
    let inside := 10 * power ≤ 9 * plim v && 10 * flux ≤ 9 * flim v && 11 * mmin v ≤ 10 * margin
    let new :=
      if above then (if throttle v < 48 then setCaps v (vfStep v) (throttle v + 8) else setCaps v (min 3 (vfStep v + 1)) (throttle v))
      else if inside then (if 0 < vfStep v then setCaps v (vfStep v - 1) (throttle v) else setCaps v 0 (throttle v - 8))
      else v
    { s with pcap := tset s.pcap die new })

/-- MARGIN_EMERGENCY (R479): a margin below MMIN / 2 sets VF to 3. -/
def execMarginEmergency (die margin : Nat) (s : State) : Res :=
  .next (if 8 ≤ die || !s.powered then s else
    let v := tget 0 s.pcap die
    if 2 * margin < mmin v then { s with pcap := tset s.pcap die (setCaps v 3 (throttle v)) } else s)

/-- SPDM_MESSAGE (R480): the device answers, by the record it measured at start step 2 and the firmware image that runs; how an answer
carries them is free (log entry 62). -/
def execSpdmMessage (code : BitVec 8) (body : List Byte) (s : State) : Res :=
  .next (if s.powered then { s with hostOut := s.hostOut ++ [.spdm (Config.spdmAnswer s.tick code body s.measured.image (s.devAlt.getLsbD 1))] } else s)

end Sys2Proof.Machine
end

