-- ==== Sys2Proof/Machine/ExactOps.lean ====
section
/-!
DEFINITION. The exact family (R202–R210): adding terms, merging, moving, clearing, rounding and reading accumulators, and the forms that
access memory.
-/

namespace Sys2Proof.Machine

/-- The accumulator a specifier names. -/
def xaOf (d : Spec) : Nat := d.num - 0x20

def Warp.xaGet (w : Warp) (d : Spec) : Exact := w.xa.getD (xaOf d) {}
def Warp.xaPut (w : Warp) (d : Spec) (a : Exact) : Warp := w.xput (xaOf d) a

/-- Add one term for each lane that takes part in each active member, and POISON for dead lanes that would (R197, R203). -/
def exactAdds (w : Warp) (h : Hdr) (d : Spec) (os : List Warp.Operand) (term : Nat → Nat → Val) : WRes :=
  w.checked h (w.needs os ++ w.needsDst 1 d) (w.misfits os) false (
    let a := w.active.foldl (fun a m => (w.part h m).toList.foldl (fun a l => a.addTerm (term m l)) a) (w.xaGet d)
    let a := if w.active.any fun m => w.deadPart h m != 0 then a.flag 3 else a
    .fall ((w.xaPut d a).noteDead h os))

def execExaddF64 (f : FormR) (s : State) : Res :=
  warpOp s fun w => exactAdds w f.h f.dst [(f.a, 2)] fun m l => Fmt.f64.decode (w.flt64 m f.a l)

def execExaddF32 (f : FormR) (s : State) : Res :=
  warpOp s fun w => exactAdds w f.h f.dst [(f.a, 1)] fun m l => Fmt.f32.decode (w.fltSmall Fmt.f32 m f.a l 0)

def execExmacF64 (f : FormR) (s : State) : Res :=
  warpOp s fun w => exactAdds w f.h f.dst [(f.a, 2), (f.b, 2)] fun m l =>
    mulVal (Fmt.f64.decode (w.flt64 m f.a l)) (Fmt.f64.decode (w.flt64 m f.b l))

def execExmrg (f : FormR) (s : State) : Res :=
  warpOp s fun w => w.checked f.h (w.needs [(f.a, 1)] ++ w.needsDst 1 f.dst) false false (unlessNever f.h w (
    .fall (w.xaPut f.dst ((w.xaGet f.dst).merge (w.xaGet f.a.spec)))))

def execExmov (f : FormR) (s : State) : Res :=
  warpOp s fun w => w.checked f.h (w.needs [(f.a, 1)] ++ w.needsDst 1 f.dst) false false (unlessNever f.h w (
    .fall (w.xaPut f.dst (w.xaGet f.a.spec))))

def execExclr (f : FormR) (s : State) : Res :=
  warpOp s fun w => w.checked f.h (w.needsDst 1 f.dst) false false (unlessNever f.h w (.fall (w.xaPut f.dst {})))

def execExrnd (f : FormR) (s : State) : Res :=
  warpOp s fun w => w.sclOp f.h f.dst [(f.a, 1)] false fun _ => BitVec.ofNat 64 ((w.xaGet f.a.spec).round f.x.toNat)

def execExstat (f : FormR) (s : State) : Res := warpOp s fun w => w.sclOp f.h f.dst [(f.a, 1)] false fun _ => (w.xaGet f.a.spec).st

/-! ## Memory forms -/

def execExld (f : FormM) (s : State) : Res :=
  accessOp s fun s w =>
    issueOnce s w (packM 0x0E6 f) f { acc := .exactLoad, size := 576, attr := f.attr, regs := 1, dst := f.dst } 64 (fun _ => 0) [] 0

def execExst (f : FormM) (s : State) : Res :=
  accessOp s fun s w =>
    issueOnce s w (packM 0x0E7 f) f { acc := .exactStore, size := 576, attr := f.attr, data := some (f.data, 1) } 64 (fun _ => 0)
      (w.xaGet f.data.spec).toCell 0

/-- `exldw` waits for its window, so that the exact-format trap is raised before any effect (R209). -/
def execExldw (f : FormM) (s : State) : Res :=
  accessOp s fun s w =>
    match w.log.find? fun e => e.acc = .windowLoad && e.pc = w.pc && e.sup = w.sup with
    | some e =>
      if e.blob = [] then .wait .memory
      else
        let w1 := w.modParts e.seq fun p => { p with ok := true }
        if e.blob.length < 24 then .fall w1
        else match Exact.ofWindow e.blob with
          | some a => .fall (w1.xaPut f.dst a)
          | none => .trap w1 { cls := 15 }
    | none =>
      match issueOnce s w (packM 0x0E8 f) f { acc := .windowLoad, size := 576, attr := f.attr, regs := 1, dst := f.dst } 64 (fun _ => 0) [] 0 with
      | .fall w1 => if w1.log.length = w.log.length then .fall w1 else .done { w1 with st := .wait, waitOn := some .memory, waitSince := s.coreCycle w.core }
      | r => r

/-- `exstw` stores the window and writes its length (R209). -/
def execExstw (f : FormM) (s : State) : Res :=
  accessOp s fun s w =>
    let win := (w.xaGet f.data.spec).toWindow
    w.checked f.h (w.needsDst 1 f.dst) false ((match f.dst with | .scl n => decide (n.toNat < 128) | _ => false) && !(w.common? f.addr)) (
      match issueOnce s w (packM 0x0E9 f) f { acc := .windowStore, size := win.length, attr := f.attr, data := some (f.data, 1) } 64
          (fun _ => 0) win 0 with
      | .fall w1 => .fall (if Warp.never f.h || w.active = [] then w1 else w1.sclWrite f.dst.num fun _ => BitVec.ofNat 64 win.length)
      | r => r)

def execExaddmF64 (f : FormM) (s : State) : Res :=
  accessOp s fun s w =>
    issueAt s w (packM 0x0EA f) f.h [Warp.addrOperand f, (f.data, 2)]
      { acc := .exactAdd, size := 576, attr := f.attr, data := some (f.data, 2), deads := true, perMember := true } 64
      (w.ea f.addr f.off) (fun m l => BitVec.ofNat 128 (w.flt64 m f.data l)) 0

def execExmrgm (f : FormM) (s : State) : Res :=
  accessOp s fun s w =>
    issueOnce s w (packM 0x0EB f) f { acc := .exactMerge, size := 576, attr := f.attr, data := some (f.data, 1) } 64 (fun _ => 0)
      (w.xaGet f.data.spec).toCell 0

end Sys2Proof.Machine
end

