-- ==== Sys2Proof/Machine/Collectives.lean ====
section
/-!
DEFINITION. Running collectives (R429, R433–R444, R495): reading and sending this device's contribution, receiving the others', combining them,
and the ways a collective ends.
-/

namespace Sys2Proof.Machine

/-! ## Combining (R432, R495) -/

/-- The floating-point format of a type, if it has one (R431). -/
def cFmt (t : Nat) : Option Fmt := match t with | 0 => some Fmt.f64 | 1 => some Fmt.f32 | 2 => some Fmt.bf16 | 3 => some Fmt.f16 | _ => none

/-- Bits and signedness of an integer type (R431). -/
def cInt (t : Nat) : Nat × Bool := match t with | 4 => (64, true) | 5 => (32, true) | 6 => (32, false) | _ => (8, true)

/-- One combine of two elements (R432). -/
def combine2 (rop t a b : Nat) : Nat :=
  match cFmt t with
  | some f => if rop = 0 then fpAdd f {} a b else fpMinMax f false (rop = 2) a b
  | none =>
    let (w, sg) := cInt t
    let less := intOfBits w sg a ≤ intOfBits w sg b
    match rop with
    | 0 => (a + b) % 2 ^ w
    | 1 => if less then a else b
    | 2 => if less then b else a
    | 5 => a &&& b
    | 6 => a ||| b
    | _ => a ^^^ b

/-- The left fold of a sequence (R495). -/
def foldLeft (op : Nat → Nat → Nat) : List Nat → Nat
  | [] => 0
  | a :: t => t.foldl op a

/-- One level of the balanced tree: neighbours are combined (R495). -/
def pairUp (op : Nat → Nat → Nat) : List Nat → List Nat
  | a :: b :: t => op a b :: pairUp op t
  | l => l

/-- The balanced tree of a power of two of values (R495). -/
def treeFold (op : Nat → Nat → Nat) : Nat → List Nat → Nat
  | 0, l => l.headD 0
  | n + 1, l => treeFold op n (pairUp op l)

/-- The algorithms of R435. -/
inductive CollAlg where
  | direct | halving | ring | biring | twoLevel
  deriving DecidableEq, Repr

def isPow2 (n : Nat) : Bool := n != 0 && 2 ^ Nat.log2 n = n

/-- The algorithm of a collective: `bytes` is C × e (R435). -/
def chooseAlg (op hint n bytes : Nat) : CollAlg :=
  let auto : CollAlg :=
    if op = 4 || n ≤ 8 then .direct else if isPow2 n && bytes ≤ 2 ^ 20 then .halving else if 256 < n then .twoLevel else .biring
  match hint with
  | 1 => .ring
  | 2 => .biring
  | 3 => if isPow2 n then .halving else auto
  | 4 => if 16 ≤ n then .twoLevel else auto
  | 5 => if n ≤ 64 then .direct else auto
  | _ => auto

/-- The values of an element by group rank, combined in the order of the algorithm (R495): `seg` is its segment, `second` whether it lies in
the second half of it, `sets` the set of each rank. -/
def combineOrder (op : Nat → Nat → Nat) (alg : CollAlg) (vals sets : List Nat) (seg : Nat) (second : Bool) : Nat :=
  let n := vals.length
  let at' := fun (i : Nat) => vals.getD (i % n) 0
  let up := (List.range n).map fun i => at' (seg + 1 + i)
  let down := (List.range n).map fun i => at' (seg + 2 * n - 1 - i)
  match alg with
  | .direct => foldLeft op vals
  | .halving => treeFold op (Nat.log2 n + 1) vals
  | .ring => foldLeft op up
  | .biring => foldLeft op (if second then down else up)
  | .twoLevel => foldLeft op (sets.eraseDups.map fun g => foldLeft op (((vals.zip sets).filter fun p => p.2 = g).map (·.1)))

/-- The segment of element `i` and whether it lies in the segment's second half, for OP 0 (R495). -/
def segmentOf (n c i : Nat) : Nat × Bool :=
  let seg := ((List.range n).filter fun s => s * c / n ≤ i).foldl max 0
  let lo := seg * c / n
  let hi := (seg + 1) * c / n
  (seg, lo + (hi - lo) / 2 ≤ i)

/-! ## Contributions -/

/-- Element `i` of a contribution whose elements have `e` bytes. -/
def elemAt (bs : List Byte) (e i : Nat) : List Byte := (bs.drop (e * i)).take e

namespace Coll

def op (c : Coll) : Nat := cOp c.params
def ty (c : Coll) : Nat := cType c.params
def rop (c : Coll) : Nat := cRop c.params
def count (c : Coll) : Nat := cCount c.params
def memb (c : Coll) : Nat := cMemb c.params
def esz (c : Coll) : Nat := cSize c.ty
def n (c : Coll) : Nat := c.group.n
def me (c : Coll) : Nat := c.group.own
def unit (c : Coll) : Nat := 0x690 + c.engine
def root (c : Coll) : Nat := (cOpw c.params 0).toNat
def recv (c : Coll) (off : Nat) : Word := cRecv c.params + BitVec.ofNat 64 off

/-- The group ranks whose contributions it waits for. -/
def awaited (c : Coll) : List Nat :=
  if c.op = 3 then (if c.me = c.root then [] else [c.root]) else (List.range c.n).filter (· != c.me)

/-- Elements each member supplies (R431). -/
def sendElems (c : Coll) : Nat := if c.op = 1 || c.op = 4 then c.n * c.count else if c.op = 3 && c.me != c.root then 0 else c.count

/-- Bytes of an element as a contribution carries it: exact sums travel as accumulators (R444). -/
def wireSize (c : Coll) : Nat := if c.rop = 3 && c.op ≤ 1 then 576 else c.esz

/-- Elements a peer's contribution holds. -/
def wireElems (c : Coll) (src : Nat) : Nat :=
  if 5 ≤ c.op then c.memb * c.count + (if c.op = 7 && src = 0 then c.count else 0) else c.count

/-- The virtual ranges of this device's input: address and elements (R430, R431). -/
def inputs (c : Coll) : List (Word × Nat) :=
  let base := if cInplace c.params then c.recv (if c.op = 2 then c.me * c.count * c.esz else 0) else cSend c.params
  ((List.range c.memb).map fun m => (base + cStride c.params * BitVec.ofNat 64 m, c.sendElems)) ++
  (if c.op = 7 && c.me = 0 then [(cOpw c.params 0, c.count)] else [])

/-- A value of the type widened to FP64 (R441, R442). -/
def widen (c : Coll) (v : Nat) : Nat := if c.ty = 0 then v else convertFF Fmt.f32 Fmt.f64 {} v

/-- Terms of an element as one accumulator (R432). -/
def termsOf (c : Coll) (l : List (List Byte)) : Exact :=
  l.foldl (fun a b => a.addTerm (((cFmt c.ty).getD Fmt.f64).decode (leNat b))) {}

/-- What the members of this rank contribute together: they are combined in ascending member index (R432). -/
def merged (c : Coll) (ms : List (List Byte)) : List Byte :=
  if 1 < c.op then ms.flatten
  else (List.range c.sendElems).flatMap fun i =>
    let es := ms.map fun m => elemAt m c.esz i
    if c.rop = 3 then (c.termsOf es).toCell
    else if c.rop = 4 then (match es.map Exact.ofCell with | [] => ({} : Exact) | a :: t => t.foldl Exact.merge a).toCell
    else leBytes c.esz (foldLeft (combine2 c.rop c.ty) (es.map leNat))

/-- The part of this device's contribution that goes to a participant (R431). -/
def partFor (c : Coll) (j : Nat) : Chunk :=
  if c.op = 1 || c.op = 4 then
    { c.own with data := (c.own.data.drop (j * c.count * c.wireSize)).take (c.count * c.wireSize),
                 poison := (c.own.poison.filter fun i => j * c.count ≤ i && i < (j + 1) * c.count).map (· - j * c.count) }
  else c.own

/-- Elements a chunk holds (R430). -/
def perChunk (c : Coll) : Nat := max 1 ((if cfld c.params 320 64 = 0 then 2 ^ 20 else cfld c.params 320 64) / c.esz)

/-- Chunks of a contribution of `n` elements. -/
def chunkCount (c : Coll) (n : Nat) : Nat := (n + c.perChunk - 1) / c.perChunk

/-- Elements of chunk `j` of a contribution of `n` elements. -/
def chunkElems (c : Coll) (n j : Nat) : Nat := min c.perChunk (n - j * c.perChunk)

/-- Accumulators of a contribution travel as windows (R444). -/
def windowed (c : Coll) : Bool := (c.rop = 3 || c.rop = 4) && c.op ≤ 1

/-- Cells as a chunk carries them: one window after another, each at a multiple of 64 bytes (R208, R444, log entry 41). -/
def packWindows : Nat → List Byte → List Byte
  | 0, _ => []
  | n + 1, bs =>
    let w := (Exact.ofCell (bs.take 576)).toWindow
    w ++ List.replicate ((64 - w.length % 64) % 64) 0 ++ packWindows n (bs.drop 576)

/-- The cells of `n` windows, or `none` where the bytes are not that many windows in the form of R208. -/
def unpackWindows : Nat → List Byte → Option (List Byte)
  | 0, bs => if bs = [] then some [] else none
  | n + 1, bs =>
    let len := (Exact.windowLen bs + 63) / 64 * 64
    if bs.length < len then none
    else match Exact.ofWindow bs with
      | none => none
      | some a => (unpackWindows n (bs.drop len)).map (a.toCell ++ ·)

/-- `n` elements as a chunk carries them (R444). -/
def pack (c : Coll) (n : Nat) (bs : List Byte) : List Byte := if c.windowed then packWindows n bs else bs

/-- The `n` elements that a chunk carries, or `none` where it does not carry that many. -/
def unpack (c : Coll) (n : Nat) (bs : List Byte) : Option (List Byte) :=
  if c.windowed then unpackWindows n bs else if bs.length = n * c.wireSize then some bs else none

/-- A contribution of `n` elements cut into its chunks (R430), each with the entry's digest (R429). -/
def cut (c : Coll) (k : Chunk) (n : Nat) : List Chunk :=
  (List.range (c.chunkCount n)).map fun j =>
    let lo := j * c.perChunk
    { k with idx := j, digest := c.group.digest, data := c.pack (c.chunkElems n j) ((k.data.drop (lo * c.wireSize)).take (c.perChunk * c.wireSize)),
             poison := (k.poison.filter fun i => lo ≤ i && i < lo + c.perChunk).map (· - lo) }

/-- A chunk that belongs to a contribution this device waits for and carries the elements it should. -/
def fits (c : Coll) (k : Chunk) : Bool :=
  decide (k.idx < c.chunkCount (c.wireElems k.src)) && (c.unpack (c.chunkElems (c.wireElems k.src) k.idx) k.data).isSome && c.awaited.contains k.src

/-- A chunk of a participant's contribution that has arrived. -/
def chunk? (c : Coll) (r j : Nat) : Option Chunk := c.chunks.find? fun k => k.src = r && k.idx = j && k.cancel.isNone && c.fits k

/-- Every chunk of a participant's contribution has arrived. -/
def arrived (c : Coll) (r : Nat) : Bool := (List.range (c.chunkCount (c.wireElems r))).all fun j => (c.chunk? r j).isSome

/-- The combining steps of a collective, each named by a group rank and a chunk (R435, R436): of a reduction one for each chunk of the result, of
an ensemble operation one, and of the others one for each chunk of another participant. -/
def steps (c : Coll) : List (Nat × Nat) :=
  if c.op ≤ 1 then (List.range (max 1 (c.chunkCount c.count))).map (c.me, ·)
  else if 5 ≤ c.op then [(c.me, 0)]
  else c.awaited.flatMap fun r => (List.range (max 1 (c.chunkCount (c.wireElems r)))).map (r, ·)

/-- The launch counter of a step: the chunks it needs that have not been staged (R436). -/
def counter (c : Coll) (t : Nat × Nat) : Nat :=
  let lacks := fun (r j : Nat) => decide (j < c.chunkCount (c.wireElems r)) && (c.chunk? r j).isNone
  if c.op ≤ 1 then (c.awaited.filter fun r => lacks r t.2).length
  else if 5 ≤ c.op then (c.awaited.map fun r => ((List.range (c.chunkCount (c.wireElems r))).filter (lacks r)).length).sum
  else if lacks t.1 t.2 then 1 else 0

/-- The step that is dispatched next: the first whose counter is zero (R436). -/
def due (c : Coll) : Option (Nat × Nat) := c.steps.find? fun t => !(c.put.contains t) && c.counter t = 0

/-- Every step but `t` has been dispatched. -/
def lastBut (c : Coll) (t : Nat × Nat) : Bool := c.steps.all fun u => u = t || c.put.contains u

/-- The contribution of a group rank, as far as it concerns this device: its chunks in order, a missing one as zeros. -/
def partOf (c : Coll) (r : Nat) : Chunk :=
  if r = c.me then c.partFor c.me
  else
    let ks := (List.range (c.chunkCount (c.wireElems r))).map fun j =>
      let n := c.chunkElems (c.wireElems r) j
      let k := (c.chunk? r j).getD { src := r }
      { k with data := (c.unpack n k.data).getD (List.replicate (n * c.wireSize) 0) }
    { src := r, data := ks.flatMap (·.data), poison := ks.flatMap fun k => k.poison.map (k.idx * c.perChunk + ·) }

/-- Every contribution, by group rank. -/
def parts (c : Coll) : List Chunk := (List.range c.n).map c.partOf

/-- The contributions to element `i` of an ensemble operation, as FP64 values (R441–R443). -/
def ensValues (c : Coll) (i : Nat) : List Nat :=
  c.parts.flatMap fun k => (List.range c.memb).map fun m => c.widen (leNat (elemAt k.data c.esz (m * c.count + i)))

/-- An element poison reaches: one of its contributions carries poison (R439). -/
def tainted (c : Coll) (i : Nat) : Bool :=
  c.parts.any fun k => k.poison.any fun p => if 5 ≤ c.op then (p % (max 1 c.count) = i && p < c.memb * c.count) else p = i

/-- What a collective writes at an address, and whether poison reaches it. -/
structure Out where
  addr : Word
  data : List Byte
  bad : Bool := false

/-- One element of a reduction (R432, R495). -/
def reduced (c : Coll) (i : Nat) : List Byte :=
  let es := c.parts.map fun k => elemAt k.data c.wireSize i
  if c.rop = 3 then
    let f := (cFmt c.ty).getD Fmt.f64
    leBytes c.esz ((es.foldl (fun (a : Exact) b => a.merge (Exact.ofCell b)) {}).roundTo f (cOpw c.params 0).toNat)
  else if c.rop = 4 then (match es.map Exact.ofCell with | [] => ({} : Exact) | a :: t => t.foldl Exact.merge a).toCell
  else
    let alg := chooseAlg c.op (cHint c.params) c.n (c.count * c.esz)
    let (seg, second) := if c.op = 1 then (c.me, decide (c.count / 2 ≤ i)) else segmentOf c.n c.count i
    leBytes c.esz (combineOrder (combine2 c.rop c.ty) alg (es.map leNat) ((groupRanks c.group.img).map (· / 64)) seg second)

/-- The record of ENS.MOM for an element, and its two cells (R441). -/
def moments (c : Coll) (i : Nat) : List Byte × List Byte :=
  let vs := c.ensValues i
  let sum := vs.foldl (fun (a : Exact) v => a.addTerm (Fmt.f64.decode v)) {}
  let sq := vs.foldl (fun (a : Exact) v => a.addTerm (mulVal (Fmt.f64.decode v) (Fmt.f64.decode v))) {}
  let n := (vs.filter fun v => !(Fmt.f64.decode v).isNan).length
  (leBytes 8 n ++ leBytes 8 (sum.round 0) ++ leBytes 8 (sq.round 0) ++ leBytes 8 (fpExtreme Fmt.f64 false vs) ++ leBytes 8 (fpExtreme Fmt.f64 true vs),
   sum.toCell ++ sq.toCell)

/-- The observation of an element and its rank (R443). -/
def rankOf (c : Coll) (i : Nat) : Option Nat :=
  let f := (cFmt c.ty).getD Fmt.f64
  let y := leNat (elemAt (c.partOf 0).data c.esz (c.memb * c.count + i))
  let xs := c.parts.flatMap fun k => (List.range c.memb).map fun m => leNat (elemAt k.data c.esz (m * c.count + i))
  if (f.decode y).isNan then none
  else some ((xs.filter fun x => f.orderKey x < f.orderKey y).length + (xs.filter fun x => f.orderKey x = f.orderKey y).length / 2)

/-- The elements of a chunk of `n` elements. -/
def elemsOf (c : Coll) (n j : Nat) : List Nat := (List.range (c.chunkElems n j)).map (j * c.perChunk + ·)

/-- Everything chunk `j` of a reduction, or an ensemble operation, writes here (R431, R441–R443). -/
def outputs (c : Coll) (j : Nat) : List Out :=
  let is := List.range c.count
  match c.op with
  | 0 | 1 => (c.elemsOf c.count j).map fun i => ⟨c.recv (c.esz * i), c.reduced i, c.tainted i⟩
  | 5 => is.flatMap fun i =>
      ⟨c.recv (40 * i), (c.moments i).1, c.tainted i⟩ ::
      (if (cOpw c.params 0).getLsbD 0 then [⟨cOpw c.params 1 + BitVec.ofNat 64 (1152 * i), (c.moments i).2, c.tainted i⟩] else [])
  | 6 => is.map fun i =>
      let sorted := sortKey (fun (a b : Nat) => decide (Fmt.f64.orderKey a ≤ Fmt.f64.orderKey b)) (c.ensValues i)
      ⟨c.recv (8 * i), leBytes 8 (sorted.getD (cOpw c.params 0).toNat 0), c.tainted i⟩
  | _ =>
    let bad := fun (i : Nat) => c.tainted i || (c.partOf 0).poison.contains (c.memb * c.count + i)
    let rk := is.map c.rankOf
    let bins := (List.range (c.n * c.memb + 1)).map fun b => (rk.filter fun r => r = some b).length
    let skip := (rk.filter fun r => r.isNone).length
    ⟨c.recv 0, (bins ++ [skip]).flatMap fun x => leBytes 8 x, is.any bad⟩ ::
    (if cOpw c.params 1 = 0 then []
     else is.map fun i => ⟨cOpw c.params 1 + BitVec.ofNat 64 (4 * i), leBytes 4 ((rk.getD i none).getD 0xFFFFFFFF), bad i⟩)

end Coll

namespace State

def modColl (s : State) (id : Nat) (f : Coll → Coll) : State := { s with colls := tmod s.colls id f }

/-- A collective ends by an error (R433, R439). -/
def failColl (s : State) (id : Nat) (c : Coll) (cls detail addr : Nat) : State :=
  s.modColl id fun c' => { c' with done := true, err := c'.err.add cls detail c.unit addr }

/-- A translation fault here: the peers are told (R439). -/
def faultColl (s : State) (id : Nat) (c : Coll) (e : AgentErr) : State := (s.failColl id c 2 e.detail e.addr).sendCancels c.group c.seq true

def dieOfEngine (e : Nat) : Nat := if e = 0 then 0 else 2

/-- The physical lines of an output become poisoned (R256, R439). -/
def poisonOut (s : State) (c : Coll) (o : Coll.Out) : State :=
  match s.agentLocate c.ctx o.addr 0 o.data.length .write with
  | .error _ => s
  | .ok ps => s.addPoison (ps.flatMap fun p => lineSpan p.2.2.pa p.2.1)

/-- The host lets the outputs be written (R468). -/
def outsReady (s : State) (c : Coll) (os : List Coll.Out) : Bool := os.all fun o => s.agentReady c.ctx o.addr o.data.length

/-- Write outputs of a collective; a fault on any of them ends it with none written (R439). -/
def writeOuts (s : State) (id : Nat) (c : Coll) (os : List Coll.Out) : Except AgentErr State :=
  match os.findSome? fun o => match s.agentLocate c.ctx o.addr 0 o.data.length .write with | .error e => some e | .ok _ => none with
  | some e => .error e
  | none =>
    let s1 := os.foldl (fun s o => s.agentStore c.ctx o.addr o.data) s
    let bad := os.filter fun o => o.bad
    let s2 := bad.foldl (fun s o => s.poisonOut c o) s1
    .ok (match bad with
      | [] => s2
      | o :: _ => s2.modColl id fun c' => { c' with err := c'.err.add 3 0 c.unit o.addr.toNat })

/-- Where elements of a participant's shard or block go (R431). -/
def placeOuts (c : Coll) (src : Nat) (is : List Nat) : List Coll.Out :=
  let k := c.partOf src
  let off := if c.op = 3 then 0 else src * c.count * c.esz
  let own := src = c.me && c.op = 2 && cInplace c.params
  if own then [] else is.map fun i => ⟨c.recv (off + c.esz * i), elemAt k.data c.esz i, k.poison.contains i⟩

/-- The flag of a participant's shard (R440). -/
def flagOut (c : Coll) (src : Nat) : List Coll.Out :=
  if cShflag c.params then [⟨cOpw c.params 0 + BitVec.ofNat 64 (8 * src), leBytes 8 (c.seq + 1), false⟩] else []

/-- What a combining step writes: a chunk of a result, or a chunk of a shard or block and, with the shard's last one, its flag (R436, R440). -/
def stepOuts (c : Coll) (t : Nat × Nat) : List Coll.Out :=
  if inRange 2 4 c.op then
    placeOuts c t.1 (c.elemsOf (c.wireElems t.1) t.2) ++
    (if c.steps.all fun u => u = t || u.1 != t.1 || c.put.contains u then flagOut c t.1 else [])
  else c.outputs t.2

/-- Read this device's input, with the elements that carry poison; or the fault it meets. -/
def collInput (s : State) (c : Coll) : Except AgentErr (List (List Byte) × List (List Nat)) :=
  c.inputs.foldl (fun acc r => match acc with
    | .error e => .error e
    | .ok (bs, ps) =>
      let n := r.2 * c.esz
      match s.agentLocate c.ctx r.1 0 n .read with
      | .error e => .error e
      | .ok l =>
        let lines := s.agentPoisons c.ctx (dieOfEngine c.engine) r.1 0 l
        let bad := (List.range r.2).filter fun i =>
          let a := r.1.toNat + c.esz * i
          lines.any fun x => x < a + c.esz && a < x + 128
        .ok (bs ++ [s.agentBytes c.ctx (dieOfEngine c.engine) r.1 0 l], ps ++ [bad])) (.ok ([], []))

/-- Read and send this device's contribution; its own shard or block is placed first (R435, R438, R440). -/
def collSend (s : State) (id : Nat) (c : Coll) : State :=
  match s.collInput c with
  | .error e => s.faultColl id c e
  | .ok (bs, ps) =>
    let bad := if c.op ≤ 1 then ps.flatten.eraseDups else ((List.range ps.length).zip ps).flatMap fun p => p.2.map (p.1 * c.count + ·)
    let c1 : Coll := { c with sent := true, own := { src := c.me, data := c.merged bs, poison := bad } }
    let s1 := c.inputs.foldl (fun s r => s.agentTouch c.ctx (dieOfEngine c.engine) r.1 0 (r.2 * c.esz)) (s.modColl id fun _ => c1)
    let placing := inRange 2 4 c.op && (c.op != 3 || c.me = c.root)
    let outs := if placing then placeOuts c1 c.me (List.range c.count) ++ flagOut c1 c.me else []
    if !s.outsReady c outs then s
    else match s1.writeOuts id c1 outs with
    | .error e => s1.faultColl id c1 e
    | .ok s2 =>
      let others := ((List.range c.n).zip (groupRanks c.group.img)).filter fun p => p.1 != c.me && (c.op != 3 || c.me = c.root)
      let s3 : State := { s2 with hostOut := s2.hostOut ++ others.flatMap fun p =>
        (c1.cut (c1.partFor p.1) (c1.wireElems c1.me)).map fun k => .chunk p.2 (groupKey c.group.img) c.seq k }
      s3.modColl id fun c' => { c' with done := inRange 2 4 c.op && c.awaited = [] }

/-- One step of a collective (R436): the contribution is read and sent, or a combining step whose launch counter is zero writes what it makes. -/
def collStep (s : State) (id : Nat) (c : Coll) : State :=
  if !c.sent then s.collSend id c
  else match c.due with
    | none => s
    | some t => if !s.outsReady c (stepOuts c t) then s else match s.writeOuts id c (stepOuts c t) with
      | .error e => s.faultColl id c e
      | .ok s1 => s1.modColl id fun c' => { c' with put := c'.put ++ [t], done := c.lastBut t }

/-- A cancel, a fault or a mismatch among what has arrived (R433, R439). -/
def collRefused (s : State) (id : Nat) (c : Coll) : Option State :=
  match c.chunks.find? fun k => k.cancel.isSome || !k.ok with
  | none => none
  | some k => some (if k.cancel = some true then s.failColl id c 7 0 ((groupRanks c.group.img).getD k.src 0)
                    else s.failColl id c 1 0 (Config.noAddr s.tick).toNat)

/-- An earlier collective of the entry has not begun (R429). -/
def collBehind (s : State) (c : Coll) : Bool :=
  !c.sent && s.colls.any fun p => p.2.ctx = c.ctx && p.2.g = c.g && p.2.seq < c.seq && !p.2.sent && !p.2.done

end State

/-- COMBINE_DISPATCH (R436): a collective begins, in order of sequence number on its entry (R429), or goes on. -/
def execCombineDispatch (id : Nat) (s : State) : Res :=
  .next (match tfind s.colls id with
    | none => s
    | some c => if c.done || s.collBehind c then s else match s.collRefused id c with
      | some s1 => s1
      | none => s.collStep id c)

/-- What arrives from a participant for a sequence number of an entry: staged, held when early, or discarded (R429, R439). -/
def State.arrive (s : State) (x g sq : Nat) (k : Chunk) : State :=
  let e := tget {} (s.ctx x).groups g
  if !e.valid || e.n ≤ k.src || k.src = e.own then s
  else match s.colls.find? fun p => p.2.ctx = x && p.2.g = g && p.2.seq = sq with
    | some (id, c) =>
      if c.done || c.chunks.any (fun y => y.src = k.src && y.idx = k.idx && y.cancel = k.cancel) ||
          (k.ok && k.cancel.isNone && !c.fits k) then s
      else
        let c1 : Coll := { c with chunks := c.chunks ++ [k], last := s.cycle }
        let s1 := s.modColl id fun _ => c1
        (s1.collRefused id c1).getD s1
    | none =>
      let peer := fun (y : Nat) (h : Nat) (src : Nat) => (groupRanks (tget {} (s.ctx y).groups h).img).getD src 0
      let held := (s.early.filter fun p => peer p.1 p.2.1 p.2.2.2.src = peer x g k.src).length
      if sq < e.seq.toNat || 64 ≤ held then s else { s with early := s.early ++ [(x, g, sq, k)] }

/-- CHUNK_RECEIVE (R429): a chunk of a contribution, with what it says of itself. -/
def execChunkReceive (x g sq src : Nat) (tag : ChunkTag) (poison : List Nat) (data : List Byte) (s : State) : Res :=
  let ok := tag.agree && tag.digest = (tget {} (s.ctx x).groups g).digest
  .next (s.arrive x g sq { src := src, idx := tag.idx, digest := tag.digest, ok := ok, poison := poison, data := data })

/-- COLL_CANCEL_RECEIVE (R433, R439). -/
def execCollCancelReceive (x g sq src : Nat) (fault : Bool) (s : State) : Res := .next (s.arrive x g sq { src := src, cancel := some fault })

/-- The group ranks whose contributions have not arrived. -/
def Coll.missing (c : Coll) : List Nat := c.awaited.filter fun r => !c.arrived r

/-- COLL_TIMEOUT (R439): no chunk has arrived for TMO ms. -/
def execCollTimeout (id : Nat) (s : State) : Res :=
  .next (match tfind s.colls id with
    | none => s
    | some c =>
      let tmo := groupTmo c.group.img
      match c.missing with
      | [] => s
      | r :: _ => if c.done || tmo = 0 || s.cycle < c.last + tmo * 1500000 then s else s.failColl id c 8 0 ((groupRanks c.group.img).getD r 0))

/-- COLL_PEER_UNREACHABLE (R439). -/
def execCollPeerUnreachable (id rank : Nat) (s : State) : Res :=
  .next (match tfind s.colls id with
    | none => s
    | some c => if c.done || !((groupRanks c.group.img).contains rank) || !s.unreachable rank then s else s.failColl id c 8 0 rank)

/-- COLL_COMPLETE (R437): once its writes are performed everywhere, CE is written, then the counter advances. -/
def execCollComplete (id : Nat) (s : State) : Res :=
  .next (match tfind s.colls id with
    | none => s
    | some c =>
      if !c.done || s.agentWritesDue || !s.agentReady c.ctx (c.blk + 96#64) 32 then s
      else
        let s1 := (s.writeEntry c.ctx (c.blk + 96#64) c.err).signal c.ctx (cfld c.params 416 6) (BitVec.ofNat 64 (cfld c.params 448 64))
        { s1 with colls := tdel s1.colls id })

end Sys2Proof.Machine
end

