-- ==== Sys2Proof/Machine/Fences.lean ====
section
/-!
DEFINITION. Fences (R300, R301, R308) and transactions (R309–R316).
-/

namespace Sys2Proof.Machine

/-! ## Fences -/

/-- The scope of a fence (R307). -/
def fenceScope (f : FormR) : Nat := (f.x.extractLsb' 0 3).toNat

/-- The ordering point a fence sets between the accesses before it and those after it (R300). -/
def fencePoint (w : Warp) (acq rel sc : Bool) (scope : Nat) : Fence :=
  { pos := w.nextSeq, readsOnly := acq && !rel, writesOnly := rel && !acq, acq := acq, rel := rel, sc := sc, scope := scope, sup := w.sup }

/-- A fence (R308): it performs no access; inside a transaction it does nothing. It is complete when its ordering and its waits are satisfied, and
until then only the accesses that it orders after itself wait (R300, R301, R303). -/
def fenceForm (acq rel sc : Bool) (f : FormR) (s : State) : Res :=
  machineOp s fun s w =>
    if Warp.never f.h || w.tx.isSome then (s, .fall w)
    else
      let s1 := (s.putWarp { w with fences := w.fences ++ [fencePoint w acq rel sc (fenceScope f)] }).settleFences w.key
      (s1, .fall ((s1.warp? w.key).getD w))

def execFenceAcq (f : FormR) (s : State) : Res := fenceForm true false false f s
def execFenceRel (f : FormR) (s : State) : Res := fenceForm false true false f s
def execFenceAr (f : FormR) (s : State) : Res := fenceForm true true false f s
def execFenceSc (f : FormR) (s : State) : Res := fenceForm true true true f s

/-! ## Transactions -/

/-- `txbegin` (R316). -/
def execTxbegin (f : FormC) (s : State) : Res :=
  machineOp s fun s w => (s,
    if Warp.never f.h then .fall w
    else if w.meld.opened then .trap w { cls := 16 }
    else if w.tx.isSome then .abort 7 0 0
    else
      let t : Tx := { em := w.banks.map fun b => [0, 1, 2].map fun i => tget 0 b.s (253 + i), mm := w.mm, target := FormC.target f w.pc, since := s.cycle }
      .fall { w with tx := some t, txstat := w.txstat &&& ~~~(0x1FFFF#64), txaddr := 0 })

/-- Insert an address in rising order. -/
def insertAddr (a : Nat) : List Nat → List Nat
  | [] => [a]
  | b :: t => if a < b then a :: b :: t else b :: insertAddr a t

/-- The buffered bytes of a transaction, in ranges. -/
def Tx.ranges (t : Tx) : List (Nat × List Byte) := State.joinBytes ((t.held.foldr insertAddr []).map fun a => (a, t.buf.read a))

/-- TXSTAT as `txst` reads it (R315). -/
def Warp.txStatus (w : Warp) : Word :=
  match w.tx with
  | some t => (w.txstat &&& ~~~(0x1FFFF#64)) ||| BitVec.ofNat 64 (1 + 4096 * min 16 (Warp.txLines t))
  | none => w.txstat

/-- `txend` (R311, R316): the commit waits for every access of the warp, and performs the whole write set in one step. -/
def execTxend (f : FormC) (s : State) : Res :=
  machineOp s fun s w =>
    if Warp.never f.h then (s, .fall w)
    else match w.tx with
      | none => (s, .trap w { cls := 16 })
      | some t =>
        if releaseBusy s w true then (s, .wait .log)
        else if t.ranges.any fun r => !(s.hostReady r.1 r.2.length false) then (s, .wait .transaction)
        else
          let w1 : Warp := { w with tx := none, txstat := (w.txstat &&& ~~~(0x1FFFF#64)) ||| BitVec.ofNat 64 (4096 * min 16 (Warp.txLines t)) }
          let s1 := t.ranges.foldl (fun s r => (s.perform w.key r.1 r.2).l1Update w.core r.1 r.2) s
          acquired (s1.putWarp w1) w1 4 id

/-- `txabt` (R316). -/
def execTxabt (f : FormC) (s : State) : Res :=
  warpOp s fun w => unlessNever f.h w (if w.tx.isSome then .abort 6 (f.ctl.extractLsb' 0 8).toNat 0 else .fall w)

/-- `txst` (R315): its result is common. -/
def execTxst (f : FormR) (s : State) : Res :=
  warpOp s fun w => w.sclOp f.h f.dst [] false fun _ => if f.x = 0 then w.txStatus else w.txaddr

/-- TX_CONFLICT (R310, R312): the abort a warp has to take, once what it has issued is complete and before its next instruction issues. A
conflict names its line. -/
def execTxConflict (c k line : Nat) (s : State) : Res :=
  .next (s.modWarp (warpKey c k) fun w => match w.tx.bind (·.pending) with
    | some (cause, code, a) => if (cause = 1 && a.toNat != line) || !w.txQuiet then w else w.awake.dropTx cause code a
    | none => w)

end Sys2Proof.Machine
end

