-- ==== Sys2Proof/Machine/Seam.lean ====
section
/-!
DEFINITION. Seam tasks and instances: registers (R382), how an instruction ends (R385), the save area (R374), and the events of the task
dispatcher and of the Seam cores (R372, R373, R375, R377, R378).
-/

namespace Sys2Proof.Machine

/-! ## Registers (R382) -/

namespace SeamInst

/-- A scalar register: x0 reads 0. -/
def xget (i : SeamInst) (r : BitVec 5) : Word := if r = 0 then 0 else tget 0 i.x r.toNat
def xput (i : SeamInst) (r : BitVec 5) (v : Word) : SeamInst := if r = 0 then i else { i with x := tset i.x r.toNat v }

/-- A vector register: 16 lanes. -/
def zrow (i : SeamInst) (r : BitVec 5) : List Lane32 := (List.range 16).map fun l => (tget [] i.z r.toNat).getD l 0
def zput (i : SeamInst) (r : BitVec 5) (v : List Lane32) : SeamInst := { i with z := tset i.z r.toNat v }

/-- A predicate register: k0 reads 0xFFFF. -/
def kget (i : SeamInst) (r : Nat) : BitVec 16 := if r = 0 then 0xFFFF else tget 0 i.k r
def kput (i : SeamInst) (r : Nat) (v : BitVec 16) : SeamInst := { i with k := tset i.k r v }

/-- The registers at the start of an instance (R382). -/
def start (i : SeamInst) (t : SeamTask) : SeamInst :=
  { i with x := [(1, BitVec.ofNat 64 t.argp), (2, BitVec.ofNat 64 i.idx), (3, BitVec.ofNat 64 i.core)], z := [], k := [],
           pc := BitVec.ofNat 64 t.code, fresh := false, st := .running }

/-- The 2,368 bytes of a save area (R374). -/
def image (i : SeamInst) : List Byte :=
  (List.range 32).flatMap (fun n => leBytes 8 (i.xget (BitVec.ofNat 5 n)).toNat) ++
  (List.range 32).flatMap (fun n => (i.zrow (BitVec.ofNat 5 n)).flatMap fun v => leBytes 4 v.toNat) ++
  (List.range 8).flatMap (fun n => leBytes 2 (i.kget n).toNat) ++
  leBytes 8 i.pc.toNat ++ leBytes 8 (i.idx % 256 + 2 ^ 8 * (i.core % 256) + 2 ^ 16) ++ List.replicate 32 0

/-- The registers a save area gives back (R374). -/
def load (i : SeamInst) (bs : List Byte) : SeamInst :=
  let at_ := fun (o n : Nat) => leNat ((bs.drop o).take n)
  { i with
    x := (List.range 32).map fun n => (n, BitVec.ofNat 64 (at_ (8 * n) 8)),
    z := (List.range 32).map fun n => (n, (List.range 16).map fun l => BitVec.ofNat 32 (at_ (256 + 64 * n + 4 * l) 4)),
    k := (List.range 8).map fun n => (n, BitVec.ofNat 16 (at_ (2304 + 2 * n) 2)),
    pc := BitVec.ofNat 64 (at_ 2320 8), st := .running }

end SeamInst

/-! ## How an instruction ends -/

/-- The end of a Seam instruction. -/
inductive SRes where
  | next (i : SeamInst)     -- it retires; the pc moves on by 8
  | jump (i : SeamInst)     -- it retires and has set the pc
  | hold (i : SeamInst)     -- it waits and will be issued again
  | finished (i : SeamInst)   -- the instance ends (R394)
  | fault (f : SeamFault)   -- it has no effect and ends the instance (R385)
  deriving DecidableEq, Repr

namespace State

def putInst (s : State) (id : Nat) (i : SeamInst) : State := { s with insts := tset s.insts id i }
def modTask (s : State) (id : Nat) (f : SeamTask → SeamTask) : State := { s with tasks := tmod s.tasks id f }

/-- An instance ends by a fault (R385). -/
def endByFault (s : State) (id : Nat) (i : SeamInst) (f : SeamFault) : State :=
  (s.putInst id { i with st := .ended, waitFrom := none }).modTask i.task fun t => { t with fails := t.fails ++ [(i.idx, f)] }

/-- Apply the end of an instruction of an instance. -/
def finishSeam (s : State) (id : Nat) (i0 : SeamInst) (r : SRes) : State :=
  match r with
  | .next i => s.putInst id { i with pc := i.pc + 8#64, waitFrom := none }
  | .jump i => s.putInst id { i with waitFrom := none }
  | .hold i => s.putInst id i
  | .finished i => s.putInst id { i with st := .ended, waitFrom := none }
  | .fault f => s.endByFault id i0 f

end State

/-- Run a meaning of the current Seam instance, which may change other parts of the machine. -/
def seamOpM (s : State) (f : State → SeamInst → SeamTask → State × SRes) : Res :=
  match s.curInst with
  | none => .refused .noAgent
  | some (id, i) => match s.task? i.task with
    | none => .refused .noAgent
    | some t =>
      let (s1, r) := f s i t
      .next (s1.finishSeam id i r)

/-- Run a meaning that changes its instance alone. -/
def seamOp (s : State) (f : SeamInst → SeamTask → SRes) : Res := seamOpM s fun s i t => (s, f i t)

namespace State

/-! ## Instances (R373, R374) -/

/-- The priority of a context. -/
def prioOf (s : State) (x : Nat) : Nat := (s.ctx x).prio

/-- The next number of the order in which things queue. -/
def nextOrder (s : State) : State := { s with rdyOrder := s.rdyOrder + 1 }

/-- The instances of a Seam core that may run next (R373). -/
def waitingOn (s : State) (core : Nat) : List (Nat × SeamInst) :=
  s.insts.filter fun p => p.2.core = core && p.2.st = .queued && s.resident p.2.ctx && (s.task? p.2.task).any fun t => t.st = .run

/-- The next instance to run: the highest priority, then the longest queued (R373). -/
def nextInst (s : State) (core : Nat) : Option (Nat × SeamInst) :=
  let ws := s.waitingOn core
  ws.find? fun p => ws.all fun q => s.prioOf q.2.ctx < s.prioOf p.2.ctx || (s.prioOf q.2.ctx = s.prioOf p.2.ctx && p.2.order ≤ q.2.order)

/-- The save area of an instance (R371). -/
def saveVa (t : SeamTask) (i : SeamInst) : Word := BitVec.ofNat 64 (t.save + 2368 * i.idx)

/-- An instance starts, or resumes from its save area (R373, R374). -/
def runInst (s : State) (id : Nat) (i : SeamInst) (t : SeamTask) : State :=
  if i.fresh then s.putInst id (i.start t)
  else match s.agentRead i.ctx (seamDie i.core) (saveVa t i) 0 2368 with
    | .error e => s.endByFault id i (e.cls, e.detail, e.addr)
    | .ok bs => (s.agentTouch i.ctx (seamDie i.core) (saveVa t i) 0 2368).putInst id (i.load bs)

/-- An instance leaves its core: its registers are stored in its save area (R373, R374). It waits until every effect of its earlier
instructions is complete. -/
def saveInst (s : State) (id : Nat) (i : SeamInst) (t : SeamTask) (st : InstState) : State :=
  if !s.seamQuiet i || !s.agentReady i.ctx (saveVa t i) 2368 then s
  else match s.agentWrite (seamKey i.core) i.ctx (saveVa t i) 0 i.image with
    | .error e => s.endByFault id i (e.cls, e.detail, e.addr)
    | .ok s1 => s1.nextOrder.putInst id { i with st := st, x := [], z := [], k := [], pc := 0, order := s1.rdyOrder, waitFrom := none }

/-- The running instance of a core must leave it: a context of higher priority waits there, or its own is no longer resident (R373). -/
def mustLeave (s : State) (i : SeamInst) : Bool :=
  !s.resident i.ctx || (s.waitingOn i.core).any fun p => s.prioOf i.ctx < s.prioOf p.2.ctx

/-- A `tlwt` has waited for 65,536 cycles (R373). -/
def waitedLong (s : State) (i : SeamInst) : Bool := match i.waitFrom with | some c => c + 65536 ≤ s.cycle | none => false

/-! ## Tasks (R372, R375, R377, R378) -/

/-- Instances that hold a place on a Seam core (R373). -/
def placesOn (s : State) (core : Nat) : Nat := (s.insts.filter fun p => p.2.core = core && p.2.st != .ended).length

/-- Tasks whose regions are held: from the probe on (R378). -/
def holding (s : State) : List SeamTask := (s.tasks.map (·.2)).filter fun t => t.st = .probe || t.st = .run

/-- Two tasks of one context have regions that conflict (R378). -/
def regionsClash (a b : SeamTask) : Bool :=
  a.ctx = b.ctx && a.regions.any fun p => b.regions.any fun q => p.1 < q.1 + q.2.1 && q.1 < p.1 + p.2.1 && (2 ≤ p.2.2 || 2 ≤ q.2.2)

/-- The task that may leave QUEUED: the oldest of the highest priority among the tasks of resident contexts (R372). -/
def firstTask (s : State) (id : Nat) : Bool :=
  let qs := s.tasks.filter fun p => p.2.st = .queued && s.resident p.2.ctx
  match qs.find? fun p => qs.all fun q => s.prioOf q.2.ctx ≤ s.prioOf p.2.ctx with
  | some p => p.1 = id
  | none => false

/-- Holds for every region are free and every target core has a place (R372, R378). -/
def taskFits (s : State) (t : SeamTask) : Bool :=
  let hs := s.holding
  (hs.map fun u => u.regions.length).foldl (· + ·) 0 + t.regions.length ≤ 64 && !(hs.any fun u => regionsClash t u) &&
    t.places.all fun p => s.placesOn p.2 < 8

/-- The probe of one piece of a region (R377): its physical place, or cause and address. -/
def probePiece (s : State) (x va mode : Nat) : Except (Nat × Nat) Nat :=
  match s.translate State.noWarp x (BitVec.ofNat 64 va) 0 .read true with
  | .error (c, a) => .error (c, a.toNat)
  | .ok ph =>
    if Leaf.tier ph.leaf != 0 || Leaf.prop ph.leaf then .error (2, va)
    else if Leaf.sup ph.leaf || (2 ≤ mode && !Leaf.w ph.leaf) then .error (4, va)
    else .ok ph.pa

/-- The probe of a task's regions (R377): the physical ranges of the writable ones, or the first failure. -/
def probe (s : State) (t : SeamTask) : Except (Nat × Nat) (List (Nat × Nat)) :=
  t.regions.foldl (fun acc r => (pagePieces r.1 r.2.1).foldl (fun acc p => match acc with
    | .error e => .error e
    | .ok l => match s.probePiece t.ctx (r.1 + p.1) r.2.2 with
      | .error e => .error e
      | .ok pa => .ok (if 2 ≤ r.2.2 then l ++ [(pa, p.2)] else l)) acc) (.ok [])

/-- The probe ends (R372, R377): the task runs, or is done with no instance run. -/
def probeDone (s : State) (id : Nat) (t : SeamTask) : State :=
  let fail := fun (cls detail addr : Nat) =>
    ({ s with insts := s.insts.filter fun p => p.2.task != id } : State).modTask id fun t => { t with st := .done, fails := [(0, cls, detail, addr)] }
  if t.invalid then fail 1 0 (Config.noAddr s.tick).toNat
  else match s.probe t with
    | .error (c, a) => fail 2 c a
    | .ok l =>
      let s1 := s.modTask id fun t => { t with st := .run, held := l }
      { s1.nextOrder with insts := s1.insts.map fun p => if p.2.task = id then (p.1, { p.2 with order := s1.rdyOrder }) else p }

/-- The completion entry of a task (R375): for one that ran no instance, the dispatcher's; else from the failing instance of lowest index. -/
def taskEntry (t : SeamTask) : ErrRec :=
  match t.st, t.fails with
  | .done, (_, c, d, a) :: _ => ({} : ErrRec).add c d 0x692 a
  | _, fs =>
    match fs.find? fun f => fs.all fun g => f.1 ≤ g.1 with
    | none => {}
    | some (i, c, d, a) =>
      let unit := 0x500 + ((t.places.find? fun p => p.1 = i).map (·.2)).getD 0
      { ({} : ErrRec).add c d unit a with nerr := fs.length, dlanes := fs.length }

/-- The last instance of a task has ended and every write has been performed, or it ran none: its holds are released, its entry is written
and its counter advanced (R375). A node's entry and advance follow at NODE_DONE (R352). -/
def taskDone (s : State) (id : Nat) (t : SeamTask) : State :=
  let mine := s.insts.filter fun p => p.2.task = id
  let ended := t.st = .done || (t.st = .run && mine.all fun p => p.2.st = .ended && s.seamQuiet p.2)
  if !ended || (t.node.isNone && t.cep != 0 && !s.agentReady t.ctx (BitVec.ofNat 64 t.cep) 32) then s
  else
    let e := taskEntry t
    let s1 : State := { s with tasks := tdel s.tasks id, insts := s.insts.filter fun p => p.2.task != id }
    match t.node with
    | some n => s1.modNode n fun nd => { nd with err := e, busy := false }
    | none =>
      let s2 := if t.cep = 0 then s1 else s1.writeEntry t.ctx (BitVec.ofNat 64 t.cep) e
      if t.tle then s2.signal t.ctx t.tlc t.target else s2

end State

/-! ## The events -/

/-- SEAM_TASK_START (R372): QUEUED to PROBE, under the table's conditions whatever the record holds. The instances of a valid one take their
places. -/
def execSeamTaskStart (id : Nat) (s : State) : Res :=
  .next (match s.task? id with
    | none => s
    | some t =>
      if t.st != .queued || !s.firstTask id || !(s.taskFits t) then s
      else
        let new : List SeamInst := if t.invalid then [] else t.places.map fun p => { task := id, idx := p.1, core := p.2, ctx := t.ctx }
        let base := tfresh s.insts
        let s1 : State := { s with insts := s.insts ++ ((List.range new.length).zip new).map fun p => (base + p.1, p.2) }
        s1.modTask id fun t => { t with st := .probe })

/-- SEAM_PROBE_DONE (R377). -/
def execSeamProbeDone (id : Nat) (s : State) : Res :=
  .next (match s.task? id with
    | none => s
    | some t => if t.st = .probe then s.probeDone id t else s)

/-- SEAM_INSTANCE_RUN (R373). -/
def execSeamInstanceRun (core : Nat) (s : State) : Res :=
  .next (match s.runningOn core, s.nextInst core with
    | none, some (id, i) => match s.task? i.task with
      | some t => s.runInst id i t
      | none => s
    | _, _ => s)

/-- SEAM_INSTANCE_PREEMPT (R373): for a higher priority it is queued again; when its context has left, it is queued on its return. -/
def execSeamInstancePreempt (core : Nat) (s : State) : Res :=
  .next (match s.runningOn core with
    | none => s
    | some (id, i) => match s.task? i.task with
      | none => s
      | some t => if s.mustLeave i then s.saveInst id i t (if s.resident i.ctx then .queued else .saved) else s)

/-- SEAM_LONG_WAIT (R373). -/
def execSeamLongWait (core : Nat) (s : State) : Res :=
  .next (match s.runningOn core with
    | none => s
    | some (id, i) => match s.task? i.task with
      | none => s
      | some t => if s.waitedLong i then s.saveInst id i t .queued else s)

/-- SEAM_TASK_DONE (R375). -/
def execSeamTaskDone (id : Nat) (s : State) : Res :=
  .next (match s.task? id with
    | none => s
    | some t => s.taskDone id t)

end Sys2Proof.Machine
end

