-- ==== Sys2Proof/Machine/System.lean ====
section
/-!
DEFINITION. The traps and system family (R396–R407, R416–R421): software traps, delivery and return, pre-emption, the monitor, system
registers and the translation registers (R324, R327, R330).
-/

namespace Sys2Proof.Machine

/-! ## Traps (R396–R404) -/

/-- `trap imm` (R421). -/
def execTrap (f : FormI) (s : State) : Res :=
  warpOpNT s fun w => unlessNever f.h w (.trap w { cls := 22, detail := BitVec.ofNat 64 f.imm.toNat })

/-- The faults that may be delivered now, each with its path, slot and lane. -/
def Warp.dueFaults (w : Warp) : List (LogEntry × Part) := w.pendingFaults.filter fun p => !p.2.inRec && !p.2.retry && (p.1.sup || !w.sup)

/-- One fault is delivered before another: path, slot, lane, then the older entry (R76, R396). -/
def faultFirst (a b : LogEntry × Part) : Bool :=
  let key := fun (x : LogEntry × Part) => [x.1.path % 4, x.2.slot, x.2.lane % 96, x.1.seq]
  State.keyLt (key a) (key b)

/-- TRAP_DELIVER (R396, R400): the first pending lane-level fault of a warp or the foreman at an instruction boundary, once every issued
instruction that no fault holds has completed. -/
def execTrapDeliver (c k : Nat) (s : State) : Res :=
  .next (match s.warp? (warpKey c k) with
    | none => s
    | some w =>
      match w.dueFaults with
      | [] => s
      | x :: rest =>
        let f := rest.foldl (fun best y => if faultFirst y best then y else best) x
        if w.ended || w.st = .free || w.st = .save || !s.settled w then s else s.takeLaneFault w f.1 f.2)

/-- The innermost active loop that ends at a pc, and every loop nested in it, end (R140). -/
def Warp.dropLoopsAt (w : Warp) (pc : Word) : Warp :=
  let here := w.lc.filter fun l => l.active && l.stop == pc
  match here with
  | [] => w
  | x :: rest =>
    let inn := rest.foldl (fun (b : Loop) l => if b.start.toNat < l.start.toNat then l else b) x
    { w with lc := w.lc.map fun l =>
        if l.active && inn.start.toNat ≤ l.start.toNat && l.stop.toNat ≤ inn.stop.toNat then { l with active := false } else l }

/-- Continue after an instruction that takes no effect: a loop back is considered there (log entry 25). -/
def Warp.passOver (w : Warp) (pc : Word) : Warp :=
  let w1 : Warp := { w with pc := pc }
  { w1 with pc := pc + 12#64, loopDue := w1.loopEnds }

/-- `tret` in a mode (R403, R404): 0, 1 `skip`, 2 `to` with its address. -/
def Warp.trapReturn (w : Warp) (mode : Nat) (dest : Word) : Warp :=
  let trapPc := w.record.getD 1 0
  let retPc := w.record.getD 3 0
  let cls := ((w.record.getD 0 0).extractLsb' 0 8).toNat
  let w1 := w.leaveTrap
  let w2 : Warp := match w.recEntry with
    | some q =>
      let w3 := ({ w1 with pc := retPc } : Warp).reissue q (mode = 1)
      { w3 with pc := retPc, recEntry := none, loopDue := false }
    | none =>
      if w.loopTrap then
        let w3 := if mode = 1 then w1.dropLoopsAt retPc else w1
        { w3 with pc := retPc, loopTrap := false, loopDue := true }
      else if mode = 1 || (mode = 0 && cls = 22) then w1.passOver trapPc
      else { w1 with pc := trapPc, loopDue := false }
  if mode = 2 then { w2 with pc := dest, loopDue := false }.endLoops else w2

/-- `tret` of a mode; in user mode it raises the privilege trap (R404). -/
def tretForm (mode : Nat) (f : FormR) (s : State) : Res :=
  machineOpNT s fun s w =>
    match w.checked f.h (if mode = 2 then w.needs [(f.a, 1)] else []) false false (.fall w) with
    | .fall _ =>
      if Warp.never f.h then (s, .fall w)
      else if !w.sup then (s, .trap w { cls := 23 })
      else
        let w1 := w.trapReturn mode (if mode = 2 then w.scl (w.active.headD 0) f.a else 0)
        -- a record whose `scld` has been abandoned is no longer on its way (R125, R229)
        let left := (w.log.filter fun e => w1.log.all fun x => x.seq != e.seq).filterMap fun e => match e.acc with | .scales r => some r | _ => none
        (if left = [] then s else s.modBlock w.blk fun b => { b with scalePend := b.scalePend.filter fun r => !left.contains r },
         .done { w1.running with retired := w.retired + 1 })
    | r => (s, r)

def execTret (f : FormR) (s : State) : Res := tretForm 0 f s
def execTretSkip (f : FormR) (s : State) : Res := tretForm 1 f s
def execTretTo (f : FormR) (s : State) : Res := tretForm 2 f s

def execTrrd (f : FormR) (s : State) : Res :=
  warpOpNT s fun w =>
    match w.sclOp f.h f.dst [] false fun _ => w.trapWord f.x.toNat with
    | .fall w1 => if !w.sup && !Warp.never f.h then .trap w { cls := 23 } else .fall w1
    | r => r

/-! ## Pre-emption (R405–R407, R421) -/

/-- `yield` (R421): with a request pending the warp or foreman is saved after it. -/
def execYield (f : FormR) (s : State) : Res :=
  match s.curWarp with
  | none => .refused .noAgent
  | some w =>
    if w.tx.isSome then .next (s.finish w (.abort 7 0 0))
    else if Warp.never f.h || !s.requested w.blk then .next (s.finish w (.fall w))
    else .next (((s.retire w w).beginSave w.key false).endSave w.key)

def execBrpq (f : FormC) (s : State) : Res :=
  machineOpNT s fun s w =>
    (s, if Warp.never f.h then .fall w else if s.requested w.blk then .jump { w with pc := FormC.target f w.pc } else .fall w)

/-- `ydlrd` (R421): cycles left to the deadline. -/
def State.toDeadline (s : State) (b : Nat) : Word :=
  match s.block? b with
  | some x => if x.preq.getLsbD 0 then BitVec.ofNat 64 (x.deadline - s.coreCycle x.core) else ~~~0#64
  | none => ~~~0#64

def execYdlrd (f : FormR) (s : State) : Res := machineOpNT s fun s w => (s, w.sclOp f.h f.dst [] false fun _ => s.toDeadline w.blk)

def execCycrd (f : FormR) (s : State) : Res := machineOpNT s fun s w => (s, w.sclOp f.h f.dst [] false fun _ => BitVec.ofNat 64 s.cycle)

/-! ## The monitor (R416, R417) -/

/-- `mon`: armed at once when its line translates; otherwise the access is held in the operand log as lane 0's. -/
def execMon (f : FormM) (s : State) : Res :=
  machineOpNT s fun s w =>
    match w.checked f.h (w.needs [(⟨f.addr, 0, f.fa⟩, 1)]) false false (.fall w) with
    | .fall _ =>
      if Warp.never f.h then (s, .fall w)
      else if w.heldByFence false then (s, .wait .memory)
      else match w.freeEntry with
        | none => (s, .wait .log)
        | some k =>
          let m := w.active.headD 0
          let ea := w.ea f.addr f.off m 0
          let p : Part := { slot := m, lane := 0, addr := ea }
          let e := newEntry w k (packM 0x191 f) { acc := .monitor, size := 1 } false [p] 0
          match s.locateByte w e p 0 with
          | .error x => (s, .fall (w.logEntry { e with parts := [{ p with fault := some x }] }))
          | .ok ph =>
            let s1 := ((s.putWarp w).fillFor w p [(0, 0, ph)]).armMonitor w.key w.core ea ph.pa (s.readAddr w p 0 ph) (State.midxOf w m)
            (s1, .fall ((s1.warp? w.key).getD w))
    | r => (s, r)

def Warp.disarm (w : Warp) : Warp := { w with mon := {}, restored := false }

/-- `mwait` (R417). -/
def execMwait (f : FormR) (s : State) : Res :=
  machineOpNT s fun s w =>
    match w.checked f.h (w.needs [(f.a, 1)]) false false (.fall w) with
    | .fall _ =>
      if Warp.never f.h then (s, .fall w)
      else if w.log.any fun e => e.acc = .monitor then (s, .wait .log)
      else if !w.mon.armed then (s, .fall w.disarm)
      else if w.mon.written || w.restored then (s.l1Drop w.core w.mon.rline, .fall w.disarm)
      else
        let lim := w.scl (w.active.headD 0) f.a
        let dl := match w.mon.deadline with
          | some d => some d
          | none => if lim = ~~~0#64 then none else some (s.coreCycle w.core + lim.toNat)
        if dl.any (fun d => d < s.coreCycle w.core) then (s, .trap w.disarm { cls := 21, detail := w.mon.line })
        else
          let w1 : Warp := { w with mon := { w.mon with deadline := dl } }
          let s1 := s.waits w1 .monitor
          (s1, .done ((s1.warp? w.key).getD w1))
    | r => (s, r)

/-- MONITOR_WRITE (R416): a write to the armed line has marked the monitor; a warp waiting in `mwait` goes on. -/
def execMonitorWrite (c k : Nat) (s : State) : Res :=
  .next (s.modWarp (warpKey c k) fun w => if w.st = .wait && w.waitOn = some .monitor && w.mon.written then w.awake else w)

/-- MWAIT_TIMEOUT (R417): the limit of an `mwait` has passed with no write. -/
def execMwaitTimeout (c k : Nat) (s : State) : Res :=
  .next (match s.warp? (warpKey c k) with
    | none => s
    | some w =>
      let late := match w.mon.deadline with | some d => d < s.coreCycle w.core | none => false
      if w.st = .wait && w.waitOn = some .monitor && w.mon.armed && !w.mon.written && late then
        s.takeTrap w.disarm { cls := 21, detail := w.mon.line } w.pc
      else s)

def execMonclr (f : FormR) (s : State) : Res :=
  warpOpNT s fun w => unlessNever f.h w (if w.log.any fun e => e.acc = .monitor then .wait .log else .fall { w with mon := {} })

/-! ## System registers (R418, R419) -/

/-- CORELOC (R15). -/
def coreLoc (core : Nat) : Word := BitVec.ofNat 64 (core % 160 + 2 ^ 8 * (core / 160) + 2 ^ 11 * (core % 160 / 8))

/-- A mode may read or write a register (R418); the registers of `TTROOT`, `SEGTAB`, `TLBINV` and `SVPOOL` are the supervisor's. -/
def sysReads (n : Nat) (sup : Bool) : Bool := sup || !(n = 8 || n = 9 || n = 10 || n = 12)
def sysWrites (n : Nat) (sup : Bool) : Bool :=
  n = 1 || n = 2 || (sup && (inRange 4 6 n || inRange 8 10 n || n = 12 || inRange 16 31 n))

namespace State

/-- The value of a system register as a warp reads it (R418). -/
def sysRead (s : State) (w : Warp) (n : Nat) : Word :=
  let c := s.ctx w.ctx
  if n = 0 then coreLoc w.core
  else if n = 1 then w.wstat
  else if n = 2 then w.pathev
  else if n = 3 then (match s.block? w.blk with | some b => b.preq | none => 0)
  else if n = 4 then c.ydl
  else if n = 5 then c.trapvec
  else if n = 6 then c.ways
  else if n = 7 then tget 0 s.roofst w.core
  else if n = 8 then c.ttroot
  else if n = 9 then c.segtab
  else if n = 11 then BitVec.ofNat 64 s.mscSize
  else if n = 12 then c.svpool
  else if inRange 16 31 n then tget 0 s.counters (counterKey n w.core)
  else 0

/-- ROOFCFG as it stores a value (R250). -/
def roofCfg (v : Word) : Word := BitVec.ofNat 64 (min 16 (v.extractLsb' 0 5).toNat)

/-- TRAPVEC, YDL and SVPOOL as they store a value (R398, R406, R410). -/
def trapVec (v : Word) : Word := v &&& 0x00FFFFFFFFFFFFFC#64
def ydlOf (v : Word) : Word := v &&& 0xFFFFFFFF#64
def poolOf (v : Word) : Word := v &&& 0x00FFFFFFFFFFFFFF#64
/-- TTROOT and SEGTAB as they store a value (R324, R327). -/
def rootOf (v : Word) : Word := v &&& 0x000FFFFFFFF00000#64
def segTabOf (v : Word) : Word := v &&& 0x000FFFFFFFFFFF00#64

/-- A write of a system register, but for those with their own rules (R418). -/
def sysWrite (s : State) (k : Nat) (w : Warp) (n : Nat) (v : Word) : State :=
  let c := fun (f : Context → Context) => s.modCtx w.ctx f
  if n = 1 then s.modWarp k fun w => { w with wstat := (w.wstat &&& ~~~(v &&& 0xB#64) &&& ~~~4#64) ||| (v &&& 4#64) }
  else if n = 2 then s.modWarp k fun w => { w with pathev := v }
  else if n = 4 then c fun x => { x with ydl := ydlOf v }
  else if n = 5 then c fun x => { x with trapvec := trapVec v }
  else if n = 6 then c fun x => { x with ways := roofCfg v }
  else if n = 12 then c fun x => { x with svpool := poolOf v }
  else if inRange 16 31 n then { s with counters := tset s.counters (counterKey n w.core) (v &&& 0xFFFFFFFFFFFF#64) }
  else s

/-- The device reads a context's segment table (R327). -/
def readSegs (s : State) (x : Nat) : State :=
  let t := ((s.ctx x).segtab.extractLsb' 8 44).toNat * 256
  s.modCtx x fun c => { c with segs := (List.range 8).map fun i => BitVec.ofNat 256 (s.physNat (t + 32 * i) 32) }

/-- Drop cached translations of a context from every cache of the device (R330): all, or those of the pages that hold a 64 KiB granule; and the
pointers of its walk caches. -/
def tlbDrop (s : State) (x : Nat) (all : Bool) (va : Nat) : State :=
  { s with
    walks := s.walks.filter fun p => p.ctx != x,
    tlb := s.tlb.filter fun l => !(l.ctx = x && (all || (l.va ≤ va && va < l.va + l.size))) }

end State

/-- `sysrd` (R418, R419). -/
def execSysrd (f : FormR) (s : State) : Res :=
  machineOpNT s fun s w =>
    let n := (f.x.extractLsb' 0 8).toNat
    match w.sclOp f.h f.dst [] false fun _ => s.sysRead w n with
    | .fall w1 => (s, if Warp.never f.h || sysReads n w.sup then .fall w1 else .trap w { cls := 23 })
    | r => (s, r)

/-- The checks of `syswr`, then what the write does with the value (R419, R421). -/
def sysWriteForm (f : FormR) (s : State) (n : Nat) (act : State → Warp → Word → State) : Res :=
  machineOpNT s fun s w =>
    match w.checked f.h (w.needs [(f.a, 1)]) false false (.fall w) with
    | .fall _ =>
      if Warp.never f.h || (w.active = [] && !w.common? f.a.spec) then (s, .fall w)
      else if !sysWrites n w.sup then (s, .trap w { cls := 23 })
      else
        let s1 := act (s.putWarp w) w (w.scl (w.active.headD 0) f.a)
        (s1, .fall ((s1.warp? w.key).getD w))
    | r => (s, r)

def execSyswr (f : FormR) (s : State) : Res :=
  let n := (f.x.extractLsb' 0 8).toNat
  sysWriteForm f s n fun s w v => s.sysWrite w.key w n v

/-- The accesses of a context in flight, a warp's or a copy's, that had been translated complete with the translations they were given (R327,
R330): which of them had been, the spec leaves to timing. -/
def State.freeze (s : State) (x : Nat) : State :=
  let keep := fun (i core : Nat) (old : Option View) => if old.isNone && Config.translated s.tick i then some (s.viewNow core x) else old
  { s with
    warps := s.warps.map fun p => if p.2.ctx != x then p else
      (p.1, { p.2 with log := p.2.log.map fun (e : LogEntry) => if e.near then e else
        { e with parts := e.parts.map fun q => if q.ok || q.fault.isSome then q else
          { q with was := keep (((p.1 * 16 + e.idx) * 16 + q.slot) * 128 + q.lane) p.2.core q.was } } }),
    copies := s.copies.map fun p => if p.2.ctx != x then p else (p.1, { p.2 with was := keep (2 ^ 40 + p.1) (p.2.owner / 32) p.2.was }) }

/-- A write of TTROOT also acts as a write of TLBINV with ALL (R324). -/
def execTtrootWrite (f : FormR) (s : State) : Res :=
  sysWriteForm f s 8 fun s w v =>
    ((s.freeze w.ctx).modCtx w.ctx fun c => { c with ttroot := State.rootOf v }).tlbDrop w.ctx true 0

/-- A write of SEGTAB reads the new table (R327). -/
def execSegtabWrite (f : FormR) (s : State) : Res :=
  sysWriteForm f s 9 fun s w v =>
    ((s.freeze w.ctx).modCtx w.ctx fun c => { c with segtab := State.segTabOf v }).readSegs w.ctx

/-- TLBINV (R330). -/
def execTlbinv (f : FormR) (s : State) : Res :=
  sysWriteForm f s 10 fun s w v =>
    (s.freeze w.ctx).tlbDrop w.ctx (v.getLsbD 0) ((v.extractLsb' 16 40).toNat * 65536)

end Sys2Proof.Machine
end

