-- ==== Sys2Proof/Machine/Host.lean ====
section
/-!
DEFINITION. The host port: CXL.mem, CXL.cache (R467, R468), BAR0 and its windows (R469–R473, R476–R478), and contexts becoming resident or
not (R472).
-/

namespace Sys2Proof.Machine

/-! ## CXL.mem and CXL.cache (R467, R468) -/

/-- The device physical address of an offset in an HDM range (R467), if the range holds `n` bytes there. -/
def hdmAddr (range : Bool) (off n : Nat) : Option Nat :=
  if range then (if off + n ≤ 2 ^ 41 then some (capLo + off) else none)
  else if off + n ≤ hbmTop then some off else none

namespace State

/-- The first byte of a host access that only the device may reach (R467). -/
def refusedByte (s : State) (a n : Nat) : Option Nat := ((List.range n).find? fun i => s.deviceOnly (a + i)).map (a + ·)

/-- A refused host access is logged (R467). -/
def logRefused (s : State) (write : Bool) (addr : Nat) : State := s.logDevice (({} : ErrRec).add 1 (if write then 1 else 0) 0x694 addr)

/-- The line requests of a host access to the capacity tier bypass the memory-side cache (R336, R467). -/
def bypassLines (s : State) (a n : Nat) (write : Bool) : State := (lineSpan a n).foldl (fun s l => s.mscServe l write false true) s

/-- Bytes returned to the host. -/
def toHost (s : State) (bs : List Byte) (bad : Bool := false) : State := { s with hostOut := s.hostOut ++ [.data bs bad] }

/-- The host may hold a line of the device from now on (R468). -/
def hostTakes (s : State) (a n : Nat) : State := { s with hostHeld := s.hostHeld ++ (lineSpan a n).filter fun l => !s.hostHeld.contains l }

end State

/-- CXL_MEM_READ (R467, R468). -/
def execCxlMemRead (range : Bool) (off len : Nat) (s : State) : Res :=
  .next (match hdmAddr range off len with
    | none => s
    | some a => match s.refusedByte a len with
      | some x => (s.logRefused false x).toHost (List.replicate len 0xFF)
      | none =>
        let s1 := ((s.bypassLines a len false).readBy State.noWarp a len).hostTakes a len
        s1.toHost (s1.physRead a len) (s1.poisoned a len))

/-- CXL_MEM_WRITE (R467, R468): performed at its serialisation point. -/
def execCxlMemWrite (range : Bool) (off : Nat) (data : List Byte) (s : State) : Res :=
  .next (match hdmAddr range off data.length with
    | none => s
    | some a => match s.refusedByte a data.length with
      | some x => s.logRefused true x
      | none => ((s.bypassLines a data.length true).perform State.noWarp a data).hostTakes a data.length)

/-- HOST_SNOOP (R467): the home slice answers with the newest bytes of a host line and gives up its ownership. -/
def execHostSnoop (line : Nat) (s : State) : Res :=
  .next (
    let l := line / 128 * 128
    if !State.isHost l then s else ({ s with hostOwned := s.hostOwned.filter (· != l) }).toHost (s.physRead l 128) (s.poisoned l 128))

/-- CXL_OWNERSHIP_GRANT (R468). -/
def execCxlOwnershipGrant (line : Nat) (s : State) : Res :=
  .next (
    let l := line / 128 * 128
    if !State.isHost l || s.hostOwned.contains l then s else { s with hostOwned := s.hostOwned ++ [l] })

/-- BACK_INVALIDATE_RESPONSE (R468): the host no longer holds the line. -/
def execBackInvalidateResponse (line : Nat) (s : State) : Res :=
  .next { s with hostHeld := s.hostHeld.filter (· != line / 128 * 128) }

/-! ## Contexts (R339, R472) -/

/-- CTXCTL (R471). -/
def ctxctl (c : Context) : Word :=
  BitVec.ofNat 64 ((if c.res then 1 else 0) + (if c.busy then 2 else 0) + (if c.err then 4 else 0) + (if c.fresh then 8 else 0))

/-- A field of a descriptor. -/
def descFld (d : BitVec 512) (lo n : Nat) : Nat := (d.extractLsb' lo n).toNat

namespace State

/-- A descriptor the device refuses (R339): a nonzero reserved field, a misaligned address, a timeline block outside HBM4E. -/
def descBad (s : State) (d : BitVec 512) : Bool :=
  descFld d 248 8 != 0 || descFld d 275 13 != 0 || descFld d 304 208 != 0 || descFld d 128 64 % 512 != 0 || descFld d 192 56 % 64 != 0 ||
  s.reservedLo < descFld d 128 64 + 512

/-- What a slot still holds of an earlier context is discarded (R472). -/
def discard (s : State) (x : Nat) : State :=
  let bs := (s.blocks.filter fun p => p.2.ctx = x).map (·.1)
  let s1 := bs.foldl State.abortBlock s
  let tasks := (s1.tasks.filter fun p => p.2.ctx = x).map (·.1)
  { s1 with
    blocks := s1.blocks.filter fun p => p.2.ctx != x, warps := s1.warps.filter fun p => p.2.ctx != x,
    nodes := s1.nodes.filter fun p => p.2.ctx != x, copies := s1.copies.filter fun p => p.2.ctx != x,
    insts := s1.insts.filter fun p => !tasks.contains p.2.task, tasks := s1.tasks.filter fun p => p.2.ctx != x,
    conv := s1.conv.map fun p => (p.1, p.2.filter fun j => j.ctx != x), early := s1.early.filter fun p => p.1 != x,
    tlb := s1.tlb.filter (fun l => l.ctx != x), walks := s1.walks.filter fun p => p.ctx != x }

/-- A context is created from the slot's descriptor (R339, R472). -/
def createCtx (s : State) (x : Nat) : State :=
  let d := (s.ctx x).desc
  let s1 := s.discard x
  if s.descBad d then { s1 with ctxs := tset s1.ctxs x { desc := d, err := true, fresh := true } }
  else
    let q := descFld d 288 16
    let c : Context := {
      res := true, held := true, desc := d, ttroot := rootOf (d.extractLsb' 0 64), segtab := segTabOf (d.extractLsb' 64 64),
      tlblk := d.extractLsb' 128 64, qtab := BitVec.ofNat 64 (descFld d 192 56), qmax := descFld d 256 16, prio := descFld d 272 3,
      quant := if q = 0 then 3000000 else 1500 * q }
    let s2 : State := { s1 with ctxs := tset s1.ctxs x c, hostHeld := s1.hostHeld.filter fun l => !(lineSpan (descFld d 128 64) 512).contains l }
    (s2.perform noWarp (descFld d 128 64) (List.replicate 512 0)).readSegs x

/-- A context that was made non-resident returns (R342, R373, R472). -/
def returnCtx (s : State) (x : Nat) : State :=
  let c := s.ctx x
  if !c.held then s.modCtx x fun c => { c with err := true }
  else
    let back := c.mapped.filter fun q => !(c.pending.any fun p => p.1 = q)
    let s1 := s.modCtx x fun c => { c with res := true, err := false, pending := c.pending ++ back.map fun q => (q, s.cycle), mapped := [] }
    let s2 : State := { s1 with
      insts := s1.insts.map fun p => if p.2.ctx = x && p.2.st = .saved then (p.1, { p.2 with st := .queued, order := s1.rdyOrder }) else p }
    (s2.nextOrder.readSegs x).requeueJobs x

/-- PREQ is raised with CAUSE 2 on each resident block of a context (R472). -/
def raiseAll (s : State) (x : Nat) : State :=
  ((s.blocks.filter fun p => p.2.ctx = x && p.2.st = .resident).map (·.1)).foldl (fun s b => s.raiseReq b 2) s

/-- A context leaves residency (R472): its slots become FREE, its blocks must yield, its queued convolution jobs are withdrawn (R245). -/
def leaveCtx (s : State) (x : Nat) : State :=
  let mine := (s.qslots.filter fun p => p.2.st != .free && p.2.ctx = x).map fun p => p.2.q
  let pool := s.poolUnits x != 0
  let out := fun (j : ConvJob) => j.ctx = x && !j.started && (pool || j.blk.isNone)
  let js := s.conv.flatMap fun p => p.2.filter out
  let s1 := s.modCtx x fun c => { c with res := false, busy := true, err := false, mapped := c.mapped ++ mine, jobs := c.jobs ++ js }
  let s2 : State := { s1 with
    qslots := s1.qslots.map fun p => if p.2.ctx = x then (p.1, {}) else p,
    conv := s1.conv.map fun p => (p.1, p.2.filter fun j => !out j) }
  let s3 := if pool && js != [] then s2.writePieces x 0 (ctxPieces (s2.ctx x).jobs) else s2
  s3.raiseAll x

/-- The change of residency is complete (R472). -/
def hasLeft (s : State) (x : Nat) : Bool :=
  s.qslots.all (fun p => p.2.st = .free || p.2.ctx != x) && s.blocks.all (fun p => p.2.ctx != x || p.2.st != .resident) &&
  s.conv.all (fun p => p.2.all fun j => j.ctx != x || j.started) && s.insts.all (fun p => p.2.ctx != x || p.2.st != .running) &&
  s.colls.all fun p => p.2.ctx != x

end State

/-- CONTEXT_CREATE (R472): RES is written 1 while NEW = 1. -/
def execContextCreate (x : Nat) (s : State) : Res :=
  .next (
    let c := s.ctx x
    if 16 ≤ x || s.devState != 1 || c.res || c.busy || !c.fresh then s else s.createCtx x)

/-- CONTEXT_RETURN (R472): RES is written 1 while NEW = 0. -/
def execContextReturn (x : Nat) (s : State) : Res :=
  .next (
    let c := s.ctx x
    if 16 ≤ x || s.devState != 1 || c.res || c.busy || c.fresh then s else s.returnCtx x)

/-- CONTEXT_MAKE_NONRESIDENT (R472): RES is written 0. -/
def execContextMakeNonresident (x : Nat) (s : State) : Res :=
  .next (
    let c := s.ctx x
    if 16 ≤ x || !c.res || c.busy then s else s.leaveCtx x)

/-- RESIDENCY_CHANGE_DONE (R472): BUSY falls once nothing of the context is left on the device. Until then a block whose frames the pool had
no room for is asked again. -/
def execResidencyChangeDone (x : Nat) (s : State) : Res :=
  .next (
    let s := s.reap
    if !(s.ctx x).busy then s
    else if s.hasLeft x then s.modCtx x fun c => { c with busy := false }
    else s.raiseAll x)

/-! ## BAR0 (R469–R471, R473) -/

/-- A window of BAR0: its context slot, and the offset within its place. -/
def barPlace (base stride off : Nat) : Option (Nat × Nat) :=
  if base ≤ off && off < base + 16 * stride then some ((off - base) / stride, (off - base) % stride) else none

/-- Bytes of a little-endian list as a word. -/
def wordOf (bs : List Byte) : Word := BitVec.ofNat 64 (leNat bs)

namespace State

/-- DEVLOG (R473). -/
def devlogWord (s : State) : Word := BitVec.ofNat 64 (s.wptr % 256 + 2 ^ 8 * (s.rptr % 256) + 2 ^ 16 * s.lost)

/-- The status qword of a group place (R471). -/
def groupStatus (s : State) (x g : Nat) : Word :=
  if (s.ctx x).gload.contains g then ~~~0#64 else tget 0 (s.ctx x).gstat g

/-- The 64-bit register at an aligned BAR0 offset, if one is there (R469). -/
def barWord (s : State) (o : Nat) : Option Word :=
  if o = 0 then some s.devst
  else if s.devState = 2 then none
  else if o = 8 then some 0
  else match barPlace 0x200000 65536 o with
    | some (x, i) =>
      let c := s.ctx x
      if i < 0x40 then some 0
      else if i = 0x40 then some (ctxctl c)
      else if i = 0x48 then some c.trapvec
      else if i = 0x50 then some c.ydl
      else if i = 0x58 then some c.svpool
      else if i = 0x60 then some c.ways
      else none
    | none => match barPlace 0x300000 4096 o with
      | some (x, i) => if i < 512 && (s.ctx x).held then some (BitVec.ofNat 64 (s.timeline x (i / 8))) else none
      | none => match barPlace 0x600000 65536 o with
        | some (x, i) =>
          let b := i % 256
          some (if b < 192 then (tget 0 (s.ctx x).gimg (i / 256)).extractLsb' (8 * b) 64 else if b = 192 then s.groupStatus x (i / 256) else 0)
        | none =>
          if inRange 0x400000 0x401FFF o then
            let e := o - 0x400000
            some (wordOf (((tget (List.replicate 32 0) s.devlog (e / 32)).drop (e % 32)).take 8))
          else if o = 0x402000 then some s.devlogWord
          else if inRange 0x500000 (0x500000 + 8 * 27) o then some (tget 0 s.rails ((o - 0x500000) / 8))
          else if inRange 0x501000 0x501038 o then some (tget 0 s.pcap ((o - 0x501000) / 8))
          else none

/-- An aligned access of 4 or 8 bytes (R469); the timeline window takes no 4-byte access. -/
def barAligned (off size : Nat) : Bool := (size = 4 || size = 8) && off % size = 0 && !(size = 4 && (barPlace 0x300000 4096 off).isSome)

/-- What a BAR0 read returns: all ones where the access names no register (R469, R475). -/
def barRead (s : State) (off size : Nat) : List Byte :=
  match (if barAligned off size then s.barWord (off / 8 * 8) else none) with
  | some v => ((leBytes 8 v.toNat).drop (off % 8)).take size
  | none => List.replicate size 0xFF

/-- The host's own advance (R470): on its way while the counter's line is with the host. -/
def hostAdvance (s : State) (x c : Nat) (v : Word) : State := if s.counterReady x c then s.advance x c v else s.postAdvance x c v

/-- A register after a write of 4 or 8 bytes at a byte offset within it. -/
def mergeWord (old : Word) (off size : Nat) (v : Word) : Word :=
  if size = 8 then v
  else if off % 8 = 0 then old.extractLsb' 32 32 ++ v.extractLsb' 0 32
  else v.extractLsb' 0 32 ++ old.extractLsb' 0 32

/-- A write to the descriptor area (R471, R472). -/
def writeDesc (s : State) (x off size : Nat) (v : Word) : State :=
  let c := s.ctx x
  if c.res || c.busy then s
  else s.modCtx x fun c =>
    let o := off / 8 * 8
    let w := mergeWord (c.desc.extractLsb' (8 * o) 64) off size v
    { c with fresh := true, desc := (c.desc &&& ~~~((BitVec.allOnes 64).setWidth 512 <<< (8 * o))) ||| (w.setWidth 512 <<< (8 * o)) }

/-- A write to CTXCTL (R471, R472). -/
def writeCtl (s : State) (x : Nat) (v : Word) : State :=
  let c := s.ctx x
  if c.busy then s
  else if v.getLsbD 0 then (if c.res then s else if c.fresh then s.createCtx x else s.returnCtx x)
  else if c.res then s.leaveCtx x else s

/-- A load of a group entry starts (R471): it is decided once no collective of the entry runs. -/
def startGroupLoad (s : State) (x g : Nat) : State :=
  if !s.resident x || 256 ≤ g || (s.ctx x).gload.contains g then s
  else s.modCtx x fun c => { c with gload := c.gload ++ [g] }

/-- A write to the group window (R471). -/
def writeGroup (s : State) (x i size : Nat) (v : Word) : State :=
  let g := i / 256
  let b := i % 256
  if !s.resident x || (s.ctx x).gload.contains g then s
  else if b < 192 then s.modCtx x fun c =>
    let old := tget 0 c.gimg g
    let o := b / 8 * 8
    let w := mergeWord (old.extractLsb' (8 * o) 64) b size v
    { c with gimg := tset c.gimg g ((old &&& ~~~((BitVec.allOnes 64).setWidth 1536 <<< (8 * o))) ||| (w.setWidth 1536 <<< (8 * o))) }
  else if b = 192 && size = 8 && v = 0 then s.startGroupLoad x g
  else s

/-- A write to the context window (R471). -/
def writeCtxWindow (s : State) (x i size : Nat) (v : Word) : State :=
  let put := fun (f : Context → Context) => if s.resident x then s.modCtx x f else s
  let o := i / 8 * 8
  if o < 0x40 then s.writeDesc x i size v
  else if o = 0x40 then (if i = 0x40 then s.writeCtl x v else s)
  else if o = 0x48 then put fun c => { c with trapvec := trapVec (mergeWord c.trapvec i size v) }
  else if o = 0x50 then put fun c => { c with ydl := ydlOf (mergeWord c.ydl i size v) }
  else if o = 0x58 then put fun c => { c with svpool := poolOf (mergeWord c.svpool i size v) }
  else if o = 0x60 then put fun c => { c with ways := roofCfg (mergeWord c.ways i size v) }
  else s

/-- A write to BAR0 (R469–R473, R475, R478). -/
def barWrite (s : State) (off size : Nat) (v : Word) : State :=
  if !barAligned off size || !s.powered then s
  else if off / 8 = 1 then s.writeBoot fun b => { b with fail := [0, 0, 0, 0, 0, 0, 0] }
  else if s.devState != 1 then s
  else match barPlace 0x100000 4096 off with
    | some (x, i) => if i = 0 && size = 4 then s.doorbell x (v.extractLsb' 0 32).toNat else s
    | none => match barPlace 0x200000 65536 off with
      | some (x, i) => s.writeCtxWindow x i size v
      | none => match barPlace 0x300000 4096 off with
        | some (x, i) => if i < 512 && (s.ctx x).held then s.hostAdvance x (i / 8) v else s
        | none => match barPlace 0x600000 65536 off with
          | some (x, i) => s.writeGroup x i size v
          | none =>
            if off = 0x402000 then { s with rptr := (v.extractLsb' 8 8).toNat }
            else if inRange 0x501000 0x50103F off then
              let d := (off - 0x501000) / 8
              let old := tget 0 s.pcap d
              let new := mergeWord old off size v
              { s with pcap := tset s.pcap d ((old &&& 0xFFFFFF0000000000#64) ||| (new &&& 0xFFFFFFFFFF#64)) }
            else s

end State

/-- BAR_INVALID_ACCESS (R469, R475): no effect; a read returns all ones. An access that names a register is read as that register's rule
gives, and changes nothing either. -/
def execBarInvalidAccess (off size : Nat) (read : Bool) (s : State) : Res :=
  .next (if read && s.powered then s.toHost (s.barRead off size) else s)

/-- HOST_DOORBELL_WRITE (R470). -/
def execHostDoorbellWrite (x : Nat) (q : BitVec 32) (s : State) : Res := .next (if s.devState = 1 && x < 16 then s.doorbell x q.toNat else s)

/-- TIMELINE_WINDOW_READ (R470). -/
def execTimelineWindowRead (x c : Nat) (s : State) : Res :=
  .next (if x < 16 && s.powered then s.toHost (s.barRead (0x300000 + 4096 * x + 8 * (c % 512)) 8) else s)

/-- TIMELINE_WINDOW_WRITE (R470): an advance by the host. -/
def execTimelineWindowWrite (x c : Nat) (v : BitVec 64) (s : State) : Res :=
  .next (if s.devState = 1 && x < 16 && c < 64 && (s.ctx x).held then s.hostAdvance x c v else s)

/-- DESCRIPTOR_WRITE (R471, R472). -/
def execDescriptorWrite (x off size : Nat) (v : BitVec 64) (s : State) : Res :=
  .next (if s.devState = 1 && x < 16 && off < 0x40 && State.barAligned off size then s.writeDesc x off size v else s)

/-- GROUP_WINDOW_LOAD (R471): 0 is written to a status qword. -/
def execGroupWindowLoad (x g : Nat) (s : State) : Res := .next (if s.devState = 1 && x < 16 then s.startGroupLoad x g else s)

/-- GROUP_LOAD_DECIDED (R447, R471). -/
def execGroupLoadDecided (x g : Nat) (s : State) : Res :=
  .next (if !(s.ctx x).gload.contains g || s.collRuns x g then s
    else
      let (s1, code) := s.loadGroup x g (tget 0 (s.ctx x).gimg g)
      s1.modCtx x fun c => { c with gload := c.gload.filter (· != g), gstat := tset c.gstat g (BitVec.ofNat 64 code) })

/-- BAR_REGISTER_WRITE (R469, R471, R473, R478). -/
def execBarRegisterWrite (off size : Nat) (v : BitVec 64) (s : State) : Res := .next (s.barWrite off size v)

end Sys2Proof.Machine
end

