-- ==== Sys2Proof/Machine/Vector.lean ====
section
/-!
DEFINITION. The vector family (R177–R192): floating-point and integer arithmetic, comparisons, dots, lane reductions, selects and moves,
conversions, special functions. Every form reads its sources before it writes (R177), is checked by duplicate mode and takes a pending
injected error (R81, R466).
-/

namespace Sys2Proof.Machine

/-- The options of X (R180). -/
def fltOpt (f : FormR) : Rnd := { mode := (f.x.extractLsb' 10 3).toNat, ftz := f.x.getLsbD 13, sat := f.x.getLsbD 14 }

/-- The registers a result of a format fills (R157). -/
def fltRegs (f : Fmt) : Nat := if f.width = 64 then 2 else 1

/-- A result as the registers it fills. -/
def fltOut (f : Fmt) (n : Nat) : List Lane32 := if f.width = 64 then halves n else [BitVec.ofNat 32 n]

/-! ## Floating-point arithmetic (R182–R185) -/

/-- A form with one floating-point source. -/
def fltUn (fmt : Fmt) (f : FormR) (g : Nat → Nat) (s : State) : Res :=
  let k := fltRegs fmt
  warpOp s fun w => w.soften f.h f.dst (w.vecOp f.h f.dst k [(f.a, k)] false fun m l => fltOut fmt (g (w.flt fmt m f.a l 0)))

/-- A form with two floating-point sources. -/
def fltBin (fmt : Fmt) (f : FormR) (g : Nat → Nat → Nat) (s : State) : Res :=
  let k := fltRegs fmt
  warpOp s fun w => w.soften f.h f.dst (w.vecOp f.h f.dst k [(f.a, k), (f.b, k)] false fun m l =>
    fltOut fmt (g (w.flt fmt m f.a l 0) (w.flt fmt m f.b l 0)))

/-- A form with three floating-point sources. -/
def fltTri (fmt : Fmt) (f : FormR) (g : Nat → Nat → Nat → Nat) (s : State) : Res :=
  let k := fltRegs fmt
  let c := thirdSrc f.x
  warpOp s fun w => w.soften f.h f.dst (w.vecOp f.h f.dst k [(f.a, k), (f.b, k), (c, k)] false fun m l =>
    fltOut fmt (g (w.flt fmt m f.a l 0) (w.flt fmt m f.b l 0) (w.flt fmt m c l 0)))

/-- The two halves of a packed result. -/
def packTwo (g : Nat → Nat) : Lane32 := BitVec.ofNat 32 (g 0 + 2 ^ 16 * g 1)

/-- A packed form with two sources: each 16-bit half by itself. -/
def packBin (fmt : Fmt) (f : FormR) (g : Nat → Nat → Nat) (s : State) : Res :=
  warpOp s fun w => w.soften f.h f.dst (w.vecOp f.h f.dst 1 [(f.a, 1), (f.b, 1)] false fun m l =>
    [packTwo fun e => g (w.fltSmall fmt m f.a l e) (w.fltSmall fmt m f.b l e)])

/-- A packed form with three sources. -/
def packTri (fmt : Fmt) (f : FormR) (g : Nat → Nat → Nat → Nat) (s : State) : Res :=
  let c := thirdSrc f.x
  warpOp s fun w => w.soften f.h f.dst (w.vecOp f.h f.dst 1 [(f.a, 1), (f.b, 1), (c, 1)] false fun m l =>
    [packTwo fun e => g (w.fltSmall fmt m f.a l e) (w.fltSmall fmt m f.b l e) (w.fltSmall fmt m c l e)])

/-- A dot form of `n` packed elements (R172, R186). -/
def fltDot (fmt : Fmt) (n : Nat) (f : FormR) (s : State) : Res :=
  let c := thirdSrc f.x
  let r := fltOpt f
  let el := fun (b : Nat) => fmt.decode (fmt.flush r.ftz b)
  warpOp s fun w => w.soften f.h f.dst (w.vecOp f.h f.dst 1 [(f.a, 1), (f.b, 1), (c, 1)] false fun m l =>
    [BitVec.ofNat 32 (fpSum Fmt.f32 r (Fmt.f32.decode (Fmt.f32.flush r.ftz (w.fltSmall Fmt.f32 m c l 0)) ::
      (List.range n).map fun e => mulVal (el (w.fltSmall fmt m f.a l e)) (el (w.fltSmall fmt m f.b l e))))])

/-! ## Lane reductions (R173, R187) -/

/-- Combine two positions of the tree: an absent one gives way. -/
def combineOpt {α : Type} (op : α → α → α) : Option α → Option α → Option α
  | none, y => y
  | x, none => x
  | some x, some y => some (op x y)

/-- The tree over `2 ^ k` lanes from `b` (R173). -/
def treeBlock {α : Type} (op : α → α → α) (v : Nat → Option α) : Nat → Nat → Option α
  | 0, b => v b
  | k + 1, b => combineOpt op (treeBlock op v k b) (treeBlock op v k (b + 2 ^ k))

/-- The result of the segment of `size` lanes that holds lane `l` (R173). -/
def segResult {α : Type} (op : α → α → α) (v : Nat → Option α) (size l : Nat) : Option α :=
  if size = 96 then combineOpt op (combineOpt op (treeBlock op v 5 0) (treeBlock op v 5 32)) (treeBlock op v 5 64)
  else treeBlock op v (Nat.log2 size) (l - l % size)

/-- The lanes a reduction of a member sees: its own, or those of the one set of beats when its source is common (R104, R187). -/
def reduceLanes (w : Warp) (h : Hdr) (a : Src) (m : Nat) : LaneMask := if w.common? a.spec then w.union h else w.part h m

/-- `fred` (R187): any NaN among the terms gives the default NaN (R160). -/
def fltReduce (fmt : Fmt) (f : FormR) (s : State) : Res :=
  let k := fltRegs fmt
  let r := fltOpt f
  let op := (f.x.extractLsb' 3 2).toNat
  let size := segSize (f.x.extractLsb' 0 3).toNat
  let step := if op = 0 then fpAdd fmt { r with sat := false } else fpMinMax fmt r.ftz (op = 2)
  let empty := if op = 0 then 0 else fmt.defaultNan
  warpOp s fun w =>
    let term := fun (m l : Nat) =>
      let x := fmt.flush r.ftz (w.flt fmt m f.a l 0)
      if (fmt.decode x).isNan then fmt.defaultNan else x
    w.soften f.h f.dst (w.vecOp f.h f.dst k [(f.a, k)] false fun m l =>
      let t := reduceLanes w f.h f.a m
      fltOut fmt ((segResult step (fun i => if t.getLsbD i then some (term m i) else none) size l).getD empty))


/-! ### F32 -/

def execFaddF32 (f : FormR) (s : State) : Res := fltBin Fmt.f32 f (fpAdd Fmt.f32 (fltOpt f)) s
def execFsubF32 (f : FormR) (s : State) : Res := fltBin Fmt.f32 f (fpSub Fmt.f32 (fltOpt f)) s
def execFmulF32 (f : FormR) (s : State) : Res := fltBin Fmt.f32 f (fpMul Fmt.f32 (fltOpt f)) s
def execFfmaF32 (f : FormR) (s : State) : Res := fltTri Fmt.f32 f (fpFma Fmt.f32 (fltOpt f) false) s
def execFnmaF32 (f : FormR) (s : State) : Res := fltTri Fmt.f32 f (fpFma Fmt.f32 (fltOpt f) true) s
def execFminF32 (f : FormR) (s : State) : Res := fltBin Fmt.f32 f (fpMinMax Fmt.f32 (fltOpt f).ftz false) s
def execFmaxF32 (f : FormR) (s : State) : Res := fltBin Fmt.f32 f (fpMinMax Fmt.f32 (fltOpt f).ftz true) s
def execFnegF32 (f : FormR) (s : State) : Res := fltUn Fmt.f32 f (Fmt.f32.negate) s
def execFabsF32 (f : FormR) (s : State) : Res := fltUn Fmt.f32 f (fun a => a % Fmt.f32.signBit) s
def execFcpsgnF32 (f : FormR) (s : State) : Res := fltBin Fmt.f32 f (fun a b => a % Fmt.f32.signBit + b / Fmt.f32.signBit % 2 * Fmt.f32.signBit) s
def execFcmpF32 (f : FormR) (s : State) : Res :=
  warpOp s fun w => w.soften f.h f.dst (w.predOp f.h f.dst [(f.a, 1), (f.b, 1)] fun m l =>
    fpCmp Fmt.f32 (fltOpt f).ftz (f.x.extractLsb' 15 3).toNat (w.flt Fmt.f32 m f.a l 0) (w.flt Fmt.f32 m f.b l 0))
def execFclassF32 (f : FormR) (s : State) : Res :=
  warpOp s fun w => w.soften f.h f.dst (w.vecOp f.h f.dst 1 [(f.a, 1)] false fun m l => [BitVec.ofNat 32 (2 ^ fpClass Fmt.f32 (w.flt Fmt.f32 m f.a l 0))])
def execFredF32 (f : FormR) (s : State) : Res := fltReduce Fmt.f32 f s

/-! ### F64 -/

def execFaddF64 (f : FormR) (s : State) : Res := fltBin Fmt.f64 f (fpAdd Fmt.f64 (fltOpt f)) s
def execFsubF64 (f : FormR) (s : State) : Res := fltBin Fmt.f64 f (fpSub Fmt.f64 (fltOpt f)) s
def execFmulF64 (f : FormR) (s : State) : Res := fltBin Fmt.f64 f (fpMul Fmt.f64 (fltOpt f)) s
def execFfmaF64 (f : FormR) (s : State) : Res := fltTri Fmt.f64 f (fpFma Fmt.f64 (fltOpt f) false) s
def execFnmaF64 (f : FormR) (s : State) : Res := fltTri Fmt.f64 f (fpFma Fmt.f64 (fltOpt f) true) s
def execFminF64 (f : FormR) (s : State) : Res := fltBin Fmt.f64 f (fpMinMax Fmt.f64 (fltOpt f).ftz false) s
def execFmaxF64 (f : FormR) (s : State) : Res := fltBin Fmt.f64 f (fpMinMax Fmt.f64 (fltOpt f).ftz true) s
def execFnegF64 (f : FormR) (s : State) : Res := fltUn Fmt.f64 f (Fmt.f64.negate) s
def execFabsF64 (f : FormR) (s : State) : Res := fltUn Fmt.f64 f (fun a => a % Fmt.f64.signBit) s
def execFcpsgnF64 (f : FormR) (s : State) : Res := fltBin Fmt.f64 f (fun a b => a % Fmt.f64.signBit + b / Fmt.f64.signBit % 2 * Fmt.f64.signBit) s
def execFcmpF64 (f : FormR) (s : State) : Res :=
  warpOp s fun w => w.soften f.h f.dst (w.predOp f.h f.dst [(f.a, 2), (f.b, 2)] fun m l =>
    fpCmp Fmt.f64 (fltOpt f).ftz (f.x.extractLsb' 15 3).toNat (w.flt Fmt.f64 m f.a l 0) (w.flt Fmt.f64 m f.b l 0))
def execFclassF64 (f : FormR) (s : State) : Res :=
  warpOp s fun w => w.soften f.h f.dst (w.vecOp f.h f.dst 1 [(f.a, 2)] false fun m l => [BitVec.ofNat 32 (2 ^ fpClass Fmt.f64 (w.flt Fmt.f64 m f.a l 0))])
def execFredF64 (f : FormR) (s : State) : Res := fltReduce Fmt.f64 f s

/-! ### F16x2 -/

def execFaddF16x2 (f : FormR) (s : State) : Res := packBin Fmt.f16 f (fpAdd Fmt.f16 (fltOpt f)) s
def execFsubF16x2 (f : FormR) (s : State) : Res := packBin Fmt.f16 f (fpSub Fmt.f16 (fltOpt f)) s
def execFmulF16x2 (f : FormR) (s : State) : Res := packBin Fmt.f16 f (fpMul Fmt.f16 (fltOpt f)) s
def execFfmaF16x2 (f : FormR) (s : State) : Res := packTri Fmt.f16 f (fpFma Fmt.f16 (fltOpt f) false) s
def execFminF16x2 (f : FormR) (s : State) : Res := packBin Fmt.f16 f (fpMinMax Fmt.f16 (fltOpt f).ftz false) s
def execFmaxF16x2 (f : FormR) (s : State) : Res := packBin Fmt.f16 f (fpMinMax Fmt.f16 (fltOpt f).ftz true) s

/-! ### Bf16x2 -/

def execFaddBf16x2 (f : FormR) (s : State) : Res := packBin Fmt.bf16 f (fpAdd Fmt.bf16 (fltOpt f)) s
def execFsubBf16x2 (f : FormR) (s : State) : Res := packBin Fmt.bf16 f (fpSub Fmt.bf16 (fltOpt f)) s
def execFmulBf16x2 (f : FormR) (s : State) : Res := packBin Fmt.bf16 f (fpMul Fmt.bf16 (fltOpt f)) s
def execFfmaBf16x2 (f : FormR) (s : State) : Res := packTri Fmt.bf16 f (fpFma Fmt.bf16 (fltOpt f) false) s
def execFminBf16x2 (f : FormR) (s : State) : Res := packBin Fmt.bf16 f (fpMinMax Fmt.bf16 (fltOpt f).ftz false) s
def execFmaxBf16x2 (f : FormR) (s : State) : Res := packBin Fmt.bf16 f (fpMinMax Fmt.bf16 (fltOpt f).ftz true) s

/-! ### Dot forms (R172, R186) -/

def execFdot2F16 (f : FormR) (s : State) : Res := fltDot Fmt.f16 2 f s
def execFdot2Bf16 (f : FormR) (s : State) : Res := fltDot Fmt.bf16 2 f s
def execFdot4E4m3 (f : FormR) (s : State) : Res := fltDot Fmt.e4m3 4 f s
def execFdot4E5m2 (f : FormR) (s : State) : Res := fltDot Fmt.e5m2 4 f s

/-! ## Integer arithmetic (R188) -/

/-- A form with one 32-bit source. -/
def intUn (f : FormR) (g : Lane32 → Lane32) (s : State) : Res :=
  warpOp s fun w => w.soften f.h f.dst (w.vecOp f.h f.dst 1 [(f.a, 1)] false fun m l => [g (w.int32 m f.a l)])

/-- A form with two 32-bit sources. -/
def intBin (f : FormR) (g : Lane32 → Lane32 → Lane32) (s : State) : Res :=
  warpOp s fun w => w.soften f.h f.dst (w.vecOp f.h f.dst 1 [(f.a, 1), (f.b, 1)] false fun m l => [g (w.int32 m f.a l) (w.int32 m f.b l)])

/-- A form with three 32-bit sources. -/
def intTri (f : FormR) (g : Lane32 → Lane32 → Lane32 → Lane32) (s : State) : Res :=
  let c := thirdSrc f.x
  warpOp s fun w => w.soften f.h f.dst (w.vecOp f.h f.dst 1 [(f.a, 1), (f.b, 1), (c, 1)] false fun m l =>
    [g (w.int32 m f.a l) (w.int32 m f.b l) (w.int32 m c l)])

/-- A value read as signed, or as unsigned. -/
def readAs (uns : Bool) (a : Lane32) : Int := if uns then a.toNat else a.toInt

/-- Saturating sum and difference (R188). -/
def satAdd (uns : Bool) (a b : Lane32) : Lane32 := BitVec.ofInt 32 (clampTo (intRange 32 !uns) (readAs uns a + readAs uns b))
def satSub (uns : Bool) (a b : Lane32) : Lane32 := BitVec.ofInt 32 (clampTo (intRange 32 !uns) (readAs uns a - readAs uns b))

def execIaddB32 (f : FormR) (s : State) : Res := intBin f (fun a b => if f.x.getLsbD 14 then satAdd (f.x.getLsbD 15) a b else a + b) s
def execIsubB32 (f : FormR) (s : State) : Res := intBin f (fun a b => if f.x.getLsbD 14 then satSub (f.x.getLsbD 15) a b else a - b) s
def execImulB32 (f : FormR) (s : State) : Res := intBin f ((· * ·)) s
def execImulh (f : FormR) (s : State) : Res := intBin f (fun a b => if f.x.getLsbD 15 then BitVec.ofNat 32 (a.toNat * b.toNat / 2 ^ 32) else BitVec.ofInt 32 (a.toInt * b.toInt / 2 ^ 32)) s
def execImin (f : FormR) (s : State) : Res := intBin f (fun a b => if (if f.x.getLsbD 15 then b.ult a else b.slt a) then b else a) s
def execImax (f : FormR) (s : State) : Res := intBin f (fun a b => if (if f.x.getLsbD 15 then a.ult b else a.slt b) then b else a) s
def execIandB32 (f : FormR) (s : State) : Res := intBin f ((· &&& ·)) s
def execIorB32 (f : FormR) (s : State) : Res := intBin f ((· ||| ·)) s
def execIxorB32 (f : FormR) (s : State) : Res := intBin f ((· ^^^ ·)) s
def execIandnB32 (f : FormR) (s : State) : Res := intBin f (fun a b => a &&& ~~~b) s
def execIshlB32 (f : FormR) (s : State) : Res := intBin f (fun a b => a <<< (b.extractLsb' 0 5).toNat) s
def execIshrB32 (f : FormR) (s : State) : Res := intBin f (fun a b => a >>> (b.extractLsb' 0 5).toNat) s
def execIsarB32 (f : FormR) (s : State) : Res := intBin f (fun a b => a.sshiftRight (b.extractLsb' 0 5).toNat) s
def execIbfi (f : FormR) (s : State) : Res := intBin f (insertField (f.x.extractLsb' 0 5).toNat (f.x.extractLsb' 5 6).toNat) s
def execIclzB32 (f : FormR) (s : State) : Res := intUn f (fun a => BitVec.ofNat 32 (leadZeros a)) s
def execIpopcB32 (f : FormR) (s : State) : Res := intUn f (fun a => BitVec.ofNat 32 (popCount a)) s
def execIbrevB32 (f : FormR) (s : State) : Res := intUn f (revBits) s
def execIbfe (f : FormR) (s : State) : Res := intUn f (extractField (f.x.getLsbD 11) (f.x.extractLsb' 0 5).toNat (f.x.extractLsb' 5 6).toNat) s
def execImadB32 (f : FormR) (s : State) : Res := intTri f (fun a b c => a * b + c) s

/-- The dot of the four bytes of two registers (R188). -/
def dotBytes (uns : Bool) (a b c : Lane32) : Lane32 :=
  let el := fun (x : Lane32) (i : Nat) => let y := x.extractLsb' (8 * i) 8; if uns then (y.toNat : Int) else y.toInt
  c + BitVec.ofInt 32 ((List.range 4).foldl (fun t i => t + el a i * el b i) 0)

def execIdot4 (f : FormR) (s : State) : Res := intTri f (dotBytes (f.x.getLsbD 15)) s

def execIcmpB32 (f : FormR) (s : State) : Res :=
  warpOp s fun w => w.soften f.h f.dst (w.predOp f.h f.dst [(f.a, 1), (f.b, 1)] fun m l =>
    intCond (f.x.extractLsb' 14 4).toNat (w.int32 m f.a l) (w.int32 m f.b l))

/-- `ired` (R187). -/
def execIred (f : FormR) (s : State) : Res :=
  let size := segSize (f.x.extractLsb' 0 3).toNat
  let step := intCombine (f.x.extractLsb' 3 3).toNat
  warpOp s fun w => w.soften f.h f.dst (w.vecOp f.h f.dst 1 [(f.a, 1)] false fun m l =>
    let t := reduceLanes w f.h f.a m
    [(segResult step (fun i => if t.getLsbD i then some (w.int32 m f.a i) else none) size l).getD 0])

/-- A 64-bit form on pairs (R188). -/
def longBin (f : FormR) (g : Word → Word → Word) (s : State) : Res :=
  warpOp s fun w => w.soften f.h f.dst (w.vecOp f.h f.dst 2 [(f.a, 2), (f.b, 2)] false fun m l => halves (g (w.int64 m f.a l) (w.int64 m f.b l)).toNat)

def execIaddB64 (f : FormR) (s : State) : Res := longBin f (· + ·) s
def execIsubB64 (f : FormR) (s : State) : Res := longBin f (· - ·) s

def execImulw (f : FormR) (s : State) : Res :=
  let uns := f.x.getLsbD 15
  warpOp s fun w => w.soften f.h f.dst (w.vecOp f.h f.dst 2 [(f.a, 1), (f.b, 1)] false fun m l =>
    halves (BitVec.ofInt 64 (readAs uns (w.int32 m f.a l) * readAs uns (w.int32 m f.b l))).toNat)

/-! ## Select and move (R189) -/

/-- `vsel` reads gs for each member (R189): into a private vd each member takes its own, into a common vd a lane takes that of the first active
member in which it takes part (DESIGN CHOICE, log entry 75). -/
def execVsel (f : FormR) (s : State) : Res :=
  let g := thirdSrc f.x
  warpOp s fun w => w.soften f.h f.dst (w.vecOp f.h f.dst 1 [(f.a, 1), (f.b, 1)] false (own := [(g, 1)]) fun m l =>
    [if (w.gmask m g.spec.num).getLsbD l then w.int32 m f.a l else w.int32 m f.b l])

def execVmov (f : FormR) (s : State) : Res := intUn f id s

def execVmovi (f : FormI) (s : State) : Res :=
  warpOp s fun w => w.soften f.h f.dst (w.vecOp f.h f.dst 1 [] false fun _ _ => [f.imm.extractLsb' 0 32])

/-! ## Conversions (R165, R167, R168, R190) -/

/-- A format of `cvt`: floating-point, or an integer of a width. -/
inductive CvtFmt where
  | flt (f : Fmt)
  | int (width : Nat) (signed : Bool)
  deriving DecidableEq, Repr

/-- The formats in the order of R179. -/
def cvtFormats : List CvtFmt :=
  [.flt Fmt.f64, .flt Fmt.f32, .flt Fmt.f16, .flt Fmt.bf16, .flt Fmt.e4m3, .flt Fmt.e5m2, .flt Fmt.e2m1, .int 64 true, .int 64 false,
   .int 32 true, .int 32 false, .int 16 true, .int 16 false, .int 8 true, .int 8 false]

/-- The format of a code. -/
def cvtFormat (c : Nat) : CvtFmt := cvtFormats.getD c (.int 32 true)

def CvtFmt.bits : CvtFmt → Nat
  | .flt f => f.width
  | .int n _ => n

/-- Convert the bits of one element (R167, R168). -/
def convert (src dst : CvtFmt) (r : Rnd) (x : Nat) : Nat :=
  match src, dst with
  | .flt a, .flt b => convertFF a b r x
  | .flt a, .int n sg => convertFI a n sg r x
  | .int n sg, .flt b => convertIF n sg b r x
  | .int n sg, .int k sk => convertII n sg k sk r.sat x

/-- `cvt` into format `d` (R190); for the member index of a stochastic one, log entry 67. -/
def cvtForm (d : Nat) (f : FormR) (s : State) : Res :=
  let src := cvtFormat (f.x.extractLsb' 0 4).toNat
  let dst := cvtFormat d
  let ks := if src.bits = 64 then 2 else 1
  let kd := if dst.bits = 64 then 2 else 1
  let si := (f.x.extractLsb' 4 3).toNat
  let di := (f.x.extractLsb' 7 3).toNat
  let r := fltOpt f
  let narrow := dst.bits < 32
  let os : List Warp.Operand := [(f.a, ks)] ++ (if r.mode = 4 then [(f.b, 1)] else []) ++ (if narrow then [(plainSrc f.dst, 1)] else [])
  warpOp s fun w => w.soften f.h f.dst (w.vecOp f.h f.dst kd os false fun m l =>
    let x := if src.bits = 64 then (w.int64 m f.a l).toNat else (w.int32 m f.a l).toNat / 2 ^ (src.bits * si) % 2 ^ src.bits
    let rand := if r.mode = 4 then stochastic (w.scl m f.b) (w.bank m).midx.toNat l di else 0
    let y := convert src dst { r with rand := rand } x
    if narrow then
      let mask : Lane32 := BitVec.ofNat 32 (2 ^ dst.bits - 1) <<< (dst.bits * di)
      [(w.vget m (w.xlat f.dst.num) l &&& ~~~mask) ||| ((BitVec.ofNat 32 y <<< (dst.bits * di)) &&& mask)]
    else if kd = 2 then halves y else [BitVec.ofNat 32 y])

def execCvtF64 (f : FormR) (s : State) : Res := cvtForm 0 f s
def execCvtF32 (f : FormR) (s : State) : Res := cvtForm 1 f s
def execCvtF16 (f : FormR) (s : State) : Res := cvtForm 2 f s
def execCvtBf16 (f : FormR) (s : State) : Res := cvtForm 3 f s
def execCvtE4m3 (f : FormR) (s : State) : Res := cvtForm 4 f s
def execCvtE5m2 (f : FormR) (s : State) : Res := cvtForm 5 f s
def execCvtE2m1 (f : FormR) (s : State) : Res := cvtForm 6 f s
def execCvtS64 (f : FormR) (s : State) : Res := cvtForm 7 f s
def execCvtU64 (f : FormR) (s : State) : Res := cvtForm 8 f s
def execCvtS32 (f : FormR) (s : State) : Res := cvtForm 9 f s
def execCvtU32 (f : FormR) (s : State) : Res := cvtForm 10 f s
def execCvtS16 (f : FormR) (s : State) : Res := cvtForm 11 f s
def execCvtU16 (f : FormR) (s : State) : Res := cvtForm 12 f s
def execCvtS8 (f : FormR) (s : State) : Res := cvtForm 13 f s
def execCvtU8 (f : FormR) (s : State) : Res := cvtForm 14 f s

/-! ## Special functions (R191, R192) -/

def execFrcpF32 (f : FormR) (s : State) : Res := fltUn Fmt.f32 f (fpDiv Fmt.f32 (fltOpt f) (immFloat Fmt.f32 1)) s
def execFrsqF32 (f : FormR) (s : State) : Res := fltUn Fmt.f32 f (fpRsqrt Fmt.f32 (fltOpt f)) s
def execFsqrtF32 (f : FormR) (s : State) : Res := fltUn Fmt.f32 f (fpSqrt Fmt.f32 (fltOpt f)) s
def execFdivF32 (f : FormR) (s : State) : Res := fltBin Fmt.f32 f (fpDiv Fmt.f32 (fltOpt f)) s
def execFexp2F32 (f : FormR) (s : State) : Res := fltUn Fmt.f32 f (fpExp2 (fltOpt f)) s
def execFlog2F32 (f : FormR) (s : State) : Res := fltUn Fmt.f32 f (fpLog2 (fltOpt f)) s
def execFsinpiF32 (f : FormR) (s : State) : Res := fltUn Fmt.f32 f (fpTrigPi (fltOpt f) false) s
def execFcospiF32 (f : FormR) (s : State) : Res := fltUn Fmt.f32 f (fpTrigPi (fltOpt f) true) s
def execFtanhF32 (f : FormR) (s : State) : Res := fltUn Fmt.f32 f (fpTanh (fltOpt f)) s
def execFdivF64 (f : FormR) (s : State) : Res := fltBin Fmt.f64 f (fpDiv Fmt.f64 (fltOpt f)) s
def execFsqrtF64 (f : FormR) (s : State) : Res := fltUn Fmt.f64 f (fpSqrt Fmt.f64 (fltOpt f)) s

end Sys2Proof.Machine
end

