-- ==== Sys2Proof/Machine/SeamOps.lean ====
section
/-!
DEFINITION. The Seam instruction set (R386–R394).
-/

namespace Sys2Proof.Machine

/-! ## Scalar forms (R387) -/

/-- IMM as a sign-extended word. -/
def simm (o : SeamOp) : Word := o.imm.signExtend 64

/-- The effective address of a memory operand (R383). -/
def seamEa (o : SeamOp) (i : SeamInst) : Word := i.xget o.a + simm o

/-- The target of a branch (R383). -/
def seamTarget (o : SeamOp) (i : SeamInst) : Word := i.pc + 8#64 * simm o

/-- The arithmetic of codes 0–14 on words of `n` bits, with the shift amount `sh` (R387, R390). -/
def seamArith {n : Nat} (op : Nat) (a b : BitVec n) (sh : Nat) : BitVec n :=
  match op with
  | 0 => a + b
  | 1 => a - b
  | 2 => a * b
  | 3 => a &&& b
  | 4 => a ||| b
  | 5 => a ^^^ b
  | 6 => a <<< sh
  | 7 => a >>> sh
  | 8 => a.sshiftRight sh
  | 9 => if b.slt a then b else a
  | 10 => if a.slt b then b else a
  | 11 => if b.ult a then b else a
  | 12 => if a.ult b then b else a
  | 13 => if a.slt b then 1#n else 0#n
  | _ => if a.ult b then 1#n else 0#n

def execSeamLi (o : SeamOp) (s : State) : Res := seamOp s fun i _ => .next (i.xput o.d (simm o))

def execSeamLih (o : SeamOp) (s : State) : Res :=
  seamOp s fun i _ => .next (i.xput o.d (o.imm ++ (i.xget o.a).extractLsb' 0 32))

def execSeamAlu (o : SeamOp) (s : State) : Res :=
  seamOp s fun i _ => .next (i.xput o.d (seamArith o.f.toNat (i.xget o.a) (i.xget o.b) ((i.xget o.b).extractLsb' 0 6).toNat))

def execSeamAluImm (o : SeamOp) (s : State) : Res :=
  seamOp s fun i _ => .next (i.xput o.d (seamArith o.f.toNat (i.xget o.a) (simm o) (o.imm.extractLsb' 0 6).toNat))

/-- The conditions of the branches: eq, ne, signed lt and ge, unsigned lt and ge (R387). -/
def seamCond (f : Nat) (a b : Word) : Bool :=
  match f with
  | 0 => a == b
  | 1 => a != b
  | 2 => a.slt b
  | 3 => b.sle a
  | 4 => a.ult b
  | _ => b.ule a

def execSeamBranch (o : SeamOp) (s : State) : Res :=
  seamOp s fun i _ => if seamCond o.f.toNat (i.xget o.a) (i.xget o.b) then .jump { i with pc := seamTarget o i } else .next i

def execSeamJal (o : SeamOp) (s : State) : Res :=
  seamOp s fun i _ => .jump { i.xput o.d (i.pc + 8#64) with pc := seamTarget o i }

def execSeamJr (o : SeamOp) (s : State) : Res :=
  seamOp s fun i _ =>
    let t := i.xget o.a
    if t.toNat % 8 != 0 then .fault (6, 11, t.toNat) else .jump { i with pc := t }

/-- The element size of a memory form: F[1:0] (R386). -/
def seamSize (o : SeamOp) : Nat := 2 ^ (o.f.extractLsb' 0 2).toNat

/-- Loaded bytes extended to `n` bits: signed when F[2] is set (R387, R392). -/
def seamExtend (n : Nat) (o : SeamOp) (bs : List Byte) : BitVec n :=
  if o.f.getLsbD 2 then (BitVec.ofNat (8 * seamSize o) (leNat bs)).signExtend n else BitVec.ofNat n (leNat bs)

/-- Run a form that reads elements of memory: `f` takes what they hold. -/
def seamLoad (s : State) (align : Nat) (as : SeamInst → List SeamRange) (f : SeamInst → List (List Byte) → SeamInst) : Res :=
  seamOpM s fun s i t => match s.seamRead i t (as i) align with
    | .wait => (s, .hold i)
    | .fault x => (s, .fault x)
    | .got s1 vals => (s1, .next (f i vals))

/-- Run a form that writes elements of memory. -/
def seamStore (s : State) (align : Nat) (red : Option Nat) (es : SeamInst → List (Word × List Byte)) (f : SeamInst → SeamInst) : Res :=
  seamOpM s fun s i t => match s.seamWrite i t (es i) align red with
    | .error x => (s, .fault x)
    | .ok (s1, i1) => (s1, .next (f i1))

def execSeamLd (o : SeamOp) (s : State) : Res :=
  seamLoad s (seamSize o) (fun i => [(seamEa o i, seamSize o)]) fun i vals => i.xput o.d (seamExtend 64 o (vals.headD []))

def execSeamSt (o : SeamOp) (s : State) : Res :=
  seamStore s (seamSize o) none (fun i => [(seamEa o i, leBytes (seamSize o) (i.xget o.b).toNat)]) id

/-- The value `srd` selects (R387). -/
def srdValue (s : State) (i : SeamInst) (t : SeamTask) (sel : Nat) : Word :=
  match sel with
  | 0 => BitVec.ofNat 64 i.core
  | 1 => BitVec.ofNat 64 i.idx
  | 2 => BitVec.ofNat 64 t.places.length
  | 3 => BitVec.ofNat 64 t.argp
  | 4 => BitVec.ofNat 64 s.cycle
  | _ =>
    let j := (sel - 5) / 2
    BitVec.ofNat 64 (if (sel - 5) % 2 = 0 then t.base j else t.base j + t.size j)

def execSeamSrd (o : SeamOp) (s : State) : Res :=
  seamOpM s fun s i t => (s, .next (i.xput o.d (srdValue s i t o.imm.toNat)))

/-- The Seam core that owns the granule a virtual address translates to: none for an address outside HBM4E (R22, R388). -/
def State.seamOwns (s : State) (i : SeamInst) (va : Word) : Option Bool :=
  match s.translate State.noWarp i.ctx va 0 .read false with
  | .error _ => none
  | .ok ph => some (seamOwner ph.pa = some i.core)

def execPown (o : SeamOp) (s : State) : Res :=
  seamOpM s fun s i _ =>
    let v : Word := match s.seamOwns i (i.xget o.a) with
      | none => ~~~0#64
      | some b => if b then 1 else 0
    (s.seamFill i.ctx [(i.xget o.a, 1)], .next (i.xput o.d v))

/-- `rgnext` (R388): the least granule from `xa` on that lies in region `j` and belongs to this core. -/
def State.regionNext (s : State) (i : SeamInst) (t : SeamTask) (j : Nat) (from_ : Word) : Word :=
  if t.mode j = 0 then from_
  else
    let lo := max (t.base j) ((from_.toNat + 4095) / 4096 * 4096)
    let top := t.base j + t.size j
    match (List.range ((top - lo) / 4096)).find? fun n => s.seamOwns i (BitVec.ofNat 64 (lo + 4096 * n)) = some true with
    | some n => BitVec.ofNat 64 (lo + 4096 * n)
    | none => BitVec.ofNat 64 top

def execRgnext (o : SeamOp) (s : State) : Res :=
  seamOpM s fun s i t => (s, .next (i.xput o.d (s.regionNext i t o.imm.toNat (i.xget o.a))))

/-! ## Synchronisation (R394) -/

/-- `sfence` (R300, R394): its release side waits for the instance's earlier writes; its reads are complete when they retire. -/
def execSfence (o : SeamOp) (s : State) : Res :=
  seamOpM s fun s i _ => (s, if o.f.getLsbD 1 && !s.seamQuiet i then .hold i else .next i)

def execTladv (o : SeamOp) (s : State) : Res :=
  seamOpM s fun s i _ => if !s.seamQuiet i || !s.counterReady i.ctx o.imm.toNat then (s, .hold i) else (s.advance i.ctx o.imm.toNat (i.xget o.b), .next i)

def execTlwt (o : SeamOp) (s : State) : Res :=
  seamOpM s fun s i _ =>
    (s, if (i.xget o.b).toNat ≤ s.timeline i.ctx o.imm.toNat then .next i else .hold { i with waitFrom := some (i.waitFrom.getD s.cycle) })

def execSeamDone (_ : SeamOp) (s : State) : Res := seamOpM s fun s i _ => (s, if s.seamQuiet i then .finished i else .hold i)

def execSeamNop (_ : SeamOp) (s : State) : Res := seamOp s fun i _ => .next i

/-! ## Predicates (R389) -/

def execSeamKlogic (o : SeamOp) (s : State) : Res :=
  seamOp s fun i _ =>
    let a := i.kget o.a.toNat
    let b := i.kget o.b.toNat
    let v := match o.f.toNat with
      | 0 => a &&& b
      | 1 => a ||| b
      | 2 => a ^^^ b
      | 3 => a &&& ~~~b
      | _ => ~~~a
    .next (i.kput o.d.toNat v)

def execKmov (o : SeamOp) (s : State) : Res := seamOp s fun i _ => .next (i.kput o.d.toNat ((i.xget o.a).extractLsb' 0 16))

def execKget (o : SeamOp) (s : State) : Res :=
  seamOp s fun i _ =>
    let a := i.kget o.a.toNat
    .next (i.xput o.d (if o.f = 0 then a.setWidth 64 else BitVec.ofNat 64 (popCount a)))

/-! ## Vector memory forms (R392, R393) -/

/-- Lane `l` takes part (R383). -/
def seamGuard (o : SeamOp) (i : SeamInst) (l : Nat) : Bool := (i.kget o.k.toNat).getLsbD l

/-- The lanes that take part, ascending. -/
def seamLanes (o : SeamOp) (i : SeamInst) : List Nat := (List.range 16).filter fun l => seamGuard o i l

/-- One lane of a vector register. -/
def SeamInst.zlane (i : SeamInst) (r : BitVec 5) (l : Nat) : Lane32 := (i.zrow r).getD l 0

/-- Element `e` of the FP64 view (R382). -/
def SeamInst.zpair (i : SeamInst) (r : BitVec 5) (e : Nat) : Word := i.zlane r (2 * e + 1) ++ i.zlane r (2 * e)

/-- Write the lanes of a list. -/
def SeamInst.zlanes (i : SeamInst) (r : BitVec 5) (ls : List Nat) (f : Nat → Lane32) : SeamInst :=
  i.zput r ((List.range 16).map fun l => if ls.contains l then f l else i.zlane r l)

/-- The address of a lane of an indexed form (R392). -/
def seamIndexed (o : SeamOp) (i : SeamInst) (sh l : Nat) : Word := i.xget o.a + ((i.zlane o.b l).setWidth 64 <<< sh)

/-- The register C of IMM[4:0] (R383), and the shift of IMM[7:5] (R386). -/
def seamC (o : SeamOp) : BitVec 5 := o.imm.extractLsb' 0 5
def seamSh (o : SeamOp) : Nat := (o.imm.extractLsb' 5 3).toNat

/-- Write loaded elements to the lanes that asked for them. -/
def seamTake (o : SeamOp) (i : SeamInst) (vals : List (List Byte)) : SeamInst :=
  let ls := seamLanes o i
  i.zlanes o.d ls fun l => seamExtend 32 o (vals.getD (ls.idxOf l) [])

def execVld (o : SeamOp) (s : State) : Res :=
  seamLoad s (seamSize o) (fun i => (seamLanes o i).map fun l => (seamEa o i + BitVec.ofNat 64 (seamSize o * l), seamSize o)) (seamTake o)

def execVst (o : SeamOp) (s : State) : Res :=
  seamStore s (seamSize o) none (fun i => (seamLanes o i).map fun l =>
    (seamEa o i + BitVec.ofNat 64 (seamSize o * l), leBytes (seamSize o) (i.zlane o.b l).toNat)) id

def execVgth (o : SeamOp) (s : State) : Res :=
  seamLoad s (seamSize o) (fun i => (seamLanes o i).map fun l => (seamIndexed o i (o.imm.extractLsb' 0 3).toNat l, seamSize o)) (seamTake o)

def execVsct (o : SeamOp) (s : State) : Res :=
  seamStore s (seamSize o) none (fun i => (seamLanes o i).map fun l =>
    (seamIndexed o i (seamSh o) l, leBytes (seamSize o) (i.zlane (seamC o) l).toNat)) id

def execVcst (o : SeamOp) (s : State) : Res :=
  seamStore s 4 none (fun i =>
    let ls := seamLanes o i
    ((List.range ls.length).zip ls).map fun p => (seamEa o i + BitVec.ofNat 64 (4 * p.1), leBytes 4 (i.zlane o.b p.2).toNat))
    fun i => i.xput o.d (BitVec.ofNat 64 (seamLanes o i).length)

/-- The FP64 elements that take part: bit 2e of the guard (R382). -/
def seamElems (o : SeamOp) (i : SeamInst) : List Nat := (List.range 8).filter fun e => seamGuard o i (2 * e)

def execVred (o : SeamOp) (s : State) : Res :=
  if o.f = 6 then
    seamStore s 8 (some 6) (fun i => (seamElems o i).map fun e => (seamEa o i + BitVec.ofNat 64 (8 * e), leBytes 8 (i.zpair o.b e).toNat)) id
  else
    seamStore s 4 (some o.f.toNat) (fun i => (seamLanes o i).map fun l => (seamEa o i + BitVec.ofNat 64 (4 * l), leBytes 4 (i.zlane o.b l).toNat)) id

def execVredx (o : SeamOp) (s : State) : Res :=
  seamStore s 4 (some o.f.toNat) (fun i => (seamLanes o i).map fun l =>
    (seamIndexed o i (seamSh o) l, leBytes 4 (i.zlane (seamC o) l).toNat)) id

/-! ## Vector arithmetic (R390) -/

/-- A floating-point form: `f` gives the result of element `e` in the form's format, FP64 when F[5] is set. -/
def seamFloat (o : SeamOp) (i : SeamInst) (f : Fmt → Nat → Nat) : SeamInst :=
  if o.f.getLsbD 5 then
    let es := seamElems o i
    i.zlanes o.d (es.flatMap fun e => [2 * e, 2 * e + 1]) fun l => (halves (f Fmt.f64 (l / 2))).getD (l % 2) 0
  else i.zlanes o.d (seamLanes o i) fun l => BitVec.ofNat 32 (f Fmt.f32 l)

/-- Element `e` of a vector register in a format. -/
def seamEl (i : SeamInst) (r : BitVec 5) (f : Fmt) (e : Nat) : Nat := if f.width = 64 then (i.zpair r e).toNat else (i.zlane r e).toNat

/-- A scalar source of a `.x` form in a format. -/
def seamScl (i : SeamInst) (r : BitVec 5) (f : Fmt) : Nat := (i.xget r).toNat % 2 ^ f.width

/-- `vfadd` to `vfmax`, by F[2:0]. -/
def seamVf (f : Fmt) (op a b : Nat) : Nat :=
  match op with
  | 0 => fpAdd f {} a b
  | 1 => fpSub f {} a b
  | 2 => fpMul f {} a b
  | 3 => fpDiv f {} a b
  | 4 => fpMinMax f false false a b
  | _ => fpMinMax f false true a b

def execVfArith (o : SeamOp) (s : State) : Res :=
  seamOp s fun i _ => .next (seamFloat o i fun f e => seamVf f (o.f.extractLsb' 0 3).toNat (seamEl i o.a f e) (seamEl i o.b f e))

def execVfArithX (o : SeamOp) (s : State) : Res :=
  seamOp s fun i _ => .next (seamFloat o i fun f e => seamVf f (o.f.extractLsb' 0 3).toNat (seamEl i o.a f e) (seamScl i o.b f))

def execVfma (o : SeamOp) (s : State) : Res :=
  seamOp s fun i _ => .next (seamFloat o i fun f e => fpFma f {} (o.f.getLsbD 0) (seamEl i o.a f e) (seamEl i o.b f e) (seamEl i (seamC o) f e))

/-- `vfsqrt`, `vfrsq`, `vfabs`, `vfneg`, by F[1:0]. -/
def seamVfUn (f : Fmt) (op a : Nat) : Nat :=
  match op with
  | 0 => fpSqrt f {} a
  | 1 => fpRsqrt f {} a
  | 2 => a % f.signBit
  | _ => f.negate a

def execVfUnary (o : SeamOp) (s : State) : Res :=
  seamOp s fun i _ => .next (seamFloat o i fun f e => seamVfUn f (o.f.extractLsb' 0 2).toNat (seamEl i o.a f e))

def execViArith (o : SeamOp) (s : State) : Res :=
  seamOp s fun i _ => .next (i.zlanes o.d (seamLanes o i) fun l =>
    seamArith o.f.toNat (i.zlane o.a l) (i.zlane o.b l) ((i.zlane o.b l).extractLsb' 0 5).toNat)

def execViArithX (o : SeamOp) (s : State) : Res :=
  seamOp s fun i _ =>
    let b := (i.xget o.b).extractLsb' 0 32
    .next (i.zlanes o.d (seamLanes o i) fun l => seamArith o.f.toNat (i.zlane o.a l) b (b.extractLsb' 0 5).toNat)

/-- The comparison of `vcmp` in lane `l`: cc eq ne lt le gt ge; t f32 s32 u32 f64 (R390). An FP64 element answers for both its lanes. -/
def seamCompare (o : SeamOp) (i : SeamInst) (l : Nat) : Bool :=
  let cc := (o.f.extractLsb' 0 3).toNat
  match (o.f.extractLsb' 3 2).toNat with
  | 0 => seamGuard o i l && fpCmp Fmt.f32 false cc (i.zlane o.a l).toNat (i.zlane o.b l).toNat
  | 1 => seamGuard o i l && intCond cc (i.zlane o.a l) (i.zlane o.b l)
  | 2 => seamGuard o i l && intCond (if 2 ≤ cc then cc + 4 else cc) (i.zlane o.a l) (i.zlane o.b l)
  | _ => seamGuard o i (l / 2 * 2) && fpCmp Fmt.f64 false cc (i.zpair o.a (l / 2)).toNat (i.zpair o.b (l / 2)).toNat

def execVcmp (o : SeamOp) (s : State) : Res :=
  seamOp s fun i _ => .next (i.kput o.d.toNat ((List.range 16).foldl (fun k l => if seamCompare o i l then k ||| (1#16 <<< l) else k) 0))

def execSeamVsel (o : SeamOp) (s : State) : Res :=
  seamOp s fun i _ => .next (i.zlanes o.d (List.range 16) fun l => if seamGuard o i l then i.zlane o.a l else i.zlane o.b l)

/-- `vcvt`, by code (R390): codes 6–9 move between lanes 0–7 or 8–15 and the FP64 elements. -/
def seamConvert (o : SeamOp) (i : SeamInst) : SeamInst :=
  let ls := seamLanes o i
  let lane := fun (g : Nat → Nat) => i.zlanes o.d ls fun l => BitVec.ofNat 32 (g (i.zlane o.a l).toNat)
  match o.f.toNat with
  | 0 => lane fun a => convertFF Fmt.bf16 Fmt.f32 {} (a % 2 ^ 16)
  | 1 => lane fun a => convertFF Fmt.f32 Fmt.bf16 {} a
  | 2 => lane fun a => convertFF Fmt.f16 Fmt.f32 {} (a % 2 ^ 16)
  | 3 => lane fun a => convertFF Fmt.f32 Fmt.f16 {} a
  | 4 => lane fun a => convertIF 32 true Fmt.f32 {} a
  | 5 => lane fun a => convertFI Fmt.f32 32 true { mode := 1, sat := true } a
  | 6 | 7 =>
    let off := if o.f = 7 then 8 else 0
    let es := (List.range 8).filter fun e => seamGuard o i (off + e)
    i.zlanes o.d (es.flatMap fun e => [2 * e, 2 * e + 1]) fun l =>
      (halves (convertFF Fmt.f32 Fmt.f64 {} (i.zlane o.a (off + l / 2)).toNat)).getD (l % 2) 0
  | _ =>
    let off := if o.f = 9 then 8 else 0
    i.zlanes o.d (ls.filter fun l => off ≤ l && l < off + 8) fun l => BitVec.ofNat 32 (convertFF Fmt.f64 Fmt.f32 {} (i.zpair o.a (l - off)).toNat)

def execVcvt (o : SeamOp) (s : State) : Res := seamOp s fun i _ => .next (seamConvert o i)

def execVbc (o : SeamOp) (s : State) : Res :=
  seamOp s fun i _ =>
    let a := i.xget o.a
    .next (i.zlanes o.d (seamLanes o i) fun _ => if o.f.getLsbD 0 then a.extractLsb' 32 32 else a.extractLsb' 0 32)

def execSeamVext (o : SeamOp) (s : State) : Res :=
  seamOp s fun i _ => .next (i.xput o.d ((i.zlane o.a o.imm.toNat).setWidth 64))

def execSeamVins (o : SeamOp) (s : State) : Res :=
  seamOp s fun i _ => .next (i.zlanes o.d [o.imm.toNat] fun _ => (i.xget o.a).extractLsb' 0 32)

/-- `vrdl` (R391): the tree of R173 over 16 lanes; a NaN term gives the default NaN (R160). -/
def seamReduce (o : SeamOp) (i : SeamInst) : Word :=
  let ls := seamLanes o i
  let v := fun (l : Nat) => if ls.contains l then some (i.zlane o.a l) else none
  if o.f.toNat < 3 then
    let step := fun (a b : Nat) => if o.f = 0 then fpAdd Fmt.f32 {} a b else fpMinMax Fmt.f32 false (o.f = 2) a b
    let x := if ls.any fun l => (Fmt.f32.decode (i.zlane o.a l).toNat).isNan then Fmt.f32.defaultNan
      else (treeBlock step (fun l => (v l).map (·.toNat)) 4 0).getD (if o.f = 0 then 0 else Fmt.f32.defaultNan)
    BitVec.ofNat 64 x
  else
    let op := if o.f = 3 then 0 else if o.f = 4 then 9 else 10
    let empty : Lane32 := if o.f = 3 then 0 else if o.f = 4 then 0x7FFFFFFF else 0x80000000
    ((treeBlock (fun a b => seamArith op a b 0) v 4 0).getD empty).signExtend 64

def execVrdl (o : SeamOp) (s : State) : Res := seamOp s fun i _ => .next (i.xput o.d (seamReduce o i))

def execVperm (o : SeamOp) (s : State) : Res :=
  seamOp s fun i _ => .next (i.zlanes o.d (seamLanes o i) fun l => i.zlane o.a ((i.zlane o.b l).extractLsb' 0 4).toNat)

/-- Insert a lane into a ranking: before the first lane its key precedes strictly. -/
def rankInsert (lt : Nat → Nat → Bool) (l : Nat) : List Nat → List Nat
  | [] => [l]
  | a :: t => if lt l a then l :: a :: t else a :: rankInsert lt l t

/-- `vsrt` (R391): the taking-part lanes ranked by key; equal keys keep lane order. -/
def seamSort (o : SeamOp) (i : SeamInst) : SeamInst :=
  let key := fun (l : Nat) => Fmt.f32.orderKey (i.zlane o.a l).toNat
  let lt := fun (a b : Nat) => if o.f.getLsbD 1 then decide (key b < key a) else decide (key a < key b)
  let ranked := (seamLanes o i).foldl (fun r l => rankInsert lt l r) []
  i.zput o.d ((List.range 16).map fun n => match ranked[n]? with
    | some l => i.zlane (if o.f.getLsbD 0 then o.b else o.a) l
    | none => 0xFFFFFFFF)

def execVsrt (o : SeamOp) (s : State) : Res := seamOp s fun i _ => .next (seamSort o i)

def execVlane (o : SeamOp) (s : State) : Res :=
  seamOp s fun i _ => .next (i.zlanes o.d (seamLanes o i) fun l => BitVec.ofNat 32 l)

def execSeamVmov (o : SeamOp) (s : State) : Res :=
  seamOp s fun i _ => .next (i.zlanes o.d (seamLanes o i) fun l => i.zlane o.a l)

end Sys2Proof.Machine
end

