-- ==== Sys2Proof/Machine/Dispatch.lean ====
section
/-!
DEFINITION. One arm per constructor of `Instr`: each calls its meaning, or is refused by name.
-/

namespace Sys2Proof.Machine

def exec (i : Instr) (s : State) : Host.Outcome State Fault Refusal :=
  match i with
  | .bra f => Sys2Proof.Machine.execBra f s
  | .brs f => Sys2Proof.Machine.execBrs f s
  | .brzEm f => Sys2Proof.Machine.execBrzEm f s
  | .call f => Sys2Proof.Machine.execCall f s
  | .jmp f => Sys2Proof.Machine.execJmp f s
  | .exit f => Sys2Proof.Machine.execExit f s
  | .nop f => Sys2Proof.Machine.execNop f s
  | .split f => Sys2Proof.Machine.execSplit f s
  | .arrive f => Sys2Proof.Machine.execArrive f s
  | .join f => Sys2Proof.Machine.execJoin f s
  | .jmclr f => Sys2Proof.Machine.execJmclr f s
  | .jmrd f => Sys2Proof.Machine.execJmrd f s
  | .jmwr f => Sys2Proof.Machine.execJmwr f s
  | .meld f => Sys2Proof.Machine.execMeld f s
  | .unmeld f => Sys2Proof.Machine.execUnmeld f s
  | .ptld f => Sys2Proof.Machine.execPtld f s
  | .ptst f => Sys2Proof.Machine.execPtst f s
  | .prrd f => Sys2Proof.Machine.execPrrd f s
  | .prwr f => Sys2Proof.Machine.execPrwr f s
  | .gany f => Sys2Proof.Machine.execGany f s
  | .gall f => Sys2Proof.Machine.execGall f s
  | .gsame f => Sys2Proof.Machine.execGsame f s
  | .gcount f => Sys2Proof.Machine.execGcount f s
  | .gmask f => Sys2Proof.Machine.execGmask f s
  | .glow f => Sys2Proof.Machine.execGlow f s
  | .pfrom f => Sys2Proof.Machine.execPfrom f s
  | .laneid f => Sys2Proof.Machine.execLaneid f s
  | .lperm f => Sys2Proof.Machine.execLperm f s
  | .lrise f => Sys2Proof.Machine.execLrise f s
  | .lfall f => Sys2Proof.Machine.execLfall f s
  | .lswap f => Sys2Proof.Machine.execLswap f s
  | .emand f => Sys2Proof.Machine.execEmand f s
  | .canaryDemote c k => Sys2Proof.Machine.execCanaryDemote c k s
  | .mmrd f => Sys2Proof.Machine.execMmrd f s
  | .mmwr f => Sys2Proof.Machine.execMmwr f s
  | .mmtrim f => Sys2Proof.Machine.execMmtrim f s
  | .mbid f => Sys2Proof.Machine.execMbid f s
  | .mselV f => Sys2Proof.Machine.execMselV f s
  | .mselS f => Sys2Proof.Machine.execMselS f s
  | .mredXF64 f => Sys2Proof.Machine.execMredXF64 f s
  | .mredXF32 f => Sys2Proof.Machine.execMredXF32 f s
  | .mredMinmax f => Sys2Proof.Machine.execMredMinmax f s
  | .mredInt f => Sys2Proof.Machine.execMredInt f s
  | .regrp f => Sys2Proof.Machine.execRegrp f s
  | .regroupDone c k => Sys2Proof.Machine.execRegroupDone c k s
  | .mvote f => Sys2Proof.Machine.execMvote f s
  | .smovi f => Sys2Proof.Machine.execSmovi f s
  | .smovhi f => Sys2Proof.Machine.execSmovhi f s
  | .smov f => Sys2Proof.Machine.execSmov f s
  | .scsel f => Sys2Proof.Machine.execScsel f s
  | .vbcast f => Sys2Proof.Machine.execVbcast f s
  | .vext f => Sys2Proof.Machine.execVext f s
  | .vins f => Sys2Proof.Machine.execVins f s
  | .sadd f => Sys2Proof.Machine.execSadd f s
  | .ssub f => Sys2Proof.Machine.execSsub f s
  | .smul f => Sys2Proof.Machine.execSmul f s
  | .smulh f => Sys2Proof.Machine.execSmulh f s
  | .sdiv f => Sys2Proof.Machine.execSdiv f s
  | .srem f => Sys2Proof.Machine.execSrem f s
  | .smin f => Sys2Proof.Machine.execSmin f s
  | .smax f => Sys2Proof.Machine.execSmax f s
  | .sand f => Sys2Proof.Machine.execSand f s
  | .sor f => Sys2Proof.Machine.execSor f s
  | .sxor f => Sys2Proof.Machine.execSxor f s
  | .sandn f => Sys2Proof.Machine.execSandn f s
  | .sshl f => Sys2Proof.Machine.execSshl f s
  | .sshr f => Sys2Proof.Machine.execSshr f s
  | .ssar f => Sys2Proof.Machine.execSsar f s
  | .srol f => Sys2Proof.Machine.execSrol f s
  | .sclz f => Sys2Proof.Machine.execSclz f s
  | .spopc f => Sys2Proof.Machine.execSpopc f s
  | .sctz f => Sys2Proof.Machine.execSctz f s
  | .sbfe f => Sys2Proof.Machine.execSbfe f s
  | .sbfi f => Sys2Proof.Machine.execSbfi f s
  | .sset f => Sys2Proof.Machine.execSset f s
  | .scmp f => Sys2Proof.Machine.execScmp f s
  | .slea f => Sys2Proof.Machine.execSlea f s
  | .vaddr f => Sys2Proof.Machine.execVaddr f s
  | .widS f => Sys2Proof.Machine.execWidS f s
  | .widV f => Sys2Proof.Machine.execWidV f s
  | .loop f => Sys2Proof.Machine.execLoop f s
  | .loopBack c k => Sys2Proof.Machine.execLoopBack c k s
  | .lcrd f => Sys2Proof.Machine.execLcrd f s
  | .stbind f => Sys2Proof.Machine.execStbind f s
  | .strel f => Sys2Proof.Machine.execStrel f s
  | .stpos f => Sys2Proof.Machine.execStpos f s
  | .stseek f => Sys2Proof.Machine.execStseek f s
  | .strdV f => Sys2Proof.Machine.execStrdV f s
  | .stwrV f => Sys2Proof.Machine.execStwrV f s
  | .streamElementArrive c k st => Sys2Proof.Machine.execStreamElementArrive c k st s
  | .regacq f => Sys2Proof.Machine.execRegacq f s
  | .regacqGrant c => Sys2Proof.Machine.execRegacqGrant c s
  | .regrel f => Sys2Proof.Machine.execRegrel f s
  | .regcnt f => Sys2Proof.Machine.execRegcnt f s
  | .fest f => Sys2Proof.Machine.execFest f s
  | .fewait f => Sys2Proof.Machine.execFewait f s
  | .sbrev f => Sys2Proof.Machine.execSbrev f s
  | .faddF32 f => Sys2Proof.Machine.execFaddF32 f s
  | .fsubF32 f => Sys2Proof.Machine.execFsubF32 f s
  | .fmulF32 f => Sys2Proof.Machine.execFmulF32 f s
  | .ffmaF32 f => Sys2Proof.Machine.execFfmaF32 f s
  | .fnmaF32 f => Sys2Proof.Machine.execFnmaF32 f s
  | .fminF32 f => Sys2Proof.Machine.execFminF32 f s
  | .fmaxF32 f => Sys2Proof.Machine.execFmaxF32 f s
  | .fnegF32 f => Sys2Proof.Machine.execFnegF32 f s
  | .fabsF32 f => Sys2Proof.Machine.execFabsF32 f s
  | .fcpsgnF32 f => Sys2Proof.Machine.execFcpsgnF32 f s
  | .fcmpF32 f => Sys2Proof.Machine.execFcmpF32 f s
  | .fclassF32 f => Sys2Proof.Machine.execFclassF32 f s
  | .fredF32 f => Sys2Proof.Machine.execFredF32 f s
  | .faddF64 f => Sys2Proof.Machine.execFaddF64 f s
  | .fsubF64 f => Sys2Proof.Machine.execFsubF64 f s
  | .fmulF64 f => Sys2Proof.Machine.execFmulF64 f s
  | .ffmaF64 f => Sys2Proof.Machine.execFfmaF64 f s
  | .fnmaF64 f => Sys2Proof.Machine.execFnmaF64 f s
  | .fminF64 f => Sys2Proof.Machine.execFminF64 f s
  | .fmaxF64 f => Sys2Proof.Machine.execFmaxF64 f s
  | .fnegF64 f => Sys2Proof.Machine.execFnegF64 f s
  | .fabsF64 f => Sys2Proof.Machine.execFabsF64 f s
  | .fcpsgnF64 f => Sys2Proof.Machine.execFcpsgnF64 f s
  | .fcmpF64 f => Sys2Proof.Machine.execFcmpF64 f s
  | .fclassF64 f => Sys2Proof.Machine.execFclassF64 f s
  | .fredF64 f => Sys2Proof.Machine.execFredF64 f s
  | .faddF16x2 f => Sys2Proof.Machine.execFaddF16x2 f s
  | .fsubF16x2 f => Sys2Proof.Machine.execFsubF16x2 f s
  | .fmulF16x2 f => Sys2Proof.Machine.execFmulF16x2 f s
  | .ffmaF16x2 f => Sys2Proof.Machine.execFfmaF16x2 f s
  | .fminF16x2 f => Sys2Proof.Machine.execFminF16x2 f s
  | .fmaxF16x2 f => Sys2Proof.Machine.execFmaxF16x2 f s
  | .faddBf16x2 f => Sys2Proof.Machine.execFaddBf16x2 f s
  | .fsubBf16x2 f => Sys2Proof.Machine.execFsubBf16x2 f s
  | .fmulBf16x2 f => Sys2Proof.Machine.execFmulBf16x2 f s
  | .ffmaBf16x2 f => Sys2Proof.Machine.execFfmaBf16x2 f s
  | .fminBf16x2 f => Sys2Proof.Machine.execFminBf16x2 f s
  | .fmaxBf16x2 f => Sys2Proof.Machine.execFmaxBf16x2 f s
  | .fdot2F16 f => Sys2Proof.Machine.execFdot2F16 f s
  | .fdot2Bf16 f => Sys2Proof.Machine.execFdot2Bf16 f s
  | .fdot4E4m3 f => Sys2Proof.Machine.execFdot4E4m3 f s
  | .fdot4E5m2 f => Sys2Proof.Machine.execFdot4E5m2 f s
  | .iaddB32 f => Sys2Proof.Machine.execIaddB32 f s
  | .isubB32 f => Sys2Proof.Machine.execIsubB32 f s
  | .imulB32 f => Sys2Proof.Machine.execImulB32 f s
  | .imulh f => Sys2Proof.Machine.execImulh f s
  | .imadB32 f => Sys2Proof.Machine.execImadB32 f s
  | .imin f => Sys2Proof.Machine.execImin f s
  | .imax f => Sys2Proof.Machine.execImax f s
  | .iandB32 f => Sys2Proof.Machine.execIandB32 f s
  | .iorB32 f => Sys2Proof.Machine.execIorB32 f s
  | .ixorB32 f => Sys2Proof.Machine.execIxorB32 f s
  | .iandnB32 f => Sys2Proof.Machine.execIandnB32 f s
  | .ishlB32 f => Sys2Proof.Machine.execIshlB32 f s
  | .ishrB32 f => Sys2Proof.Machine.execIshrB32 f s
  | .isarB32 f => Sys2Proof.Machine.execIsarB32 f s
  | .iclzB32 f => Sys2Proof.Machine.execIclzB32 f s
  | .ipopcB32 f => Sys2Proof.Machine.execIpopcB32 f s
  | .ibrevB32 f => Sys2Proof.Machine.execIbrevB32 f s
  | .ibfe f => Sys2Proof.Machine.execIbfe f s
  | .ibfi f => Sys2Proof.Machine.execIbfi f s
  | .icmpB32 f => Sys2Proof.Machine.execIcmpB32 f s
  | .vsel f => Sys2Proof.Machine.execVsel f s
  | .idot4 f => Sys2Proof.Machine.execIdot4 f s
  | .ired f => Sys2Proof.Machine.execIred f s
  | .iaddB64 f => Sys2Proof.Machine.execIaddB64 f s
  | .isubB64 f => Sys2Proof.Machine.execIsubB64 f s
  | .imulw f => Sys2Proof.Machine.execImulw f s
  | .vmov f => Sys2Proof.Machine.execVmov f s
  | .vmovi f => Sys2Proof.Machine.execVmovi f s
  | .cvtF64 f => Sys2Proof.Machine.execCvtF64 f s
  | .cvtF32 f => Sys2Proof.Machine.execCvtF32 f s
  | .cvtF16 f => Sys2Proof.Machine.execCvtF16 f s
  | .cvtBf16 f => Sys2Proof.Machine.execCvtBf16 f s
  | .cvtE4m3 f => Sys2Proof.Machine.execCvtE4m3 f s
  | .cvtE5m2 f => Sys2Proof.Machine.execCvtE5m2 f s
  | .cvtE2m1 f => Sys2Proof.Machine.execCvtE2m1 f s
  | .cvtS64 f => Sys2Proof.Machine.execCvtS64 f s
  | .cvtU64 f => Sys2Proof.Machine.execCvtU64 f s
  | .cvtS32 f => Sys2Proof.Machine.execCvtS32 f s
  | .cvtU32 f => Sys2Proof.Machine.execCvtU32 f s
  | .cvtS16 f => Sys2Proof.Machine.execCvtS16 f s
  | .cvtU16 f => Sys2Proof.Machine.execCvtU16 f s
  | .cvtS8 f => Sys2Proof.Machine.execCvtS8 f s
  | .cvtU8 f => Sys2Proof.Machine.execCvtU8 f s
  | .frcpF32 f => Sys2Proof.Machine.execFrcpF32 f s
  | .frsqF32 f => Sys2Proof.Machine.execFrsqF32 f s
  | .fsqrtF32 f => Sys2Proof.Machine.execFsqrtF32 f s
  | .fdivF32 f => Sys2Proof.Machine.execFdivF32 f s
  | .fexp2F32 f => Sys2Proof.Machine.execFexp2F32 f s
  | .flog2F32 f => Sys2Proof.Machine.execFlog2F32 f s
  | .fsinpiF32 f => Sys2Proof.Machine.execFsinpiF32 f s
  | .fcospiF32 f => Sys2Proof.Machine.execFcospiF32 f s
  | .ftanhF32 f => Sys2Proof.Machine.execFtanhF32 f s
  | .fdivF64 f => Sys2Proof.Machine.execFdivF64 f s
  | .fsqrtF64 f => Sys2Proof.Machine.execFsqrtF64 f s
  | .exaddF64 f => Sys2Proof.Machine.execExaddF64 f s
  | .exaddF32 f => Sys2Proof.Machine.execExaddF32 f s
  | .exmacF64 f => Sys2Proof.Machine.execExmacF64 f s
  | .exmrg f => Sys2Proof.Machine.execExmrg f s
  | .exmov f => Sys2Proof.Machine.execExmov f s
  | .exclr f => Sys2Proof.Machine.execExclr f s
  | .exrnd f => Sys2Proof.Machine.execExrnd f s
  | .exstat f => Sys2Proof.Machine.execExstat f s
  | .exld f => Sys2Proof.Machine.execExld f s
  | .exst f => Sys2Proof.Machine.execExst f s
  | .exldw f => Sys2Proof.Machine.execExldw f s
  | .exstw f => Sys2Proof.Machine.execExstw f s
  | .exaddmF64 f => Sys2Proof.Machine.execExaddmF64 f s
  | .exmrgm f => Sys2Proof.Machine.execExmrgm f s
  | .exactCellRequest ag e m addr => Sys2Proof.Machine.execExactCellRequest ag e m addr s
  | .mmaBf16 f => Sys2Proof.Machine.execMmaBf16 f s
  | .mmaF16 f => Sys2Proof.Machine.execMmaF16 f s
  | .mmaE4m3E4m3 f => Sys2Proof.Machine.execMmaE4m3E4m3 f s
  | .mmaE4m3E5m2 f => Sys2Proof.Machine.execMmaE4m3E5m2 f s
  | .mmaE5m2E4m3 f => Sys2Proof.Machine.execMmaE5m2E4m3 f s
  | .mmaE5m2E5m2 f => Sys2Proof.Machine.execMmaE5m2E5m2 f s
  | .mmaE2m1 f => Sys2Proof.Machine.execMmaE2m1 f s
  | .mmaInt8Ss f => Sys2Proof.Machine.execMmaInt8Ss f s
  | .mmaInt8Su f => Sys2Proof.Machine.execMmaInt8Su f s
  | .mmaInt8Us f => Sys2Proof.Machine.execMmaInt8Us f s
  | .mmaInt8Uu f => Sys2Proof.Machine.execMmaInt8Uu f s
  | .mmaF64 f => Sys2Proof.Machine.execMmaF64 f s
  | .mmasE4m3E4m3 f => Sys2Proof.Machine.execMmasE4m3E4m3 f s
  | .mmasE4m3E5m2 f => Sys2Proof.Machine.execMmasE4m3E5m2 f s
  | .mmasE5m2E4m3 f => Sys2Proof.Machine.execMmasE5m2E4m3 f s
  | .mmasE5m2E5m2 f => Sys2Proof.Machine.execMmasE5m2E5m2 f s
  | .mmasE2m1 f => Sys2Proof.Machine.execMmasE2m1 f s
  | .mmclr f => Sys2Proof.Machine.execMmclr f s
  | .mmaMemberComplete c => Sys2Proof.Machine.execMmaMemberComplete c s
  | .scld f => Sys2Proof.Machine.execScld f s
  | .cvgo f => Sys2Proof.Machine.execCvgo f s
  | .convJobStart cl => Sys2Proof.Machine.execConvJobStart cl s
  | .convJobEnd cl => Sys2Proof.Machine.execConvJobEnd cl s
  | .ldU8 f => Sys2Proof.Machine.execLdU8 f s
  | .ldS8 f => Sys2Proof.Machine.execLdS8 f s
  | .ldU16 f => Sys2Proof.Machine.execLdU16 f s
  | .ldS16 f => Sys2Proof.Machine.execLdS16 f s
  | .ldU32 f => Sys2Proof.Machine.execLdU32 f s
  | .ldU64 f => Sys2Proof.Machine.execLdU64 f s
  | .ldU128 f => Sys2Proof.Machine.execLdU128 f s
  | .stU8 f => Sys2Proof.Machine.execStU8 f s
  | .stU16 f => Sys2Proof.Machine.execStU16 f s
  | .stU32 f => Sys2Proof.Machine.execStU32 f s
  | .stU64 f => Sys2Proof.Machine.execStU64 f s
  | .stU128 f => Sys2Proof.Machine.execStU128 f s
  | .sldU32 f => Sys2Proof.Machine.execSldU32 f s
  | .sldU64 f => Sys2Proof.Machine.execSldU64 f s
  | .sstU32 f => Sys2Proof.Machine.execSstU32 f s
  | .sstU64 f => Sys2Proof.Machine.execSstU64 f s
  | .ldnU32 f => Sys2Proof.Machine.execLdnU32 f s
  | .ldnU64 f => Sys2Proof.Machine.execLdnU64 f s
  | .ldnU128 f => Sys2Proof.Machine.execLdnU128 f s
  | .stnU32 f => Sys2Proof.Machine.execStnU32 f s
  | .stnU64 f => Sys2Proof.Machine.execStnU64 f s
  | .stnU128 f => Sys2Proof.Machine.execStnU128 f s
  | .pf f => Sys2Proof.Machine.execPf f s
  | .cwb f => Sys2Proof.Machine.execCwb f s
  | .rooffl f => Sys2Proof.Machine.execRooffl f s
  | .ordrel f => Sys2Proof.Machine.execOrdrel f s
  | .atomAddU32 f => Sys2Proof.Machine.execAtomAddU32 f s
  | .atomAddU64 f => Sys2Proof.Machine.execAtomAddU64 f s
  | .atomMinS32 f => Sys2Proof.Machine.execAtomMinS32 f s
  | .atomMaxS32 f => Sys2Proof.Machine.execAtomMaxS32 f s
  | .atomMinU32 f => Sys2Proof.Machine.execAtomMinU32 f s
  | .atomMaxU32 f => Sys2Proof.Machine.execAtomMaxU32 f s
  | .atomAndB32 f => Sys2Proof.Machine.execAtomAndB32 f s
  | .atomOrB32 f => Sys2Proof.Machine.execAtomOrB32 f s
  | .atomXorB32 f => Sys2Proof.Machine.execAtomXorB32 f s
  | .atomExchB32 f => Sys2Proof.Machine.execAtomExchB32 f s
  | .atomExchB64 f => Sys2Proof.Machine.execAtomExchB64 f s
  | .atomCasB32 f => Sys2Proof.Machine.execAtomCasB32 f s
  | .atomCasB64 f => Sys2Proof.Machine.execAtomCasB64 f s
  | .atomAddF32 f => Sys2Proof.Machine.execAtomAddF32 f s
  | .atomAddF64 f => Sys2Proof.Machine.execAtomAddF64 f s
  | .atomAddOrdF32 f => Sys2Proof.Machine.execAtomAddOrdF32 f s
  | .atomAddOrdF64 f => Sys2Proof.Machine.execAtomAddOrdF64 f s
  | .stz f => Sys2Proof.Machine.execStz f s
  | .atomicRequest ag e m addr => Sys2Proof.Machine.execAtomicRequest ag e m addr s
  | .orderedContribution ag e m addr => Sys2Proof.Machine.execOrderedContribution ag e m addr s
  | .loadReturn ag e m lanes hit => Sys2Proof.Machine.execLoadReturn ag e m lanes hit s
  | .cpy f => Sys2Proof.Machine.execCpy f s
  | .cpyf f => Sys2Proof.Machine.execCpyf f s
  | .cpyt f => Sys2Proof.Machine.execCpyt f s
  | .cpyg f => Sys2Proof.Machine.execCpyg f s
  | .halo f => Sys2Proof.Machine.execHalo f s
  | .copyComplete id => Sys2Proof.Machine.execCopyComplete id s
  | .batch f => Sys2Proof.Machine.execBatch f s
  | .batchTl f => Sys2Proof.Machine.execBatchTl f s
  | .bwait f => Sys2Proof.Machine.execBwait f s
  | .bnum f => Sys2Proof.Machine.execBnum f s
  | .bbini f => Sys2Proof.Machine.execBbini f s
  | .bbexp f => Sys2Proof.Machine.execBbexp f s
  | .bbarr f => Sys2Proof.Machine.execBbarr f s
  | .bbwt f => Sys2Proof.Machine.execBbwt f s
  | .bbtst f => Sys2Proof.Machine.execBbtst f s
  | .tlwait f => Sys2Proof.Machine.execTlwait f s
  | .tlsig f => Sys2Proof.Machine.execTlsig f s
  | .tlrd f => Sys2Proof.Machine.execTlrd f s
  | .timelineAdvance x c => Sys2Proof.Machine.execTimelineAdvance x c s
  | .fenceAcq f => Sys2Proof.Machine.execFenceAcq f s
  | .fenceRel f => Sys2Proof.Machine.execFenceRel f s
  | .fenceAr f => Sys2Proof.Machine.execFenceAr f s
  | .fenceSc f => Sys2Proof.Machine.execFenceSc f s
  | .txbegin f => Sys2Proof.Machine.execTxbegin f s
  | .txend f => Sys2Proof.Machine.execTxend f s
  | .txabt f => Sys2Proof.Machine.execTxabt f s
  | .txst f => Sys2Proof.Machine.execTxst f s
  | .txConflict c k line => Sys2Proof.Machine.execTxConflict c k line s
  | .replicaUpdate die idx => Sys2Proof.Machine.execReplicaUpdate die idx s
  | .walk x va => Sys2Proof.Machine.execWalk x va s
  | .ttrootWrite f => Sys2Proof.Machine.execTtrootWrite f s
  | .segtabWrite f => Sys2Proof.Machine.execSegtabWrite f s
  | .tlbinv f => Sys2Proof.Machine.execTlbinv f s
  | .mscRequest line write mscb bypass => Sys2Proof.Machine.execMscRequest line write mscb bypass s
  | .uncachedLineAccess line write => Sys2Proof.Machine.execUncachedLineAccess line write s
  | .doorbell x q => Sys2Proof.Machine.execDoorbell x q s
  | .slotMap n => Sys2Proof.Machine.execSlotMap n s
  | .slotFetch n => Sys2Proof.Machine.execSlotFetch n s
  | .quantumExpire n => Sys2Proof.Machine.execQuantumExpire n s
  | .slotUnstall n => Sys2Proof.Machine.execSlotUnstall n s
  | .nodeReady id => Sys2Proof.Machine.execNodeReady id s
  | .blockPlace id cores => Sys2Proof.Machine.execBlockPlace id cores s
  | .placementReserve id cores => Sys2Proof.Machine.execPlacementReserve id cores s
  | .preqRaise id => Sys2Proof.Machine.execPreqRaise id s
  | .nodeDone id => Sys2Proof.Machine.execNodeDone id s
  | .convNodeDispatch id => Sys2Proof.Machine.execConvNodeDispatch id s
  | .seamNodeDispatch id => Sys2Proof.Machine.execSeamNodeDispatch id s
  | .activeSetDisplace c k => Sys2Proof.Machine.execActiveSetDisplace c k s
  | .warpWake c k => Sys2Proof.Machine.execWarpWake c k s
  | .qpush f => Sys2Proof.Machine.execQpush f s
  | .qdoor f => Sys2Proof.Machine.execQdoor f s
  | .lhrd f => Sys2Proof.Machine.execLhrd f s
  | .advance f => Sys2Proof.Machine.execAdvance f s
  | .phaseRise blk => Sys2Proof.Machine.execPhaseRise blk s
  | .phrd f => Sys2Proof.Machine.execPhrd f s
  | .dqpush f => Sys2Proof.Machine.execDqpush f s
  | .dqpop f => Sys2Proof.Machine.execDqpop f s
  | .dqstat f => Sys2Proof.Machine.execDqstat f s
  | .fmpost f => Sys2Proof.Machine.execFmpost f s
  | .fmrecv f => Sys2Proof.Machine.execFmrecv f s
  | .fmend f => Sys2Proof.Machine.execFmend f s
  | .seamgo f => Sys2Proof.Machine.execSeamgo f s
  | .seamTaskStart id => Sys2Proof.Machine.execSeamTaskStart id s
  | .seamProbeDone id => Sys2Proof.Machine.execSeamProbeDone id s
  | .seamInstanceRun core => Sys2Proof.Machine.execSeamInstanceRun core s
  | .seamInstancePreempt core => Sys2Proof.Machine.execSeamInstancePreempt core s
  | .seamLongWait core => Sys2Proof.Machine.execSeamLongWait core s
  | .seamTaskDone id => Sys2Proof.Machine.execSeamTaskDone id s
  | .seamLi o => Sys2Proof.Machine.execSeamLi o s
  | .seamLih o => Sys2Proof.Machine.execSeamLih o s
  | .seamAlu o => Sys2Proof.Machine.execSeamAlu o s
  | .seamAluImm o => Sys2Proof.Machine.execSeamAluImm o s
  | .seamBranch o => Sys2Proof.Machine.execSeamBranch o s
  | .seamJal o => Sys2Proof.Machine.execSeamJal o s
  | .seamJr o => Sys2Proof.Machine.execSeamJr o s
  | .seamLd o => Sys2Proof.Machine.execSeamLd o s
  | .seamSt o => Sys2Proof.Machine.execSeamSt o s
  | .seamSrd o => Sys2Proof.Machine.execSeamSrd o s
  | .pown o => Sys2Proof.Machine.execPown o s
  | .rgnext o => Sys2Proof.Machine.execRgnext o s
  | .sfence o => Sys2Proof.Machine.execSfence o s
  | .tladv o => Sys2Proof.Machine.execTladv o s
  | .tlwt o => Sys2Proof.Machine.execTlwt o s
  | .seamDone o => Sys2Proof.Machine.execSeamDone o s
  | .seamNop o => Sys2Proof.Machine.execSeamNop o s
  | .seamKlogic o => Sys2Proof.Machine.execSeamKlogic o s
  | .kmov o => Sys2Proof.Machine.execKmov o s
  | .kget o => Sys2Proof.Machine.execKget o s
  | .vld o => Sys2Proof.Machine.execVld o s
  | .vst o => Sys2Proof.Machine.execVst o s
  | .vgth o => Sys2Proof.Machine.execVgth o s
  | .vsct o => Sys2Proof.Machine.execVsct o s
  | .vcst o => Sys2Proof.Machine.execVcst o s
  | .vred o => Sys2Proof.Machine.execVred o s
  | .vredx o => Sys2Proof.Machine.execVredx o s
  | .vfArith o => Sys2Proof.Machine.execVfArith o s
  | .vfArithX o => Sys2Proof.Machine.execVfArithX o s
  | .vfma o => Sys2Proof.Machine.execVfma o s
  | .vfUnary o => Sys2Proof.Machine.execVfUnary o s
  | .viArith o => Sys2Proof.Machine.execViArith o s
  | .viArithX o => Sys2Proof.Machine.execViArithX o s
  | .vcmp o => Sys2Proof.Machine.execVcmp o s
  | .seamVsel o => Sys2Proof.Machine.execSeamVsel o s
  | .vcvt o => Sys2Proof.Machine.execVcvt o s
  | .vbc o => Sys2Proof.Machine.execVbc o s
  | .seamVext o => Sys2Proof.Machine.execSeamVext o s
  | .seamVins o => Sys2Proof.Machine.execSeamVins o s
  | .vrdl o => Sys2Proof.Machine.execVrdl o s
  | .vperm o => Sys2Proof.Machine.execVperm o s
  | .vsrt o => Sys2Proof.Machine.execVsrt o s
  | .vlane o => Sys2Proof.Machine.execVlane o s
  | .seamVmov o => Sys2Proof.Machine.execSeamVmov o s
  | .trap f => Sys2Proof.Machine.execTrap f s
  | .tret f => Sys2Proof.Machine.execTret f s
  | .tretSkip f => Sys2Proof.Machine.execTretSkip f s
  | .tretTo f => Sys2Proof.Machine.execTretTo f s
  | .trrd f => Sys2Proof.Machine.execTrrd f s
  | .yield f => Sys2Proof.Machine.execYield f s
  | .brpq f => Sys2Proof.Machine.execBrpq f s
  | .mon f => Sys2Proof.Machine.execMon f s
  | .mwait f => Sys2Proof.Machine.execMwait f s
  | .monitorWrite c k => Sys2Proof.Machine.execMonitorWrite c k s
  | .mwaitTimeout c k => Sys2Proof.Machine.execMwaitTimeout c k s
  | .sysrd f => Sys2Proof.Machine.execSysrd f s
  | .syswr f => Sys2Proof.Machine.execSyswr f s
  | .cycrd f => Sys2Proof.Machine.execCycrd f s
  | .monclr f => Sys2Proof.Machine.execMonclr f s
  | .ydlrd f => Sys2Proof.Machine.execYdlrd f s
  | .trapDeliver c k => Sys2Proof.Machine.execTrapDeliver c k s
  | .laneFault ag e m l => Sys2Proof.Machine.execLaneFault ag e m l s
  | .forcedSave ag => Sys2Proof.Machine.execForcedSave ag s
  | .blockSave blk => Sys2Proof.Machine.execBlockSave blk s
  | .blockRestore blk core => Sys2Proof.Machine.execBlockRestore blk core s
  | .coll f => Sys2Proof.Machine.execColl f s
  | .grpld f => Sys2Proof.Machine.execGrpld f s
  | .grprd f => Sys2Proof.Machine.execGrprd f s
  | .fhrd f => Sys2Proof.Machine.execFhrd f s
  | .flitReceive port crcOk => Sys2Proof.Machine.execFlitReceive port crcOk s
  | .chunkReceive x g sq src tag poison data => Sys2Proof.Machine.execChunkReceive x g sq src tag poison data s
  | .combineDispatch id => Sys2Proof.Machine.execCombineDispatch id s
  | .collCancelReceive x g sq src fault => Sys2Proof.Machine.execCollCancelReceive x g sq src fault s
  | .collTimeout id => Sys2Proof.Machine.execCollTimeout id s
  | .collPeerUnreachable id rank => Sys2Proof.Machine.execCollPeerUnreachable id rank s
  | .collComplete id => Sys2Proof.Machine.execCollComplete id s
  | .laneInterval port margins serrs highRate => Sys2Proof.Machine.execLaneInterval port margins serrs highRate s
  | .portRetrainDone port => Sys2Proof.Machine.execPortRetrainDone port s
  | .laneRetrain port lane meetsGood => Sys2Proof.Machine.execLaneRetrain port lane meetsGood s
  | .kill f => Sys2Proof.Machine.execKill f s
  | .deadrd f => Sys2Proof.Machine.execDeadrd f s
  | .shwait f => Sys2Proof.Machine.execShwait f s
  | .errinj f => Sys2Proof.Machine.execErrinj f s
  | .outputCompare c k => Sys2Proof.Machine.execOutputCompare c k s
  | .shaftWireFail core group dirty => Sys2Proof.Machine.execShaftWireFail core group dirty s
  | .cxlMemRead range off len => Sys2Proof.Machine.execCxlMemRead range off len s
  | .cxlMemWrite range off data => Sys2Proof.Machine.execCxlMemWrite range off data s
  | .hostSnoop line => Sys2Proof.Machine.execHostSnoop line s
  | .cxlOwnershipGrant line => Sys2Proof.Machine.execCxlOwnershipGrant line s
  | .barInvalidAccess off size read => Sys2Proof.Machine.execBarInvalidAccess off size read s
  | .hostDoorbellWrite x q => Sys2Proof.Machine.execHostDoorbellWrite x q s
  | .timelineWindowRead x c => Sys2Proof.Machine.execTimelineWindowRead x c s
  | .timelineWindowWrite x c v => Sys2Proof.Machine.execTimelineWindowWrite x c v s
  | .descriptorWrite x off size v => Sys2Proof.Machine.execDescriptorWrite x off size v s
  | .contextCreate x => Sys2Proof.Machine.execContextCreate x s
  | .contextReturn x => Sys2Proof.Machine.execContextReturn x s
  | .contextMakeNonresident x => Sys2Proof.Machine.execContextMakeNonresident x s
  | .residencyChangeDone x => Sys2Proof.Machine.execResidencyChangeDone x s
  | .groupWindowLoad x g => Sys2Proof.Machine.execGroupWindowLoad x g s
  | .groupLoadDecided x g => Sys2Proof.Machine.execGroupLoadDecided x g s
  | .barRegisterWrite off size v => Sys2Proof.Machine.execBarRegisterWrite off size v s
  | .bootclr v => Sys2Proof.Machine.execBootclr v s
  | .deviceStart hot => Sys2Proof.Machine.execDeviceStart hot s
  | .bootStepDone ok => Sys2Proof.Machine.execBootStepDone ok s
  | .powerLoss => Sys2Proof.Machine.execPowerLoss s
  | .telemetrySample rail mv ca temp => Sys2Proof.Machine.execTelemetrySample rail mv ca temp s
  | .inputShutdown => Sys2Proof.Machine.execInputShutdown s
  | .capWindow die power flux margin => Sys2Proof.Machine.execCapWindow die power flux margin s
  | .marginEmergency die margin => Sys2Proof.Machine.execMarginEmergency die margin s
  | .spdmMessage code body => Sys2Proof.Machine.execSpdmMessage code body s
  | .backInvalidateResponse line => Sys2Proof.Machine.execBackInvalidateResponse line s
  | .writePerformed ag e m lanes => Sys2Proof.Machine.execWritePerformed ag e m lanes s

end Sys2Proof.Machine
end

