-- ==== Sys2Proof/Machine/Pair.lean ====
section
/-!
DEFINITION. Pairs of a leading and a tailing warp (R451–R456): what the leader may do ahead of its tailing warp, what the tailing warp
takes from the load-value queue, what the two compare, and what the tailing warp adopts. A warp without a tailing warp meets none of this.
-/

namespace Sys2Proof.Machine

/-- How the pair runs an instruction: each by itself; the tailing warp taking a result from the load-value queue (R452); a load, whose
addresses it compares; an output, held until it is compared (R453); or with both level, the leader acting for the pair; a
rendezvous, which the tailing warp passes when the leader has (R451). -/
inductive PairKind where
  | plain | input | load | out | lock | meet
  deriving DecidableEq, Repr

/-- The kind of an opcode (R452, R453). -/
def pairKind (o : Nat) : PairKind :=
  if [0x16F, 0x195, 0x193, 0x18E, 0x197, 0x186, 0x187, 0x167, 0x06C, 0x06D, 0x19A, 0x19B, 0x177, 0x190, 0x184, 0x19D, 0x16D].contains o then .input
  else if o = 0x02B || o = 0x06A || o = 0x06B || o = 0x183 then .meet
  else if inRange 0x120 0x126 o || o = 0x12C || o = 0x12D || inRange 0x130 0x132 o then .load
  else if inRange 0x127 0x12B o || o = 0x12E || o = 0x12F || inRange 0x133 0x135 o || o = 0x14B || inRange 0x139 0x14A o || o = 0x0E7 ||
    inRange 0x0E9 0x0EB o then .out
  else if o = 0x010 || o = 0x011 || o = 0x0E6 || o = 0x0E8 || o = 0x112 || o = 0x113 || inRange 0x136 0x138 o || inRange 0x160 0x166 o ||
    inRange 0x168 0x16C o || o = 0x16E || inRange 0x170 0x176 o || o = 0x180 || o = 0x181 || o = 0x185 || inRange 0x188 0x18B o ||
    o = 0x18D || o = 0x18F || inRange 0x191 0x192 o || o = 0x194 || o = 0x196 || inRange 0x198 0x199 o || o = 0x19C || o = 0x19E || o = 0x19F ||
    inRange 0x064 0x069 o || inRange 0x100 0x111 o then .lock
  else .plain

/-- A source with a nonzero modifier (R37). -/
def wordModified (x : BitVec 96) : Bool :=
  let ma := x.extractLsb' 33 12 != 0
  let mb := x.extractLsb' 55 12 != 0
  match formOf (wordOpc x) with
  | .r => ma || mb
  | .i | .c => ma && wordOpc x != 0x008
  | .m => mb

/-- A fold point (R454). -/
def foldPoint (x : BitVec 96) : Bool :=
  let o := wordOpc x
  wordModified x || inRange 0x014 0x019 o || inRange 0x01C 0x01F o || inRange 0x025 0x02C o || o = 0x045 || o = 0x08C || o = 0x099 || o = 0x0C0 ||
    inRange 0x0E0 0x0E2 o

/-- Registers a vector source of an instruction spans: 64-bit formats take two (R118, R181), wide store data two or four (R265). -/
def sourceWidth (x : BitVec 96) : Nat :=
  let o := wordOpc x
  let src := (x.extractLsb' 78 4).toNat
  if inRange 0x08D 0x099 o || inRange 0x0C1 0x0C2 o || inRange 0x0DE 0x0E0 o || o = 0x0E2 || o = 0x0EA || o = 0x027 || (o = 0x029 && x.getLsbD 79) ||
    o = 0x12A || o = 0x134 || o = 0x13B || o = 0x144 || o = 0x145 || o = 0x148 || o = 0x14A || (inRange 0x0C6 0x0D4 o && (src = 0 || src = 7 || src = 8)) then 2
  else if o = 0x12B || o = 0x135 || o = 0x146 then 4
  else 1

/-- The source operands of a word. -/
def wordSources (x : BitVec 96) : List Src :=
  match formOf (wordOpc x) with
  | .r => [unA x, unB x]
  | .i | .c => [unA x]
  | .m => [⟨(unA x).spec, 0, false⟩, unB x]

namespace State

/-! ## What the two compare -/

/-- The lanes of a member slot, among those of `part`, whose value of an operand differs between the two warps; a scalar that differs counts
for every live lane (R454, R455). -/
def sourceDiff (w y : Warp) (k : Nat) (part : LaneMask) (m : Nat) (s : Src) : LaneMask :=
  match s.spec with
  | .vec n => part &&& LaneMask.ofPred fun l => (List.range k).any fun i => w.modGet m (w.xlat n.toNat + i) s.mod l != y.modGet m (y.xlat n.toNat + i) s.mod l
  | .scl n => if w.sget m n.toNat != y.sget m n.toNat then ~~~0#96 else 0
  | .spc n => if n.toNat < 7 then part &&& (w.gmask m n.toNat ^^^ y.gmask m n.toNat) else 0
  | .imm _ => 0

/-- The lanes of each slot whose sources differ; a common scalar counts for every member. -/
def sourcesDiff (w y : Warp) (x : BitVec 96) : List (Nat × LaneMask) :=
  let h := unHdr x
  let os := wordSources x
  let guard := fun (m : Nat) => (w.bank m).em &&& (w.bank m).live &&& (w.gmask m h.gp.toNat ^^^ y.gmask m h.gp.toNat)
  let common := os.any fun s => match s.spec with | .scl n => n.toNat < 128 && w.sget 0 n.toNat != y.sget 0 n.toNat | _ => false
  (w.slots.map fun m =>
    (m, if common then ~~~0#96 else if w.mm.getLsbD m then
          os.foldl (fun u s => u ||| sourceDiff w y (sourceWidth x) (w.part h m ||| y.part h m) m s) (guard m) else 0)).filter fun p =>
    (p.2 &&& (w.bank p.1).live) != 0

/-- Kill lanes in both warps of a pair (R455, R457). -/
def killPair (s : State) (k t : Nat) (ks : List (Nat × LaneMask)) (cause : Nat) (pc : Word) : State :=
  let s1 := ks.foldl (fun s p => s.killLanes k p.1 p.2 cause pc.toNat) s
  (s1.afterKill s k).afterKill s t

/-- Every live lane of a warp. -/
def allLanes (w : Warp) : List (Nat × LaneMask) := w.slots.map fun m => (m, ~~~0#96)

/-! ## What the tailing warp adopts -/

/-- The entries of a table that the leader changed. -/
def adoptTab {α : Type} [DecidableEq α] (d : α) (old new own : Tab α) : Tab α :=
  new.foldl (fun t p => if tget d old p.1 = p.2 then t else tset t p.1 p.2) own

/-- A value the leader changed. -/
def adoptVal {α : Type} [DecidableEq α] (old new own : α) : α := if old = new then own else new

/-- A member bank; one that the leader received or whose identity changed is taken whole (R451). -/
def adoptBank (old new own : Bank) : Bank :=
  if old.num != new.num || old.midx != new.midx || old.key != new.key then new
  else
    { own with
      s := adoptTab 0 old.s new.s own.s, v := adoptTab [] old.v new.v own.v, g := adoptTab 0 old.g new.g own.g,
      jmMask := adoptTab 0 old.jmMask new.jmMask own.jmMask, jmArr := adoptTab 0 old.jmArr new.jmArr own.jmArr,
      prLo := adoptVal old.prLo new.prLo own.prLo, prHi := adoptVal old.prHi new.prHi own.prHi,
      exited := adoptVal old.exited new.exited own.exited, dead := adoptVal old.dead new.dead own.dead,
      emptyS := adoptVal old.emptyS new.emptyS own.emptyS, emptyV := adoptVal old.emptyV new.emptyV own.emptyV,
      bad := adoptTab 0 old.bad new.bad own.bad, badG := adoptVal old.badG new.badG own.badG }

/-- The tailing warp takes over what an instruction or a boundary of its leader changed (R451, R452, R456). Its own s120–s127 stand in its
trap record. -/
def adopt (old new own : Warp) : Warp :=
  let own := if old.sup && !new.sup then own.leaveTrap else own
  let olds := if old.sup && !new.sup then (List.range 8).foldl (fun t i => tset t (120 + i) (tget 0 new.s (120 + i))) old.s else old.s
  let own8 := (List.range 8).map fun i => tget 0 own.s (120 + i)
  { own with
    ended := adoptVal old.ended new.ended own.ended, st := if new.st = .free then .free else .act, waitOn := none,
    pc := new.pc, sup := new.sup, h := new.h, p := new.p, mm := new.mm, common := new.common, hmax := new.hmax,
    banks := if old.banks.length = new.banks.length then
        (List.range new.banks.length).map fun i => adoptBank (old.bank i) (new.bank i) (own.bank i) else new.banks,
    s := adoptTab 0 olds new.s own.s, v := adoptTab [] old.v new.v own.v,
    emptyS := adoptVal old.emptyS new.emptyS own.emptyS, emptyV := adoptVal old.emptyV new.emptyV own.emptyV,
    emptyX := adoptVal old.emptyX new.emptyX own.emptyX, bad := adoptTab 0 old.bad new.bad own.bad, jmBusy := new.jmBusy,
    paths := new.paths, nextAge := new.nextAge, tables := adoptVal old.tables new.tables own.tables, meld := new.meld, lc := new.lc, lcSaved := new.lcSaved,
    st8 := adoptVal old.st8 new.st8 own.st8, xa := (List.range 8).map fun i => adoptVal (old.xa.getD i {}) (new.xa.getD i {}) (own.xa.getD i {}),
    wstat := adoptVal old.wstat new.wstat own.wstat, pathev := new.pathev, txstat := new.txstat, txaddr := new.txaddr,
    record := if new.sup && !old.sup then new.record.take 8 ++ own8 else own.record, recMm := new.recMm, loopTrap := new.loopTrap,
    loopDue := new.loopDue, ordN := new.ordN, rdvN := new.rdvN, retired := new.retired, checkKilled := new.checkKilled }

/-- The destination of one part of a load moves from the leader to the tailing warp. -/
def copyPart (w : Warp) (e : LogEntry) (p : Part) (y : Warp) : Warp :=
  e.fills.foldl (fun y r => match r with
    | .v n => if p.lane < 96 then y.vput p.slot n (1#96 <<< p.lane) (w.vrow p.slot n) else y
    | .s n => y.sput p.slot n (w.sget p.slot n)
    | .x k => y.xput k (w.xa.getD k {})
    | .g _ | .st _ => y) (if e.acc = .tableLoad then { y with tables := w.tables } else y)

/-- An entry of the leader's log has nothing left to do for a part. -/
def partOver (w : Warp) (q : Nat) (p : Part) : Bool :=
  w.log.all fun e => e.seq != q || e.parts.all fun x => x.slot != p.slot || x.lane != p.lane || x.dead != p.dead || x.ok

/-- What returned to the leader reaches the tailing warp, or waits in the load-value queue (R452). -/
def shareLoads (w y : Warp) : Warp × Warp :=
  let y1 := y.log.foldl (fun (y : Warp) e => e.parts.foldl (fun (y : Warp) p =>
    if p.ok || !partOver w e.seq p then y
    else (copyPart w e p y).modParts e.seq fun x => if x.slot = p.slot && x.lane = p.lane && x.dead = p.dead then { x with ok := true } else x) y) y
  let close := fun (e : PairEntry) (p : Part) => if !p.ok && partOver w e.seq p then { p with ok := true, dead := true } else p
  ({ w with lvq := w.lvq.map fun e => { e with parts := e.parts.map (close e) } }, y1)

/-- The vector registers of a mask. -/
def regsOf (x : BitVec 256) : List Nat := if x = 0 then [] else (List.range 256).filter fun n => x.getLsbD n

/-- A product or another event without a log entry has filled registers of the leader: the tailing warp takes them (R451, R452). -/
def shareFilled (w0 w y : Warp) : Warp :=
  let mine := y.log.flatMap LogEntry.fills
  let take := fun (old new own : BitVec 256) => (regsOf (old &&& ~~~new &&& own)).filter fun n => !mine.contains (.v n)
  let y1 := (take w0.emptyV w.emptyV y.emptyV).foldl (fun (y : Warp) n =>
    { y with v := tset y.v n (tget [] w.v n), emptyV := Warp.putBit false y.emptyV n }) y
  y1.slots.foldl (fun (y : Warp) m => (take (w0.bank m).emptyV (w.bank m).emptyV (y.bank m).emptyV).foldl (fun (y : Warp) n =>
    y.setBank m { y.bank m with v := tset (y.bank m).v n (tget [] (w.bank m).v n), emptyV := Warp.putBit false (y.bank m).emptyV n }) y) y1

/-- New entries of the leader's log whose registers the tailing warp awaits too: it holds a copy of each, which no event performs. -/
def shadows (old new : Warp) : List LogEntry :=
  (new.log.filter fun e => old.nextSeq ≤ e.seq && (e.fills != [] || e.acc = .tableLoad)).map fun e => { e with held := true }

/-! ## The turn of a leading warp -/

/-- The tailing warp stands at the leader's instruction. -/
def levelPair (w y : Warp) : Bool := y.retired = w.retired && y.pc = w.pc && !y.loopDue && !w.loopDue

/-- No output of the pair is held. -/
def noOutputs (w y : Warp) : Bool := w.outq = [] && y.outq = []

/-- The leader has left the straight line: a jump, a change of em, a trap, an abort, an end. -/
def moved (old new : Warp) : Bool :=
  new.sup != old.sup || new.ended || new.st = .free || (old.tx.isSome && new.tx.isNone && new.retired = old.retired) ||
    (new.retired != old.retired && (new.pc != old.pc + 12#64 || new.ems != old.ems))

/-- The class of a warp-level trap that an instruction has raised: delivered, or still to be. -/
def trapClass (old new : Warp) : Option Nat :=
  match (if old.trapDue.isSome then none else new.trapDue) with
  | some t => some t.1.cls
  | none => if new.sup && !old.sup then some ((new.record.getD 0 0).extractLsb' 0 8).toNat else none

/-- Both warps execute an instruction that changes control; em, the pc and the class of a trap are compared (R455, R456). A trap is delivered to
the pair when it is to the leader. -/
def bothRun (s : State) (i : Instr) (w y : Warp) (s1 : State) (w1 : Warp) : State :=
  match exec i { s with cur := some y.agent } with
  | .next s2 =>
    match s2.warp? y.key with
    | none => s1
    | some y1 =>
      if w1.st = .free && !w1.ended then s1
      else
        let trap := trapClass w w1
        let s3 := s1.putWarp (if trap.isNone then y1 else if w1.trapDue.isSome then y else adopt w w1 y)
        let bad := trapClass y y1 != trap || (trap.isNone && (y1.pc != w1.pc || y1.sup != w1.sup || y1.ended != w1.ended))
        let ks := if bad then allLanes w1 else (w1.slots.map fun m => (m, (w1.bank m).em ^^^ (y1.bank m).em)).filter fun p => p.2 != 0
        s3.killPair w.key y.key ks 4 w.pc
  | _ => s1

/-- One instruction of a leading warp (R452–R456): `x` is its word, `w` the leader, `y` its tailing warp. -/
def leaderRun (s : State) (i : Instr) (x : BitVec 96) (w y : Warp) : Res :=
  let level := levelPair w y
  let idle := noOutputs w y
  let kind := pairKind (wordOpc x)
  let stay := Host.Outcome.next (s.waits w .pair)
  let both := kind = .lock || kind = .meet
  if both && !(level && idle) then stay
  else if foldPoint x && !level then stay
  else
    let ks := if both || foldPoint x then sourcesDiff w y x else []
    if ks != [] then
      let s1 := (s.modWarp w.key fun w => w.noteChecked ks).modWarp y.key fun y => y.noteChecked ks
      .next (s1.killPair w.key y.key ks (if foldPoint x then 3 else 1) w.pc)
    else match exec i s with
      | .next s1 =>
        match s1.warp? w.key, s1.warp? y.key with
        | some w1, some y1 =>
          let entry : PairEntry := { n := w.retired, pc := w.pc, next := w1.pc }
          let new := w1.log.find? fun e => w.nextSeq ≤ e.seq
          let parts := match new with | some e => e.parts | none => []
          let seq := match new with | some e => e.seq | none => w.nextSeq
          let aborted := w.tx.isSome && w1.tx.isNone
          if moved w w1 && w1.retired = w.retired && (both || aborted) then
            if level then .next (s1.putWarp (let y2 := adopt w w1 y1; if aborted then { y2 with outq := [] } else y2)) else stay
          else if (moved w w1 || (trapClass w w1).isSome) && !both && (kind != .input || w1.retired = w.retired) then
            if level then .next (bothRun s i w y s1 w1) else stay
          else if w1.retired = w.retired then .next s1
          else match kind with
            | .plain | .meet => .next s1
            | .input =>
              if 64 ≤ w.lvq.length then stay
              else
                let d := (unR x).dst
                let vals := match d with | .scl n => w1.slots.map fun m => w1.sget m n.toNat | _ => []
                .next (s1.putWarp { w1 with lvq := w1.lvq ++ [{ entry with vals := vals }] })
            | .load =>
              if 64 ≤ w.lvq.length then stay else .next (s1.putWarp { w1 with lvq := w1.lvq ++ [{ entry with seq := seq, parts := parts }] })
            | .out =>
              if 32 ≤ w.outq.length then stay
              else
                let blob := match new with | some e => e.blob | none => []
                let w2 : Warp := { w1 with
                  log := w1.log.map fun (e : LogEntry) => if e.seq = seq then { e with held := true } else e,
                  outq := w1.outq ++ [{ entry with seq := seq, parts := parts, blob := blob }] }
                .next (s1.putWarp w2)
            | .lock =>
              let y2 := adopt w w1 y1
              .next (s1.putWarp { y2 with log := y2.log ++ shadows w w1 })
        | _, _ => .next s1
      | r => r

/-! ## The turn of a tailing warp -/

/-- The addresses a tailing warp forms that differ from the leader's, by slot (R452, R455). -/
def addressDiff (mine theirs : List Part) (m : Nat) : LaneMask :=
  let a := mine.filter fun p => p.slot = m
  let b := theirs.filter fun p => p.slot = m
  let bad := (a.filter fun p => !(b.any fun q => q.lane = p.lane && q.addr = p.addr)) ++ (b.filter fun p => !(a.any fun q => q.lane = p.lane && q.addr = p.addr))
  if bad.any fun p => p.lane = 96 then ~~~0#96 else bad.foldl (fun u p => u ||| (1#96 <<< p.lane)) 0

/-- The bytes of a completed part of a load. -/
def loadedBytes (e : LogEntry) (p : Part) : List Byte := leBytes e.size p.data.toNat

/-- One instruction of a tailing warp behind its leader (R451–R455). -/
def tailRun (s : State) (i : Instr) (x : BitVec 96) (w y : Warp) : Res :=
  let kind := pairKind (wordOpc x)
  match kind with
  | .input =>
    match w.lvq.find? fun e => e.n = y.retired with
    | none => .next s
    | some e =>
      let y1 := match (unR x).dst with
        | .scl n => if e.vals = [] then y else if n.toNat < 128 then y.sput 0 n.toNat (e.vals.getD 0 0)
          else y.active.foldl (fun y m => y.sput m n.toNat (e.vals.getD m 0)) y
        | _ => y
      let y2 : Warp := { y1 with pc := e.next, retired := y.retired + 1, loopDue := e.next == y.pc + 12#64 && y.loopEnds }
      .next ((s.putWarp { w with lvq := w.lvq.filter fun q => q.n != e.n }).putWarp y2)
  | .meet => .next (s.putWarp { y.awake with pc := y.pc + 12#64, retired := y.retired + 1, loopDue := y.loopEnds, rdv := none })
  | _ =>
    let theirs := (if kind = .load then w.lvq else if kind = .out then w.outq else []).find? fun e => e.n = y.retired
    let start := match theirs with | some e => s.putWarp { y with nextSeq := e.seq } | none => s
    match exec i start with
    | .next s1 =>
      match s1.warp? y.key with
      | none => .next s1
      | some y1 =>
        if moved y y1 || (trapClass y y1).isSome then
          let ks := if y1.retired != y.retired && y1.sup = y.sup && !y1.ended && y1.pc = y.pc + 12#64 then
            y.slots.map fun m => (m, (y.bank m).em ^^^ (y1.bank m).em) else allLanes w
          .next (s.killPair w.key y.key ks 4 y.pc)
        else if y1.retired = y.retired then .next s1
        else match theirs with
          | none => .next s1
          | some e =>
            let mine := y1.log.find? fun q => q.seq = e.seq
            let parts := match mine with | some q => q.parts | none => []
            if kind = .load then
              let ks := (y.slots.map fun m => (m, addressDiff parts e.parts m)).filter fun p => p.2 != 0
              let y2 : Warp := { y1 with log := y1.log.map fun (q : LogEntry) => if q.seq = e.seq then { q with held := true } else q }
              let y3 := match mine with
                | none => y2
                | some q => e.parts.foldl (fun (y : Warp) p =>
                    if !p.ok then y
                    else (if p.dead then y else receive y q p (loadedBytes q p)).modParts e.seq fun x =>
                      if x.slot = p.slot && x.lane = p.lane then { x with ok := true } else x) y2
              let s2 := (s1.modWarp w.key fun w => { w with lvq := w.lvq.filter fun q => q.n != e.n }).putWarp y3
              .next (s2.killPair w.key y.key ks 2 y.pc)
            else
              let keep := match mine with | some q => q.fills != [] | none => false
              let y2 : Warp := { y1 with
                log := (y1.log.map fun (q : LogEntry) => if q.seq = e.seq then { q with held := true } else q).filter fun q => keep || q.seq != e.seq,
                outq := y1.outq ++ [{ n := e.n, pc := y.pc, seq := e.seq, parts := parts, blob := match mine with | some q => q.blob | none => [] }] }
              .next (s1.putWarp y2)
    | r => r

/-- One instruction of a warp, alone or in a pair. -/
def pairExec (s : State) (i : Instr) (x : BitVec 96) : Res :=
  match s.curWarp with
  | none => exec i s
  | some w =>
    match w.tail, w.lead with
    | some t, _ => match s.warp? (warpKey w.core t) with
      | some y => leaderRun s i x w y
      | none => exec i s
    | _, some l => match s.warp? (warpKey w.core l) with
      | some v => tailRun s i x v w
      | none => exec i s
    | none, none => exec i s

/-! ## Events and boundaries of a pair -/

/-- After an event, or a boundary of the leader, its tailing warp shares what returned, and adopts a rendezvous that has completed, a trap
delivered, an abort or a demotion (R451, R452, R456). -/
def pairSync (s0 s1 : State) : State :=
  (s1.warps.filter fun p => p.2.tail.isSome).foldl (fun s p =>
    match p.2.tail.bind fun t => s.warp? (warpKey p.2.core t), s0.warp? p.1, s.warp? p.1 with
    | some y, some w0, some w1 =>
      let (w2, y0) := shareLoads w1 y
      let y1 := shareFilled w0 w1 y0
      let turned := (w0.rdv.isSome && w1.rdv.isNone && w1.retired != w0.retired) || (w1.pc != w0.pc || w1.ems != w0.ems || w1.sup != w0.sup)
      let y2 := if turned && y.retired = w0.retired && !w0.loopDue then adopt w0 w2 y1 else y1
      (s.putWarp w2).putWarp (if w0.tx.isSome && w1.tx.isNone && turned then { y2 with outq := [] } else y2)
    | _, _, _ => s) s1

end State

/-- A boundary of a leading warp waits until its tailing warp has caught up and its outputs are compared (R456). -/
def State.pairWaits (s : State) (w : Warp) : Bool :=
  match w.tail.bind fun t => s.warp? (warpKey w.core t) with
  | some y => !(State.levelPair w y && State.noOutputs w y)
  | none => false

/-- A path that a kill has ended in the leader ends in the tailing warp once it has caught up (R457). -/
def Warp.realign (w y : Warp) : Warp :=
  { y with
    pc := w.pc, paths := w.paths, nextAge := w.nextAge, meld := w.meld, jmBusy := w.jmBusy, ended := w.ended, pathev := w.pathev,
    st := if w.st = .free then .free else y.st,
    banks := (List.range y.banks.length).map fun i =>
      { y.bank i with exited := (w.bank i).exited, dead := (w.bank i).dead, jmMask := (w.bank i).jmMask, jmArr := (w.bank i).jmArr,
                      s := [253, 254, 255].foldl (fun t n => tset t n (tget 0 (w.bank i).s n)) (y.bank i).s } }

end Sys2Proof.Machine
end

