-- ==== Sys2Proof/Machine/Storage.lean ====
section
/-!
DEFINITION. Errors of storage cells (R449): what a correction counts, and what an uncorrectable error leaves. The outside brings them, as turns of
the agenda.
-/

namespace Sys2Proof.Machine

/-- The counters that count corrections (R464). -/
def corrects (n : Nat) : Bool := [0x10, 0x11, 0x12, 0x13, 0x14, 0x16, 0x17, 0x18, 0x19, 0x1A, 0x1B, 0x1F].contains n

namespace State

/-- Change a warp that holds state: one that has not ended and stands in its slot. -/
def modHeld (s : State) (key : Nat) (f : Warp → Warp) : State :=
  s.modWarp key fun w => if w.ended || w.st = .free || w.st = .save then w else f w

/-- A register of scalar class is read with an uncorrectable error: every live lane of the member that owns the copy is killed, or of the warp when
the copy is common (R449). The foreman has no lanes. -/
def scalarError (s : State) (key : Nat) (m? : Option Nat) : State :=
  match s.warp? key with
  | none => s
  | some w =>
    if w.foreman || w.ended || w.st = .free || w.st = .save then s
    else
      let ms := match m? with | some m => [m] | none => w.slots
      (ms.foldl (fun s m => s.killLanes key m (~~~0#96) 7 w.pc.toNat) s).afterKill s key

/-- A storage error (R449). A correction is counted and changes nothing else; an entry under parity is dropped, to be fetched again, and counted as a
correction; the others stay until they are read or written over. -/
def upset (s : State) (u : Upset) : State :=
  match u with
  | .corrected n copy k => if corrects n then s.count n copy k else s
  | .vector key none reg lane => s.modHeld key fun w => { w with bad := tset w.bad reg (tget 0 w.bad reg ||| (1#96 <<< lane)) }
  | .vector key (some m) reg lane => s.modHeld key fun w =>
      w.setBank m { w.bank m with bad := tset (w.bank m).bad reg (tget 0 (w.bank m).bad reg ||| (1#96 <<< lane)) }
  | .scalar key m? => s.scalarError key m?
  | .accumulator key n => s.modHeld key fun w => if n < 8 then { w with xa := lset w.xa n (((w.xa.getD n {}).flag 0).flag 3) } else w
  | .l1 core line => (s.l1Drop core line).count 0x12 core 1
  | .loopBuffer key pc => (s.modHeld key fun w => { w with loopBuf := tdel w.loopBuf pc }).count 0x17 (key / 32) 1
  | .translation core va => ({ s with tlb := s.tlb.filter fun l => l.core != core || l.va != va } : State).count 0x17 core 1
  | .near blk a => s.modBlock blk fun b =>
      { b with nearPoison := if a + 8 ≤ b.ns && a % 8 = 0 && !b.nearPoison.contains a then b.nearPoison ++ [a] else b.nearPoison }
  | .line pa => if isHost pa then s else s.addPoison [pa / 128 * 128]

end State

end Sys2Proof.Machine
end

