-- ==== Sys2Proof/Machine/Front.lean ====
section
/-!
DEFINITION. The turn of an agent: what a warp, a foreman, a pair or a Seam core does next, and the word that an instruction is placed in.
-/

namespace Sys2Proof.Machine

/-- What a Seam core does on its turn (R373, R383, R385): it leaves its instance at a boundary where it must, or fetches its next word. -/
noncomputable def State.frontSeam (s : State) (core : Nat) : State × Option Instr :=
  match s.runningOn core with
  | none => (s, none)
  | some (id, i) =>
    if s.mustLeave i then (s, some (.seamInstancePreempt core))
    else if s.waitedLong i then (s, some (.seamLongWait core))
    else if i.pc.toNat % 8 != 0 then (s.endByFault id i (6, 11, i.pc.toNat), none)
    else match s.fetchAddrs noWarp i.ctx (seamDie core) i.pc false 8 with
      | .error (k, c, va) => (s.endByFault id i (2, if k = 2 then c else 3, va.toNat), none)
      | .ok as =>
        let s := [0, 7].foldl (fun s j => s.fillTlb noWarp i.ctx (i.pc + BitVec.ofNat 64 j) 0) s
        if as.any fun a => s.poisoned a 1 then (s.endByFault id i (3, 2, i.pc.toNat), none)
        else match decodeSeam (BitVec.ofNat 64 (leNat (as.map fun a => s.mem.read (s.home a)))) with
          | .error _ => (s.endByFault id i (6, 0, i.pc.toNat), none)
          | .ok e => (s, some e)

/-- A boundary event is due before the next instruction of a warp. -/
noncomputable def State.boundaryDue (s : State) (w : Warp) : Bool :=
  (s.boundary w).isSome && !w.loopDue || State.boundaryWait w

/-- Run an event of a pair's leader, and let the tailing warp follow. -/
def State.followed (s : State) (r : Res) : Res :=
  match r with
  | .next s1 => .next (State.pairSync s s1)
  | r => r

/-- The turn of a leading warp (R452–R456). -/
noncomputable def State.turnLeader (s : State) (w : Warp) : Res :=
  if s.boundaryDue w && s.pairWaits w then .next s
  else match s.frontWarp w, s.fetch w with
    | (s1, some i), f =>
      if s.boundaryDue w then s.followed (exec i s1)
      else if w.loopDue then exec i s1
      else match f with
        | .word x => State.pairExec s1 i x
        | _ => .next s1
    | (s1, none), .word _ => .next (if s.boundaryDue w then State.pairSync s s1 else s1)
    | (s1, none), _ => if s.pairWaits w then .next s else .next (State.pairSync s s1)

/-- The turn of a tailing warp: it executes what its leader has retired (R451). -/
noncomputable def State.turnTail (s : State) (w y : Warp) : Res :=
  if y.loopDue then exec (.loopBack y.core y.slot) s
  else if y.retired = w.retired then .next (if y.pc != w.pc && !w.loopDue then s.putWarp (Warp.realign w y) else s)
  else if y.st = .wait then .next s
  else if y.st = .out then .next (s.joinActive y)
  else match s.fetch y with
    | .word x => match decodeJarja x with
      | .ok i => State.pairExec (s.fetched y x) i x
      | .error _ => .next s
    | _ => .next s

/-- The turn of an agent. -/
noncomputable def State.turn (s : State) (a : Agent) : Res :=
  match a with
  | .seam c => match s.frontSeam c with
    | (s1, some i) => exec i s1
    | (s1, none) => .next s1
  | _ => match s.curWarp with
    | none => .next s
    | some w0 =>
      let s := (s.settleFences w0.key).dropStale w0.key
      let w := (s.warp? w0.key).getD w0
      match w.tail.isSome, w.lead.bind fun l => s.warp? (warpKey w.core l) with
      | true, _ => s.turnLeader w
      | false, some v => s.turnTail v w
      | false, none => match s.frontWarp w with
        | (s1, some i) => exec i s1
        | (s1, none) => .next s1

/-- A storage error (R449). -/
def State.disturb (s : State) (u : Upset) : Res := s.followed (.next (s.upset u))

/-- An event of the device, which the tailing warps of pairs follow (R452). -/
def State.happen (s : State) (e : Instr) : Res := s.followed (exec e s)

end Sys2Proof.Machine
end

