-- ==== Sys2Proof/Machine/Setup.lean ====
section
/-!
DEFINITION. Placing one instruction where the next step fetches it (log entry 8): at the pc of the current agent when that agent is ready to
fetch, else at the pc of a warp, foreman or Seam instance set up for it as a launch would leave it.
-/

namespace Sys2Proof.Machine

/-- The launch header of the kernel set up: one block of one warp, 64 registers, 64 KiB of near scratch and 4 scale records. -/
def setupHeader (fentry : Nat) : LHdr :=
  0x10000000100000000000000000000000000000000000000000000000001000000004000000104100200000000#1024 ||| BitVec.ofNat 1024 fentry <<< 192

/-- The task record (R370) of a Seam task set up: one instance whose code begins at the same place, with one read-write region. -/
def setupTask : BitVec 1024 := 0x100000030000000060000000000000000000000000000000000000000000000000000000000000000000000000000000000000000000000050000000000000000000000000000000400000#1024

namespace State

/-- Write bytes at physical addresses, as a test bench would: memory alone changes, and no core keeps older code. -/
def pokeAll (s : State) (as : List Nat) (bs : List Byte) : State :=
  { s with mem := (as.zip bs).foldl (fun m p => Memory.write m (s.home p.1) p.2) s.mem,
           poison := s.poison.filter fun l => !((as.map fun a => s.home a / 128 * 128).contains l), code := [] }

/-- Context 0 resident, its tables mapping the first GiB of virtual addresses to the first GiB of HBM4E, writable and executable. -/
def setupContext (s : State) : State :=
  let m1 := s.mem.writeBytes 0x100000 (leBytes 8 0x200001)
  let m2 := m1.writeBytes 0x200000 (leBytes 8 0x2F)
  { s with
    mem := m2, tlb := s.tlb.filter (fun l => l.ctx != 0), walks := s.walks.filter (fun p => p.ctx != 0), code := [],
    ctxs := tset s.ctxs 0 { (tget {} s.ctxs 0) with res := true, held := true, ttroot := 0x100000#64, segs := [] } }

/-- A running block of one warp, with a foreman or without. -/
def setupBlock (s : State) (fore : Bool) : State :=
  let h := setupHeader (if fore then 0x400000 else 0)
  let info : LaunchInfo := { b := 0, crew := 1, cgs := 1, nblk := 1, widths := LHdr.widths h }
  let nd : Node := { ctx := 0, queue := 0, hdr := h, st := .drain, nblk := 1, next := 1, live := [0] }
  let b : Block := { node := 0, ctx := 0, b := 0, core := 0, wpb := 1, ns := LHdr.near h, srec := LHdr.srec h, hasForeman := fore }
  let w : Warp := { startWarp h 0 0 0 0 0 info [] (s.coreCycle 0) with st := .act }
  let ws := tset s.warps (warpKey 0 0) w
  { s with warps := if fore then tset ws (warpKey 0 foremanSlot) (startForeman h 0 0 0 info [] (s.coreCycle 0)) else ws,
           blocks := tset s.blocks 0 b, nodes := tset s.nodes 0 nd, agenda := [], cur := some (if fore then .foreman 0 else .warp 0 0) }

/-- A running Seam task of one instance on Seam core 0. -/
def setupSeam (s : State) : State :=
  let t : SeamTask := { ctx := 0, rec1 := setupTask, st := .run }
  let i : SeamInst := { task := 0, idx := 0, core := 0, ctx := 0 }
  { s with tasks := tset s.tasks 0 t, insts := [(0, i.start t)], agenda := [], cur := some (.seam 0) }

/-- The current agent will fetch at its next turn, and where; none when it is not ready to, or is of another kind than asked. -/
noncomputable def fetchPlace (s : State) (seam fore : Bool) : Option (List Nat) :=
  if s.agenda != [] then none
  else match s.cur with
    | some (.seam c) => match seam, s.runningOn c with
      | true, some (_, i) =>
        if s.mustLeave i || s.waitedLong i || i.pc.toNat % 8 != 0 then none
        else (s.fetchAddrs noWarp i.ctx (seamDie c) i.pc false 8).toOption
      | _, _ => none
    | _ => match seam, s.curWarp with
      | false, some w =>
        if w.tail.isSome || w.lead.isSome || w.foreman != fore || s.boundaryDue w || w.loopDue || w.st != .act || w.pc.toNat % 4 != 0 ||
           w.outerLoop.isSome then none
        else (s.fetchAddrs w.core w.ctx (dieOf w.core) w.pc w.sup 12).toOption
      | _, _ => none

/-- The state with an instruction placed (log entry 8). A Seam instruction has 64 bits; one that only a foreman executes is placed for the
foreman. -/
noncomputable def placeWord (s : State) (nbits w : Nat) : State :=
  let seam := nbits = 64
  let bs := if seam then leBytes 8 w else leBytes 12 w
  let fore := match decodeTableWord nbits w with | some i => !seam && !placeOk false i && placeOk true i | none => false
  match s.fetchPlace seam fore with
  | some as => s.pokeAll as bs
  | none =>
    let s1 := s.setupContext
    let s2 := if seam then s1.setupSeam else s1.setupBlock fore
    s2.pokeAll ((List.range bs.length).map (0x400000 + ·)) bs

end State

end Sys2Proof.Machine
end

