-- ==== Sys2Proof/Machine/Step.lean ====
section
/-!
DEFINITION. One step of the device, and placing one instruction where the next step runs it.
-/

namespace Sys2Proof.Machine

/-- One step: time passes, then the next turn of the agenda, or else the current agent, runs. -/
noncomputable def step (s : State) : Host.Outcome State Fault Refusal :=
  let s := s.tickOn
  match s.agenda with
  | .event e :: rest => State.happen { s with agenda := rest } e
  | .upset u :: rest => State.disturb { s with agenda := rest } u
  | .run a :: rest => State.turn { s with agenda := rest, cur := some a } a
  | [] => match s.cur with
    | none => .next s
    | some a => s.turn a

/-- The state with an instruction placed where the next step fetches it (log entry 8). -/
noncomputable def State.withFetchWord (s : State) (nbits w : Nat) : State := s.placeWord nbits w

end Sys2Proof.Machine
end

