-- ==== Sys2Proof/Safety.lean ====
section
/-!
DEFINITION. The terms the claims are stated in: what makes a warp ready to run an instruction without a wait, a trap or a kill, what it
means that an instruction retires, and the invariants of the machine.
-/

namespace Sys2Proof.Machine

/-- No check of R264 stands in the way of an instruction: registers within the held count (R120), no misfit (R71), no forbidden common
write (R105), every copy it needs full (R126, R127), none uncorrectable (R449), none in a fragment about to be cleared (R218). -/
def Warp.Clear (w : Warp) (h : Hdr) (needs : List Warp.Need) (misfit commonWrite : Bool) : Prop :=
  w.outOfRange needs = false ∧ misfit = false ∧ commonWrite = false ∧ w.firstEmpty needs = none ∧ (∀ m ∈ w.active, w.badReads h needs m = 0) ∧
    w.clears needs = false

/-- Instruction `i` of the running warp `w` retires with the warp `w1` as its effect: the pc moves on, the machine is else as it was. -/
def Retires (i : Instr) (s : State) (w w1 : Warp) : Prop := exec i s = .next (s.retire w w1)

/-- Instruction `i` of the running warp takes the trap `t` at its own pc. -/
def Traps (i : Instr) (s : State) (w : Warp) (t : TrapReq) : Prop := exec i s = .next (s.takeTrap w t w.pc)

/-- The effect of a per-lane form with a vector result of `k` registers (R103, R104): computed once where neither `priv` nor a source makes the
result private and no further operand is read for each member (`own`). -/
def Warp.vecResult (w : Warp) (h : Hdr) (dst : Spec) (k : Nat) (os : List Warp.Operand) (priv : Bool) (val : Nat → Nat → List Lane32)
    (own : List Warp.Operand := []) : Warp :=
  let once := !(priv || w.anyPrivate (os.map (·.1))) && own.isEmpty
  let w1 := w.vecWrite h (w.xlat dst.num) k (w.valuesOf h once val)
  if once || w.commonV (w.xlat dst.num) then w1.noteDeadOnce h os else w1.noteDead h os

/-- The effect of a uniform form with a scalar result (R40, R104). -/
def Warp.sclResult (w : Warp) (h : Hdr) (dst : Spec) (val : Nat → Word) : Warp :=
  if Warp.never h || (w.active = [] && 128 ≤ dst.num) then w else w.sclWrite dst.num val

/-- The effect of a per-lane form with a predicate result (R104). -/
def Warp.predResult (w : Warp) (h : Hdr) (dst : Spec) (os : List Warp.Operand) (val : Nat → Nat → Bool) : Warp :=
  let once := !w.anyPrivate (os.map (·.1))
  let w1 := w.predWrite h dst.num (w.valuesOf h once val)
  if once then w1.noteDeadOnce h os else w1.noteDead h os

/-- `w'` differs from `w` at most in its registers: scalars, vectors, member banks, WSTAT, what is uncorrectable, what is empty, and the
canary's signature of what has been written (R79). -/
def Warp.OnlyRegs (w w' : Warp) : Prop :=
  w' = { w with s := w'.s, v := w'.v, banks := w'.banks, bad := w'.bad, wstat := w'.wstat, emptyS := w'.emptyS, emptyV := w'.emptyV,
                emptyX := w'.emptyX, canSig := w'.canSig }

/-- A form with a scalar result: with its checks clear it retires, and `val` gives what it writes for each member. -/
def SclRule (i : Instr) (h : Hdr) (dst : Spec) (os : List Warp.Operand) (priv : Warp → Bool) (val : State → Warp → Nat → Word) : Prop :=
  ∀ s w, s.curWarp = some w →
    w.Clear h (w.needs os ++ w.needsDst 1 dst) false (dst.num < 128 && (priv w || w.anyPrivate (os.map (·.1)))) →
    Retires i s w (w.sclResult h dst (val s w))

/-- As `SclRule`, for a form that an open transaction does not admit (R313). -/
def SclRuleNT (i : Instr) (h : Hdr) (dst : Spec) (side : State → Warp → Prop) (val : State → Warp → Nat → Word) : Prop :=
  ∀ s w, s.curWarp = some w → w.tx = none → side s w → w.Clear h (w.needsDst 1 dst) false false → Retires i s w (w.sclResult h dst (val s w))

/-- A per-lane form with a result of `k` vector registers: `val` gives what it writes in a lane of a member. With `soft` it is of the vector
family, and no pending injected error meets it (R466). -/
def VecRule (soft : Bool) (i : Instr) (h : Hdr) (dst : Spec) (k : Nat) (os : List Warp.Operand) (priv : Warp → Bool)
    (val : Warp → Nat → Nat → List Lane32) : Prop :=
  ∀ s w, s.curWarp = some w → (soft = true → w.injected h = none) →
    w.Clear h (w.needs os ++ w.needsDst k dst) (w.misfits os || w.misfit k dst)
      (w.commonV (w.xlat dst.num) && (priv w || w.anyPrivate (os.map (·.1)))) →
    Retires i s w (w.vecResult h dst k os (priv w) (val w))

/-- A per-lane form with a predicate result. -/
def PredRule (soft : Bool) (i : Instr) (h : Hdr) (dst : Spec) (os : List Warp.Operand) (val : Warp → Nat → Nat → Bool) : Prop :=
  ∀ s w, s.curWarp = some w → (soft = true → w.injected h = none) → w.Clear h (w.needs os) (w.misfits os) false →
    Retires i s w (w.predResult h dst os (val w))

/-- A form whose checks are those of the operands `os` and of `k` destination registers, and whose effect on its warp is `eff`, under the
condition `side`. -/
def WarpRule (i : Instr) (h : Hdr) (os : List Warp.Operand) (k : Nat) (dst : Spec) (cw : Warp → Bool) (side : State → Warp → Prop)
    (eff : State → Warp → Warp) : Prop :=
  ∀ s w, s.curWarp = some w → side s w → w.Clear h (w.needs os ++ w.needsDst k dst) (w.misfits os || w.misfit k dst) (cw w) →
    Retires i s w (eff s w)

/-- Instruction `i` of the running warp `w` retires and has set the pc itself: `w1` is the warp at its new pc. A loop whose body does not hold
that pc ends, and the canary looks at a transfer backwards (R79, R140). -/
def Jumps (i : Instr) (s : State) (w w1 : Warp) : Prop := exec i s = .next (s.finish w (.jump w1))

/-- The path the running warp `w` is on ends with instruction `i`, and the warp goes on as `w1`, or has ended (R63). -/
def Leaves (i : Instr) (s : State) (w w1 : Warp) : Prop :=
  exec i s = .next ((s.putWarp { w1.running with retired := w1.retired + 1 }).finishWarp w1.key)

/-- The running warp waits at instruction `i`, to issue it again (R357). -/
def Waits (i : Instr) (s : State) (w : Warp) (r : Wait) : Prop := exec i s = .next (s.waits w r)

/-- As `WarpRule`, for an instruction that transfers control. -/
def JumpRule (i : Instr) (h : Hdr) (os : List Warp.Operand) (k : Nat) (dst : Spec) (side : State → Warp → Prop) (eff : State → Warp → Warp) : Prop :=
  ∀ s w, s.curWarp = some w → side s w → w.Clear h (w.needs os ++ w.needsDst k dst) false false → Jumps i s w (eff s w)

/-- As `WarpRule`, for a trap. -/
def TrapRule (i : Instr) (h : Hdr) (os : List Warp.Operand) (k : Nat) (dst : Spec) (side : State → Warp → Prop) (t : State → Warp → TrapReq) : Prop :=
  ∀ s w, s.curWarp = some w → side s w → w.Clear h (w.needs os ++ w.needsDst k dst) false false → Traps i s w (t s w)

/-- As `WarpRule`, for a uniform form: under guard 0b1111 it has no effect (R40). -/
def UniRule (i : Instr) (h : Hdr) (os : List Warp.Operand) (k : Nat) (dst : Spec) (side : State → Warp → Prop) (eff : State → Warp → Warp) : Prop :=
  ∀ s w, s.curWarp = some w → side s w → w.Clear h (w.needs os ++ w.needsDst k dst) false false →
    Retires i s w (if Warp.never h then w else eff s w)

/-- No destination. -/
def noDst : Spec := .imm 0

/-- A lane exchange (R96): `src` gives the lane a value comes from, or none for the fill. A dead lane that a value would come from, itself or
by the modifier of va, gives zero and sets WSTAT.DSRC (R37). No lane it takes a value from is uncorrectable. -/
def LaneMoves (mk : FormR → Instr) (src : FormR → Warp → Nat → Nat → Option Nat) : Prop :=
  ∀ f s w, s.curWarp = some w →
    let c := plainSrc (xSpec f.x)
    let d := w.xlat f.dst.num
    let once := w.common? f.a.spec && w.common? f.b.spec && w.common? c.spec
    let gone := fun (m l : Nat) => match src f w m l with
      | some k => (w.bank m).dead.getLsbD k || (w.bank m).dead.getLsbD (Warp.modLane f.a.mod k)
      | none => false
    w.Clear f.h (w.needsPicked f.a ++ w.needs [(f.b, 1)] ++ w.needsPicked c ++ w.needsDst 1 f.dst) false (w.commonV d && !once) →
    (∀ m ∈ w.active, ∀ l < 96, (w.part f.h m).getLsbD l = true → match src f w m l with
      | some k => gone m l = true ∨ w.badAt m f.a.spec (Warp.modLane f.a.mod k) = false
      | none => w.badAt m c.spec l = false) →
    let w1 := w.vecWrite f.h d 1 (w.valuesOf f.h once fun m l => match src f w m l with
      | none => [w.int32 m c l]
      | some k => if gone m l then [0] else [w.int32 m f.a k])
    Retires (mk f) s w (w1.dsrc (w.laneTest f.h once fun m l => gone m l || (f.b.mod != 0 && (w.bank m).dead.getLsbD (Warp.modLane f.b.mod l))))

/-- The operand-log entry an access takes (R402, R413): `idx` of the eight, with the instruction word, the pc, the mode and the path it was
issued in where a melded block is open (R74). -/
def Warp.entryFor (w : Warp) (idx : Nat) (word : BitVec 96) (r : Req) (shared : Bool) (tag : Nat) (blob : List Byte) (parts : List Part) : LogEntry :=
  { idx := idx, word := word, pc := w.pc, seq := w.nextSeq, sup := w.sup, acc := r.acc, near := r.near, attr := r.attr, shared := shared,
    tx := w.tx.isSome && !r.near, parts := parts, tag := tag, path := if w.inBlock then w.curPath else 4, blob := blob,
    dst := match r.dst with | .vec n => w.xlat n.toNat | .imm _ => 0x300 | d => d.num }

/-- A per-lane access (R29, R106, R264): one part for every lane taking part in every active member, at the lane's address. In the order of
R264: the first misaligned lane traps (class 11), then the first lane outside near scratch (class 12), then a common destination in a per-member window
(class 4). Else the access takes the lowest free entry of the operand log, or waits for one, and the instruction retires; `post` is what it
does besides. With no lane taking part it accesses nothing. -/
def LaneAccess (i : Instr) (word : BitVec 96) (h : Hdr) (os : List Warp.Operand) (req : Warp → Req) (align : Nat) (addr : Warp → Nat → Nat → Word)
    (data : Warp → Nat → Nat → BitVec 128) (tag : Warp → Nat) (side : Warp → Prop) (post : Warp → Warp) : Prop :=
  ∀ s w, s.curWarp = some w → side w →
    let r := req w
    let common := os.all fun o => w.common? o.1.spec
    let dstCommon := match r.dst with | .vec n => w.commonV (w.xlat n.toNat) | _ => false
    let parts := (lanePartsOf w h r.deads (addr w) (data w)).filter fun p => !p.dead || p.addr.toNat % align = 0
    let windows := !r.near && parts.any fun p => !p.dead && (s.window w.ctx p.addr).isSome
    let askew := parts.find? fun p => !p.dead && p.addr.toNat % align != 0
    let beyond := parts.find? fun p => !p.dead && (r.near && s.nearSize w < p.addr.toNat + r.size)
    w.Clear h (w.needs os ++ w.needsDst r.regs r.dst) (w.misfits os || w.misfit r.regs r.dst) (dstCommon && !common) →
    (∀ p, askew = some p → Traps i s w { cls := 11, slot := p.slot, lane := p.lane, detail := p.addr }) ∧
    (∀ p, askew = none → beyond = some p → Traps i s w { cls := 12, slot := p.slot, lane := p.lane }) ∧
    (askew = none → beyond = none → dstCommon = true → windows = true → Traps i s w { cls := 4 }) ∧
    (askew = none → beyond = none → (dstCommon = false ∨ windows = false) →
      (parts = [] → Retires i s w (post (w.noteDead h os))) ∧
      (parts ≠ [] → w.freeEntry = none → Waits i s w .log) ∧
      (∀ k, parts ≠ [] → w.freeEntry = some k → Retires i s w (post ((w.noteDead h os).logEntry
        ((w.noteDead h os).entryFor k word r (common && !windows && !r.perMember) (tag w) [] parts)))))

/-- A uniform access (R106, R264, R267): as `LaneAccess`, with one part a member, which names no lane. Under guard 0b1111, or with `mm` 0, it
accesses nothing. -/
def OnceAccess (i : Instr) (word : BitVec 96) (f : FormM) (req : Warp → Req) (align : Nat) (data : Warp → Nat → BitVec 128)
    (blob : Warp → List Byte) (side : Warp → Prop) (post : Warp → Warp) : Prop :=
  ∀ s w, s.curWarp = some w → side w →
    let r := req w
    let os : List Warp.Operand := (⟨f.addr, 0, f.fa⟩, 1) :: (match r.data with | some o => [o] | none => [])
    let common := os.all fun o => w.common? o.1.spec
    let dstCommon := match r.dst with | .scl n => n.toNat < 128 | .spc _ => true | _ => false
    let base := fun (m : Nat) => w.ea f.addr f.off m 0
    let ms := if w.active = [] then [] else if r.single then [0] else w.active
    let windows := !r.near && ms.any fun m => (s.window w.ctx (base m)).isSome
    let askew := ms.find? fun m => (base m).toNat % align != 0
    w.Clear f.h (w.needs os ++ w.needsDst r.regs r.dst) false (dstCommon && !w.common? f.addr) → r.near = false →
    (Warp.never f.h = true → Retires i s w w) ∧
    (∀ m, Warp.never f.h = false → askew = some m → Traps i s w { cls := 11, slot := m, detail := base m }) ∧
    (Warp.never f.h = false → askew = none → dstCommon = true → windows = true → Traps i s w { cls := 4 }) ∧
    (Warp.never f.h = false → askew = none → (dstCommon = false ∨ windows = false) →
      (ms = [] → Retires i s w w) ∧
      (ms ≠ [] → w.freeEntry = none → Waits i s w .log) ∧
      (∀ k, ms ≠ [] → w.freeEntry = some k → Retires i s w (post (w.logEntry (w.entryFor k word r (common && !windows && !r.perMember) 0 (blob w)
        (ms.map fun m => { slot := m, lane := 96, addr := base m, data := data w m }))))))

/-- A form with one or two scalar sources and a value of them (R103, R143). -/
def SclOne (mk : FormR → Instr) (val : FormR → Word → Word) : Prop :=
  ∀ f, SclRule (mk f) f.h f.dst [(f.a, 1)] (fun _ => false) fun _ w m => val f (w.scl m f.a)

def SclTwo (mk : FormR → Instr) (val : FormR → Word → Word → Word) : Prop :=
  ∀ f, SclRule (mk f) f.h f.dst [(f.a, 1), (f.b, 1)] (fun _ => false) fun _ w m => val f (w.scl m f.a) (w.scl m f.b)

/-- A vector-family form on 32-bit integers, with one, two or three sources (R188). -/
def IntOne (mk : FormR → Instr) (val : FormR → Lane32 → Lane32) : Prop :=
  ∀ f, VecRule true (mk f) f.h f.dst 1 [(f.a, 1)] (fun _ => false) fun w m l => [val f (w.int32 m f.a l)]

def IntTwo (mk : FormR → Instr) (val : FormR → Lane32 → Lane32 → Lane32) : Prop :=
  ∀ f, VecRule true (mk f) f.h f.dst 1 [(f.a, 1), (f.b, 1)] (fun _ => false) fun w m l => [val f (w.int32 m f.a l) (w.int32 m f.b l)]

def IntThree (mk : FormR → Instr) (val : FormR → Lane32 → Lane32 → Lane32 → Lane32) : Prop :=
  ∀ f, VecRule true (mk f) f.h f.dst 1 [(f.a, 1), (f.b, 1), (plainSrc (xSpec f.x), 1)] (fun _ => false) fun w m l =>
    [val f (w.int32 m f.a l) (w.int32 m f.b l) (w.int32 m (plainSrc (xSpec f.x)) l)]

/-- A result as the registers it fills: two of 32 bits for a 64-bit format (R157). -/
def lanesOf (fmt : Fmt) (n : Nat) : List Lane32 := if fmt.width = 64 then [BitVec.ofNat 32 n, BitVec.ofNat 32 (n / 2 ^ 32)] else [BitVec.ofNat 32 n]

/-- Registers one value of a format takes. -/
def regsOfFmt (fmt : Fmt) : Nat := if fmt.width = 64 then 2 else 1

/-- A vector-family form on floating-point values, with one, two or three sources (R182). -/
def FltOne (fmt : Fmt) (mk : FormR → Instr) (val : FormR → Nat → Nat) : Prop :=
  ∀ f, VecRule true (mk f) f.h f.dst (regsOfFmt fmt) [(f.a, regsOfFmt fmt)] (fun _ => false) fun w m l => lanesOf fmt (val f (w.flt fmt m f.a l 0))

def FltTwo (fmt : Fmt) (mk : FormR → Instr) (val : FormR → Nat → Nat → Nat) : Prop :=
  ∀ f, VecRule true (mk f) f.h f.dst (regsOfFmt fmt) [(f.a, regsOfFmt fmt), (f.b, regsOfFmt fmt)] (fun _ => false) fun w m l =>
    lanesOf fmt (val f (w.flt fmt m f.a l 0) (w.flt fmt m f.b l 0))

def FltThree (fmt : Fmt) (mk : FormR → Instr) (val : FormR → Nat → Nat → Nat → Nat) : Prop :=
  ∀ f, VecRule true (mk f) f.h f.dst (regsOfFmt fmt) [(f.a, regsOfFmt fmt), (f.b, regsOfFmt fmt), (plainSrc (xSpec f.x), regsOfFmt fmt)]
    (fun _ => false) fun w m l =>
    lanesOf fmt (val f (w.flt fmt m f.a l 0) (w.flt fmt m f.b l 0) (w.flt fmt m (plainSrc (xSpec f.x)) l 0))

/-- A packed form: each half of 16 bits by itself (R157, R182). -/
def PackTwo (fmt : Fmt) (mk : FormR → Instr) (val : FormR → Nat → Nat → Nat) : Prop :=
  ∀ f, VecRule true (mk f) f.h f.dst 1 [(f.a, 1), (f.b, 1)] (fun _ => false) fun w m l =>
    [BitVec.ofNat 32 (val f (w.fltSmall fmt m f.a l 0) (w.fltSmall fmt m f.b l 0) + 2 ^ 16 * val f (w.fltSmall fmt m f.a l 1) (w.fltSmall fmt m f.b l 1))]

def PackThree (fmt : Fmt) (mk : FormR → Instr) (val : FormR → Nat → Nat → Nat → Nat) : Prop :=
  ∀ f, VecRule true (mk f) f.h f.dst 1 [(f.a, 1), (f.b, 1), (plainSrc (xSpec f.x), 1)] (fun _ => false) fun w m l =>
    [BitVec.ofNat 32 (val f (w.fltSmall fmt m f.a l 0) (w.fltSmall fmt m f.b l 0) (w.fltSmall fmt m (plainSrc (xSpec f.x)) l 0) +
      2 ^ 16 * val f (w.fltSmall fmt m f.a l 1) (w.fltSmall fmt m f.b l 1) (w.fltSmall fmt m (plainSrc (xSpec f.x)) l 1))]

/-- The ten conditions of R149 on values of any width. -/
def conditionHolds {n : Nat} (cc : Nat) (a b : BitVec n) : Bool :=
  if cc = 0 then a.toNat = b.toNat else if cc = 1 then a.toNat ≠ b.toNat else if cc = 2 then a.toInt < b.toInt else if cc = 3 then a.toInt ≤ b.toInt
  else if cc = 4 then b.toInt < a.toInt else if cc = 5 then b.toInt ≤ a.toInt else if cc = 6 then a.toNat < b.toNat
  else if cc = 7 then a.toNat ≤ b.toNat else if cc = 8 then b.toNat < a.toNat else b.toNat ≤ a.toNat

/-- The rounding options X gives an arithmetic form (R180). -/
def roundingOf (f : FormR) : Rnd := { mode := (f.x.extractLsb' 10 3).toNat, ftz := f.x.getLsbD 13, sat := f.x.getLsbD 14 }

/-- The tree reduction of `fred` over the lanes `t` of a segment (R173, R187): a NaN term, or infinities of both signs under `add`, give the
default NaN; with no lane the result is +0, or the default NaN for a minimum or maximum. -/
def floatTree (fmt : Fmt) (f : FormR) (t : LaneMask) (v : Nat → Nat) (l : Nat) : Nat :=
  let r := roundingOf f
  let op := (f.x.extractLsb' 3 2).toNat
  let term := fun (i : Nat) => if (fmt.decode (fmt.flush r.ftz (v i))).isNan then fmt.defaultNan else fmt.flush r.ftz (v i)
  (segResult (if op = 0 then fpAdd fmt { r with sat := false } else fpMinMax fmt r.ftz (op = 2))
    (fun i => if t.getLsbD i then some (term i) else none) (segSize (f.x.extractLsb' 0 3).toNat) l).getD (if op = 0 then 0 else fmt.defaultNan)

/-- A dot form of `n` packed elements (R172, R186): one rounding of the exact sum of the products and the FP32 third source. -/
def DotForm (fmt : Fmt) (n : Nat) (mk : FormR → Instr) : Prop :=
  ∀ f, VecRule true (mk f) f.h f.dst 1 [(f.a, 1), (f.b, 1), (plainSrc (xSpec f.x), 1)] (fun _ => false) fun w m l =>
    let r := roundingOf f
    let elem := fun (s : Src) (e : Nat) => fmt.decode (fmt.flush r.ftz (w.fltSmall fmt m s l e))
    [BitVec.ofNat 32 (fpSum Fmt.f32 r (Fmt.f32.decode (Fmt.f32.flush r.ftz (w.fltSmall Fmt.f32 m (plainSrc (xSpec f.x)) l 0)) ::
      (List.range n).map fun e => mulVal (elem f.a e) (elem f.b e)))]

/-- `cvt` into format `d` (R190): element SI of the source becomes element DI of the destination, whose other bits stay. -/
def Converts (d : Nat) (mk : FormR → Instr) : Prop :=
  ∀ f : FormR,
    let src := cvtFormat (f.x.extractLsb' 0 4).toNat
    let dst := cvtFormat d
    let r := roundingOf f
    let si := (f.x.extractLsb' 4 3).toNat
    let di := (f.x.extractLsb' 7 3).toNat
    VecRule true (mk f) f.h f.dst (if dst.bits = 64 then 2 else 1)
      ([(f.a, if src.bits = 64 then 2 else 1)] ++ (if r.mode = 4 then [(f.b, 1)] else []) ++ (if dst.bits < 32 then [(plainSrc f.dst, 1)] else []))
      (fun _ => false) fun w m l =>
        let x := if src.bits = 64 then (w.int64 m f.a l).toNat else (w.int32 m f.a l).toNat / 2 ^ (src.bits * si) % 2 ^ src.bits
        let rand := if r.mode = 4 then stochastic (w.scl m f.b) (w.bank m).midx.toNat l di else 0
        let y := convert src dst { r with rand := rand } x
        if dst.bits = 64 then [BitVec.ofNat 32 y, BitVec.ofNat 32 (y / 2 ^ 32)]
        else if dst.bits = 32 then [BitVec.ofNat 32 y]
        else
          let mask : Lane32 := BitVec.ofNat 32 (2 ^ dst.bits - 1) <<< (dst.bits * di)
          [(w.vget m (w.xlat f.dst.num) l &&& ~~~mask) ||| ((BitVec.ofNat 32 y <<< (dst.bits * di)) &&& mask)]

/-- Instance `i`, held as number `id`, of task `t` runs on the current Seam core. -/
def State.SeamRuns (s : State) (id : Nat) (i : SeamInst) (t : SeamTask) : Prop := s.curInst = some (id, i) ∧ s.task? i.task = some t

/-- A Seam instruction retires with `eff` as its effect on its instance, and the pc moves on by 8 (R385). -/
def SeamRule (mk : SeamOp → Instr) (eff : SeamOp → State → SeamInst → SeamTask → SeamInst) : Prop :=
  ∀ o s id i t, s.SeamRuns id i t → exec (mk o) s = .next (s.putInst id { eff o s i t with pc := i.pc + 8#64, waitFrom := none })

/-- A Seam instruction that writes `val` to scalar register D, which discards it where D is 0 (R382). -/
def SeamScalar (mk : SeamOp → Instr) (val : SeamOp → State → SeamInst → SeamTask → Word) : Prop :=
  SeamRule mk fun o s i t => if o.d = 0 then i else { i with x := tset i.x o.d.toNat (val o s i t) }

/-- A Seam vector instruction: lane `l` of D becomes `val` where the lanes `on` take part, and stays as it is elsewhere (R383). -/
def SeamVector (mk : SeamOp → Instr) (side : SeamOp → Prop) (on : SeamOp → SeamInst → Nat → Bool) (val : SeamOp → SeamInst → Nat → Lane32) : Prop :=
  ∀ o s id i t, side o → s.SeamRuns id i t → exec (mk o) s = .next (s.putInst id { i with
    z := tset i.z o.d.toNat ((List.range 16).map fun l => if on o i l then val o i l else i.zlane o.d l)
    pc := i.pc + 8#64
    waitFrom := none })

/-- A Seam floating-point instruction (R390): FP32 lane by lane, or, with F[5], FP64 element by element: element `e` takes part with bit 2e of
the guard and fills lanes 2e and 2e + 1. -/
def SeamFloat (mk : SeamOp → Instr) (val : SeamOp → SeamInst → Fmt → Nat → Nat) : Prop :=
  SeamVector mk (fun o => o.f.getLsbD 5 = false) (fun o i l => (i.kget o.k.toNat).getLsbD l) (fun o i l => BitVec.ofNat 32 (val o i Fmt.f32 l)) ∧
  SeamVector mk (fun o => o.f.getLsbD 5 = true) (fun o i l => (i.kget o.k.toNat).getLsbD (l / 2 * 2)) fun o i l =>
    if l % 2 = 0 then BitVec.ofNat 32 (val o i Fmt.f64 (l / 2)) else BitVec.ofNat 32 (val o i Fmt.f64 (l / 2) / 2 ^ 32)

/-- The integer operations of codes 0–14 on words of `n` bits (R387, R390). -/
def seamInteger {n : Nat} (op : Nat) (a b : BitVec n) (sh : Nat) : BitVec n :=
  if op = 0 then a + b else if op = 1 then a - b else if op = 2 then a * b else if op = 3 then a &&& b else if op = 4 then a ||| b
  else if op = 5 then a ^^^ b else if op = 6 then BitVec.ofNat n (a.toNat * 2 ^ sh) else if op = 7 then BitVec.ofNat n (a.toNat / 2 ^ sh)
  else if op = 8 then BitVec.ofInt n (a.toInt / 2 ^ sh) else if op = 9 then (if b.toInt < a.toInt then b else a)
  else if op = 10 then (if a.toInt < b.toInt then b else a) else if op = 11 then (if b.toNat < a.toNat then b else a)
  else if op = 12 then (if a.toNat < b.toNat then b else a) else if op = 13 then BitVec.ofNat n (if a.toInt < b.toInt then 1 else 0)
  else BitVec.ofNat n (if a.toNat < b.toNat then 1 else 0)

/-- A Seam instruction that reads memory (R385): it waits, ends the instance by a fault with no effect, or retires with what it has read. -/
def SeamReads (mk : SeamOp → Instr) (align : SeamOp → Nat) (addrs : SeamOp → SeamInst → List SeamRange) (eff : SeamOp → SeamInst → List (List Byte) → SeamInst) : Prop :=
  ∀ o s id i t, s.SeamRuns id i t →
    (∀ x, s.seamRead i t (addrs o i) (align o) = .fault x → exec (mk o) s = .next (s.endByFault id i x)) ∧
    (s.seamRead i t (addrs o i) (align o) = .wait → exec (mk o) s = .next (s.putInst id i)) ∧
    (∀ s1 vals, s.seamRead i t (addrs o i) (align o) = .got s1 vals →
      exec (mk o) s = .next (s1.putInst id { eff o i vals with pc := i.pc + 8#64, waitFrom := none }))

/-- A Seam instruction that writes memory (R385, R395): it ends the instance by a fault with no effect, or retires with its writes on their way. -/
def SeamWrites (mk : SeamOp → Instr) (side : SeamOp → Prop) (align : Nat ⊕ (SeamOp → Nat)) (red : SeamOp → Option Nat)
    (elems : SeamOp → SeamInst → List (Word × List Byte)) (eff : SeamOp → SeamInst → SeamInst) : Prop :=
  ∀ o s id i t, side o → s.SeamRuns id i t →
    let al := match align with | .inl n => n | .inr f => f o
    (∀ x, s.seamWrite i t (elems o i) al (red o) = .error x → exec (mk o) s = .next (s.endByFault id i x)) ∧
    (∀ s1 i1, s.seamWrite i t (elems o i) al (red o) = .ok (s1, i1) →
      exec (mk o) s = .next (s1.putInst id { eff o i1 with pc := i.pc + 8#64, waitFrom := none }))

end Sys2Proof.Machine

namespace Sys2Proof

/-- The instructions whose meaning is a change of the running warp alone: they reach the rest of the machine only as taking a trap, killing
lanes, waiting and ending a warp do. -/
def Instr.ownWarp : Instr → Bool
  | .bra _ | .brs _ | .brzEm _ | .call _ | .jmp _ | .exit _ | .nop _ | .split _ | .arrive _ | .join _ | .jmclr _ | .jmrd _ | .jmwr _
  | .unmeld _ | .prrd _ | .prwr _ | .gany _ | .gall _ | .gsame _ | .gcount _ | .gmask _ | .glow _ | .pfrom _ | .laneid _ | .lperm _
  | .lrise _ | .lfall _ | .lswap _ | .emand _ | .mmrd _ | .mmwr _ | .mmtrim _ | .mbid _ | .mselV _ | .mselS _ | .mredXF64 _ | .mredXF32 _
  | .mredMinmax _ | .mredInt _ | .mvote _ | .smovi _ | .smovhi _ | .scsel _ | .vbcast _ | .vext _ | .vins _ | .sadd _ | .ssub _ | .smul _
  | .smulh _ | .sdiv _ | .srem _ | .smin _ | .smax _ | .sand _ | .sor _ | .sxor _ | .sandn _ | .sshl _ | .sshr _ | .ssar _ | .srol _
  | .sclz _ | .spopc _ | .sctz _ | .sbfe _ | .sbfi _ | .sset _ | .scmp _ | .slea _ | .vaddr _ | .widS _ | .widV _ | .loop _ | .lcrd _
  | .strel _ | .stpos _ | .stseek _ | .regcnt _ | .fest _ | .fewait _ | .sbrev _ | .faddF32 _ | .fsubF32 _ | .fmulF32 _ | .ffmaF32 _
  | .fnmaF32 _ | .fminF32 _ | .fmaxF32 _ | .fnegF32 _ | .fabsF32 _ | .fcpsgnF32 _ | .fcmpF32 _ | .fclassF32 _ | .fredF32 _ | .faddF64 _
  | .fsubF64 _ | .fmulF64 _ | .ffmaF64 _ | .fnmaF64 _ | .fminF64 _ | .fmaxF64 _ | .fnegF64 _ | .fabsF64 _ | .fcpsgnF64 _ | .fcmpF64 _
  | .fclassF64 _ | .fredF64 _ | .faddF16x2 _ | .fsubF16x2 _ | .fmulF16x2 _ | .ffmaF16x2 _ | .fminF16x2 _ | .fmaxF16x2 _ | .faddBf16x2 _
  | .fsubBf16x2 _ | .fmulBf16x2 _ | .ffmaBf16x2 _ | .fminBf16x2 _ | .fmaxBf16x2 _ | .fdot2F16 _ | .fdot2Bf16 _ | .fdot4E4m3 _
  | .fdot4E5m2 _ | .iaddB32 _ | .isubB32 _ | .imulB32 _ | .imulh _ | .imadB32 _ | .imin _ | .imax _ | .iandB32 _ | .iorB32 _ | .ixorB32 _
  | .iandnB32 _ | .ishlB32 _ | .ishrB32 _ | .isarB32 _ | .iclzB32 _ | .ipopcB32 _ | .ibrevB32 _ | .ibfe _ | .ibfi _ | .icmpB32 _
  | .vsel _ | .idot4 _ | .ired _ | .iaddB64 _ | .isubB64 _ | .imulw _ | .vmov _ | .vmovi _ | .cvtF64 _ | .cvtF32 _ | .cvtF16 _
  | .cvtBf16 _ | .cvtE4m3 _ | .cvtE5m2 _ | .cvtE2m1 _ | .cvtS64 _ | .cvtU64 _ | .cvtS32 _ | .cvtU32 _ | .cvtS16 _ | .cvtU16 _ | .cvtS8 _
  | .cvtU8 _ | .frcpF32 _ | .frsqF32 _ | .fsqrtF32 _ | .fdivF32 _ | .fexp2F32 _ | .flog2F32 _ | .fsinpiF32 _ | .fcospiF32 _ | .ftanhF32 _
  | .fdivF64 _ | .fsqrtF64 _ | .exaddF64 _ | .exaddF32 _ | .exmacF64 _ | .exmrg _ | .exmov _ | .exclr _ | .exrnd _ | .exstat _ | .exld _
  | .exst _ | .exldw _ | .exstw _ | .exaddmF64 _ | .exmrgm _ | .ldU8 _ | .ldS8 _ | .ldU16 _ | .ldS16 _ | .ldU32 _ | .ldU64 _ | .ldU128 _
  | .stU8 _ | .stU16 _ | .stU32 _ | .stU64 _ | .stU128 _ | .sldU32 _ | .sldU64 _ | .sstU32 _ | .sstU64 _ | .ldnU32 _ | .ldnU64 _
  | .ldnU128 _ | .atomAddU32 _ | .atomAddU64 _ | .atomMinS32 _ | .atomMaxS32 _ | .atomMinU32 _ | .atomMaxU32 _ | .atomAndB32 _
  | .atomOrB32 _ | .atomXorB32 _ | .atomExchB32 _ | .atomExchB64 _ | .atomCasB32 _ | .atomCasB64 _ | .atomAddF32 _ | .atomAddF64 _
  | .stz _ | .bnum _ | .txbegin _ | .txabt _ | .txst _ | .trap _ | .trrd _ | .monclr _ | .kill _ | .deadrd _ | .errinj _ => true
  | _ => false

end Sys2Proof

namespace Sys2Proof.Machine

/-- Each warp and foreman is held under its own key. -/
def State.Keyed (s : State) : Prop := ∀ p ∈ s.warps, p.2.key = p.1

/-- Memory, near scratch and the scale records are in their canonical form. -/
def State.Canonical (s : State) : Prop := s.mem.wf = true ∧ ∀ p ∈ s.blocks, p.2.near.wf = true ∧ p.2.scales.wf = true

end Sys2Proof.Machine
end

