-- ==== Sys2Proof/Certificates/Slice0/Obligations.lean ====
section
/-!
DEFINITION. The statements for the provers.
-/

open Sys2Proof Sys2Proof.Machine

/-! ## The scalar family (R142–R155) -/

/-- R146: the integer forms. `sadd` … `spopc` write the value of the table to the destination of each member and trap on nothing.
R147: `sdiv` and `srem`, with the two corners that have no quotient; neither traps. -/
def Obligations.ScalarIntegerForms : Prop :=
  (
  (SclTwo .sadd fun _ a b => a + b) ∧ (SclTwo .ssub fun _ a b => a - b) ∧ (SclTwo .smul fun _ a b => a * b) ∧
  (SclTwo .smulh fun f a b => if f.x.getLsbD 0 then BitVec.ofNat 64 (a.toNat * b.toNat / 2 ^ 64) else BitVec.ofInt 64 (a.toInt * b.toInt / 2 ^ 64)) ∧
  (SclTwo .smin fun f a b => if f.x.getLsbD 0 then (if a.toNat ≤ b.toNat then a else b) else (if a.toInt ≤ b.toInt then a else b)) ∧
  (SclTwo .smax fun f a b => if f.x.getLsbD 0 then (if b.toNat ≤ a.toNat then a else b) else (if b.toInt ≤ a.toInt then a else b)) ∧
  (SclTwo .sand fun _ a b => a &&& b) ∧ (SclTwo .sor fun _ a b => a ||| b) ∧ (SclTwo .sxor fun _ a b => a ^^^ b) ∧
  (SclTwo .sandn fun _ a b => a &&& ~~~b) ∧
  (SclTwo .sshl fun _ a b => a <<< (b.toNat % 64)) ∧ (SclTwo .sshr fun _ a b => a >>> (b.toNat % 64)) ∧
  (SclTwo .ssar fun _ a b => a.sshiftRight (b.toNat % 64)) ∧
  (SclTwo .srol fun _ a b => (a <<< (b.toNat % 64)) ||| (a >>> (64 - b.toNat % 64))) ∧
  (SclOne .sclz fun _ a => BitVec.ofNat 64 (((List.range 64).find? fun i => a.getLsbD (63 - i)).getD 64)) ∧
  (SclOne .sctz fun _ a => BitVec.ofNat 64 (((List.range 64).find? fun i => a.getLsbD i).getD 64)) ∧
  (SclOne .spopc fun _ a => BitVec.ofNat 64 (((List.range 64).filter fun i => a.getLsbD i).length)) ∧
  (SclOne .sbrev fun _ a => revBits a) ∧ (∀ (a : Word) (i : Nat), i < 64 → (revBits a).getLsbD i = a.getLsbD (63 - i))) ∧
  (
  (SclTwo .sdiv fun f a b =>
    if b = 0 then BitVec.ofNat 64 (2 ^ 64 - 1)
    else if f.x.getLsbD 0 then BitVec.ofNat 64 (a.toNat / b.toNat)
    else if a.toInt = -2 ^ 63 ∧ b.toInt = -1 then BitVec.ofInt 64 (-2 ^ 63)
    else BitVec.ofInt 64 (a.toInt.tdiv b.toInt)) ∧
  (SclTwo .srem fun f a b =>
    if b = 0 then a
    else if f.x.getLsbD 0 then BitVec.ofNat 64 (a.toNat - b.toNat * (a.toNat / b.toNat))
    else if a.toInt = -2 ^ 63 ∧ b.toInt = -1 then 0
    else BitVec.ofInt 64 (a.toInt - b.toInt * a.toInt.tdiv b.toInt)))

/-- R148 and R149: bit fields within the limits of R142, and the ten conditions of `sset` and `scmp`.
R144, R145 and R150: moves between registers, selection, broadcast, extraction and insertion, and the address forms. -/
def Obligations.ScalarFieldsMovesAndAddresses : Prop :=
  (
  (∀ f, SclRule (.sbfe f) f.h f.dst [(f.a, 1)] (fun _ => false) fun _ w m =>
    let pos := (f.x.extractLsb' 0 6).toNat
    let len := (f.x.extractLsb' 6 7).toNat
    let v := (w.scl m f.a).toNat / 2 ^ pos % 2 ^ len
    if f.x.getLsbD 13 && 2 ^ (len - 1) ≤ v then BitVec.ofInt 64 ((v : Int) - 2 ^ len) else BitVec.ofNat 64 v) ∧
  (∀ f, f.x.extractLsb' 0 6 ≤ 63 → 1 ≤ (f.x.extractLsb' 6 7).toNat → (f.x.extractLsb' 0 6).toNat + (f.x.extractLsb' 6 7).toNat ≤ 64 →
    SclRule (.sbfi f) f.h f.dst [(f.a, 1), (f.b, 1)] (fun _ => false) fun _ w m =>
      let pos := (f.x.extractLsb' 0 6).toNat
      let len := (f.x.extractLsb' 6 7).toNat
      let a := (w.scl m f.a).toNat
      BitVec.ofNat 64 (a % 2 ^ pos + 2 ^ pos * ((w.scl m f.b).toNat % 2 ^ len) + 2 ^ (pos + len) * (a / 2 ^ (pos + len)))) ∧
  (SclTwo .sset fun f a b => if conditionHolds (f.x.extractLsb' 0 4).toNat a b then 1 else 0) ∧
  (∀ f, PredRule false (.scmp f) f.h f.dst [(f.a, 1), (f.b, 1)] fun w m _ => conditionHolds (f.x.extractLsb' 0 4).toNat (w.scl m f.a) (w.scl m f.b))) ∧
  (
  (∀ f, SclRule (.smovi f) f.h f.dst [] (fun _ => false) fun _ _ _ => BitVec.ofInt 64 f.imm.toInt) ∧
  (∀ f, SclRule (.smovhi f) f.h f.dst [(f.a, 1)] (fun _ => false) fun _ w m =>
    BitVec.ofNat 64 ((w.scl m f.a).toNat % 2 ^ 40 + 2 ^ 40 * (f.imm.toNat % 2 ^ 24))) ∧
  (∀ f, isStream f.a.spec = false → isStream f.dst = false →
    SclRule (.smov f) f.h f.dst [(f.a, 1)] (fun _ => false) fun _ w m => w.scl m f.a) ∧
  (∀ f, SclRule (.scsel f) f.h f.dst [(f.a, 1), (f.b, 1), (plainSrc (xSpec f.x), 1)] (fun _ => false) fun _ w m =>
    if w.sval m (xSpec f.x) ≠ 0 then w.scl m f.a else w.scl m f.b) ∧
  (SclTwo .slea fun f a b => a + b * BitVec.ofNat 64 (2 ^ f.x.toNat)) ∧
  (∀ f, VecRule false (.vaddr f) f.h f.dst 2 [(f.a, 1), (f.b, 1)] (fun _ => false) fun w m l =>
    let e : Word := if f.x.getLsbD 6 then (w.int32 m f.b l).setWidth 64 else (w.int32 m f.b l).signExtend 64
    let a := (w.scl m f.a).toNat + e.toNat * 2 ^ (f.x.extractLsb' 0 6).toNat
    [BitVec.ofNat 32 a, BitVec.ofNat 32 (a / 2 ^ 32)]) ∧
  (∀ f, VecRule false (.vbcast f) f.h f.dst 1 [(f.a, 1)] (fun _ => false) fun w m _ =>
    [if f.x.getLsbD 0 then (w.scl m f.a).extractLsb' 32 32 else (w.scl m f.a).extractLsb' 0 32]) ∧
  (∀ f s w, s.curWarp = some w →
    let priv := w.anyPrivate [f.a, f.b]
    let k := fun (m : Nat) => (w.scl m f.b).toNat
    let src := fun (m : Nat) => Warp.modLane f.a.mod (k m)
    let gone := fun (m : Nat) => k m < 96 && ((w.bank m).dead.getLsbD (k m) || (w.bank m).dead.getLsbD (src m))
    let ms := if Warp.never f.h then [] else if priv then w.active else w.active.take 1
    let val := fun (m : Nat) => if 96 ≤ k m || gone m then 0 else (w.vget m (w.xlat f.a.spec.num) (src m)).setWidth 64
    w.Clear f.h (w.needsPicked f.a ++ w.needs [(f.b, 1)] ++ w.needsDst 1 f.dst) false (f.dst.num < 128 && priv) →
    (∀ m ∈ ms, k m < 96 → gone m = true ∨ w.badAt m f.a.spec (src m) = false) →
    Retires (.vext f) s w (if ms = [] then w else (w.sclWrite f.dst.num fun m => val (if priv then m else w.active.headD m)).dsrc (ms.any gone))) ∧
  (∀ f, WarpRule (.vins f) f.h [(f.a, 1), (f.b, 1)] 1 f.dst (fun w => w.commonV (w.xlat f.dst.num) && w.anyPrivate [f.a, f.b]) (fun _ _ => True)
    fun _ w =>
      let d := w.xlat f.dst.num
      let lane := fun (m : Nat) => LaneMask.ofPred fun l => l = (w.scl m f.b).toNat
      let val := fun (m : Nat) => List.replicate 96 ((w.scl m f.a).extractLsb' 0 32)
      if w.commonV d then w.vput 0 d (w.union f.h &&& lane (w.active.headD 0)) (val (w.active.headD 0))
      else w.active.foldl (fun w1 m => w1.vput m d (w.part f.h m &&& lane m) (val m)) w))

/-! ## The vector family (R177–R192) -/

/-- R182, R183: the floating-point forms of one format act lane by lane on values read before the write (R177), rounded once. -/
def Obligations.FloatForms : Prop :=
  (FltTwo Fmt.f32 .faddF32 fun f => fpAdd Fmt.f32 (roundingOf f)) ∧ (FltTwo Fmt.f64 .faddF64 fun f => fpAdd Fmt.f64 (roundingOf f)) ∧
  (FltTwo Fmt.f32 .fsubF32 fun f => fpSub Fmt.f32 (roundingOf f)) ∧ (FltTwo Fmt.f64 .fsubF64 fun f => fpSub Fmt.f64 (roundingOf f)) ∧
  (FltTwo Fmt.f32 .fmulF32 fun f => fpMul Fmt.f32 (roundingOf f)) ∧ (FltTwo Fmt.f64 .fmulF64 fun f => fpMul Fmt.f64 (roundingOf f)) ∧
  (FltThree Fmt.f32 .ffmaF32 fun f => fpFma Fmt.f32 (roundingOf f) false) ∧ (FltThree Fmt.f64 .ffmaF64 fun f => fpFma Fmt.f64 (roundingOf f) false) ∧
  (FltThree Fmt.f32 .fnmaF32 fun f => fpFma Fmt.f32 (roundingOf f) true) ∧ (FltThree Fmt.f64 .fnmaF64 fun f => fpFma Fmt.f64 (roundingOf f) true) ∧
  (FltTwo Fmt.f32 .fminF32 fun f => fpMinMax Fmt.f32 (roundingOf f).ftz false) ∧ (FltTwo Fmt.f64 .fminF64 fun f => fpMinMax Fmt.f64 (roundingOf f).ftz false) ∧
  (FltTwo Fmt.f32 .fmaxF32 fun f => fpMinMax Fmt.f32 (roundingOf f).ftz true) ∧ (FltTwo Fmt.f64 .fmaxF64 fun f => fpMinMax Fmt.f64 (roundingOf f).ftz true) ∧
  (FltOne Fmt.f32 .fnegF32 fun _ a => if a % 2 ^ 32 < 2 ^ 31 then a % 2 ^ 32 + 2 ^ 31 else a % 2 ^ 32 - 2 ^ 31) ∧
  (FltOne Fmt.f64 .fnegF64 fun _ a => if a % 2 ^ 64 < 2 ^ 63 then a % 2 ^ 64 + 2 ^ 63 else a % 2 ^ 64 - 2 ^ 63) ∧
  (FltOne Fmt.f32 .fabsF32 fun _ a => a % 2 ^ 31) ∧ (FltOne Fmt.f64 .fabsF64 fun _ a => a % 2 ^ 63) ∧
  (FltTwo Fmt.f32 .fcpsgnF32 fun _ a b => a % 2 ^ 31 + b / 2 ^ 31 % 2 * 2 ^ 31) ∧
  (FltTwo Fmt.f64 .fcpsgnF64 fun _ a b => a % 2 ^ 63 + b / 2 ^ 63 % 2 * 2 ^ 63)

/-- R173, R184, R185, R187: `fcmp` writes the condition to the predicate's lanes taking part, `fclass` one bit for the class, and `fred` and `ired` write in every
lane taking part the combination of the lanes of its segment that take part, in the tree's order. -/
def Obligations.FloatTestsAndReductions : Prop :=
  (∀ f, PredRule true (.fcmpF32 f) f.h f.dst [(f.a, 1), (f.b, 1)] fun w m l =>
    fpCmp Fmt.f32 (roundingOf f).ftz (f.x.extractLsb' 15 3).toNat (w.flt Fmt.f32 m f.a l 0) (w.flt Fmt.f32 m f.b l 0)) ∧
  (∀ f, PredRule true (.fcmpF64 f) f.h f.dst [(f.a, 2), (f.b, 2)] fun w m l =>
    fpCmp Fmt.f64 (roundingOf f).ftz (f.x.extractLsb' 15 3).toNat (w.flt Fmt.f64 m f.a l 0) (w.flt Fmt.f64 m f.b l 0)) ∧
  (∀ f, VecRule true (.fclassF32 f) f.h f.dst 1 [(f.a, 1)] (fun _ => false) fun w m l => [BitVec.ofNat 32 (2 ^ fpClass Fmt.f32 (w.flt Fmt.f32 m f.a l 0))]) ∧
  (∀ f, VecRule true (.fclassF64 f) f.h f.dst 1 [(f.a, 2)] (fun _ => false) fun w m l => [BitVec.ofNat 32 (2 ^ fpClass Fmt.f64 (w.flt Fmt.f64 m f.a l 0))]) ∧
  (∀ f, VecRule true (.fredF32 f) f.h f.dst 1 [(f.a, 1)] (fun _ => false) fun w m l =>
    lanesOf Fmt.f32 (floatTree Fmt.f32 f (reduceLanes w f.h f.a m) (fun i => w.flt Fmt.f32 m f.a i 0) l)) ∧
  (∀ f, VecRule true (.fredF64 f) f.h f.dst 2 [(f.a, 2)] (fun _ => false) fun w m l =>
    lanesOf Fmt.f64 (floatTree Fmt.f64 f (reduceLanes w f.h f.a m) (fun i => w.flt Fmt.f64 m f.a i 0) l)) ∧
  (∀ f, VecRule true (.ired f) f.h f.dst 1 [(f.a, 1)] (fun _ => false) fun w m l =>
    [(segResult (intCombine (f.x.extractLsb' 3 3).toNat) (fun i => if (reduceLanes w f.h f.a m).getLsbD i then some (w.int32 m f.a i) else none)
      (segSize (f.x.extractLsb' 0 3).toNat) l).getD 0])

/-- R157, R182, R183: a packed form acts on each 16-bit half of a lane by itself.
R186: the dot forms are one rounded sum of exact products and the third source. -/
def Obligations.PackedAndDotForms : Prop :=
  (
  (PackTwo Fmt.f16 .faddF16x2 fun f => fpAdd Fmt.f16 (roundingOf f)) ∧ (PackTwo Fmt.bf16 .faddBf16x2 fun f => fpAdd Fmt.bf16 (roundingOf f)) ∧
  (PackTwo Fmt.f16 .fsubF16x2 fun f => fpSub Fmt.f16 (roundingOf f)) ∧ (PackTwo Fmt.bf16 .fsubBf16x2 fun f => fpSub Fmt.bf16 (roundingOf f)) ∧
  (PackTwo Fmt.f16 .fmulF16x2 fun f => fpMul Fmt.f16 (roundingOf f)) ∧ (PackTwo Fmt.bf16 .fmulBf16x2 fun f => fpMul Fmt.bf16 (roundingOf f)) ∧
  (PackThree Fmt.f16 .ffmaF16x2 fun f => fpFma Fmt.f16 (roundingOf f) false) ∧ (PackThree Fmt.bf16 .ffmaBf16x2 fun f => fpFma Fmt.bf16 (roundingOf f) false) ∧
  (PackTwo Fmt.f16 .fminF16x2 fun f => fpMinMax Fmt.f16 (roundingOf f).ftz false) ∧
  (PackTwo Fmt.bf16 .fminBf16x2 fun f => fpMinMax Fmt.bf16 (roundingOf f).ftz false) ∧
  (PackTwo Fmt.f16 .fmaxF16x2 fun f => fpMinMax Fmt.f16 (roundingOf f).ftz true) ∧
  (PackTwo Fmt.bf16 .fmaxBf16x2 fun f => fpMinMax Fmt.bf16 (roundingOf f).ftz true)) ∧
  (
  DotForm Fmt.f16 2 .fdot2F16 ∧ DotForm Fmt.bf16 2 .fdot2Bf16 ∧ DotForm Fmt.e4m3 4 .fdot4E4m3 ∧ DotForm Fmt.e5m2 4 .fdot4E5m2)

/-- R188: the 32-bit and 64-bit integer forms of the vector family; none traps. -/
def Obligations.VectorIntegerForms : Prop :=
  (IntTwo .iaddB32 fun f a b =>
    if f.x.getLsbD 14 then
      (if f.x.getLsbD 15 then BitVec.ofNat 32 (min (2 ^ 32 - 1) (a.toNat + b.toNat)) else BitVec.ofInt 32 (max (-2 ^ 31) (min (2 ^ 31 - 1) (a.toInt + b.toInt))))
    else a + b) ∧
  (IntTwo .isubB32 fun f a b =>
    if f.x.getLsbD 14 then
      (if f.x.getLsbD 15 then BitVec.ofNat 32 (a.toNat - b.toNat) else BitVec.ofInt 32 (max (-2 ^ 31) (min (2 ^ 31 - 1) (a.toInt - b.toInt))))
    else a - b) ∧
  (IntTwo .imulB32 fun _ a b => a * b) ∧ (IntThree .imadB32 fun _ a b c => a * b + c) ∧
  (IntTwo .imulh fun f a b => if f.x.getLsbD 15 then BitVec.ofNat 32 (a.toNat * b.toNat / 2 ^ 32) else BitVec.ofInt 32 (a.toInt * b.toInt / 2 ^ 32)) ∧
  (IntTwo .imin fun f a b => if f.x.getLsbD 15 then (if a.toNat ≤ b.toNat then a else b) else (if a.toInt ≤ b.toInt then a else b)) ∧
  (IntTwo .imax fun f a b => if f.x.getLsbD 15 then (if b.toNat ≤ a.toNat then a else b) else (if b.toInt ≤ a.toInt then a else b)) ∧
  (IntTwo .iandB32 fun _ a b => a &&& b) ∧ (IntTwo .iorB32 fun _ a b => a ||| b) ∧ (IntTwo .ixorB32 fun _ a b => a ^^^ b) ∧
  (IntTwo .iandnB32 fun _ a b => a &&& ~~~b) ∧
  (IntTwo .ishlB32 fun _ a b => a <<< (b.toNat % 32)) ∧ (IntTwo .ishrB32 fun _ a b => a >>> (b.toNat % 32)) ∧
  (IntTwo .isarB32 fun _ a b => a.sshiftRight (b.toNat % 32)) ∧
  (IntThree .idot4 fun f a b c =>
    let byte := fun (x : Lane32) (i : Nat) => if f.x.getLsbD 15 then ((x.extractLsb' (8 * i) 8).toNat : Int) else (x.extractLsb' (8 * i) 8).toInt
    BitVec.ofInt 32 (c.toInt + (byte a 0 * byte b 0 + byte a 1 * byte b 1 + byte a 2 * byte b 2 + byte a 3 * byte b 3))) ∧
  (IntOne .iclzB32 fun _ a => BitVec.ofNat 32 (((List.range 32).find? fun i => a.getLsbD (31 - i)).getD 32)) ∧
  (IntOne .ipopcB32 fun _ a => BitVec.ofNat 32 (((List.range 32).filter fun i => a.getLsbD i).length)) ∧
  (IntOne .ibrevB32 fun _ a => revBits a) ∧ (∀ (a : Lane32) (i : Nat), i < 32 → (revBits a).getLsbD i = a.getLsbD (31 - i)) ∧
  (IntOne .ibfe fun f a =>
    let len := (f.x.extractLsb' 5 6).toNat
    let v := a.toNat / 2 ^ (f.x.extractLsb' 0 5).toNat % 2 ^ len
    if f.x.getLsbD 11 && 2 ^ (len - 1) ≤ v then BitVec.ofInt 32 ((v : Int) - 2 ^ len) else BitVec.ofNat 32 v) ∧
  (∀ f, (f.x.extractLsb' 0 5).toNat + (f.x.extractLsb' 5 6).toNat ≤ 32 →
    VecRule true (.ibfi f) f.h f.dst 1 [(f.a, 1), (f.b, 1)] (fun _ => false) fun w m l =>
      let pos := (f.x.extractLsb' 0 5).toNat
      let len := (f.x.extractLsb' 5 6).toNat
      let a := (w.int32 m f.a l).toNat
      [BitVec.ofNat 32 (a % 2 ^ pos + 2 ^ pos * ((w.int32 m f.b l).toNat % 2 ^ len) + 2 ^ (pos + len) * (a / 2 ^ (pos + len)))]) ∧
  (∀ f, PredRule true (.icmpB32 f) f.h f.dst [(f.a, 1), (f.b, 1)] fun w m l =>
    conditionHolds (f.x.extractLsb' 14 4).toNat (w.int32 m f.a l) (w.int32 m f.b l)) ∧
  (∀ f, VecRule true (.iaddB64 f) f.h f.dst 2 [(f.a, 2), (f.b, 2)] (fun _ => false) fun w m l =>
    let d := w.int64 m f.a l + w.int64 m f.b l
    [d.extractLsb' 0 32, d.extractLsb' 32 32]) ∧
  (∀ f, VecRule true (.isubB64 f) f.h f.dst 2 [(f.a, 2), (f.b, 2)] (fun _ => false) fun w m l =>
    let d := w.int64 m f.a l - w.int64 m f.b l
    [d.extractLsb' 0 32, d.extractLsb' 32 32]) ∧
  (∀ f, VecRule true (.imulw f) f.h f.dst 2 [(f.a, 1), (f.b, 1)] (fun _ => false) fun w m l =>
    let a := w.int32 m f.a l
    let b := w.int32 m f.b l
    let d : Word := if f.x.getLsbD 15 then BitVec.ofNat 64 (a.toNat * b.toNat) else BitVec.ofInt 64 (a.toInt * b.toInt)
    [d.extractLsb' 0 32, d.extractLsb' 32 32])

/-- R189, R190: select, moves and conversions. A narrow result replaces its element alone; the register's other bits stay. -/
def Obligations.SelectMoveConvert : Prop :=
  (∀ f s w, s.curWarp = some w → w.injected f.h = none →
    let os : List Warp.Operand := [(f.a, 1), (f.b, 1)]
    let gs : List Warp.Operand := [(plainSrc (xSpec f.x), 1)]
    w.Clear f.h (w.needs (os ++ gs) ++ w.needsDst 1 f.dst) (w.misfits os || w.misfit 1 f.dst) (w.commonV (w.xlat f.dst.num) && w.anyPrivate [f.a, f.b]) →
    Retires (.vsel f) s w (w.vecResult f.h f.dst 1 os false (fun m l =>
      [if (w.gmask m (xSpec f.x).num).getLsbD l then w.int32 m f.a l else w.int32 m f.b l]) gs)) ∧
  (IntOne .vmov fun _ a => a) ∧
  (∀ f, VecRule true (.vmovi f) f.h f.dst 1 [] (fun _ => false) fun _ _ _ => [f.imm.extractLsb' 0 32]) ∧
  Converts 0 .cvtF64 ∧ Converts 1 .cvtF32 ∧ Converts 2 .cvtF16 ∧ Converts 3 .cvtBf16 ∧ Converts 4 .cvtE4m3 ∧ Converts 5 .cvtE5m2 ∧
  Converts 6 .cvtE2m1 ∧ Converts 7 .cvtS64 ∧ Converts 8 .cvtU64 ∧ Converts 9 .cvtS32 ∧ Converts 10 .cvtU32 ∧ Converts 11 .cvtS16 ∧
  Converts 12 .cvtU16 ∧ Converts 13 .cvtS8 ∧ Converts 14 .cvtU8

/-- R191: the special functions write the correctly rounded function the model computes (`fpDiv`, `fpSqrt`, …) of each lane. -/
def Obligations.SpecialFunctions : Prop :=
  (FltTwo Fmt.f32 .fdivF32 fun f => fpDiv Fmt.f32 (roundingOf f)) ∧ (FltTwo Fmt.f64 .fdivF64 fun f => fpDiv Fmt.f64 (roundingOf f)) ∧
  (FltOne Fmt.f32 .fsqrtF32 fun f => fpSqrt Fmt.f32 (roundingOf f)) ∧ (FltOne Fmt.f64 .fsqrtF64 fun f => fpSqrt Fmt.f64 (roundingOf f)) ∧
  (FltOne Fmt.f32 .frcpF32 fun f => fpDiv Fmt.f32 (roundingOf f) 0x3F800000) ∧ (FltOne Fmt.f32 .frsqF32 fun f => fpRsqrt Fmt.f32 (roundingOf f)) ∧
  (FltOne Fmt.f32 .fexp2F32 fun f => fpExp2 (roundingOf f)) ∧ (FltOne Fmt.f32 .flog2F32 fun f => fpLog2 (roundingOf f)) ∧
  (FltOne Fmt.f32 .fsinpiF32 fun f => fpTrigPi (roundingOf f) false) ∧ (FltOne Fmt.f32 .fcospiF32 fun f => fpTrigPi (roundingOf f) true) ∧
  (FltOne Fmt.f32 .ftanhF32 fun f => fpTanh (roundingOf f))

/-- R163: `roundMag` chooses a representable neighbour by the mode: the magnitude `m * 2^e` goes to the multiple `k` of `2^q` that is
nearest (ties to even), next below or next above it; a multiple is returned as it is.
R165: a stochastic rounding goes up when the first 24 bits of the discarded part and the generator's 24 bits carry out.
R164, R166: a rounded magnitude within the largest finite value keeps its value in its encoding; one beyond it becomes what the table gives for
the mode and the sign, or the largest finite value with `.sat`.
R160, R161: a NaN source decides the result of a sum or product; infinities that cancel and the product of zero and infinity give the
default NaN; a sum of opposite zeros is +0 but in mode rd. -/
def Obligations.FloatArithmetic : Prop :=
  (
  ∀ (fmt : Fmt) (mode rand : Nat) (neg : Bool) (m : Nat) (e : Int), mode ≤ 3 →
    let r := roundMag fmt mode rand neg m e false
    (r.2 ≤ e → (r.1 : Int) = m * 2 ^ (e - r.2).toNat) ∧
    (e < r.2 →
      let u := 2 ^ (r.2 - e).toNat
      (m % u = 0 → r.1 * u = m) ∧
      (m % u ≠ 0 →
        (mode = 0 → 2 * (r.1 * u) ≤ 2 * m + u ∧ 2 * m ≤ 2 * (r.1 * u) + u ∧ ((2 * m = 2 * (r.1 * u) + u ∨ 2 * m + u = 2 * (r.1 * u)) → r.1 % 2 = 0)) ∧
        (mode = 1 → r.1 * u < m ∧ m < r.1 * u + u) ∧
        (mode = 2 → if neg then r.1 * u < m ∧ m < r.1 * u + u else m < r.1 * u ∧ r.1 * u < m + u) ∧
        (mode = 3 → if neg then m < r.1 * u ∧ r.1 * u < m + u else r.1 * u < m ∧ m < r.1 * u + u)))) ∧
  (
  (∀ (fmt : Fmt) (rand : Nat) (neg : Bool) (m : Nat) (e : Int),
    let r := roundMag fmt 4 rand neg m e false
    let u := 2 ^ (r.2 - e).toNat
    (r.2 ≤ e → (r.1 : Int) = m * 2 ^ (e - r.2).toNat) ∧ (e < r.2 → m % u = 0 → r.1 * u = m) ∧
    (e < r.2 → m % u ≠ 0 → r.1 = if 2 ^ 24 ≤ m % u * 2 ^ 24 / u + rand then m / u + 1 else m / u)) ∧
  (∀ (seed : Word) (midx lane elem : Nat),
    let z0 := (seed.toNat + 0x9E3779B97F4A7C15 * ((midx * 96 + lane) * 8 + elem + 1)) % 2 ^ 64
    let z1 := (z0 ^^^ z0 / 2 ^ 30) * 0xBF58476D1CE4E5B9 % 2 ^ 64
    let z2 := (z1 ^^^ z1 / 2 ^ 27) * 0x94D049BB133111EB % 2 ^ 64
    stochastic seed midx lane elem = (z2 ^^^ z2 / 2 ^ 31) / 2 ^ 40) ∧
  (∀ (fmt : Fmt) (r : Rnd) (neg : Bool) (m top : Nat) (q etop : Int),
    fmt ∈ [Fmt.f64, Fmt.f32, Fmt.bf16, Fmt.f16, Fmt.e4m3, Fmt.e5m2, Fmt.e2m1] → r.ftz = false → fmt.decode fmt.maxBits = .fin false top etop →
    2 ^ fmt.fw ≤ m ∨ q = fmt.emin → m ≤ 2 ^ (fmt.fw + 1) → fmt.emin ≤ q →
    (m * 2 ^ (q - fmt.emin).toNat ≤ top * 2 ^ (etop - fmt.emin).toNat → ∃ m' q', fmt.decode (encodeMag fmt r neg m q) = .fin neg m' q' ∧ fmt.emin ≤ q' ∧
      m' * 2 ^ (q' - fmt.emin).toNat = m * 2 ^ (q - fmt.emin).toNat) ∧
    (top * 2 ^ (etop - fmt.emin).toNat < m * 2 ^ (q - fmt.emin).toNat →
      encodeMag fmt r neg m q = fmt.zero neg + (if r.sat = true ∨ r.mode = 1 ∨ (r.mode = 2 ∧ neg = true) ∨ (r.mode = 3 ∧ neg = false) then fmt.maxBits
        else if fmt = Fmt.e4m3 then 0x7F else if fmt = Fmt.e2m1 then 7 else fmt.emaxField * 2 ^ fmt.fw)))) ∧
  (
  (∀ (fmt : Fmt) (r : Rnd) (a b : Nat), r.ftz = false → a < 2 ^ fmt.width → (fmt.decode a).isNan = true →
    fpAdd fmt r a b = fmt.quiet a ∧ fpSub fmt r a b = fmt.quiet a ∧ fpMul fmt r a b = fmt.quiet a ∧ ∀ c n, fpFma fmt r n a b c = fmt.quiet a) ∧
  (∀ (fmt : Fmt) (r : Rnd) (a b : Nat), r.ftz = false → a < 2 ^ fmt.width → b < 2 ^ fmt.width → (fmt.decode a).isNan = false →
    (fmt.decode b).isNan = true → fpAdd fmt r a b = fmt.quiet b ∧ fpMul fmt r a b = fmt.quiet b) ∧
  (∀ (fmt : Fmt) (r : Rnd) (a b : Nat) (s : Bool), r.ftz = false → a < 2 ^ fmt.width → b < 2 ^ fmt.width → fmt.decode a = .inf s →
    fmt.decode b = .inf (!s) → fpAdd fmt r a b = fmt.defaultNan) ∧
  (∀ (fmt : Fmt) (r : Rnd) (a b : Nat) (s t : Bool) (e : Int), r.ftz = false → a < 2 ^ fmt.width → b < 2 ^ fmt.width →
    fmt.decode a = .fin s 0 e → fmt.decode b = .inf t → fpMul fmt r a b = fmt.defaultNan) ∧
  (∀ (fmt : Fmt) (r : Rnd) (a b : Nat) (s : Bool) (e d : Int), r.ftz = false → a < 2 ^ fmt.width → b < 2 ^ fmt.width →
    fmt.decode a = .fin s 0 e → fmt.decode b = .fin (!s) 0 d → fpAdd fmt r a b = fmt.zero (r.mode = 3)))

/-! ## Control, lanes and members (R58–R97, R100–R117) -/

/-- R84, R30 and R40: the branches, `call`, `jmp` and `nop`. A target is pc + 12 × disp, `jmp` to an address that is no multiple of 4 traps,
and under guard 0b1111 every one of them only moves on.
R85, R59 and R63: `exit` makes the lanes taking part exited and clears their mask bits; while a live lane is left in em the path goes on,
else it ends; the warp ends once its accesses and copies are complete. The mask bit of an exited lane reads 0 whatever is written to em. -/
def Obligations.BranchAndExitForms : Prop :=
  (
  let target := fun (f : FormC) (w : Warp) => w.pc + 12#64 * BitVec.ofInt 64 f.disp.toInt
  (∀ f, JumpRule (.bra f) f.h [] 0 noDst (fun _ w => Warp.never f.h = false) fun _ w => { w with pc := target f w }) ∧
  (∀ f, JumpRule (.brs f) f.h [(f.a, 1)] 0 noDst (fun _ w => Warp.never f.h = false ∧ (f.ctl.getLsbD 0 = true ↔ w.scl 0 f.a = 0)) fun _ w =>
    { w with pc := target f w }) ∧
  (∀ f, WarpRule (.brs f) f.h [(f.a, 1)] 0 noDst (fun _ => false) (fun _ w => Warp.never f.h = true ∨ (f.ctl.getLsbD 0 = true ↔ w.scl 0 f.a ≠ 0))
    fun _ w => w) ∧
  (∀ f, JumpRule (.brzEm f) f.h [] 0 noDst (fun _ w => Warp.never f.h = false ∧ ∀ m ∈ w.active, (w.bank m).em &&& (w.bank m).live = 0) fun _ w =>
    { w with pc := target f w }) ∧
  (∀ f, WarpRule (.brzEm f) f.h [] 0 noDst (fun _ => false)
    (fun _ w => Warp.never f.h = true ∨ ∃ m ∈ w.active, (w.bank m).em &&& (w.bank m).live ≠ 0) fun _ w => w) ∧
  (∀ f, JumpRule (.call f) f.h [] 1 f.dst (fun _ w => Warp.never f.h = false) fun _ w => { w.sput 0 f.dst.num (w.pc + 12#64) with pc := target f w }) ∧
  (∀ f, JumpRule (.jmp f) f.h [(f.a, 1)] 0 noDst (fun _ w => Warp.never f.h = false ∧ (w.scl 0 f.a).toNat % 4 = 0) fun _ w =>
    { w with pc := w.scl 0 f.a }) ∧
  (∀ f, TrapRule (.jmp f) f.h [(f.a, 1)] 0 noDst (fun _ w => Warp.never f.h = false ∧ (w.scl 0 f.a).toNat % 4 ≠ 0) fun _ _ => { cls := 1 }) ∧
  (∀ f, Warp.never f.h = true → WarpRule (.bra f) f.h [] 0 noDst (fun _ => false) (fun _ _ => True) fun _ w => w) ∧
  (∀ f, Warp.never f.h = true → WarpRule (.call f) f.h [] 1 f.dst (fun _ => false) (fun _ _ => True) fun _ w => w) ∧
  (∀ f, Warp.never f.h = true → WarpRule (.jmp f) f.h [(f.a, 1)] 0 noDst (fun _ => false) (fun _ _ => True) fun _ w => w) ∧
  (∀ f, WarpRule (.nop f) f.h [] 0 noDst (fun _ => false) (fun _ _ => True) fun _ w => w)) ∧
  (
  (∀ f s w, s.curWarp = some w → w.tx = none →
    let w1 := w.eachActive fun m b => b.exit (w.part f.h m)
    (w1.pathAlive = true → Retires (.exit f) s w w1) ∧
    (w1.pathAlive = false → s.endBusy w w1.endPath = false → Leaves (.exit f) s w w1.endPath) ∧
    (w1.pathAlive = false → s.endBusy w w1.endPath = true → Waits (.exit f) s w .log)) ∧
  (∀ (b : Bank) (m : LaneMask), (b.exit m).exited = b.exited ||| m ∧ (b.exit m).em = b.em &&& ~~~(b.exited ||| m) ∧ (b.exit m).dead = b.dead) ∧
  (∀ (b : Bank) (n : Nat) (v : Word), 253 ≤ n → n ≤ 255 → (b.setS n v).exited = b.exited ∧
    ∀ l, l < 32 → b.exited.getLsbD (32 * (n - 253) + l) = true → (b.setS n v).em.getLsbD (32 * (n - 253) + l) = false))

/-- R86 and R65–R67: `split`, in the order of its pseudocode: a busy register traps and nothing changes; else the register is armed, and the
warp goes on here, goes to the target, or goes on with the staying lanes and the others deferred; with 64 entries in the table it traps.
R65, R66, R87 and R88: `arrive` adds the lanes taking part to ARR; `join` completes when the test of R66 holds, and parks the path otherwise; `jmclr` turns the parked entries into deferred ones behind their joins and frees the register;
`jmrd` and `jmwr` read and write its words. -/
def Obligations.PathForms : Prop :=
  (
  ∀ f s w, s.curWarp = some w → w.tx = none → Warp.never f.h = false → w.Clear f.h (w.needs [(f.a, 1)]) false false →
    let k := (f.ctl.extractLsb' 0 3).toNat
    let e := fun (m : Nat) => (w.bank m).em &&& (w.bank m).live
    let c := fun (m : Nat) => if f.ctl.getLsbD 3 then ~~~(w.gmask m f.a.spec.num) else w.gmask m f.a.spec.num
    let on := fun (m : Nat) => w.mm.getLsbD m
    let leave := w.slots.map fun m => if on m then e m &&& c m else 0
    let stay := w.slots.map fun m => if on m then e m &&& ~~~(c m) else (w.bank m).em
    let target := w.pc + 12#64 * BitVec.ofInt 64 f.disp.toInt
    let armed : Warp := { w.eachSlot (fun m b => { b with jmMask := tset b.jmMask k (if on m then e m else 0), jmArr := tset b.jmArr k 0 }) with
      jmBusy := w.jmBusy ||| (1#8 <<< k) }
    (w.jmBusy.getLsbD k = true → Traps (.split f) s w { cls := 8 }) ∧
    (w.jmBusy.getLsbD k = false → (∀ x ∈ leave, x = 0) → Retires (.split f) s w armed) ∧
    (w.jmBusy.getLsbD k = false → (∃ x ∈ leave, x ≠ 0) → (∀ m ∈ w.active, stay.getD m 0 = 0) →
      Jumps (.split f) s w { armed.eachActive fun m b => b.setEm (leave.getD m 0) with pc := target }) ∧
    (w.jmBusy.getLsbD k = false → (∃ x ∈ leave, x ≠ 0) → (∃ m ∈ w.active, stay.getD m 0 ≠ 0) → 64 ≤ w.paths.length → Traps (.split f) s w { cls := 7 }) ∧
    (w.jmBusy.getLsbD k = false → (∃ x ∈ leave, x ≠ 0) → (∃ m ∈ w.active, stay.getD m 0 ≠ 0) → w.paths.length < 64 →
      Retires (.split f) s w ((armed.pushPath .deferred target leave).loadEm stay))) ∧
  (
  (∀ f, WarpRule (.arrive f) f.h [] 0 noDst (fun _ => false) (fun _ w => w.tx = none) fun _ w =>
    let k := (f.ctl.extractLsb' 0 3).toNat
    if w.jmBusy.getLsbD k then w.eachActive fun m b => { b with jmArr := tset b.jmArr k (tget 0 b.jmArr k ||| w.part f.h m) } else w) ∧
  (∀ f s w, s.curWarp = some w → w.tx = none →
    let k := (f.ctl.extractLsb' 0 3).toNat
    (Warp.never f.h = true ∨ w.jmBusy.getLsbD k = false → Retires (.join f) s w w) ∧
    (Warp.never f.h = false → w.jmBusy.getLsbD k = true → w.joinComplete (.parkedJm k) w.ems = true →
      Retires (.join f) s w (w.completeJoin (.parkedJm k))) ∧
    (Warp.never f.h = false → w.jmBusy.getLsbD k = true → w.joinComplete (.parkedJm k) w.ems = false → 64 ≤ w.paths.length →
      Traps (.join f) s w { cls := 7 }) ∧
    (Warp.never f.h = false → w.jmBusy.getLsbD k = true → w.joinComplete (.parkedJm k) w.ems = false → w.paths.length < 64 →
      s.endBusy w (w.park (.parkedJm k)) = false → Leaves (.join f) s w (w.park (.parkedJm k)))) ∧
  (∀ f, WarpRule (.jmclr f) f.h [] 0 noDst (fun _ => false) (fun _ w => w.tx = none) fun _ w =>
    let k := (f.ctl.extractLsb' 0 3).toNat
    if Warp.never f.h then w
    else Warp.freeJm { w with paths := w.paths.map fun e => if e.kind = .parkedJm k then { e with kind := .deferred, pc := e.pc + 12#64 } else e } k) ∧
  (∀ f, SclRule (.jmrd f) f.h f.dst [] (fun _ => true) fun _ w m =>
    let k := (f.ctl.extractLsb' 0 3).toNat
    let sel := (f.ctl.extractLsb' 3 3).toNat
    if sel = 6 then (if w.jmBusy.getLsbD k then 1 else 0)
    else if sel < 3 then ((tget 0 (w.bank m).jmMask k).extractLsb' (32 * sel) 32).setWidth 64
    else ((tget 0 (w.bank m).jmArr k).extractLsb' (32 * (sel - 3)) 32).setWidth 64) ∧
  (∀ f, UniRule (.jmwr f) f.h [(f.a, 1)] 0 noDst (fun _ w => w.tx = none) fun _ w =>
    let k := (f.ctl.extractLsb' 0 3).toNat
    let sel := (f.ctl.extractLsb' 3 3).toNat
    if sel = 6 then
      if w.active = [] && !w.common? f.a.spec then w
      else if (w.scl (w.active.headD 0) f.a).getLsbD 0 then { w with jmBusy := w.jmBusy ||| (1#8 <<< k) }
      else w.freeJm k
    else w.eachActive fun m b =>
      let v := (w.scl m f.a).extractLsb' 0 32
      if sel < 3 then { b with jmMask := tset b.jmMask k (putWord32 (tget 0 b.jmMask k) sel v) }
      else { b with jmArr := tset b.jmArr k (putWord32 (tget 0 b.jmArr k) (sel - 3) v) }))

/-- R89, R72 and R75: `meld` waits for an earlier `ptld`, traps in an open block or when a word of the block is not allowed, and else sets
`pr` and opens the block; `unmeld` outside a block traps, and in one takes the lanes that arrived to the next path or on. -/
def Obligations.MeldForms : Prop :=
  (∀ f s w, s.curWarp = some w → w.tx = none →
    let n := (f.ctl.extractLsb' 4 6).toNat + 1
    (Warp.never f.h = true → Retires (.meld f) s w w) ∧
    (Warp.never f.h = false → (∃ e ∈ w.log, e.acc = .tableLoad) → Waits (.meld f) s w .log) ∧
    (Warp.never f.h = false → (∀ e ∈ w.log, e.acc ≠ .tableLoad) → w.meld.opened = true → Traps (.meld f) s w { cls := 6 }) ∧
    (Warp.never f.h = false → (∀ e ∈ w.log, e.acc ≠ .tableLoad) → w.meld.opened = false → ∀ k c va, s.fetchBlock w n = .error (k, c, va) →
      Traps (.meld f) s w { cls := k, cause := c, detail := va }) ∧
    (Warp.never f.h = false → (∀ e ∈ w.log, e.acc ≠ .tableLoad) → w.meld.opened = false → ∀ ws, s.fetchBlock w n = .ok ws →
      let bad := wordOpc (ws.getD n 0) ≠ 0x00F ∨
        ∃ i, i < n ∧ badInBlock w.pc (w.pc + BitVec.ofNat 64 (12 * (i + 1))) n ((ws.take n).getD i 0) = true
      (bad → Traps (.meld f) s w { cls := 6 }) ∧
      (¬bad → exec (.meld f) s = .next (s.finish w (w.openMeld f.a.spec.num (f.ctl.extractLsb' 0 3).toNat (f.ctl.getLsbD 3) n
        (128 < s.meldUsed w.core + n || (ws.take n).any forcesSerial)))))) ∧
  (∀ f s w, s.curWarp = some w → w.tx = none →
    (Warp.never f.h = true → Retires (.unmeld f) s w w) ∧
    (Warp.never f.h = false → w.meld.opened = false → Traps (.unmeld f) s w { cls := 6 }) ∧
    (Warp.never f.h = false → w.meld.opened = true → w.meld.serial = true →
      exec (.unmeld f) s = .next (s.finish w (reachJoin { w with meld := { w.meld with
        arrived := w.slots.map fun m => w.meld.arrived.getD m 0 ||| (w.bank m).em } } .parkedMeld))) ∧
    (Warp.never f.h = false → w.meld.opened = true → w.meld.serial = false → s.endBusy w w.meldAdvance = false →
      Leaves (.unmeld f) s w w.meldAdvance)) ∧
  (∀ f, VecRule false (.prrd f) f.h f.dst 1 [] (fun _ => true) fun w m l =>
    [BitVec.ofNat 32 ((if (w.bank m).prLo.getLsbD l then 1 else 0) + (if (w.bank m).prHi.getLsbD l then 2 else 0))]) ∧
  (∀ f, WarpRule (.prwr f) f.h [(f.a, 1)] 0 noDst (fun _ => false) (fun _ _ => True) fun _ w =>
    (w.eachActive fun m b =>
      let t := w.part f.h m
      { b with prLo := (b.prLo &&& ~~~t) ||| LaneMask.ofPred (fun l => t.getLsbD l && (w.int32 m f.a l).getLsbD 0),
               prHi := (b.prHi &&& ~~~t) ||| LaneMask.ofPred (fun l => t.getLsbD l && (w.int32 m f.a l).getLsbD 1) }).noteDead f.h [(f.a, 1)])

/-- R92–R95: the lane tests, counts and masks over the lanes taking part where the predicate holds; `pfrom`, `laneid` and `emand`.
R96: the lane exchanges. A lane without a source takes the fill, a lane whose source is dead takes 0 and sets WSTAT.DSRC. -/
def Obligations.LaneForms : Prop :=
  (
  let q := fun (f : FormR) (w : Warp) (m : Nat) => w.part f.h m &&& w.gmask m f.a.spec.num
  let bare := fun (h : Hdr) => ({ h with gp := 7, gn := false } : Hdr)
  (∀ f, PredRule false (.gany f) f.h f.dst [(f.a, 1)] fun w m _ => q f w m ≠ 0) ∧
  (∀ f, PredRule false (.gall f) f.h f.dst [(f.a, 1)] fun w m _ => q f w m = w.part f.h m) ∧
  (∀ f, PredRule false (.gsame f) f.h f.dst [(f.a, 1)] fun w m _ => q f w m = 0 ∨ q f w m = w.part f.h m) ∧
  (∀ f, SclRule (.gcount f) (bare f.h) f.dst [(f.a, 1)] (fun _ => true) fun _ w m => BitVec.ofNat 64 (q f w m).toList.length) ∧
  (∀ f, SclRule (.gmask f) (bare f.h) f.dst [(f.a, 1)] (fun _ => true) fun _ w m => BitVec.ofNat 64 ((q f w m).toNat / 2 ^ (32 * f.x.toNat) % 2 ^ 32)) ∧
  (∀ f, SclRule (.glow f) (bare f.h) f.dst [(f.a, 1)] (fun _ => true) fun _ w m => BitVec.ofNat 64 ((q f w m).toList.headD 96)) ∧
  (∀ f, WarpRule (.pfrom f) f.h [(f.a, 1)] 0 noDst (fun _ => false) (fun _ _ => True) fun _ w =>
    w.active.foldl (fun w1 m => w1.gput m f.dst.num (w.part f.h m &&& (0xFFFFFFFF#96 <<< (32 * f.x.toNat)))
      (((w.scl m f.a).extractLsb' 0 32).setWidth 96 <<< (32 * f.x.toNat))) w) ∧
  (∀ f, VecRule false (.laneid f) f.h f.dst 1 [] (fun _ => false) fun _ _ l => [BitVec.ofNat 32 l]) ∧
  (∀ f, UniRule (.emand f) f.h [(f.a, 1)] 0 noDst (fun _ _ => True) fun _ w =>
    w.eachActive fun m b => b.setEm (b.em &&& b.live &&& w.gmask m f.a.spec.num))) ∧
  (
  let seg := fun (f : FormR) => segSize (f.x.extractLsb' 10 3).toNat
  LaneMoves .lperm (fun f w m l => if (w.int32 m f.b l).toNat < 96 then some (w.int32 m f.b l).toNat else none) ∧
  LaneMoves .lrise (fun f w m l => if l - l % seg f + (w.scl m f.b).toNat ≤ l then some (l - (w.scl m f.b).toNat) else none) ∧
  LaneMoves .lfall (fun f w m l => if l + (w.scl m f.b).toNat < l - l % seg f + seg f then some (l + (w.scl m f.b).toNat) else none) ∧
  LaneMoves .lswap (fun f w m l =>
    let x := (l % seg f) ^^^ (w.scl m f.b).toNat
    if x < seg f then some (l - l % seg f + x) else none))

/-- R100, R109 and R110: `mm` is read and written, a write keeps only the bits of slots that exist, `mmtrim` clears the members without a live
lane in em, and `mbid` reads what a member slot holds.
R111–R113: member selection reads a member of the warp that is active, or zero; a reduction combines, lane by lane, the members in which
the lane takes part, and every one of them gets the result; `mvote` gives one bit per active member. -/
def Obligations.MemberForms : Prop :=
  (
  (∀ f, SclRule (.mmrd f) f.h f.dst [] (fun _ => false) fun _ w _ => w.mm.setWidth 64) ∧
  (∀ f, UniRule (.mmwr f) f.h [(f.a, 1)] 0 noDst (fun _ _ => True) fun _ w =>
    w.mmput (BitVec.ofNat 16 ((w.scl 0 f.a).toNat &&& (2 ^ w.p - 1)))) ∧
  (∀ (w : Warp) (v : BitVec 16), w.mmput v = { w with mm := v, canSig := (w.mmput v).canSig }) ∧
  (∀ f, UniRule (.mmtrim f) f.h [] 0 noDst (fun _ _ => True) fun _ w =>
    w.mmput (w.active.foldl (fun mm m => if (w.bank m).em &&& (w.bank m).live = 0 then mm &&& ~~~(1#16 <<< m) else mm) w.mm)) ∧
  (∀ f, SclRule (.mbid f) f.h f.dst [] (fun _ => true) fun _ w m =>
    if f.x.toNat = 0 then BitVec.ofNat 64 m else if f.x.toNat = 1 then (w.bank m).midx.setWidth 64
    else if f.x.toNat = 2 then BitVec.ofNat 64 (w.bank m).num else (w.bank m).key.setWidth 64)) ∧
  (
  let slot := fun (w : Warp) (k : Word) => if k.toNat < w.p && w.mm.getLsbD k.toNat then some k.toNat else none
  let who := fun (w : Warp) (h : Hdr) (l : Nat) => w.active.filter fun m => (w.part h m).getLsbD l
  let reduce := fun (i : Instr) (f : FormR) (k : Nat) (val : Warp → List Nat → Nat → List Lane32) =>
    WarpRule i f.h [(f.a, k)] k f.dst (fun _ => false) (fun _ _ => True) fun _ w =>
      ((memberWrite w (w.xlat f.dst.num) k (w.part f.h) fun _ l => val w (who w f.h l) l).dsrc
        (w.active.any fun m => (w.bank m).dead.toList.any fun l => who w f.h l != [])).noteDead f.h [(f.a, k)]
  (∀ f, WarpRule (.mselV f) f.h [(f.a, 1), (f.b, 1)] 1 f.dst (fun w => w.commonV (w.xlat f.dst.num) && !w.common? f.b.spec) (fun _ _ => True) fun _ w =>
    let gone := fun (m l : Nat) => match slot w (w.scl m f.b) with
      | some k => (w.bank k).dead.getLsbD l || (w.bank k).dead.getLsbD (Warp.modLane f.a.mod l)
      | none => false
    (memberWrite w (w.xlat f.dst.num) 1 (w.part f.h) fun m l =>
      match slot w (w.scl m f.b) with
      | none => [0]
      | some k => if gone m l then [0] else [w.vget k (w.xlat f.a.spec.num) (Warp.modLane f.a.mod l)]).dsrc
      (w.laneTest f.h (w.commonV (w.xlat f.dst.num) || w.common? f.b.spec) gone)) ∧
  (∀ f, WarpRule (.mselS f) f.h [(f.a, 1), (f.b, 1)] 1 f.dst (fun w => f.dst.num < 128 && !w.common? f.b.spec) (fun _ _ => True) fun _ w =>
    if Warp.never f.h ∨ (w.active = [] ∧ (128 ≤ f.dst.num ∨ w.common? f.a.spec = false)) then w
    else w.sclWrite f.dst.num fun m => match slot w (w.scl m f.b) with
      | none => 0
      | some k => w.scl k f.a) ∧
  (∀ f, reduce (.mredXF64 f) f 2 fun w c l =>
    lanesOf Fmt.f64 (fpSum Fmt.f64 { mode := f.x.toNat } (c.map fun m => Fmt.f64.decode (w.flt Fmt.f64 m f.a l 0)))) ∧
  (∀ f, reduce (.mredXF32 f) f 1 fun w c l =>
    [BitVec.ofNat 32 (fpSum Fmt.f32 { mode := f.x.toNat } (c.map fun m => Fmt.f32.decode (w.flt Fmt.f32 m f.a l 0)))]) ∧
  (∀ f, reduce (.mredMinmax f) f (if f.x.getLsbD 1 then 2 else 1) fun w c l =>
    let fmt := if f.x.getLsbD 1 then Fmt.f64 else Fmt.f32
    lanesOf fmt (fpExtreme fmt (f.x.getLsbD 0) (c.map fun m => w.flt fmt m f.a l 0))) ∧
  (∀ f, reduce (.mredInt f) f 1 fun w c l =>
    match c.map fun m => w.int32 m f.a l with
    | [] => [0]
    | a :: t => [t.foldl (fun x y =>
        if f.x.toNat = 0 then x + y else if f.x.toNat = 1 then (if x.toInt ≤ y.toInt then x else y) else if f.x.toNat = 2 then (if y.toInt ≤ x.toInt then x else y)
        else if f.x.toNat = 3 then (if x.toNat ≤ y.toNat then x else y) else if f.x.toNat = 4 then (if y.toNat ≤ x.toNat then x else y)
        else if f.x.toNat = 5 then x &&& y else if f.x.toNat = 6 then x ||| y else x ^^^ y) a]) ∧
  (∀ f, SclRule (.mvote f) f.h f.dst [] (fun _ => false) fun _ w _ =>
    w.active.foldl (fun v m =>
      let t := w.part f.h m
      let q := t &&& w.gmask m f.a.spec.num
      if (if f.x.getLsbD 0 then t ≠ 0 ∧ q = t else q ≠ 0) then v ||| (1#64 <<< m) else v) 0))

/-- R114–R117: `regrp` waits for the warp's accesses, but for copies, and its matrix engine, then for every warp of its crew; the last to come rewrites the
member maps and all of them go on. -/
def Obligations.RegroupForm : Prop :=
  ∀ f s w, s.curWarp = some w → w.tx = none → Warp.never f.h = false → w.Clear f.h (w.needs [(f.a, 1)]) false false →
    let w1 : Warp := { w with rdv := some (.regrp (w.slots.map fun m => (w.scl m f.a).extractLsb' 0 32)), st := .wait, waitOn := some .rendezvous }
    let s1 := s.putWarp w1
    let busy := ∃ e ∈ w.log, e.async = false
    (busy → Waits (.regrp f) s w .log) ∧
    (¬busy → s.mxOf w ≠ [] → Waits (.regrp f) s w .engine) ∧
    (¬busy → s.mxOf w = [] → (s1.rendezvous w1 fun x => isRegrp x.rdv) = true → ∃ x, (s1.regroupCrew w1).warp? w.key = some x ∧
      exec (.regrp f) s = .next ((s1.regroupCrew w1).putWarp x)) ∧
    (¬busy → s.mxOf w = [] → (s1.rendezvous w1 fun x => isRegrp x.rdv) = false → ∃ x,
      (s.waits { w with rdv := w1.rdv } .rendezvous).warp? w.key = some x ∧
      exec (.regrp f) s = .next ((s.waits { w with rdv := w1.rdv } .rendezvous).putWarp x))

/-! ## Identifiers, full/empty tests, loops, streams and register blocks (R120–R141, R151–R155) -/

/-- R151, R345 and R155: the fields of the work identifier, in the order warp, crew, block, group for the fields the member field leaves; the
whole identifier packs them from bit 7 on. `fest` and `fewait` test the full/empty state of a register, `lcrd` and `regcnt` read what they name.
R139, R140 and R152: `loop` traps where its form is not allowed, skips a loop of count 0, and else activates the counter; at the end of a
body the innermost loop counts and goes back to its start while an iteration is left, and a pass over a path split in the body traps. -/
def Obligations.IdentifierTestAndLoopForms : Prop :=
  (
  let field := fun (i : LaunchInfo) (midx k : Nat) =>
    if k = i.mfld ∧ k ≠ 0 then midx
    else
      let role := if i.mfld ≠ 0 ∧ i.mfld < k then k - 2 else k - 1
      if role = 0 then i.pos % i.crew else if role = 1 then i.pos / i.crew else if role = 2 then i.b % i.cgs else if role = 3 then i.b / i.cgs else 0
  (∀ f, 1 ≤ f.x.toNat → f.x.toNat ≤ 5 → SclRule (.widS f) f.h f.dst [] (fun w => f.x.toNat = w.info.mfld) fun _ w m =>
    BitVec.ofNat 64 (field w.info (w.bank m).midx.toNat f.x.toNat)) ∧
  (∀ f, f.x.toNat = 6 → SclRule (.widS f) f.h f.dst [] (fun _ => true) fun _ w m =>
    let at' := fun (j : Nat) => (w.info.widths.take j).foldl (· + ·) 7
    BitVec.ofNat 64 (((List.range 5).map fun j => field w.info (w.bank m).midx.toNat (j + 1) % 2 ^ w.info.widths.getD j 0 * 2 ^ at' j).foldl (· + ·) 0)) ∧
  (∀ f, 1 ≤ f.x.toNat → f.x.toNat ≤ 5 → VecRule false (.widV f) f.h f.dst 1 [] (fun w => f.x.toNat = w.info.mfld) fun w m _ =>
    [BitVec.ofNat 32 (field w.info (w.bank m).midx.toNat f.x.toNat)]) ∧
  (∀ f, f.x.toNat = 0 → VecRule false (.widV f) f.h f.dst 1 [] (fun _ => false) fun _ _ l => [BitVec.ofNat 32 l]) ∧
  (∀ f, SclRule (.regcnt f) f.h f.dst [] (fun _ => false) fun _ w _ => BitVec.ofNat 64 w.h) ∧
  (∀ f, SclRule (.lcrd f) f.h f.dst [] (fun _ => false) fun _ w _ =>
    let l := w.lc.getD (f.a.spec.num - 0x10) {}
    if f.x.toNat = 0 then l.index.setWidth 64 else if f.x.toNat = 1 then l.count.setWidth 64 else if l.active then 1 else 0) ∧
  (∀ f s w, s.curWarp = some w → (∀ n, f.a.spec ≠ .spc n) → w.outOfRange (w.needsOf 1 f.a) = false →
    w.Clear f.h (w.needsDst 1 f.dst) false (f.dst.num < 128 && !w.common? f.a.spec) →
    Retires (.fest f) s w (w.sclResult f.h f.dst fun m => if (w.needsOf 1 f.a).any fun q => w.isEmpty m q.reg then 0 else 1)) ∧
  (∀ f s w n, s.curWarp = some w → w.tx = none → f.a.spec = .spc n → w.Clear f.h (w.needsDst 1 f.dst) false false →
    let t := w.st8.getD (n.toNat - 0x18) {}
    Retires (.fest f) s w (w.sclResult f.h f.dst fun _ => if t.bound && !t.exhausted && (t.isWrite || 0 < t.ready) then 1 else 0)) ∧
  (∀ f s w, s.curWarp = some w → Warp.never f.h = true ∨ (w.outOfRange (w.needsOf 1 f.a) = false ∧ w.firstEmpty (w.needsOf 1 f.a) = none) →
    Retires (.fewait f) s w w) ∧
  (∀ f s w q, s.curWarp = some w → Warp.never f.h = false → w.outOfRange (w.needsOf 1 f.a) = false →
    w.firstEmpty (w.needsOf 1 f.a) = some q → Waits (.fewait f) s w .register)) ∧
  (
  (∀ f s w, s.curWarp = some w → Warp.never f.h = false → w.Clear f.h (w.needs [(f.a, 1)]) false false →
    let k := (f.ctl.extractLsb' 0 2).toNat
    let stop := w.pc + 12#64 * BitVec.ofInt 64 f.disp.toInt
    let bad := w.meld.opened = true ∨ (w.lc.getD k {}).active = true ∨ f.disp.toInt - 1 < 1 ∨ 256 < f.disp.toInt - 1 ∨
      ∃ l ∈ w.lc, l.active = true ∧ l.start.toNat ≤ w.pc.toNat ∧ w.pc.toNat < l.stop.toNat ∧ l.stop.toNat < stop.toNat
    let count := (w.scl 0 f.a).extractLsb' 0 32
    (bad → Traps (.loop f) s w { cls := 9 }) ∧
    (¬bad → count = 0 → Jumps (.loop f) s w { w with pc := stop }) ∧
    (¬bad → count ≠ 0 → Retires (.loop f) s w { w with
      lc := lset w.lc k ⟨true, 0, count, w.pc + 12#64, stop, w.nextAge⟩
      loopBuf := if w.outerLoop.isSome then w.loopBuf else w.loopBuf.filter fun p => p.1 < w.pc.toNat || stop.toNat ≤ p.1 })) ∧
  (∀ f s w, s.curWarp = some w → Warp.never f.h = true → w.Clear f.h (w.needs [(f.a, 1)]) false false → Retires (.loop f) s w w) ∧
  (∀ c k s w i, s.warp? (warpKey c k) = some w → w.loopDue = true → w.innerLoop = some i →
    let l := w.lc.getD i {}
    (w.splitSince l.mark = true → exec (.loopBack c k) s = .next (s.takeTrap { w with loopDue := false } { cls := 9 } w.pc true)) ∧
    (w.splitSince l.mark = false → (l.index + 1).toNat < l.count.toNat → exec (.loopBack c k) s = .next (s.putWarp
      { w with lc := lset w.lc i { l with index := l.index + 1, mark := w.nextAge }, pc := l.start, loopDue := false })) ∧
    (w.splitSince l.mark = false → l.count.toNat ≤ (l.index + 1).toNat →
      Warp.innerLoop { w with lc := lset w.lc i { l with index := l.index + 1, active := false } } = none →
      exec (.loopBack c k) s = .next (s.putWarp { w with lc := lset w.lc i { l with index := l.index + 1, active := false }, loopDue := false }))) ∧
  (∀ c k s w, s.warp? (warpKey c k) = some w → w.loopDue = false → exec (.loopBack c k) s = .next s))

/-- R131–R136 and R153: an element's address, binding, release, position and seeking of a stream; the forms that take or store an element move
the position on by one, and a use that R136 does not admit raises the stream trap with its cause.
R131 and R153: `stbind` reads its 64-byte entry from memory and waits for it; a valid binding is in force from then on at element 0, an
invalid one leaves the stream unbound and traps. A prefetch brings the next element of a bound read stream, with the
bytes it has then, which its use takes where nothing the warp has issued must be performed first. -/
def Obligations.StreamForms : Prop :=
  (
  let used := fun (w : Warp) (k : Nat) => ({ w with st8 := lset w.st8 k (w.st8.getD k {}).advance } : Warp)
  (∀ (t : Stream) (p : Nat), t.addr p = BitVec.ofNat 64 (t.entry.toNat % 2 ^ 56 + p % t.count 0 * (t.stride 0).toNat +
    p / t.count 0 % t.count 1 * (t.stride 1).toNat + p / (t.count 0 * t.count 1) * (t.stride 2).toNat)) ∧
  (∀ t : Stream, t.advance.ready = t.ready - 1 ∧ t.advance.ahead = t.ahead.tail ∧ t.advance.pos = (if t.pos + 1 = t.total then (if t.wraps then 0 else t.pos + 1) else t.pos + 1) ∧
    (t.advance.exhausted = true ↔ t.exhausted = true ∨ (t.pos + 1 = t.total ∧ t.wraps = false))) ∧
  (∀ (t : Stream) (wr ve : Bool), (t.cause wr ve = none ↔ t.bound = true ∧ t.isWrite = wr ∧ t.isVector = ve ∧ t.exhausted = false)) ∧
  (∀ f, isStream f.a.spec = false → isStream f.dst = false → SclRule (.smov f) f.h f.dst [(f.a, 1)] (fun _ => false) fun _ w m => w.scl m f.a) ∧
  (∀ f s w, s.curWarp = some w → w.tx = none → Warp.never f.h = false → isStream f.a.spec = true →
    let k := f.a.spec.num - 0x18
    let t := w.st8.getD k {}
    (∀ c, t.cause false false = some c → Traps (.smov f) s w { cls := 10, cause := c }) ∧
    (∀ j, t.cause false false = none → w.Clear f.h (w.needsDst 1 f.dst) false false → (t.addr t.pos).toNat % t.size = 0 →
      s.window w.ctx (t.addr t.pos) = none → w.active ≠ [] → w.freeEntry = some j → (∀ n, f.dst ≠ .imm n) →
      let e := w.entryFor j (packR 0x042 f) { acc := .sload t.size, size := t.size, dst := f.dst } true (k + 1) []
        (w.active.map fun m => { slot := m, lane := 96, addr := t.addr t.pos })
      let w1 := w.logEntry e
      (t.ahead = [] ∨ (∃ p ∈ e.parts, s.inOrder w1 e p = false) → Retires (.smov f) s w (used w1 k)) ∧
      (∀ a bs rest, t.ahead = (a, bs) :: rest → (∀ p ∈ e.parts, s.inOrder w1 e p = true) →
        Retires (.smov f) s w (used { (e.parts.foldl (fun w p => State.receive w e p bs) w1).modParts e.seq (fun p => { p with ok := true }) with
          st8 := w.st8 } k)))) ∧
  (∀ f s w, s.curWarp = some w → w.tx = none → Warp.never f.h = false → isStream f.a.spec = false → isStream f.dst = true →
    let k := f.dst.num - 0x18
    let t := w.st8.getD k {}
    (∀ c, t.cause true false = some c → Traps (.smov f) s w { cls := 10, cause := c }) ∧
    (∀ j, t.cause true false = none → w.Clear f.h (w.needs [(f.a, 1)]) false false → (t.addr t.pos).toNat % t.size = 0 →
      s.window w.ctx (t.addr t.pos) = none → w.active ≠ [] → w.freeEntry = some j →
      Retires (.smov f) s w (used (w.logEntry (w.entryFor j (packR 0x042 f) { acc := .store t.size, size := t.size } (w.common? f.a.spec) 0 []
        (w.active.map fun m => { slot := m, lane := 96, addr := t.addr t.pos, data := BitVec.ofNat 128 ((w.scl m f.a).toNat % 2 ^ (8 * t.size)) }))) k))) ∧
  (∀ f, let k := f.a.spec.num - 0x18
    LaneAccess (.strdV f) (packR 0x068 f) f.h [] (fun _ => { acc := .load 4 false, size := 4, regs := 1, dst := f.dst }) 4
      (fun w _ l => (w.st8.getD k {}).addr (w.st8.getD k {}).pos + BitVec.ofNat 64 (4 * l)) (fun _ _ _ => 0) (fun _ => k + 1)
      (fun w => w.tx = none ∧ (w.st8.getD k {}).cause false true = none ∧ (w.st8.getD k {}).ahead = []) (fun w => used w k)) ∧
  (∀ f s w j a bs rest, s.curWarp = some w → w.tx = none →
    let k := f.a.spec.num - 0x18
    let t := w.st8.getD k {}
    let parts := lanePartsOf w f.h false (fun _ l => t.addr t.pos + BitVec.ofNat 64 (4 * l)) fun _ _ => 0
    t.cause false true = none → t.ahead = (a, bs) :: rest →
    w.Clear f.h (w.needsDst 1 f.dst) (w.misfit 1 f.dst) false → (∀ n, f.dst ≠ .imm n) → parts ≠ [] → w.freeEntry = some j →
    (∀ p ∈ parts, p.addr.toNat % 4 = 0 ∧ s.window w.ctx p.addr = none) →
    let e := w.entryFor j (packR 0x068 f) { acc := .load 4 false, size := 4, dst := f.dst } true (k + 1) [] parts
    let w1 := w.logEntry e
    ((∃ p ∈ parts, s.inOrder w1 e p = false) → Retires (.strdV f) s w (used w1 k)) ∧
    ((∀ p ∈ parts, s.inOrder w1 e p = true) →
      Retires (.strdV f) s w (used { (parts.foldl (fun w p => State.receive w e p ((bs.drop (4 * p.lane)).take 4)) w1).modParts e.seq
        (fun p => { p with ok := true }) with st8 := w.st8 } k))) ∧
  (∀ f, let k := f.dst.num - 0x18
    LaneAccess (.stwrV f) (packR 0x069 f) f.h [(f.a, 1)] (fun _ => { acc := .store 4, size := 4, data := some (f.a, 1) }) 4
      (fun w _ l => (w.st8.getD k {}).addr (w.st8.getD k {}).pos + BitVec.ofNat 64 (4 * l)) (fun w m l => (w.int32 m f.a l).setWidth 128) (fun _ => 0)
      (fun w => w.tx = none ∧ (w.st8.getD k {}).cause true true = none) (fun w => used w k)) ∧
  (∀ f s w c, s.curWarp = some w → w.tx = none → (w.st8.getD (f.a.spec.num - 0x18) {}).cause false true = some c →
    Traps (.strdV f) s w { cls := 10, cause := c }) ∧
  (∀ f s w c, s.curWarp = some w → w.tx = none → (w.st8.getD (f.dst.num - 0x18) {}).cause true true = some c →
    Traps (.stwrV f) s w { cls := 10, cause := c }) ∧
  (∀ f, UniRule (.strel f) f.h [(f.a, 1)] 0 noDst (fun _ w => w.tx = none) fun _ w => { w with st8 := lset w.st8 (f.a.spec.num - 0x18) {} }) ∧
  (∀ f s w, s.curWarp = some w → w.tx = none → Warp.never f.h = false →
    let t := w.st8.getD (f.a.spec.num - 0x18) {}
    (t.bound = false → Traps (.stpos f) s w { cls := 10, cause := 0 }) ∧
    (t.bound = true → w.Clear f.h (w.needs [(f.a, 1)]) false false → w.Clear f.h (w.needsDst 1 f.dst) false false → Retires (.stpos f) s w (w.sclResult f.h f.dst fun _ => BitVec.ofNat 64 t.pos))) ∧
  (∀ f s w, s.curWarp = some w → w.tx = none → Warp.never f.h = false → w.Clear f.h (w.needs [(f.a, 1)]) false false →
    let k := f.dst.num - 0x18
    let t := w.st8.getD k {}
    let p := (w.scl 0 f.a).toNat
    (t.bound = false → Traps (.stseek f) s w { cls := 10, cause := 0 }) ∧
    let moved : Stream := if p < t.total ∨ t.wraps = true then { t with ready := 0, ahead := [], pos := if p < t.total then p else p % t.total, exhausted := false }
      else { t with ready := 0, ahead := [], pos := t.total, exhausted := true }
    (t.bound = true → Retires (.stseek f) s w { w with st8 := lset w.st8 k moved }))) ∧
  (
  (∀ f s w j, s.curWarp = some w → w.tx = none → Warp.never f.h = false → (∀ e ∈ w.log, e.acc ≠ .bind (f.dst.num - 0x18)) →
    let os : List Warp.Operand := [(⟨f.addr, 0, f.fa⟩, 1)]
    let a := w.ea f.addr f.off
    isStream f.dst = true → w.Clear f.h (w.needs os) false (!w.common? f.addr) →
    (∀ m ∈ w.active, (a m 0).toNat % 64 = 0 ∧ s.window w.ctx (a m 0) = none) → w.active ≠ [] → w.freeEntry = some j →
    let e := w.entryFor j (packM 0x064 f) { acc := .bind (f.dst.num - 0x18), size := 64, attr := f.attr, dst := f.dst } true 0 []
      (w.active.map fun m => { slot := m, lane := 96, addr := a m 0 })
    exec (.stbind f) s = .next (s.putWarp { w.logEntry e with st := .wait, waitOn := some .memory, waitSince := s.coreCycle w.core })) ∧
  (∀ f s w e, s.curWarp = some w → w.tx = none → 64 ≤ e.blob.length →
    (w.log.find? fun e => e.acc = .bind (f.dst.num - 0x18) && e.pc = w.pc && e.sup = w.sup) = some e →
    let w1 := w.modParts e.seq fun p => { p with ok := true }
    let t : Stream := { bound := true, entry := BitVec.ofNat 512 (leNat e.blob) }
    let ok := t.count 0 * t.count 1 * t.count 2 ≠ 0 ∧ t.entry.getLsbD 353 = false ∧ ¬(t.entry.getLsbD 354 = true ∧ t.entry.getLsbD 352 = true)
    (ok → Retires (.stbind f) s w { w1 with st8 := lset w1.st8 (f.dst.num - 0x18) t }) ∧
    (¬ok → exec (.stbind f) s = .next (s.takeTrap { w1 with st8 := lset w1.st8 (f.dst.num - 0x18) {} } { cls := 10, cause := 1 } w.pc))) ∧
  (∀ c k st s w ps, s.warp? (warpKey c k) = some w →
    let t := w.st8.getD st {}
    let a := t.addr ((t.pos + t.ready) % t.total)
    let n := if t.isVector then 384 else t.size
    (∀ e ∈ w.log, e.tag = st + 1 → ∀ n sg, e.acc ≠ .load n sg ∧ e.acc ≠ .sload n) → w.key = warpKey c k →
    t.bound = true → t.isWrite = false → t.exhausted = false → t.ready < (if t.isVector then 4 else 16) → (t.wraps = true ∨ t.pos + t.ready < t.total) →
    s.pageLocate w.ctx a 0 n .read w.sup w.core = .ok ps → s.windowIn w.ctx a n = false →
    let at_ := fun (q : Nat × Nat × Phys) => s.agentReadAddr w.ctx (dieOf w.core) (a + BitVec.ofNat 64 q.1) 0 q.2.2 w.core
    let mine := ps.flatMap fun q => [(q.2.2.pa, q.2.1), (at_ q, q.2.1)]
    s.ownReplicaDue (warpKey c k) (dieOf w.core) mine = false → State.overlap (s.advancesDue (warpKey c k) w.ctx) mine = false →
    (∀ x ∈ w.log, x.async = false → ∀ y ∈ x.parts, y.ok = true ∨ State.overlap (s.rangesOf w x y) mine = false) →
    (∀ q ∈ ps, s.poisoned (at_ q) q.2.1 = false) →
    ∃ s1, exec (.streamElementArrive c k st) s = .next s1 ∧ s1.mem = s.mem ∧
      s1.warp? (warpKey c k) = some { w with
        st8 := lset w.st8 st { t with ready := t.ready + 1, ahead := t.ahead ++ [(a.toNat, ps.flatMap fun q => s.physRead (at_ q) q.2.1)] } }))

/-- R120–R124 and R154: `regacq` beyond the launch's maximum traps; a request is granted when every warp of the crew has asked and the added
registers fit, and then every warp of the crew holds the largest count asked for, released registers lost, and goes on. -/
def Obligations.RegisterBlocks : Prop :=
  (∀ f s w, s.curWarp = some w → w.tx = none → Warp.never f.h = true → (f.imm.toNat ≤ w.hmax ∨ f.imm.toNat = 64) → Retires (.regacq f) s w w) ∧
  (∀ f s w, s.curWarp = some w → w.hmax < f.imm.toNat → f.imm.toNat ≠ 64 → Traps (.regacq f) s w { cls := 0 }) ∧
  (∀ (i : Instr) (h : Hdr) (n : Nat) (s : State) (w : Warp), ((∃ f, i = .regacq f ∧ h = f.h ∧ n = f.imm.toNat) ∨ ∃ f, i = .regrel f ∧ h = f.h ∧ n = 64) →
    s.curWarp = some w → w.tx = none → Warp.never h = false → (n ≤ w.hmax ∨ n = 64) → w.rdv = none →
    let w1 : Warp := { w with rdv := some (.regs n), st := .wait, waitOn := some .registers, reqOrder := s.rdyOrder, waitSince := s.coreCycle w.core }
    let s1 : State := { s.putWarp w1 with rdyOrder := s.rdyOrder + 1 }
    (∀ s2, s1.grantRegs w1 = some s2 → ∃ x, s2.warp? w.key = some x ∧ exec i s = .next (s2.putWarp x)) ∧
    (s1.grantRegs w1 = none → ∃ x, (s1.waits { w1 with st := w.st, waitOn := w.waitOn, waitSince := w.waitSince } .registers).warp? w.key = some x ∧
      exec i s = .next ((s1.waits { w1 with st := w.st, waitOn := w.waitOn, waitSince := w.waitSince } .registers).putWarp x))) ∧
  (∀ (s : State) (w : Warp), s.crewAsked w = true → (s.grantRegs w = none ↔
    s.crewAdds w ≠ 0 ∧ (s.regRoom w.core < s.crewAdds w ∨ s.olderAsked w = true))) ∧
  (∀ (w : Warp) (n : Nat), (w.setHeld n).h = n ∧ (w.setHeld n).v = w.v ∧ (w.setHeld n).s = w.s ∧
    ∀ m r l, w.commonV r = false → (w.setHeld n).vget m r l = if r < n then w.vget m r l else 0) ∧
  (∀ c s, (∀ p ∈ s.warps, p.2.core = c → p.2.lead = none → s.crewAsked p.2 = false) → exec (.regacqGrant c) s = .next s) ∧
  (∀ c s k w s1, s.warp? k = some w → w.core = c → w.lead = none → s.crewAsked w = true → s.grantRegs w = some s1 →
    (∀ p ∈ s.warps, p.2.core = c → p.2.lead = none → s.crewAsked p.2 = true → p.2 = w ∨ w.reqOrder < p.2.reqOrder) →
    exec (.regacqGrant c) s = .next s1)

/-! ## The exact accumulators (R194–R211) -/

/-- R197, R203–R207: the exact forms. Every lane taking part adds its term without rounding, members and lanes in any order; a dead lane sets
POISON; `exrnd` rounds once.
R194, R197 and R204: what a term adds. A finite term adds its value in units of 2^−2152 modulo 2^4352, the others set their flag; every
term counts, up to 2^48 − 1; a merge adds the values and the counts. -/
def Obligations.ExactForms : Prop :=
  (
  let xa := fun (w : Warp) (d : Spec) => w.xa.getD (d.num - 0x20) {}
  let put := fun (w : Warp) (d : Spec) (a : Exact) => w.xput (d.num - 0x20) a
  let adds := fun (i : Instr) (f : FormR) (os : List Warp.Operand) (term : Warp → Nat → Nat → Val) =>
    WarpRule i f.h os 1 f.dst (fun _ => false) (fun _ _ => True) fun _ w =>
      let a := w.active.foldl (fun a m => (w.part f.h m).toList.foldl (fun a l => a.addTerm (term w m l)) a) (xa w f.dst)
      (put w f.dst (if w.active.any fun m => w.deadPart f.h m != 0 then a.flag 3 else a)).noteDead f.h os
  (∀ (w : Warp) (n : Nat) (a : Exact), w.xput n a = { w with xa := lset w.xa n a, canSig := (w.xput n a).canSig }) ∧
  (∀ f, adds (.exaddF64 f) f [(f.a, 2)] fun w m l => Fmt.f64.decode (w.flt Fmt.f64 m f.a l 0)) ∧
  (∀ f, adds (.exaddF32 f) f [(f.a, 1)] fun w m l => Fmt.f32.decode (w.flt Fmt.f32 m f.a l 0)) ∧
  (∀ f, adds (.exmacF64 f) f [(f.a, 2), (f.b, 2)] fun w m l => mulVal (Fmt.f64.decode (w.flt Fmt.f64 m f.a l 0)) (Fmt.f64.decode (w.flt Fmt.f64 m f.b l 0))) ∧
  (∀ f, UniRule (.exmrg f) f.h [(f.a, 1)] 1 f.dst (fun _ _ => True) fun _ w => put w f.dst ((xa w f.dst).merge (xa w f.a.spec))) ∧
  (∀ f, UniRule (.exmov f) f.h [(f.a, 1)] 1 f.dst (fun _ _ => True) fun _ w => put w f.dst (xa w f.a.spec)) ∧
  (∀ f, UniRule (.exclr f) f.h [] 1 f.dst (fun _ _ => True) fun _ w => put w f.dst {}) ∧
  (∀ f, SclRule (.exrnd f) f.h f.dst [(f.a, 1)] (fun _ => false) fun _ w _ =>
    let a := xa w f.a.spec
    BitVec.ofNat 64 (
      if a.st.getLsbD 0 || (a.st.getLsbD 1 && a.st.getLsbD 2) then Fmt.f64.defaultNan
      else if a.st.getLsbD 1 then Fmt.f64.infBits false
      else if a.st.getLsbD 2 then Fmt.f64.infBits true
      else finish Fmt.f64 { mode := f.x.toNat } false a.v.toInt (-2152))) ∧
  (∀ f, SclRule (.exstat f) f.h f.dst [(f.a, 1)] (fun _ => false) fun _ w _ => (xa w f.a.spec).st)) ∧
  (
  let count := fun (a : Exact) => (a.st.extractLsb' 16 48).toNat
  (∀ (a : Exact) (neg : Bool) (m : Nat) (e : Int), -2152 ≤ e →
    ((a.addTerm (.fin neg m e)).v.toNat : Int) = ((a.v.toNat : Int) + (if neg then -1 else 1) * (m * 2 ^ (e + 2152).toNat : Nat)) % 2 ^ 4352 ∧
    (a.addTerm (.fin neg m e)).st.extractLsb' 0 16 = a.st.extractLsb' 0 16) ∧
  (∀ (a : Exact) (s : Bool), (a.addTerm (.inf s)).v = a.v ∧ (a.addTerm (.inf s)).st.getLsbD (if s then 2 else 1) = true) ∧
  (∀ (a : Exact) (x : Val), x.isNan = true → (a.addTerm x).v = a.v ∧ (a.addTerm x).st.getLsbD 0 = true) ∧
  (∀ (a : Exact) (x : Val), count (a.addTerm x) = min (2 ^ 48 - 1) (count a + 1)) ∧
  (∀ d a : Exact, (d.merge a).v = d.v + a.v ∧ count (d.merge a) = min (2 ^ 48 - 1) (count d + count a) ∧
    ∀ i, i < 4 → (d.merge a).st.getLsbD i = (d.st.getLsbD i || a.st.getLsbD i)) ∧
  (∀ (a : Exact), a.st.extractLsb' 4 12 = 0 → Exact.ofCell a.toCell = a) ∧ (∀ (a : Exact), a.toCell.length = 576) ∧
  (∀ (a : Exact), a.st.extractLsb' 4 12 = 0 → Exact.ofWindow a.toWindow = some a) ∧
  (∀ (a : Exact), a.toWindow.length = 24 + 8 * a.present.length ∧ a.toWindow.length ≤ 568))

/-! ## Memory accesses as they issue (R29, R90, R206–R211, R263–R272) -/

/-- R29, R266–R268 and R90: the loads. Every form takes one operand-log entry that names its destination; the address is base plus offset.
R265–R268, R90, R206 and R209–R211: the stores and the exact forms that write memory. The entry holds the data of each lane as the operand
gives them; nothing is written before it is performed.
R208 and R209: the window forms. `exstw` stores the window of the accumulator and writes its length in bytes; `exldw` waits for the window
it reads, takes it, and raises the exact-format trap for one R209 does not admit. -/
def Obligations.LoadStoreAndWindowForms : Prop :=
  (
  let ea := fun (f : FormM) (w : Warp) (m l : Nat) =>
    (match f.addr with
      | .scl n => w.sget m n.toNat
      | .vec n => w.vget m (w.xlat n.toNat + 1) l ++ w.vget m (w.xlat n.toNat) l
      | _ => 0) + BitVec.ofInt 64 f.off.toInt
  let ld := fun (mk : FormM → Instr) (opc : BitVec 9) (n k : Nat) (sg near : Bool) => ∀ f, LaneAccess (mk f) (packM opc f) f.h [Warp.addrOperand f]
    (fun _ => { acc := .load n sg, size := n, near := near, attr := f.attr, regs := k, dst := f.dst }) n (ea f) (fun _ _ _ => 0) (fun _ => 0)
    (fun _ => True) id
  let sld := fun (mk : FormM → Instr) (opc : BitVec 9) (n : Nat) => ∀ f, OnceAccess (mk f) (packM opc f) f
    (fun _ => { acc := .sload n, size := n, attr := f.attr, regs := 1, dst := f.dst }) n (fun _ _ => 0) (fun _ => []) (fun _ => True) id
  ld .ldU8 0x120 1 1 false false ∧ ld .ldS8 0x121 1 1 true false ∧ ld .ldU16 0x122 2 1 false false ∧ ld .ldS16 0x123 2 1 true false ∧
  ld .ldU32 0x124 4 1 false false ∧ ld .ldU64 0x125 8 2 false false ∧ ld .ldU128 0x126 16 4 false false ∧
  ld .ldnU32 0x130 4 1 false true ∧ ld .ldnU64 0x131 8 2 false true ∧ ld .ldnU128 0x132 16 4 false true ∧
  sld .sldU32 0x12C 4 ∧ sld .sldU64 0x12D 8 ∧
  (∀ f, OnceAccess (.ptld f) (packM 0x010 f) f (fun _ => { acc := .tableLoad, size := 128, attr := f.attr, single := true }) 128 (fun _ _ => 0) (fun _ => [])
    (fun w => w.tx = none) id) ∧
  (∀ f, OnceAccess (.exld f) (packM 0x0E6 f) f (fun _ => { acc := .exactLoad, size := 576, attr := f.attr, regs := 1, dst := f.dst }) 64 (fun _ _ => 0)
    (fun _ => []) (fun _ => True) id)) ∧
  (
  let word := fun (f : FormM) (n : Nat) (w : Warp) (m l : Nat) => BitVec.ofNat 128 ((w.int32 m f.data l).toNat % 2 ^ (8 * n))
  let long := fun (f : FormM) (w : Warp) (m l : Nat) => (w.int64 m f.data l).setWidth 128
  let quad := fun (f : FormM) (w : Warp) (m l : Nat) => match f.data.spec with
    | .vec n => (List.range 4).foldl (fun (d : BitVec 128) i => d ||| ((w.modGet m (w.xlat n.toNat + i) f.data.mod l).setWidth 128 <<< (32 * i))) 0
    | _ => 0
  let st := fun (mk : FormM → Instr) (opc : BitVec 9) (n k : Nat) (near : Bool) (data : FormM → Warp → Nat → Nat → BitVec 128) =>
    ∀ f, LaneAccess (mk f) (packM opc f) f.h [Warp.addrOperand f, (f.data, k)]
      (fun _ => { acc := .store n, size := n, near := near, attr := f.attr, data := some (f.data, k) }) n (fun w => w.ea f.addr f.off) (data f) (fun _ => 0)
      (fun w => near = true → w.tx = none) id
  let sst := fun (mk : FormM → Instr) (opc : BitVec 9) (n : Nat) => ∀ f, OnceAccess (mk f) (packM opc f) f
    (fun _ => { acc := .store n, size := n, attr := f.attr, data := some (f.data, 1) }) n
    (fun w m => BitVec.ofNat 128 ((w.scl m f.data).toNat % 2 ^ (8 * n))) (fun _ => []) (fun _ => True) id
  st .stU8 0x127 1 1 false (fun f => word f 1) ∧ st .stU16 0x128 2 1 false (fun f => word f 2) ∧ st .stU32 0x129 4 1 false (fun f => word f 4) ∧
  st .stU64 0x12A 8 2 false long ∧ st .stU128 0x12B 16 4 false quad ∧ st .stnU32 0x133 4 1 true (fun f => word f 4) ∧ st .stnU64 0x134 8 2 true long ∧
  st .stnU128 0x135 16 4 true quad ∧
  (∀ f, LaneAccess (.stz f) (packM 0x14B f) f.h [Warp.addrOperand f] (fun _ => { acc := .zero, size := 128, attr := f.attr }) 128
    (fun w => w.ea f.addr f.off) (fun _ _ _ => 0) (fun _ => 0) (fun _ => True) id) ∧
  sst .sstU32 0x12E 4 ∧ sst .sstU64 0x12F 8 ∧
  (∀ f, OnceAccess (.ptst f) (packM 0x011 f) f (fun _ => { acc := .tableStore, size := 128, attr := f.attr, single := true }) 128 (fun _ _ => 0)
    (fun w => (List.range 128).map fun i => (w.tables.getD (i / 32) []).getD (i % 32) (BitVec.ofNat 8 (i % 32))) (fun w => w.tx = none) id) ∧
  (∀ f, OnceAccess (.exst f) (packM 0x0E7 f) f (fun _ => { acc := .exactStore, size := 576, attr := f.attr, data := some (f.data, 1) }) 64 (fun _ _ => 0)
    (fun w => (w.xa.getD (f.data.spec.num - 0x20) {}).toCell) (fun _ => True) id) ∧
  (∀ f, OnceAccess (.exmrgm f) (packM 0x0EB f) f (fun _ => { acc := .exactMerge, size := 576, attr := f.attr, data := some (f.data, 1) }) 64 (fun _ _ => 0)
    (fun w => (w.xa.getD (f.data.spec.num - 0x20) {}).toCell) (fun _ => True) id) ∧
  (∀ f, LaneAccess (.exaddmF64 f) (packM 0x0EA f) f.h [Warp.addrOperand f, (f.data, 2)]
    (fun _ => { acc := .exactAdd, size := 576, attr := f.attr, data := some (f.data, 2), deads := true, perMember := true }) 64
    (fun w => w.ea f.addr f.off) (fun w m l => BitVec.ofNat 128 (w.flt Fmt.f64 m f.data l 0)) (fun _ => 0) (fun _ => True) id)) ∧
  (
  (∀ f s w j, s.curWarp = some w → Warp.never f.h = false → w.active ≠ [] → w.freeEntry = some j →
    let win := (w.xa.getD (f.data.spec.num - 0x20) {}).toWindow
    let a := fun (m : Nat) => w.ea f.addr f.off m 0
    w.Clear f.h (w.needsDst 1 f.dst) false ((match f.dst with | .scl n => decide (n.toNat < 128) | _ => false) && !w.common? f.addr) →
    w.Clear f.h (w.needs [(⟨f.addr, 0, f.fa⟩, 1), (f.data, 1)]) false false →
    (∀ m ∈ w.active, (a m).toNat % 64 = 0 ∧ s.window w.ctx (a m) = none) →
    Retires (.exstw f) s w ((w.logEntry (w.entryFor j (packM 0x0E9 f) { acc := .windowStore, size := win.length, attr := f.attr }
      (w.common? f.addr && w.common? f.data.spec) 0 win (w.active.map fun m => { slot := m, lane := 96, addr := a m }))).sclWrite f.dst.num
        fun _ => BitVec.ofNat 64 win.length)) ∧
  (∀ f s w j, s.curWarp = some w → Warp.never f.h = false → w.active ≠ [] → w.freeEntry = some j → (∀ e ∈ w.log, e.acc ≠ .windowLoad) →
    let a := fun (m : Nat) => w.ea f.addr f.off m 0
    w.Clear f.h (w.needs [(⟨f.addr, 0, f.fa⟩, 1)] ++ w.needsDst 1 f.dst) false (!w.common? f.addr) → (∃ n, f.dst = .spc n) →
    (∀ m ∈ w.active, (a m).toNat % 64 = 0 ∧ s.window w.ctx (a m) = none) →
    let e := w.entryFor j (packM 0x0E8 f) { acc := .windowLoad, size := 576, attr := f.attr, dst := f.dst } true 0 []
      (w.active.map fun m => { slot := m, lane := 96, addr := a m })
    exec (.exldw f) s = .next (s.putWarp { w.logEntry e with st := .wait, waitOn := some .memory, waitSince := s.coreCycle w.core })) ∧
  (∀ f s w e, s.curWarp = some w → 24 ≤ e.blob.length →
    (w.log.find? fun e => e.acc = .windowLoad && e.pc = w.pc && e.sup = w.sup) = some e →
    let w1 := w.modParts e.seq fun p => { p with ok := true }
    (∀ a, Exact.ofWindow e.blob = some a → Retires (.exldw f) s w (w1.xput (f.dst.num - 0x20) a)) ∧
    (Exact.ofWindow e.blob = none → exec (.exldw f) s = .next (s.takeTrap w1 { cls := 15 } w.pc))) ∧
  (∀ f s w e, s.curWarp = some w → e.blob ≠ [] → e.blob.length < 24 →
    (w.log.find? fun e => e.acc = .windowLoad && e.pc = w.pc && e.sup = w.sup) = some e → Retires (.exldw f) s w (w.modParts e.seq fun p => { p with ok := true })))

/-- R269–R272: the unordered and ordered atomics, `ordrel`, prefetch and cache control, as they issue. A form without a destination fills no
register; every ordered atomic counts once in the warp's n. A prefetch fills the L1 and the translation caches alone; `cwb` leaves the line it
names clean in every core's cache ways. `ordrel` waits until its warp's ordered contributions have reached their queues. -/
def Obligations.AtomicAndCacheForms : Prop :=
  let word := fun (f : FormM) (w : Warp) (m l : Nat) => BitVec.ofNat 128 ((w.int32 m f.data l).toNat)
  let long := fun (f : FormM) (w : Warp) (m l : Nat) => (w.int64 m f.data l).setWidth 128
  let regs := fun (k : Nat) (f : FormM) (w : Warp) (m l : Nat) => match f.data.spec with
    | .vec n => (List.range k).foldl (fun (d : BitVec 128) i => d ||| ((w.modGet m (w.xlat n.toNat + i) f.data.mod l).setWidth 128 <<< (32 * i))) 0
    | _ => 0
  let flt := fun (fmt : Fmt) (f : FormM) (w : Warp) (m l : Nat) => BitVec.ofNat 128 (w.flt fmt m f.data l 0)
  let fetched := fun (s s1 : State) =>
    s1 = { s with l1 := s1.l1, tlb := s1.tlb, walks := s1.walks, dirty := s1.dirty, warps := s1.warps } ∧ (∀ d ∈ s1.dirty, d ∈ s.dirty) ∧
    ∀ k, (s1.warp? k).map (fun x => { x with tx := none }) = (s.warp? k).map fun x => { x with tx := none }
  let atom := fun (mk : FormM → Instr) (opc : BitVec 9) (op : AtomOp) (n k : Nat) (data : FormM → Warp → Nat → Nat → BitVec 128) =>
    ∀ f, LaneAccess (mk f) (packM opc f) f.h [Warp.addrOperand f, (f.data, k)]
      (fun _ => { acc := .atomic op n, size := n, attr := f.attr, regs := (match f.dst with | .vec _ => n / 4 | _ => 0), dst := f.dst, data := some (f.data, k) }) n
      (fun w => w.ea f.addr f.off) (data f) (fun _ => 0) (fun _ => True) id
  let ordered := fun (mk : FormM → Instr) (opc : BitVec 9) (dbl : Bool) (n k : Nat) (fmt : Fmt) =>
    ∀ f, LaneAccess (mk f) (packM opc f) f.h [Warp.addrOperand f, (f.data, k)]
      (fun _ => { acc := .ordered dbl, size := n, attr := f.attr, data := some (f.data, k), deads := true, perMember := true }) n
      (fun w => w.ea f.addr f.off) (flt fmt f) (fun w => w.ordN) (fun w => w.tx = none) fun w => { w with ordN := w.ordN + 1 }
  atom .atomAddU32 0x13A .add 4 1 word ∧ atom .atomAddU64 0x13B .add 8 2 long ∧ atom .atomMinS32 0x13C (.min true) 4 1 word ∧
  atom .atomMaxS32 0x13D (.max true) 4 1 word ∧ atom .atomMinU32 0x13E (.min false) 4 1 word ∧ atom .atomMaxU32 0x13F (.max false) 4 1 word ∧
  atom .atomAndB32 0x140 .and 4 1 word ∧ atom .atomOrB32 0x141 .or 4 1 word ∧ atom .atomXorB32 0x142 .xor 4 1 word ∧
  atom .atomExchB32 0x143 .exch 4 1 word ∧ atom .atomExchB64 0x144 .exch 8 2 long ∧ atom .atomCasB32 0x145 .cas 4 2 (regs 2) ∧
  atom .atomCasB64 0x146 .cas 8 4 (regs 4) ∧ atom .atomAddF32 0x147 .fadd 4 1 (flt Fmt.f32) ∧ atom .atomAddF64 0x148 .fadd 8 2 (flt Fmt.f64) ∧
  ordered .atomAddOrdF32 0x149 false 4 1 Fmt.f32 ∧ ordered .atomAddOrdF64 0x14A true 8 2 Fmt.f64 ∧
  (∀ f, OnceAccess (.ordrel f) (packM 0x139 f) f (fun _ => { acc := .release, size := 4, attr := f.attr, regs := 1, dst := f.dst }) 4 (fun _ _ => 0)
    (fun _ => []) (fun w => w.tx = none ∧ ∀ e ∈ w.log, ∀ b, e.acc ≠ .ordered b) id) ∧
  (∀ f s w j, s.curWarp = some w → w.tx = none → Warp.never f.h = false → w.active ≠ [] → w.freeEntry = some j → (∃ e ∈ w.log, ∃ b, e.acc = .ordered b) →
    w.Clear f.h (w.needs [(⟨f.addr, 0, f.fa⟩, 1)] ++ w.needsDst 1 f.dst) false false → (∃ n, f.dst = .scl n ∧ 128 ≤ n.toNat) →
    (∀ m ∈ w.active, (w.ea f.addr f.off m 0).toNat % 4 = 0) → Waits (.ordrel f) s w .memory) ∧
  (∀ f s w, s.curWarp = some w → w.tx = none → w.Clear f.h (w.needs [Warp.addrOperand f]) (w.misfits [Warp.addrOperand f]) false →
    ∃ s1, exec (.pf f) s = .next (s1.retire w w) ∧ fetched s s1 ∧ (f.data.spec.num ≠ 0 → s1 = s) ∧
      ∀ p ph, f.data.spec.num = 0 → lanePartsOf w f.h false (w.ea f.addr f.off) (fun _ _ => 0) = [p] →
        s.translate w.core w.ctx p.addr (State.midxOf w p.slot) .read w.sup = .ok ph →
        let s2 := s.fillTlb w.core w.ctx p.addr (State.midxOf w p.slot)
        s1 = if State.l1Ok ph then s2.l1Fill w.core (s.readAddr w p 0 ph) else s2) ∧
  (∀ f s w, s.curWarp = some w → w.tx = none → w.Clear f.h (w.needs [Warp.addrOperand f]) (w.misfits [Warp.addrOperand f]) false →
    (w.union f.h = 0 ∨ w.freeEntry ≠ none → ∃ s1, exec (.cwb f) s = .next (s1.retire w w) ∧ fetched s s1 ∧ s1.l1 = s.l1 ∧
      ∀ p ph, lanePartsOf w f.h false (w.ea f.addr f.off) (fun _ _ => 0) = [p] →
        s.translate w.core w.ctx p.addr (State.midxOf w p.slot) .read w.sup = .ok ph → ∀ core < 1280, (core, ph.pa / 128 * 128) ∉ s1.dirty) ∧
    (w.union f.h ≠ 0 → w.freeEntry = none → Waits (.cwb f) s w .log)) ∧
  (∀ f s w, s.curWarp = some w → w.tx = none →
    let mine := ∀ p ∈ s.blocks, p.2.core = w.core → p.2.st = .resident → s.blockOver p.1 p.2 = false → p.2.ctx = w.ctx
    (Warp.never f.h = true → Retires (.rooffl f) s w w) ∧
    (Warp.never f.h = false → (∃ e ∈ w.log, e.async = false) → Waits (.rooffl f) s w .log) ∧
    (Warp.never f.h = false → (∀ e ∈ w.log, e.async = true) → ¬mine ∨ s.waysOf w.ctx = tget 0 s.ways w.core →
      exec (.rooffl f) s = .next ((s.cleanWays w.core).retire w w)) ∧
    (Warp.never f.h = false → (∀ e ∈ w.log, e.async = true) → mine → s.waysOf w.ctx ≠ tget 0 s.ways w.core →
      exec (.rooffl f) s = .next (((s.resizeBank w.core (s.waysOf w.ctx)).cleanWays w.core).retire w w)))

/-! ## Accesses being performed (R125, R262, R266, R270–R272, R297, R303, R322, R336, R396, R402) -/

/-- R262 and R270: an unordered atomic. Its lanes that address one location are applied in ascending order of lane, each receiving the value it
found; what each operation makes of the old value is as the table says.
R271, R272: an ordered atomic leaves its contribution at the target, under its block, warp, number and member, without writing the
target. A release adds the contributions to the target in the order of their keys, one rounding each, and reports their number, DEAD and
ABORT. -/
def Obligations.AtomicSteps : Prop :=
  (
  let sg := fun (n x : Nat) => if x < 2 ^ (8 * n) / 2 then (x : Int) else (x : Int) - 2 ^ (8 * n)
  (∀ (ag : Agent) (e m : Nat) (addr : BitVec 64) (s : State) (k : Nat), agentKey ag = some k →
    exec (.atomicRequest ag e m addr) s = .next (((s.atomicApply k e m addr).afterKill s k).settleFences k)) ∧
  (∀ (n old : Nat) (d : BitVec 128), n = 4 ∨ n = 8 → old < 2 ^ (8 * n) →
    let b := d.toNat % 2 ^ (8 * n)
    State.atomNew .add n old d = (old + b) % 2 ^ (8 * n) ∧ State.atomNew .and n old d = old &&& b ∧ State.atomNew .or n old d = old ||| b ∧
    State.atomNew .xor n old d = old ^^^ b ∧ State.atomNew .exch n old d = b ∧ State.atomNew (.min false) n old d = min old b ∧
    State.atomNew (.max false) n old d = max old b ∧
    sg n (State.atomNew (.min true) n old d) = min (sg n old) (sg n b) ∧ sg n (State.atomNew (.max true) n old d) = max (sg n old) (sg n b) ∧
    State.atomNew .cas n old d = (if old = b then d.toNat / 2 ^ (8 * n) % 2 ^ (8 * n) else old) ∧
    State.atomNew .fadd n old d = fpAdd (if n = 8 then Fmt.f64 else Fmt.f32) {} old b) ∧
  (∀ (op : AtomOp) (n : Nat) (ps : List Part) (old l : Nat), ((State.atomSteps op n ps old).2.find? fun x => x.1 = l).isSome = (l < 96 && ps.any fun p => p.lane = l)) ∧
  (∀ (op : AtomOp) (n : Nat) (p : Part) (old : Nat), p.lane < 96 → State.atomSteps op n [p] old = (State.atomNew op n old p.data, [(p.lane, old)])) ∧
  (∀ (op : AtomOp) (n : Nat) (p q : Part) (old : Nat), p.lane < q.lane → q.lane < 96 → State.atomSteps op n [q, p] old =
    (State.atomNew op n (State.atomNew op n old p.data) q.data, [(p.lane, old), (q.lane, State.atomNew op n old p.data)])) ∧
  (∀ (ag : Agent) (s : State) (k i m : Nat) (addr : BitVec 64) (w : Warp) (e : LogEntry) (op : AtomOp) (n : Nat) (p0 : Part) (ph : Phys),
    agentKey ag = some k → s.entryOf k i = some (w, e) → e.acc = .atomic op n → e.tx = false →
    let ps := e.parts.filter fun p => (e.shared || p.slot = m) && p.addr = addr && !p.ok
    ps.head? = some p0 → (∀ p ∈ ps, s.ready w e p = true) → (n = 4 ∨ n = 8) → addr.toNat % n = 0 → s.locateByte w e p0 0 = .ok ph →
    let s1 := (s.fillFor w p0 [(0, n, ph)]).uncached ph n true true
    s1.poisoned ph.pa n = false →
    let r := State.atomSteps op n ps (leNat (s1.physRead ph.pa n))
    let old := fun (p : Part) => ((r.2.find? fun x => x.1 = p.lane).map (·.2)).getD 0
    let s2 := (s1.readBy k ph.pa n).writePart w e p0 [(0, n, ph)] (leBytes n r.1)
    let s3 := if e.acquires then s2.acquireBy k w.core e.scope else s2
    exec (.atomicRequest ag i m addr) s = .next (((ps.foldl (fun s p => State.completePart (if e.dst = 0x300 then s else s.modWarp k fun w =>
      (List.range (n / 4)).foldl (fun w j => w.vput p.slot (e.dst + j) (1#96 <<< p.lane) (List.replicate 96 (BitVec.ofNat 32 (old p / 2 ^ (32 * j))))) w)
        k e.seq p (BitVec.ofNat 128 (old p))) s3).afterKill s k).settleFences k))) ∧
  (
  (∀ (ag : Agent) (e m : Nat) (addr : BitVec 64) (s : State) (k : Nat), agentKey ag = some k →
    exec (.orderedContribution ag e m addr) s = .next (((s.contribute k e m addr).afterKill s k).settleFences k)) ∧
  (∀ (ag : Agent) (s : State) (k i m : Nat) (addr : BitVec 64) (w : Warp) (e : LogEntry) (dbl : Bool) (ph : Phys) (b : Block) (p : Part), agentKey ag = some k →
    s.entryOf k i = some (w, e) → e.acc = .ordered dbl → e.parts.filter (fun p => p.slot = m && p.addr = addr && !p.ok) = [p] →
    s.locateByte w e p 0 = .ok ph → s.block? w.blk = some b → s.ordClash w dbl ph.pa = false → Leaf.prop ph.leaf = false →
    s.sliceHeld (State.homeSlice ph.pa) < 4096 → p.dead = false → s.ready w e p = true → tfind s.ordq ph.pa = none →
    let f := if dbl then Fmt.f64 else Fmt.f32
    let s1 : State := { s.fillFor w p [(0, 0, ph)] with
      ordq := tset s.ordq ph.pa { dbl := dbl, node := b.node, entries := [⟨[w.info.b, w.info.pos, e.tag, (State.midxOf w m).toNat],
        BitVec.ofNat 64 (p.data.toNat % 2 ^ f.width), w.blk⟩] } }
    exec (.orderedContribution ag i m addr) s = .next ((((s1.modWarp k fun w => w.markFull e.seq false).completePart k e.seq p p.data).afterKill s k).settleFences k)) ∧
  (∀ (q : OrdQueue) (old : Nat), q.entries = [] → State.ordRelease q old = (old, BitVec.ofNat 64 ((if q.dead then 2 ^ 32 else 0) + (if q.abort then 2 ^ 33 else 0)))) ∧
  (∀ (q : OrdQueue) (a b : OrdEntry) (old : Nat), State.keyLt a.key b.key = true → State.keyLt b.key a.key = false → q.entries = [b, a] ∨ q.entries = [a, b] →
    let f := if q.dbl then Fmt.f64 else Fmt.f32
    State.ordRelease q old = (fpAdd f {} (fpAdd f {} old a.value.toNat) b.value.toNat,
      BitVec.ofNat 64 (2 + (if q.dead then 2 ^ 32 else 0) + (if q.abort then 2 ^ 33 else 0)))) ∧
  (∀ (s : State) (k i : Nat) (p : Part) (w : Warp) (e : LogEntry) (ps : List (Nat × Nat × Phys)), s.entryOf k i = some (w, e) → p ∈ e.parts → e.acc = .release → s.ready w e p = true → e.shared = false →
    s.pieces w e p (s.partSize w e p) = some ps → tfind s.ordq ((ps.map fun q => q.2.2.pa).headD 0) = none →
    s.releasePart k i p = (((({ s.fillFor w p ps with ordq := tdel (s.fillFor w p ps).ordq ((ps.map fun q => q.2.2.pa).headD 0) } : State).acquireBy k w.core 4).modWarp k
      fun w => w.sput p.slot e.dst 0).completePart k e.seq p 0)))

/-- R125, R266 and R402: data return to a load. Each part that may be performed reads the bytes at its address and fills its destination, the
value little-endian, zero- or sign-extended to 32 bits or in 32-bit pieces, in its own lane alone; a part that may not be performed stays.
R297, R266 and R303: a plain store is performed part by part, in its place in the warp's order: the bytes of its data, or 128 zero bytes, are
written at its address; a part that may not be performed stays. A write to a replicated page reaches the other replicas one by one.
R211, R396, R322 and R336: a request on an exact cell; a fault of a lane becomes known in the warp's order and waits in the operand log for
its delivery; a walk that ends in a valid leaf is kept; a line request at the memory-side cache hits or fills its sector. -/
def Obligations.AccessesPerformed : Prop :=
  (
  (∀ (ag : Agent) (e m : Nat) (lanes : LaneMask) (hit : Bool) (s : State) (k : Nat) (w : Warp) (x : LogEntry), agentKey ag = some k → s.entryOf k e = some (w, x) →
    exec (.loadReturn ag e m lanes hit) s = .next ((((x.named m lanes).foldl (fun s p => (s.monitorPart k e p).commandPart k x.seq p)
      (s.loadParts k e hit (x.named m lanes))).afterKill s k).settleFences k)) ∧
  (∀ (ag : Agent) (m : Nat) (lanes : LaneMask) (s : State) (k i : Nat) (hit : Bool) (p : Part) (w : Warp) (e : LogEntry) (bs : List Byte) (s1 : State), agentKey ag = some k →
    s.entryOf k i = some (w, e) → (∀ y ∈ w.log, y.idx = i ∨ y.seq = e.seq → y = e) → e.named m lanes = [p] → s.ready w e p = true →
    s.fetchPart w e p hit = some (bs, false, s1) → e.shared = false → e.blob = [] → e.acquires = false →
    ((∃ n sg, e.acc = .load n sg) ∨ (∃ n, e.acc = .sload n) ∨ e.acc = .exactLoad ∨ e.acc = .tableLoad) →
    exec (.loadReturn ag i m lanes hit) s =
      .next (((((s1.modWarp k fun w => State.receive w e p bs).completePart k e.seq p (BitVec.ofNat 128 (leNat bs))).afterKill s k).settleFences k))) ∧
  (∀ (s : State) (k i : Nat) (hit : Bool) (p : Part) (w : Warp) (e : LogEntry), s.entryOf k i = some (w, e) → p ∈ e.parts → s.ready w e p = false →
    s.loadParts k i hit [p] = s) ∧
  (∀ (s : State) (w : Warp) (e : LogEntry) (ps : List Part) (p q : Part), e.shared = true → p ∈ s.returnGroup w e ps → q ∈ e.parts → q.ok = false → q.fault = none →
    q.addr.toNat / 128 = p.addr.toNat / 128 → q ∈ s.returnGroup w e ps ∧ s.ready w e q = true) ∧
  (∀ (s : State) (w : Warp) (e : LogEntry) (p : Part) (hit : Bool), e.near = true →
    let n := s.readSize w e p hit
    s.fetchPart w e p hit = some (s.nearBytes w p.addr.toNat n, s.nearBad w p.addr.toNat n, s)) ∧
  (∀ (w : Warp) (e : LogEntry) (p : Part) (bs : List Byte) (n : Nat) (sg : Bool) (i l : Nat), e.acc = .load n sg → w.banks.length = w.p → p.slot < w.p →
    p.lane < 96 → l < 96 → n ∈ [1, 2, 4, 8, 16] → (∀ j, w.commonV (e.dst + j) = w.commonV e.dst) → i < max 1 (n / 4) →
    bs.length = n →
    let v := leNat bs
    let val := if n < 4 then (if sg && 2 ^ (8 * n - 1) ≤ v then BitVec.ofInt 32 ((v : Int) - 2 ^ (8 * n)) else BitVec.ofNat 32 v)
      else BitVec.ofNat 32 (v / 2 ^ (32 * i))
    (State.receive w e p bs).vget p.slot (e.dst + i) l = if l = p.lane then val else w.vget p.slot (e.dst + i) l) ∧
  (∀ (w : Warp) (e : LogEntry) (p : Part) (bs : List Byte) (n : Nat), e.acc = .sload n → State.receive w e p bs = w.sput p.slot e.dst (BitVec.ofNat 64 (leNat bs)))) ∧
  (
  (∀ (ag : Agent) (e m : Nat) (lanes : LaneMask) (s : State) (k : Nat) (w : Warp) (x : LogEntry), (∀ c, ag ≠ .seam c) → agentKey ag = some k → s.entryOf k e = some (w, x) →
    exec (.writePerformed ag e m lanes) s =
      .next ((((x.named m lanes).foldl (fun s p => (s.storePart k e p).releasePart k e p) s).afterKill s k).settleFences k)) ∧
  (∀ (ag : Agent) (m : Nat) (lanes : LaneMask) (s : State) (k i : Nat) (p : Part) (w : Warp) (e : LogEntry), (∀ c, ag ≠ .seam c) → agentKey ag = some k →
    s.entryOf k i = some (w, e) → (∀ y ∈ w.log, y.idx = i → y = e) → State.isStore e.acc = true → e.named m lanes = [p] →
    exec (.writePerformed ag i m lanes) s = .next (((s.storePart k i p).afterKill s k).settleFences k)) ∧
  (∀ (s : State) (k i : Nat) (p : Part) (w : Warp) (e : LogEntry), s.entryOf k i = some (w, e) → s.ready w e p = false → s.storePart k i p = s ∧ s.releasePart k i p = s) ∧
  (∀ (s : State) (k i : Nat) (p : Part) (w : Warp) (e : LogEntry) (n : Nat), s.entryOf k i = some (w, e) → p ∈ e.parts → s.ready w e p = true → e.acc = .store n → e.near = true →
    s.storePart k i p = (s.nearWrite w.blk p.addr.toNat (leBytes n p.data.toNat)).completePart k e.seq p p.data) ∧
  (∀ (s : State) (k i : Nat) (p : Part) (w : Warp) (e : LogEntry) (n : Nat) (ph : Phys), s.entryOf k i = some (w, e) → p ∈ e.parts → s.ready w e p = true →
    e.acc = .store n → e.near = false → e.tx = false → p.addr.toNat % 16 = 0 → n ≤ 16 → s.locateByte w e p 0 = .ok ph →
    s.storePart k i p = (((s.fillFor w p [(0, n, ph)]).uncached ph n false true).writePart w e p [(0, n, ph)] (leBytes n p.data.toNat)).completePart k e.seq p p.data) ∧
  (∀ (s : State) (w : Warp) (e : LogEntry) (p : Part) (ph : Phys) (bs : List Byte), e.tx = false → Leaf.prop ph.leaf = false →
    let s1 := s.perform w.key ph.pa bs
    let home := match e.acc with | .atomic .. | .ordered _ | .release | .exactAdd | .exactMerge => true | _ => false
    let s2 := if home then { s1 with dirty := s1.dirty.filter fun d => !(State.lineSpan ph.pa bs.length).contains d.2 }
      else if s1.waysTake w.core ph (State.cacheOf e) then s1.ownLines w.core ph.pa bs.length else s1
    s.writePart w e p [(0, bs.length, ph)] bs = if State.cacheOf e = 3 then s2.l1DropSpan w.core ph.pa bs.length else s2.l1Update w.core ph.pa bs) ∧
  (∀ (e : LogEntry) (p : Part), e.acc = .zero → State.storeBytes e p = List.replicate 128 0) ∧
  (∀ (s : State) (who a i : Nat) (bs : List Byte), s.Canonical → capHi ≤ a ∨ a + bs.length ≤ capLo →
    (s.perform who a bs).mem.read i = if a ≤ i ∧ i < a + bs.length then bs.getD (i - a) 0 else s.mem.read i) ∧
  (∀ (die idx : Nat) (s : State) (r : Replica), s.replicas[idx]? = some r → r.die = die →
    (∀ x ∈ s.replicas.take idx, x.die = r.die → State.overlap [(x.addr, x.data.length)] [(r.addr, r.data.length)] = false) →
    let s1 : State := { s.physWrite r.addr r.data with replicas := s.replicas.eraseIdx idx }
    (s.hostReady r.addr r.data.length false = false → exec (.replicaUpdate die idx) s = .next s) ∧
    (s.hostReady r.addr r.data.length false = true → s.writerCore r.owner = none → exec (.replicaUpdate die idx) s = .next s1) ∧
    ∀ c, s.hostReady r.addr r.data.length false = true → s.writerCore r.owner = some c → exec (.replicaUpdate die idx) s = .next (if c / 160 = die then s1.l1DropSpan c r.addr r.data.length else s1))) ∧
  (
  (∀ (ag : Agent) (e m : Nat) (addr : BitVec 64) (s : State) (k : Nat), agentKey ag = some k →
    exec (.exactCellRequest ag e m addr) s = .next (((s.exactApply k e m addr).afterKill s k).settleFences k)) ∧
  (∀ (ag : Agent) (s : State) (k i m : Nat) (addr : BitVec 64) (w : Warp) (e : LogEntry) (p0 : Part) (q : List (Nat × Nat × Phys)), agentKey ag = some k →
    s.entryOf k i = some (w, e) → (e.acc = .exactAdd ∨ e.acc = .exactMerge) → e.tx = false →
    let ps := e.parts.filter fun p => (e.shared || p.slot = m) && p.addr = addr && !p.ok
    ps.head? = some p0 → (∀ p ∈ ps, s.ready w e p = true) → s.pieces w e p0 576 = some q →
    let s1 := q.foldl (fun s x => s.uncached x.2.2 x.2.1 true true) (s.fillFor w p0 q)
    (∀ x ∈ q, s1.poisoned x.2.2.pa x.2.1 = false) →
    let old := q.flatMap fun x => s1.physRead x.2.2.pa x.2.1
    let a := if e.acc = .exactMerge then (Exact.ofCell old).merge (Exact.ofCell e.blob)
      else (ps.filter fun p => !p.dead).foldl (fun a p => a.addTerm (Fmt.f64.decode (p.data.toNat % 2 ^ 64))) (Exact.ofCell old)
    let b := if ps.any (·.dead) then a.flag 3 else a
    let s2 := (q.foldl (fun s x => s.readBy k x.2.2.pa x.2.1) s1).writePart w e p0 q (b.toCell.take 552 ++ old.drop 552)
    exec (.exactCellRequest ag i m addr) s = .next (((ps.foldl (fun s p => s.completePart k e.seq p p.data) s2).afterKill s k).settleFences k)) ∧
  (∀ (ag : Agent) (i m l : Nat) (s : State) (k : Nat) (w : Warp) (e : LogEntry) (p : Part) (f : Nat × Nat × Word), agentKey ag = some k → s.entryOf k i = some (w, e) → e.tx = false →
    (e.parts.find? fun p => p.slot = m && p.lane = l && !p.dead) = some p → p.ok = false → (p.fault = none ∨ p.retry = true) → s.inOrder w e p = true →
    s.faultOf w e p = some f →
    exec (.laneFault ag i m l) s = .next ((((s.fillFault w e p).modWarp k fun w => w.modParts e.seq fun x =>
      if x.slot = m && x.lane = l && !x.dead then { x with fault := some f, retry := false } else x).afterKill s k).settleFences k)) ∧
  (∀ (s : State) (w : Warp) (e : LogEntry) (p : Part) (c : Nat) (va : Word), e.near = false → p.dead = false → e.acc ≠ .command → e.async = false →
    (s.under w.ctx p.was).translate w.core w.ctx p.addr (State.midxOf w p.slot) (if e.writes then .write else .read) e.sup = .error (c, va) →
    s.faultOf w e p = some (18, c, va)) ∧
  (∀ (core x : Nat) (va : BitVec 64) (s : State), va.toNat < 2 ^ 56 → s.cached core x va.toNat = none →
    let steps := s.walkSteps core x va.toNat
    let s1 := steps.foldl (fun s e => s.readBy State.noWarp e.2.1 8) s
    (∀ c, s.walkTables core x va.toNat = .error c → exec (.walk ⟨core, x⟩ va) s = .next s1) ∧
    (∀ e n, s.walkTables core x va.toNat = .ok (e, n) →
      let ptrs := (steps.take (steps.length - 1)).map fun (st : Nat × Nat × Nat) => (⟨core, x, st.1 + 1, va.toNat / State.tableSpan (st.1 + 1), st.2.2⟩ : Pointer)
      let s2 := s1.tlbRoom core ptrs.length
      exec (.walk ⟨core, x⟩ va) s = .next { s2 with tlb := s2.tlb ++ [⟨core, x, va.toNat - va.toNat % n, n, e⟩], walks := s2.walks ++ ptrs } ∧
      (s2.tlb.filter fun l => l.core = core).length < 2144)) ∧
  (∀ (core x : Nat) (va : BitVec 64) (s : State), (2 ^ 56 ≤ va.toNat ∨ (s.cached core x va.toNat).isSome = true) → exec (.walk ⟨core, x⟩ va) s = .next s) ∧
  (∀ (line : Nat) (write mscb bypass : Bool) (s : State), line % 128 = 0 → capLo ≤ line → line < capHi → s.fronted (line - capLo) = true →
    let sec := (s.sectorOf (line - capLo)).1
    let tag := (s.sectorOf (line - capLo)).2
    let m := tget {} s.sectors sec
    (s.sectorBad sec = false → m.v = true → m.tag = tag → exec (.mscRequest line write mscb bypass) s =
      .next (if write then { s with sectors := tset s.sectors sec { m with d := true } } else s)) ∧
    (s.sectorBad sec = false → m.v = false ∨ m.tag ≠ tag → mscb = false → bypass = false →
      let s1 := if m.v && m.d then s.moveSector sec (s.sectorBack sec m.tag) true else s
      exec (.mscRequest line write mscb bypass) s =
        .next { s1.moveSector (s.sectorBack sec tag) sec false with sectors := tset s.sectors sec { tag := tag, v := true, d := write } }) ∧
    (s.sectorBad sec = false → m.v = false ∨ m.tag ≠ tag → (mscb = true ∨ bypass = true) → exec (.mscRequest line write mscb bypass) s = .next s) ∧
    (s.sectorBad sec = true → (mscb = true ∨ bypass = true) → exec (.mscRequest line write mscb bypass) s = .next (s.sectorLoss sec))) ∧
  (∀ (line : Nat) (write : Bool) (s : State), exec (.uncachedLineAccess line write) s = exec (.mscRequest line write false false) s) ∧
  (∀ (line : Nat) (write : Bool) (s : State), ∃ t, exec (.uncachedLineAccess line write) s = .next t ∧ (line / 128 * 128 < capLo → t = s)))

/-! ## The matrix engine and the convolution engine (R213–R245) -/

/-- R216–R221 and R230–R234: a matrix form checks its operands and the tiles of the active members, waits for its D registers and for a place in
the engine, and then hands the engine one operation for every active member with a lane taking part: the A registers, the tile, and the lanes as
they are at issue. Its D registers are empty until the engine is done. `mmclr` takes its place in the engine and writes zeros there.
R170–R172, R214, R215 and R232: the value the engine computes for one element of D from row `l` of A and column `n` of the tile. Integers add
exactly and wrap; FP64 rounds once; the other formats round each group of eight products to FP32 and add the groups in order; block scales and
the tensor scales multiply a group first. -/
def Obligations.MatrixForms : Prop :=
  (
  let mxRule := fun (mk : FormR → Instr) (opc : BitVec 9) (aRegs dRegs tile : Nat) (scaled : Bool) =>
    ∀ (f : FormR) (s : State) (w : Warp) (bl : Block), s.curWarp = some w → s.block? w.blk = some bl →
      let third := plainSrc (xSpec f.x)
      let srcs : List Warp.Operand := [(f.a, aRegs), (f.b, 1)] ++ (if scaled then [(third, 1)] else [])
      let base := w.xlat f.a.spec.num
      let dregs := (List.range dRegs).map (f.dst.num + ·)
      let dneeds : List Warp.Need := dregs.map fun r => ⟨.v r, false, some 0⟩
      let off := fun (m : Nat) => (w.scl m f.b).toNat % 2 ^ 19
      let recA := fun (m : Nat) => (w.scl m f.b).toNat / 2 ^ 19 % 32
      let recB := fun (m : Nat) => (w.scl m f.b).toNat / 2 ^ 24 % 32
      let recs := w.active.flatMap fun m => [recB m, recA m + m]
      let ms := w.active.filter fun m => w.part f.h m != 0
      let op := fun (m : Nat) => ({
        slot := w.slot, op := opc.toNat, x := f.x, dst := f.dst.num, mem := m, lanes := w.part f.h m,
        a := (List.range aRegs).map fun i => w.vrow m (base + i), tile := bl.near.readBytes (off m) tile, boff := some (off m),
        shared := w.common? f.b.spec, draw := s.tick,
        t := if scaled then BitVec.ofNat 32 (encodeVal Fmt.f32 {} (mulVal (Fmt.f32.decode ((w.scl m third).toNat % 2 ^ 32))
          (Fmt.f32.decode ((w.scl m third).toNat / 2 ^ 32)))) else 0,
        scA := if scaled then bl.scales.readBytes (512 * (recA m + m)) 512 else [],
        scB := if scaled then bl.scales.readBytes (512 * recB m) 512 else [] } : MxOp)
      w.outOfRange (w.needs srcs ++ dneeds) = false → base + aRegs ≤ 128 → w.Clear f.h (w.needs srcs) false false →
      (∀ m, (w.active.find? fun m => off m % tile != 0 || bl.ns < off m + tile) = some m →
        Traps (mk f) s w (if off m % tile != 0 then { cls := 11, slot := m, detail := BitVec.ofNat 64 (off m) } else { cls := 12, slot := m })) ∧
      ((∀ m ∈ w.active, off m % tile = 0 ∧ off m + tile ≤ bl.ns) →
        (scaled = true → (∃ r ∈ recs, bl.srec ≤ r) → Traps (mk f) s w { cls := 13 }) ∧
        (scaled = true → (∀ r ∈ recs, r < bl.srec) → (∃ r ∈ recs, r ∈ bl.scalePend) → Waits (mk f) s w .record) ∧
        ((scaled = true → ∀ r ∈ recs, r < bl.srec ∧ r ∉ bl.scalePend) → mxBlocked w (s.mxOf w) dregs = false → s.mxFull w.core = true →
          Waits (mk f) s w .engine) ∧
        ((scaled = true → ∀ r ∈ recs, r < bl.srec ∧ r ∉ bl.scalePend) → mxBlocked w (s.mxOf w) dregs = true → Waits (mk f) s w .fragment) ∧
        ((scaled = true → ∀ r ∈ recs, r < bl.srec ∧ r ∉ bl.scalePend) → mxBlocked w (s.mxOf w) dregs = false → s.mxFull w.core = false →
          ms ≠ [] → w.heldByFence false = true → Waits (mk f) s w .memory) ∧
        ((scaled = true → ∀ r ∈ recs, r < bl.srec ∧ r ∉ bl.scalePend) → mxBlocked w (s.mxOf w) dregs = false → s.mxFull w.core = false →
          w.heldByFence false = false → (∀ m ∈ ms, tileBusy w (off m) tile = false ∧ w.badReads f.h dneeds m = 0) →
          (ms = [] → Retires (mk f) s w w) ∧
          (ms ≠ [] → exec (mk f) s = .next (State.retire { s with
              mx := tset s.mx w.core (tget [] s.mx w.core ++ ms.map op),
              mxLatch := if f.ru then tset s.mxLatch w.core (w.slot, base, (mxKind opc.toNat).width) else tdel s.mxLatch w.core } w
            (ms.foldl (fun w m => dregs.foldl (fun w r => w.setEmpty m true (.v r)) w) w)))))
  mxRule .mmaBf16 0x100 16 16 1024 false ∧ mxRule .mmaF16 0x101 16 16 1024 false ∧ mxRule .mmaE4m3E4m3 0x102 16 16 1024 false ∧
  mxRule .mmaE4m3E5m2 0x103 16 16 1024 false ∧ mxRule .mmaE5m2E4m3 0x104 16 16 1024 false ∧ mxRule .mmaE5m2E5m2 0x105 16 16 1024 false ∧
  mxRule .mmaE2m1 0x106 16 16 1024 false ∧ mxRule .mmaInt8Ss 0x107 16 16 1024 false ∧ mxRule .mmaInt8Su 0x108 16 16 1024 false ∧
  mxRule .mmaInt8Us 0x109 16 16 1024 false ∧ mxRule .mmaInt8Uu 0x10A 16 16 1024 false ∧ mxRule .mmaF64 0x10B 8 32 512 false ∧
  mxRule .mmasE4m3E4m3 0x10C 16 16 1024 true ∧ mxRule .mmasE4m3E5m2 0x10D 16 16 1024 true ∧ mxRule .mmasE5m2E4m3 0x10E 16 16 1024 true ∧
  mxRule .mmasE5m2E5m2 0x10F 16 16 1024 true ∧ mxRule .mmasE2m1 0x110 16 16 1024 true ∧
  (∀ (f : FormR) (s : State) (w : Warp), s.curWarp = some w →
    let regs := (List.range 16).map (f.dst.num + ·)
    w.Clear f.h (regs.map fun r => ⟨.v r, false, none⟩) false false →
    (s.mxFull w.core = true → Waits (.mmclr f) s w .engine) ∧
    (s.mxFull w.core = false →
      let ms := w.active.filter fun m => w.part f.h m != 0
      let op := fun (m : Nat) => ({ slot := w.slot, op := 0x111, x := 0, dst := f.dst.num, mem := m, lanes := w.part f.h m, draw := s.tick } : MxOp)
      exec (.mmclr f) s = .next ((if ms = [] then s else { s with mx := tset s.mx w.core (tget [] s.mx w.core ++ ms.map op) }).retire w
        { w with clearing := w.clearing ++ ms.map fun m => (m, f.dst.num) })))) ∧
  (
  let dot := fun (o : MxOp) (wd k l n : Nat) (v : Nat → Nat → Int) => ((List.range k).map fun i => v (aElem wd o.a l i) (bElem wd o.tile i n)).foldl (· + ·) 0
  let s8 := fun (x : Nat) => if 128 ≤ x then (x : Int) - 256 else x
  (∀ o l n d, o.op = 0x107 → d < 2 ^ 32 → (mxCell o l n d : Int) = ((d : Int) + dot o 8 64 l n fun a b => s8 a * s8 b) % 2 ^ 32) ∧
  (∀ o l n d, o.op = 0x108 → d < 2 ^ 32 → (mxCell o l n d : Int) = ((d : Int) + dot o 8 64 l n fun a b => s8 a * b) % 2 ^ 32) ∧
  (∀ o l n d, o.op = 0x109 → d < 2 ^ 32 → (mxCell o l n d : Int) = ((d : Int) + dot o 8 64 l n fun a b => a * s8 b) % 2 ^ 32) ∧
  (∀ o l n d, o.op = 0x10A → d < 2 ^ 32 → (mxCell o l n d : Int) = ((d : Int) + dot o 8 64 l n fun a b => a * b) % 2 ^ 32) ∧
  (∀ o l n d, o.op = 0x10B → mxCell o l n d = fpSum Fmt.f64 {} (Fmt.f64.decode d ::
    (List.range 4).map fun i => mulVal (Fmt.f64.decode (aElem 64 o.a l i)) (Fmt.f64.decode (bElem 64 o.tile i n)))) ∧
  (∀ (o : MxOp) (l n d : Nat) (fa fb : Fmt), (o.op, fa, fb) ∈ [(0x100, Fmt.bf16, Fmt.bf16), (0x101, Fmt.f16, Fmt.f16), (0x102, Fmt.e4m3, Fmt.e4m3),
      (0x103, Fmt.e4m3, Fmt.e5m2), (0x104, Fmt.e5m2, Fmt.e4m3), (0x105, Fmt.e5m2, Fmt.e5m2), (0x106, Fmt.e2m1, Fmt.e2m1)] →
    mxCell o l n d = (List.range (64 / fa.width)).foldl (fun d j =>
      let g := fpSum Fmt.f32 {} ((List.range 8).map fun i =>
        mulVal (fa.decode (aElem fa.width o.a l (8 * j + i))) (fb.decode (bElem fa.width o.tile (8 * j + i) n)))
      fpSum Fmt.f32 {} [Fmt.f32.decode d, Fmt.f32.decode g]) d) ∧
  (∀ (o : MxOp) (l n d : Nat) (fa fb : Fmt), (o.op, fa, fb) ∈ [(0x10C, Fmt.e4m3, Fmt.e4m3), (0x10D, Fmt.e4m3, Fmt.e5m2), (0x10E, Fmt.e5m2, Fmt.e4m3),
      (0x10F, Fmt.e5m2, Fmt.e5m2), (0x110, Fmt.e2m1, Fmt.e2m1)] →
    mxCell o l n d = (List.range (64 / fa.width)).foldl (fun d j =>
      let g := fpSum Fmt.f32 {} ((List.range 8).map fun i =>
        mulVal (fa.decode (aElem fa.width o.a l (8 * j + i))) (fb.decode (bElem fa.width o.tile (8 * j + i) n)))
      fpSum Fmt.f32 {} [Fmt.f32.decode d, mxScale o.scA o.scB o.t l n j (Fmt.f32.decode g)]) d) ∧
  (∀ c s, tget [] s.mx c = [] → exec (.mmaMemberComplete c) s = .next s) ∧
  (∀ c s o rest w bl b, tget [] s.mx c = o :: rest → s.warp? (warpKey c o.slot) = some w → s.block? w.blk = some bl → o.boff = some b → o.shared = false →
    let o1 := { o with tile := tileRead o (bl.near.readBytes b o.tile.length), boff := none }
    exec (.mmaMemberComplete c) s = .next { s.putWarp (w.mxApply o1 (rest.filter fun x => x.slot = o.slot)) with mx := tset s.mx c rest }) ∧
  (∀ c s o rest w, tget [] s.mx c = o :: rest → s.warp? (warpKey c o.slot) = some w → o.op = 0x111 → o.boff = none → o.shared = false → o.dst ≠ 0x300 →
    let w1 := ((List.range 16).map (o.dst + ·)).foldl (fun w1 r => w1.vput o.mem r (o.lanes &&& (w.bank o.mem).live) (List.replicate 96 0)) w
    exec (.mmaMemberComplete c) s = .next { s.putWarp { w1 with clearing := w1.clearing.erase (o.mem, o.dst) } with mx := tset s.mx c rest }) ∧
  (∀ (o : MxOp) (now : List Byte) (i : Nat), i < o.tile.length → (tileRead o now).getD i 0 = now.getD i 0 ∨ (tileRead o now).getD i 0 = o.tile.getD i 0))

/-- R226–R229 and R235–R244: `scld` loads a scale record and keeps it pending until the data return; `cvgo` waits for the warp's accesses and
for room, and queues the job its record describes; the engine starts the oldest job of the cluster, and at its end stores the outputs, writes
the record and brings the advance. A record R241 calls invalid computes nothing and ends with class 1. -/
def Obligations.ConvolutionForms : Prop :=
  let again := fun (s : State) => (List.range 16).foldl State.requeueJobs s
  (∀ (f : FormM) (s : State) (w : Warp) (bl : Block) (k : Nat), s.curWarp = some w → w.tx = none → Warp.never f.h = false → s.block? w.blk = some bl →
    w.Clear f.h (w.needs [(⟨f.addr, 0, f.fa⟩, 1), (f.data, 1)]) false false →
    let m := w.active.headD 0
    let ea := w.ea f.addr f.off m 0
    let r := (w.scl m f.data).toNat
    (ea.toNat % 128 ≠ 0 → Traps (.scld f) s w { cls := 11, slot := m, detail := ea }) ∧
    (ea.toNat % 128 = 0 → bl.srec ≤ r → Traps (.scld f) s w { cls := 13 }) ∧
    (ea.toNat % 128 = 0 → r < bl.srec → r ∈ bl.scalePend → Waits (.scld f) s w .record)) ∧
  (∀ (f : FormM) (s : State) (w : Warp) (bl : Block) (k : Nat), s.curWarp = some w → w.tx = none → Warp.never f.h = false → s.block? w.blk = some bl →
    w.Clear f.h (w.needs [(⟨f.addr, 0, f.fa⟩, 1), (f.data, 1)]) false false →
    let m := w.active.headD 0
    let ea := w.ea f.addr f.off m 0
    let r := (w.scl m f.data).toNat
    ea.toNat % 128 = 0 → r < bl.srec → r ∉ bl.scalePend → (∀ i, i < 4 → s.window w.ctx (ea + BitVec.ofNat 64 (128 * i)) = none) → w.freeEntry = some k →
      exec (.scld f) s = .next ((s.modBlock w.blk fun b => { b with scalePend := b.scalePend ++ [r] }).retire w
        (w.logEntry (w.entryFor k (packM 0x112 f) { acc := .scales r, size := 512, attr := f.attr } true 0 [] [{ slot := m, lane := 96, addr := ea }])))) ∧
  (∀ (f : FormR) (s : State) (w : Warp) (bl : Block), s.curWarp = some w → w.tx = none → Warp.never f.h = false → s.block? w.blk = some bl →
    w.Clear f.h (w.needs [(f.a, 1)]) false false →
    let m := w.active.headD 0
    let a := w.scl m f.a
    let queue := tget [] s.conv (clusterOf w.core)
    (a.toNat % 128 ≠ 0 → Traps (.cvgo f) s w { cls := 11, slot := m, detail := a }) ∧
    (a.toNat % 128 = 0 → bl.ns < a.toNat + 128 → Traps (.cvgo f) s w { cls := 12, slot := m }) ∧
    (a.toNat % 128 = 0 → a.toNat + 128 ≤ bl.ns → (∃ e ∈ w.log, e.async = false) → Waits (.cvgo f) s w .log) ∧
    (a.toNat % 128 = 0 → a.toNat + 128 ≤ bl.ns → w.freeEntry ≠ none → (∀ e ∈ w.log, e.async = true) → (∀ r ∈ s.replicas, r.owner ≠ w.key) →
      16 ≤ queue.length → Waits (.cvgo f) s w .queue)) ∧
  (∀ (f : FormR) (s : State) (w : Warp) (bl : Block), s.curWarp = some w → w.tx = none → Warp.never f.h = false → s.block? w.blk = some bl →
    w.Clear f.h (w.needs [(f.a, 1)]) false false →
    let a := w.scl (w.active.headD 0) f.a
    let queue := tget [] s.conv (clusterOf w.core)
    a.toNat % 128 = 0 → a.toNat + 128 ≤ bl.ns → w.freeEntry ≠ none → (∀ e ∈ w.log, e.async = true) → (∀ r ∈ s.replicas, r.owner ≠ w.key) → queue.length < 16 →
      exec (.cvgo f) s = .next ((State.modBlock { s with conv := tset s.conv (clusterOf w.core) (queue ++ [{
        ctx := w.ctx, core := w.core, blk := some w.blk, place := a.toNat, fields := BitVec.ofNat 768 (leNat (bl.near.readBytes a.toNat 96)) }]) } w.blk fun b => { b with jobs := b.jobs + 1 }).retire w w)) ∧
  (∀ cl s, tget [] s.conv cl = [] → exec (.convJobStart cl) s = .next s ∧ exec (.convJobEnd cl) s = .next (again s)) ∧
  (∀ cl s j rest, tget [] s.conv cl = j :: rest → j.started = false → exec (.convJobEnd cl) s = .next (again s) ∧
    exec (.convJobStart cl) s = .next { (State.convReads j).foldl (fun s r => s.agentTouch j.ctx (dieOf j.core) r.1 0 r.2) s with conv := tset s.conv cl ({ j with started := true, outs := (s.convRun j).1, err := (s.convRun j).2 } :: rest) }) ∧
  (∀ (s : State) (j : ConvJob), j.bad = true → s.convRun j = ([], { cls := 1, unit := 0x5C0 + clusterOf j.core, addr := j.place, nerr := 1 })) ∧
  (∀ (s : State) (j : ConvJob), j.bad = false → (∀ p ∈ s.convOutputs j, ∃ bs, p.2 = .ok bs) →
    s.convRun j = ((s.convOutputs j).filterMap fun p => match p.2 with | .ok bs => some (p.1.toNat, bs) | .error _ => none, {})) ∧
  (∀ cl s j rest, tget [] s.conv cl = j :: rest → j.started = true → s.convReady j = false → exec (.convJobEnd cl) s = .next (again s)) ∧
  (∀ cl s j rest, tget [] s.conv cl = j :: rest → j.started = true → s.convReady j = true →
    let s1 := (j.outs.foldl (fun s o => s.agentStore j.ctx (BitVec.ofNat 64 o.1) o.2) s).convRecord j
    let s2 : State := { s1 with conv := tset s1.conv cl rest }
    let tl := (j.fields.extractLsb' 56 8).toNat
    let s3 := if j.node = none ∧ tl ≤ 63 then s2.postAdvance j.ctx tl (j.fields.extractLsb' 64 64) else s2
    exec (.convJobEnd cl) s = .next (again (match j.node with | some n => s3.modNode n fun x => { x with busy := false, err := j.err } | none => s3))) ∧
  (∀ (s : State) (j : ConvJob) (b : Nat), j.blk = some b → s.convRecord j = s.modBlock b fun x => { x with
      near := (x.near.writeBytes (j.place + 52) (leBytes 4 (if j.bad then 0 else j.outCount))).writeBytes (j.place + 96) j.err.bytes, jobs := x.jobs - 1 }) ∧
  (∀ (j : ConvJob) (a : Nat), j.str a ≠ 0 → (j.outExt a - 1) * j.str a ≤ ((j.ext a + j.plo a + j.phi a : Nat) : Int) - j.dil a * ((j.ker a : Int) - 1) - 1 ∧
    ((j.ext a + j.plo a + j.phi a : Nat) : Int) - j.dil a * ((j.ker a : Int) - 1) - 1 < j.outExt a * j.str a)

/-! ## Copies, batches, barriers and timeline counters (R273–R293) -/

/-- R274, R279, R280 and R287–R290: a copy form checks alignment, range and record of every member it executes for, in that order, traps on
the first failure, and else puts one copy a member in flight: it joins the open batch and takes one operand-log entry.
R275, R276, R283 and R290: the completion of a copy. A copy that may not be performed yet changes nothing; a complete one leaves its batch and
its log entry and steps its barrier by the bytes it was issued for. A pattern fills the destination eight bytes at a time. -/
def Obligations.CopyForms : Prop :=
  (
  let launched := fun (i : Instr) (s : State) (w : Warp) (word : BitVec 96) (cs : List Copy) =>
    exec i s = .next ((launchCopies s w word cs).1.finish w (launchCopies s w word cs).2)
  let members := fun (s : State) (w : Warp) (os : List Warp.Operand) (c : Copy) =>
    if (os.all fun o => w.common? o.1.spec) && s.sidesShared c then w.active.take 1 else w.active
  let plain := fun (w : Warp) (f : FormR) (fill : Bool) (m : Nat) =>
    let ctl := (w.scl m (plainSrc (xSpec f.x))).toNat
    ({
       owner := 0, ctx := w.ctx, blk := w.blk, midx := (State.midxOf w m).toNat, kind := if fill then .cpyf (w.scl m f.b) else .cpy, dst := w.scl m f.a,
       src := if fill then 0 else w.scl m f.b, dns := f.x.getLsbD 10, sns := !fill && f.x.getLsbD 11, len := ctl % 2 ^ 32,
       bar := if f.x.getLsbD 12 then some (ctl / 2 ^ 32 % 2 ^ 19) else none, total := ctl % 2 ^ 32, slot := m,
       cache := (f.x.extractLsb' 13 2).toNat } : Copy)
  let fits := fun (bl : Block) (c : Copy) => (∀ b, c.bar = some b → b % 8 = 0 ∧ b + 8 ≤ bl.ns) ∧
    (c.len ≠ 0 → (c.dns = true → c.dst.toNat + c.len ≤ bl.ns) ∧ (c.sns = true → c.src.toNat + c.len ≤ bl.ns))
  let ready := fun (f : FormR) (s : State) (w : Warp) (os : List Warp.Operand) => s.curWarp = some w ∧ w.tx = none ∧ Warp.never f.h = false ∧ w.active ≠ [] ∧
    w.Clear f.h (w.needs os) false false
  (∀ (f : FormR) (s : State) (w : Warp) (bl : Block) (fill : Bool), s.block? w.blk = some bl →
    let os : List Warp.Operand := [(f.a, 1), (f.b, 1), (plainSrc (xSpec f.x), 1)]
    ready f s w os →
    let m0 := w.active.headD 0
    let ms := members s w os (plain w f fill m0)
    (∀ m ∈ ms, fits bl (plain w f fill m)) → (∀ m ∈ ms, ∀ b, (plain w f fill m).total = 0 → (plain w f fill m).bar = some b → nearBusy w b 8 = false) →
    launched (if fill then .cpyf f else .cpy f) s w (packR (if fill then 0x161 else 0x160) f) (ms.map (plain w f fill))) ∧
  (∀ (f : FormR) (s : State) (w : Warp) (bl : Block) (fill : Bool), s.block? w.blk = some bl →
    let os : List Warp.Operand := [(f.a, 1), (f.b, 1), (plainSrc (xSpec f.x), 1)]
    ready f s w os →
    let ms := members s w os (plain w f fill (w.active.headD 0))
    let odd := fun (m : Nat) => match (plain w f fill m).bar with | some b => b % 8 != 0 | none => false
    (∀ m ∈ ms, ∀ b, (plain w f fill m).total = 0 → (plain w f fill m).bar = some b → nearBusy w b 8 = false) →
    (∀ m b, ms.find? odd = some m → (plain w f fill m).bar = some b →
      Traps (if fill then .cpyf f else .cpy f) s w { cls := 11, slot := m, detail := BitVec.ofNat 64 b }) ∧
    (∀ m, ms.find? odd = none → m ∈ ms → ¬fits bl (plain w f fill m) → (∀ x ∈ ms, fits bl (plain w f fill x) ∨ m ≤ x) →
      Traps (if fill then .cpyf f else .cpy f) s w { cls := 12, slot := m })) ∧
  (∀ (l : List Check), firstCheck l = ((l.find? fun c => c.1 = 0).or ((l.find? fun c => c.1 = 1).or (l.find? fun c => c.1 = 2))).map (·.2)) ∧
  (∀ (f : FormR) (s : State) (w : Warp) (bl : Block), s.block? w.blk = some bl →
    let os : List Warp.Operand := [(f.a, 1), (f.b, 1), (plainSrc (xSpec f.x), 1)]
    ready f s w os →
    let m0 := w.active.headD 0
    let ms := members s w os (buildCpyt w f bl m0).1
    let built := ms.map fun m => buildCpyt w f bl m
    (w.heldByFence false = true → Waits (.cpyt f) s w .memory) ∧ (w.heldByFence false = false →
    (∀ m ∈ ms, nearBusy w (w.scl m (plainSrc (xSpec f.x))).toNat 64 = false) →
    (∀ c ∈ built.map (·.1), ∀ b, c.total = 0 → c.bar = some b → nearBusy w b 8 = false) →
    (∀ t, firstCheck (built.flatMap (·.2)) = some t → Traps (.cpyt f) s w t) ∧
    (firstCheck (built.flatMap (·.2)) = none → launched (.cpyt f) s w (packR 0x162 f) (built.map (·.1))))) ∧
  (∀ (f : FormM) (s : State) (w : Warp) (bl : Block), s.curWarp = some w → w.tx = none → s.block? w.blk = some bl →
    w.Clear f.h (w.needs [Warp.addrOperand f, (f.data, 1)]) (w.misfits [Warp.addrOperand f, (f.data, 1)]) false →
    let ctl := fun (m : Nat) => (w.scl m f.data).toNat
    let rowb := fun (m : Nat) => ctl m / 2 ^ 19 % 2 ^ 13
    let doff := fun (m : Nat) => ctl m % 2 ^ 19
    let boff := fun (m : Nat) => ctl m / 2 ^ 32 % 2 ^ 19
    let bar := fun (m : Nat) => ctl m / 2 ^ 51 % 2 = 1
    let windowed := ∃ m ∈ w.active, ∃ l, (w.part f.h m).getLsbD l = true ∧ s.windowIn w.ctx (w.ea f.addr f.off m l) (rowb m) = true
    let once := w.common? f.addr = true ∧ w.common? f.data.spec = true ∧ ¬windowed
    ∀ (lanes lost : Nat → LaneMask) (ms : List Nat),
    (once → ms = w.active.take 1 ∧ ∀ m, lanes m = w.union f.h ∧ lost m = w.active.foldl (fun u m => u ||| w.deadPart f.h m) 0 &&& ~~~(w.union f.h)) →
    (¬once → ms = w.active ∧ ∀ m, lanes m = w.part f.h m ∧ lost m = w.deadPart f.h m) →
    let go := ms.filter fun m => lanes m ||| lost m != 0
    let rows := fun (m : Nat) => (lanes m).toList.map fun l => (l, w.ea f.addr f.off m l)
    (∀ m ∈ go, rowb m % 4 = 0 ∧ 4 ≤ rowb m ∧ rowb m ≤ 4096 ∧ (∀ r ∈ rows m, r.2.toNat % 4 = 0 ∧ doff m + (r.1 + 1) * rowb m ≤ bl.ns) ∧
      (bar m → boff m % 8 = 0 ∧ boff m + 8 ≤ bl.ns)) →
    let r := launchCopies s w (packM 0x163 f) (go.map fun m => {
      owner := 0, ctx := w.ctx, blk := w.blk, midx := (State.midxOf w m).toNat, kind := .cpyg (rowb m) (rows m), dst := BitVec.ofNat 64 (doff m), dns := true, bar := if bar m then some (boff m) else none, total := rowb m * (lanes m ||| lost m).count, slot := m,
      cache := (f.attr.extractLsb' 5 2).toNat })
    exec (.cpyg f) s = .next (r.1.finish w (match r.2 with
      | .fall w1 => .fall (w1.noteDead f.h [Warp.addrOperand f, (f.data, 1)])
      | x => x))) ∧
  (∀ (f : FormR) (s : State) (w : Warp) (bl : Block), s.block? w.blk = some bl → ready f s w [(f.a, 1)] →
    let m0 := w.active.headD 0
    let a := w.scl m0 f.a
    let r := BitVec.ofNat 1024 (leNat (bl.near.readBytes a.toNat 128))
    let total := ((haloFaces r).map (haloBytes r)).foldl (· + ·) 0
    let bar := r.getLsbD 528 = true
    let boff := (r.extractLsb' 532 19).toNat
    let c := fun (m : Nat) => ({
      owner := 0, ctx := w.ctx, blk := w.blk, midx := (State.midxOf w m).toNat, kind := .halo r, bar := if bar then some boff else none, total := total, dst := a, slot := m } : Copy)
    let cs := (if s.sidesShared (c m0) then w.active.take 1 else w.active).map c
    (w.heldByFence false = true → Waits (.halo f) s w .memory) ∧ (w.heldByFence false = false → nearBusy w a.toNat 128 = false →
    (a.toNat % 128 ≠ 0 → Traps (.halo f) s w { cls := 11, slot := m0, lane := 0, detail := a }) ∧
    (a.toNat % 128 = 0 → bl.ns < a.toNat + 128 → Traps (.halo f) s w { cls := 12, slot := m0, lane := 0 }) ∧
    (a.toNat % 128 = 0 → a.toNat + 128 ≤ bl.ns → (bar → boff % 8 = 0 ∧ boff + 8 ≤ bl.ns) → (∀ i, i < 7 → r.extractLsb' (64 * i + 56) 8 = 0) → r.extractLsb' 529 3 = 0 →
      r.extractLsb' 551 473 = 0 → (∀ x, x < 3 → haloE r x ≠ 0) → (∀ i ∈ haloFaces r, 3 * haloH r (i / 2) ≤ haloE r (i / 2)) → total < 2 ^ 32 →
      (bar → total = 0 → nearBusy w boff 8 = false) →
      (16 < s.haloQueue (clusterOf w.core) + cs.length → Waits (.halo f) s w .queue) ∧
      (s.haloQueue (clusterOf w.core) + cs.length ≤ 16 → launched (.halo f) s w (packR 0x164 f) cs)))) ∧
  (∀ (s : State) (w : Warp) (word : BitVec 96) (c : Copy) (k : Nat), s.curWarp = some w → w.copies.pending < 64 → w.freeEntry = some k → c.total ≠ 0 →
    (∀ n l, c.kind ≠ .cpyg n l) →
    let id := tfresh s.copies
    let w1 : Warp := { w.logEntry (w.entryFor k word { acc := .copy id, size := 0 } false 0 [] [{ slot := c.slot, lane := 96, addr := c.dst }]) with
      copies := { w.copies with opened := w.copies.opened ++ [id] } }
    launchCopies s w word [c] = ({ s.putWarp w1 with copies := s.copies ++ [(id, { c with owner := w.key, entry := w.nextSeq, sup := w.sup, since := s.tick })] }, .fall w1)) ∧
  (∀ (s : State) (w : Warp) (word : BitVec 96) (cs : List Copy), cs ≠ [] → 64 < w.copies.pending + cs.length → launchCopies s w word cs = (s, .wait .room)) ∧
  (∀ (r : BitVec 512) (dst src : Word) (x : Row), x ∈ tileRows r dst src ↔ ∃ y z, y < tileN r 32 ∧ z < tileN r 48 ∧ x = ⟨96,
    dst + r.extractLsb' 192 64 * BitVec.ofNat 64 y + r.extractLsb' 256 64 * BitVec.ofNat 64 z,
    src + r.extractLsb' 64 64 * BitVec.ofNat 64 y + r.extractLsb' 128 64 * BitVec.ofNat 64 z, tileN r 16 * tileEsz r⟩)) ∧
  (
  (∀ id s, tfind s.copies id = none → exec (.copyComplete id) s = .next s) ∧
  (∀ id s c w, tfind s.copies id = some c → s.warp? c.owner = some w → w.blk = c.blk →
    let e := w.log.find? fun e => e.seq = c.entry
    let stuck := e.any (·.held) = true ∨ s.copyWaits w c = true ∨ s.haloTurn id c = false
    (stuck → exec (.copyComplete id) s = .next s) ∧
    (¬stuck →
      let todo := c.left.filter fun q => !State.rowSkipped e c q.1
      let go := todo.filter fun q => s.pieceReady e c q.1
      let c1 : Copy := { c with done := c.done ++ go.map (·.2) }
      let s1 := s.movePieces id c (go.map (·.1))
      let s2 := ({ s1 with copies := tset s1.copies id c1 } : State).lanesDone c1
      exec (.copyComplete id) s = .next (if go.length != todo.length || s2.replicas.any (fun r => r.owner = copyAgent id) then s2 else s2.finishCopy id c1))) ∧
  (∀ (s : State) (id : Nat) (c : Copy) (off : Nat), c.bar = some off →
    s.finishCopy id c = (s.putBarrier c.blk off ((s.barrier c.blk off).step (-(c.total : Int)) false)).finishCopy id { c with bar := none }) ∧
  (∀ (s : State) (c : Copy) (r : Row) (pat : Word), c.kind = .cpyf pat → c.dns = true →
    s.rowBytes c r = (List.range r.n).map fun i => ⟨State.nearBase + r.dst.toNat + i, none, BitVec.ofNat 8 (pat.toNat / 2 ^ (8 * (i % 8))), false⟩) ∧
  (∀ (s : State) (c : Copy) (r : Row) (bl : Block), c.kind = .cpy → c.dns = true → c.sns = true → s.block? c.blk = some bl →
    s.rowBytes c r = (List.range r.n).map fun i => ⟨State.nearBase + r.dst.toNat + i, some (State.nearBase + r.src.toNat + i),
      bl.near.read (r.src.toNat + i), bl.nearPoison.contains ((r.src.toNat + i) / 8 * 8)⟩))

/-- R282, R283 and R292: a barrier word and its steps. A step changes BYTES and, for an arrival, ARR; when both are zero the phase inverts and ARR
is INIT again; a BYTES that leaves its range, or an arrival with ARR zero, sets ERR.
R292: the barrier forms, for a block whose near scratch holds the word: each step is made once for common operands, else once for every
active member in turn. -/
def Obligations.BarrierForms : Prop :=
  (
  (∀ (b : Barrier) (d : Int) (arrives : Bool),
    let y := b.bytes + d
    let arr := if arrives then b.arr - 1 else b.arr
    let done := arr = 0 ∧ (BitVec.ofInt 32 y).toInt = 0
    (b.step d arrives).bytes = (BitVec.ofInt 32 y).toInt ∧ (b.step d arrives).init = b.init ∧
    (b.step d arrives).phase = (if done then !b.phase else b.phase) ∧ (b.step d arrives).arr = (if done then b.init else arr) ∧
    ((b.step d arrives).err = true ↔ b.err = true ∨ y < -2 ^ 31 ∨ 2 ^ 31 ≤ y ∨ (arrives = true ∧ b.arr = 0))) ∧
  (∀ x : Word, (Barrier.ofWord x).word = x) ∧
  (∀ (s : State) (blk off : Nat) (b : Barrier) (bl : Block), s.Canonical → s.block? blk = some bl → b = Barrier.ofWord b.word → (s.putBarrier blk off b).barrier blk off = b)) ∧
  (
  let rule := fun (i : Instr) (f : FormM) (hasB : Bool) (dst : List Spec) (out : State → Warp → List (Nat × Nat × Word) → Prop) =>
    ∀ s w bl, s.curWarp = some w → s.warp? w.key = some w → w.tx = none → Warp.never f.h = false → s.block? w.blk = some bl →
      let os : List Warp.Operand := (⟨f.addr, 0, f.fa⟩, 1) :: (if hasB then [(f.data, 1)] else [])
      let priv := w.anyPrivate (os.map (·.1))
      let common := dst.any fun d => d.num < 128
      w.Clear f.h (w.needs os ++ dst.flatMap (w.needsDst 1)) false (priv && common) →
      let ms := if priv then w.active else if dst != [] && !common && w.active = [] then [] else [w.active.headD 0]
      let at' := fun (m : Nat) => (w.ea f.addr f.off m 0).toNat
      ms ≠ [] → (∀ m ∈ ms, at' m % 8 = 0 ∧ at' m + 8 ≤ bl.ns ∧ wordBusy s w (at' m) = false) → w.heldByFence true = false →
      out s w (ms.map fun m => (m, at' m, if hasB then w.scl m f.data else 0))
  (∀ f, rule (.bbini f) f true [] fun s w ops => exec (.bbini f) s = .next ((ops.foldl (fun s o => s.putBarrier w.blk o.2.1
    (if 1 ≤ o.2.2.toNat ∧ o.2.2.toNat ≤ 32767 then ⟨0, o.2.2.toNat, o.2.2.toNat, false, false⟩ else ⟨0, 0, 0, true, false⟩)) s).retire w w)) ∧
  (∀ f, rule (.bbexp f) f true [] fun s w ops => (releaseBusy s w false = true → Waits (.bbexp f) s w .log) ∧
    (releaseBusy s w false = false → exec (.bbexp f) s = .next ((ops.foldl (fun s o => s.stepBarrier w.blk o.2.1 (o.2.2.toNat % 2 ^ 32 : Nat) true) s).retire w w))) ∧
  (∀ f, rule (.bbarr f) f false [] fun s w ops => (releaseBusy s w false = true → Waits (.bbarr f) s w .log) ∧
    (releaseBusy s w false = false → exec (.bbarr f) s = .next ((ops.foldl (fun s o => s.stepBarrier w.blk o.2.1 0 true) s).retire w w))) ∧
  (∀ f, rule (.bbwt f) f true [] fun s w ops =>
    ((∃ o ∈ ops, (s.barrier w.blk o.2.1).phase = o.2.2.getLsbD 0) → Waits (.bbwt f) s w .barrier) ∧
    ((∀ o ∈ ops, (s.barrier w.blk o.2.1).phase ≠ o.2.2.getLsbD 0) → exec (.bbwt f) s = .next ((s.acquireBy w.key w.core 1).retire w
      { w with st8 := w.st8.map fun x => { x with ready := 0, ahead := [] } }))) ∧
  (∀ f, rule (.bbtst f) f true [f.dst] fun s w ops =>
    let res := fun (o : Nat × Nat × Word) =>
      let b := s.barrier w.blk o.2.1
      BitVec.ofNat 64 ((if b.phase != o.2.2.getLsbD 0 then 1 else 0) + (if b.err then 2 else 0))
    let put := fun (w : Warp) => if ops.length = 1 ∧ w.active.length ≠ 1 then w.sclWrite f.dst.num fun _ => res (ops.headD (0, 0, 0))
      else ops.foldl (fun w o => w.sput o.1 f.dst.num (res o)) w
    ((∀ o ∈ ops, (s.barrier w.blk o.2.1).phase = o.2.2.getLsbD 0) → Retires (.bbtst f) s w (put w)) ∧
    ((∃ o ∈ ops, (s.barrier w.blk o.2.1).phase ≠ o.2.2.getLsbD 0) → exec (.bbtst f) s = .next ((s.acquireBy w.key w.core 1).retire w
      (put { w with st8 := w.st8.map fun x => { x with ready := 0, ahead := [] } })))))

/-- R278 and R291: a batch closes with the copies the open one holds and the next number; batches complete in the order of their numbers, each
when its copies have; `bwait` waits for a batch and acquires, `bnum` reads the two numbers.
R285, R286, R293 and R468: a timeline counter never falls: an advance makes it the larger of its value and the new one, once no line of it is with the
host. `tlwait` waits until the
counter has reached its value and acquires, `tlsig` waits as a release and sends its advance, `tlrd` reads the counter. -/
def Obligations.BatchAndTimelineForms : Prop :=
  (
  let close := fun (w : Warp) (adv : Option (Nat × Word)) => ({ w with copies := { w.copies with
    opened := [], lastClosed := w.copies.lastClosed + 1, closed := w.copies.closed ++ [⟨w.copies.lastClosed + 1, w.copies.opened, adv⟩] } } : Warp)
  (∀ f s w x, s.curWarp = some w → s.warp? w.key = some w → w.tx = none → Warp.never f.h = false →
    let dst : List Warp.Need := if f.dst.none? then [] else w.needsDst 1 f.dst
    w.Clear f.h dst false false → (f.dst.num < 128 ∨ f.dst.none? = true ∨ w.active ≠ []) →
    (16 ≤ w.copies.closed.length → Waits (.batch f) s w .room) ∧
    (w.copies.closed.length < 16 →
      let w1 := if f.dst.none? then close w none else (close w none).sclWrite f.dst.num fun _ => BitVec.ofNat 64 (w.copies.lastClosed + 1)
      let s1 := (s.putWarp w1).settleBatches w.key
      s1.warp? w.key = some x → exec (.batch f) s = .next (s1.finish w (.fall x)))) ∧
  (∀ f s w x, s.curWarp = some w → s.warp? w.key = some w → w.tx = none → Warp.never f.h = false →
    let priv := w.anyPrivate [f.b]
    let ms := if priv then w.active else if !f.dst.none? && 128 ≤ f.dst.num then w.active.take 1 else [w.active.headD 0]
    let dst : List Warp.Need := if f.dst.none? then [] else w.needsDst 1 f.dst
    ms ≠ [] → w.Clear f.h (w.needs [(f.b, 1)] ++ dst) false false →
    (16 < w.copies.closed.length + ms.length → Waits (.batchTl f) s w .room) ∧
    (w.copies.closed.length + ms.length ≤ 16 → w.heldByFence true = true → Waits (.batchTl f) s w .memory) ∧
    (w.copies.closed.length + ms.length ≤ 16 → w.heldByFence true = false → releaseBusy s w true = true → Waits (.batchTl f) s w .log) ∧
    (w.copies.closed.length + ms.length ≤ 16 → w.heldByFence true = false → releaseBusy s w true = false →
      let w1 := ms.foldl (fun (w1 : Warp) m =>
        let w2 := close w1 (some ((f.x.extractLsb' 0 6).toNat, w.scl m f.b))
        if f.dst.none? then w2
        else if priv && 128 ≤ f.dst.num then w2.sput m f.dst.num (BitVec.ofNat 64 w2.copies.lastClosed)
        else w2.sclWrite f.dst.num fun _ => BitVec.ofNat 64 w2.copies.lastClosed) w
      let s1 := (s.putWarp w1).settleBatches w.key
      s1.warp? w.key = some x → exec (.batchTl f) s = .next (s1.finish w (.fall x)))) ∧
  (∀ (w : Warp) (o : Src), (w.common? o.spec = true → w.active ≠ [] → maxOperand w o = (w.scl (w.active.headD 0) o).toNat) ∧
    (w.active ≠ [] → (∃ m ∈ w.active, maxOperand w o = (w.scl m o).toNat) ∧ ∀ m ∈ w.active, (w.scl m o).toNat ≤ maxOperand w o)) ∧
  (∀ f s w, s.curWarp = some w → w.tx = none → Warp.never f.h = false → w.active ≠ [] ∨ w.common? f.a.spec = true → w.Clear f.h (w.needs [(f.a, 1)]) false false →
    w.copies.lastDone < min (maxOperand w f.a) w.copies.lastClosed → Waits (.bwait f) s w .batch) ∧
  (∀ f s w, s.curWarp = some w → s.warp? w.key = some w → w.tx = none → Warp.never f.h = false → w.active ≠ [] ∨ w.common? f.a.spec = true →
    w.Clear f.h (w.needs [(f.a, 1)]) false false → min (maxOperand w f.a) w.copies.lastClosed ≤ w.copies.lastDone →
    exec (.bwait f) s = .next ((s.acquireBy w.key w.core 4).retire w { w with st8 := w.st8.map fun x => { x with ready := 0, ahead := [] } })) ∧
  (∀ f s w, s.curWarp = some w → w.tx = none → w.Clear f.h (w.needsDst 1 f.dst) false false →
    Retires (.bnum f) s w (w.sclResult f.h f.dst fun _ => BitVec.ofNat 64 (if f.x = 0 then w.copies.lastClosed else w.copies.lastDone))) ∧
  (∀ (c : CopyCtx) (l : List Batch), (∀ b ∈ l, b.copies = []) → (c.settle l).1.closed = [] ∧ (c.settle l).2 = l.filterMap (·.adv) ∧
    (c.settle l).1.lastDone = (l.getLast?.map (·.num)).getD c.lastDone) ∧
  (∀ (c : CopyCtx) (l r : List Batch) (b : Batch), (∀ x ∈ l, x.copies = []) → b.copies ≠ [] →
    (c.settle (l ++ b :: r)).1.closed = b :: r ∧ (c.settle (l ++ b :: r)).2 = l.filterMap (·.adv))) ∧
  (
  let drained := fun (w : Warp) => ({ w with st8 := w.st8.map fun x => { x with ready := 0, ahead := [] } } : Warp)
  let tl := fun (f : FormR) => (f.x.extractLsb' 0 6).toNat
  (∀ (s : State) (x c : Nat) (v : Word), s.Canonical → s.timelineAt x c + 8 ≤ capLo → (s.advance x c v).timeline x c = max (s.timeline x c) v.toNat) ∧
  (∀ x c s, (∀ a ∈ (s.ctx x).adv, a.1 ≠ c) → exec (.timelineAdvance x c) s = .next s) ∧
  (∀ x c s a, ((s.ctx x).adv.find? fun a => a.1 = c) = some a →
    let free := s.counterReady x c = true ∧ (a.2.2 = none → ∀ r ∈ s.replicas, r.owner ≠ State.noWarp)
    (free → exec (.timelineAdvance x c) s = .next ((s.modCtx x fun k => { k with adv := k.adv.erase a }).advance x c a.2.1)) ∧
    (¬free → exec (.timelineAdvance x c) s = .next s)) ∧
  (∀ (s : State) (x c : Nat) (v : Word), (s.counterReady x c = true ↔ ∀ l ∈ State.lineSpan (s.timelineAt x c) 8, l ∉ s.hostHeld) ∧
    (s.counterReady x c = true → (∀ r ∈ s.replicas, r.owner ≠ State.noWarp) → s.signal x c v = s.advance x c v) ∧
    (s.counterReady x c = false ∨ (∃ r ∈ s.replicas, r.owner = State.noWarp) → s.signal x c v = s.postAdvance x c v)) ∧
  (∀ (s : State) (x n : Nat) (va : Word) (ps : List (Nat × Nat × Phys)), s.agentLocate x va 0 n .write = .ok ps → (s.agentReady x va n = true ↔
    ∀ q ∈ ps, ∀ l ∈ State.lineSpan q.2.2.pa q.2.1, l ∉ s.hostHeld ∧ (State.isHost q.2.2.pa = true → Leaf.ca q.2.2.leaf = true → l ∈ s.hostOwned))) ∧
  (∀ f s w, s.curWarp = some w → s.warp? w.key = some w → w.tx = none → Warp.never f.h = false → w.active ≠ [] ∨ w.common? f.b.spec = true →
    w.Clear f.h (w.needs [(f.b, 1)]) false false →
    let n := maxOperand w f.b
    let reached := counterBusy s w (tl f) = false ∧ n ≤ s.timeline w.ctx (tl f)
    (n = 0 → Retires (.tlwait f) s w w) ∧ (n ≠ 0 → w.heldByFence false = true → Waits (.tlwait f) s w .memory) ∧
    (n ≠ 0 → w.heldByFence false = false → ¬reached → Waits (.tlwait f) s w .timeline) ∧
    (n ≠ 0 → w.heldByFence false = false → reached → exec (.tlwait f) s = .next ((s.acquireBy w.key w.core 5).retire w (drained w)))) ∧
  (∀ f s w, s.curWarp = some w → w.tx = none → Warp.never f.h = false → w.Clear f.h (w.needs [(f.b, 1)]) false false →
    let ms := if w.common? f.b.spec then [w.active.headD 0] else w.active
    ms ≠ [] → w.heldByFence true = false →
    (releaseBusy s w true = true → Waits (.tlsig f) s w .log) ∧
    (releaseBusy s w true = false →
      exec (.tlsig f) s = .next ((ms.foldl (fun s m => s.postAdvance w.ctx (tl f) (w.scl m f.b) (some w.key)) s).retire w w))) ∧
  (∀ f s w, s.curWarp = some w → w.tx = none → Warp.never f.h = false → w.Clear f.h (w.needsDst 1 f.dst) false false →
    w.heldByFence false = false →
    (counterBusy s w (tl f) = true → Waits (.tlrd f) s w .timeline) ∧
    (counterBusy s w (tl f) = false → exec (.tlrd f) s = .next ((s.acquireBy w.key w.core 5).retire w
      (drained (w.sclResult f.h f.dst fun _ => BitVec.ofNat 64 (s.timeline w.ctx (tl f))))))))

/-! ## Fences and transactions (R300–R316) -/

/-- R300, R301 and R308: a fence sets an ordering point, which is complete when the accesses it covers are performed and its waits are satisfied; an
acquire side then invalidates what R248 says. The fence itself retires at once: until its point is complete, only the accesses that it orders after
itself wait. Inside a transaction, or under guard 0b1111, it does nothing. -/
def Obligations.FenceForms : Prop :=
  let rule := fun (mk : FormR → Instr) (acq rel sc : Bool) => ∀ (f : FormR) (s : State) (w : Warp), s.curWarp = some w → s.warp? w.key = some w →
    let scope := (f.x.extractLsb' 0 3).toNat
    let point : Fence := { pos := w.nextSeq, readsOnly := acq && !rel, writesOnly := rel && !acq, acq := acq, rel := rel, sc := sc, scope := scope, sup := w.sup }
    let complete := (∀ e ∈ w.log, e.seq < w.nextSeq → e.async = false → (acq = true → rel = false → e.reads = true) → ∀ p ∈ e.parts, p.ok = true) ∧
      ¬(rel = true ∧ 3 ≤ scope ∧ ∃ r ∈ s.replicas, r.owner = w.key) ∧ ¬(sc = true ∧ 4 ≤ scope ∧ s.replicas ≠ [])
    (Warp.never f.h = true ∨ w.tx ≠ none → Retires (mk f) s w w) ∧
    (Warp.never f.h = false → w.tx = none → ∃ s1 w1, s1 = (s.putWarp { w with fences := w.fences ++ [point] }).settleFences w.key ∧
      s1.warp? w.key = some w1 ∧ exec (mk f) s = .next (s1.retire w w1)) ∧
    (Warp.never f.h = false → w.tx = none → w.fences = [] →
      (¬complete → Retires (mk f) s w { w with fences := [point] }) ∧
      (complete → acq = false → Retires (mk f) s w w) ∧
      (complete → acq = true → exec (mk f) s = .next ((s.acquireBy w.key w.core scope).retire w
        { w with st8 := w.st8.map fun x => { x with ready := 0, ahead := [] } })))
  rule .fenceAcq true false false ∧ rule .fenceRel false true false ∧ rule .fenceAr true true false ∧ rule .fenceSc true true true ∧
  (∀ (s : State) (w : Warp) (e : LogEntry) (p : Part) (f : Fence), f ∈ w.fences → f.pos ≤ e.seq → (f.writesOnly = true → e.writes = true) → (e.sup = true → f.sup = true) → s.ready w e p = false) ∧
  (∀ (s : State) (k core scope : Nat), s.fused.contains (clusterOf core) = false → 2 ≤ scope → tget [] (s.acquireBy k core scope).l1 core = []) ∧
  (∀ (s : State) (k core scope : Nat), scope < 2 → (s.acquireBy k core scope).l1 = s.l1)

/-- R309–R316: a transaction. `txbegin` saves the masks and its target; `txend` performs the whole write set at once; an abort discards the
writes, brings the masks and the target back and sets TXSTAT and TXADDR, and a register that a faulting load left empty is full again; an
instruction R313 names aborts with cause 7. -/
def Obligations.TransactionForms : Prop :=
  (∀ f s w, s.curWarp = some w →
    (Warp.never f.h = true → Retires (.txbegin f) s w w) ∧
    (Warp.never f.h = false → w.meld.opened = true → Traps (.txbegin f) s w { cls := 16 }) ∧
    (Warp.never f.h = false → w.meld.opened = false → w.tx = none → Retires (.txbegin f) s w { w with
      tx := some { em := w.banks.map fun b => [tget 0 b.s 253, tget 0 b.s 254, tget 0 b.s 255], mm := w.mm,
                   target := w.pc + 12#64 * BitVec.ofInt 64 f.disp.toInt, since := s.cycle },
      txstat := BitVec.ofNat 64 (w.txstat.toNat / 2 ^ 17 * 2 ^ 17), txaddr := 0 })) ∧
  (∀ f s w, s.curWarp = some w → Warp.never f.h = false → w.tx = none → Traps (.txend f) s w { cls := 16 }) ∧
  (∀ f s w t, s.curWarp = some w → Warp.never f.h = false → w.tx = some t → releaseBusy s w true = true → Waits (.txend f) s w .log) ∧
  (∀ f s w t, s.curWarp = some w → Warp.never f.h = false → w.tx = some t → releaseBusy s w true = false →
    let w1 : Warp := { w with tx := none, txstat := (w.txstat &&& ~~~(0x1FFFF#64)) ||| BitVec.ofNat 64 (4096 * min 16 (t.reads ++ t.writes).eraseDups.length) }
    let s1 := t.ranges.foldl (fun s r => (s.perform w.key r.1 r.2).l1Update w.core r.1 r.2) s
    ((∃ r ∈ t.ranges, s.hostReady r.1 r.2.length false = false) → Waits (.txend f) s w .transaction) ∧
    ((∀ r ∈ t.ranges, s.hostReady r.1 r.2.length false = true) → exec (.txend f) s =
      .next (((s1.putWarp w1).acquireBy w.key w.core 4).retire w { w1 with st8 := w1.st8.map fun x => { x with ready := 0, ahead := [] } }))) ∧
  (∀ t : Tx, t.held = [] → t.ranges = []) ∧
  (∀ f s w, s.curWarp = some w → Warp.never f.h = false → w.tx ≠ none →
    exec (.txabt f) s = .next (s.putWarp (Warp.abortTx { w with st := .act, waitOn := none } 6 (f.ctl.extractLsb' 0 8).toNat 0))) ∧
  (∀ f s w, s.curWarp = some w → Warp.never f.h = true ∨ w.tx = none → Retires (.txabt f) s w w) ∧
  (∀ f, SclRule (.txst f) f.h f.dst [] (fun _ => false) fun _ w _ => if f.x = 0 then
    (match w.tx with
      | some t => (w.txstat &&& ~~~(0x1FFFF#64)) ||| BitVec.ofNat 64 (1 + 4096 * min 16 (t.reads ++ t.writes).eraseDups.length)
      | none => w.txstat) else w.txaddr) ∧
  (∀ (w : Warp) (t : Tx) (cause code : Nat) (a : Word), w.tx = some t → cause < 8 → code < 256 →
    let w1 := w.dropTx cause code a
    (∀ e ∈ w.log, e.tx = true → ∀ m ∈ w.slots, ∀ r ∈ e.fills, w1.isEmpty m r = false) ∧
    w1.tx = none ∧ w1.pc = t.target ∧ w1.mm = t.mm ∧ w1.txaddr = (if cause = 3 then w.txFaultAddr.getD a else a) ∧ w1.log = w.log.filter (fun e => !e.tx) ∧
    w1.txstat.extractLsb' 0 1 = 0 ∧ w1.txstat.extractLsb' 1 3 = BitVec.ofNat 3 cause ∧
    w1.txstat.extractLsb' 4 8 = BitVec.ofNat 8 code ∧ w1.s = w.s ∧ w1.v = w.v ∧
    (w1.txstat.extractLsb' 32 16).toNat = min 65535 ((w.txstat.extractLsb' 32 16).toNat + 1)) ∧
  (∀ (w : Warp) (t : Tx) (cause code : Nat) (a : Word), w.tx = some t →
    let done := ∀ e ∈ w.log, e.tx = true → ∀ p ∈ e.parts, p.ok = true ∨ p.fault ≠ none
    (done → w.abortTx cause code a = w.dropTx cause code a) ∧
    (¬done → t.pending = none → w.abortTx cause code a = { w with tx := some { t with pending := some (cause, code, a) } })) ∧
  (∀ c k line s w t cause code a, s.warp? (warpKey c k) = some w → w.tx = some t → t.pending = some (cause, code, a) → cause ≠ 1 ∨ a.toNat = line →
    (∀ e ∈ w.log, e.tx = true → ∀ p ∈ e.parts, p.ok = true ∨ p.fault ≠ none) →
    exec (.txConflict c k line) s = .next (s.modWarp (warpKey c k) fun w => w.awake.dropTx cause code a)) ∧
  (∀ c k line s w, s.warp? (warpKey c k) = some w → (∀ t, w.tx = some t → t.pending = none) → exec (.txConflict c k line) s = .next (s.modWarp (warpKey c k) id)) ∧
  (∀ i s w, i ∈ [fun f => Instr.batch f, .bwait, .tlwait, .tlsig, .cpy, .halo, .cvgo, .regrp, .rooffl] → s.curWarp = some w → w.tx ≠ none → ∀ f,
    exec (i f) s = .next (s.putWarp (Warp.abortTx { w with st := .act, waitOn := none } 7 0 0)))

/-! ## Launch, queues and scheduling (R339–R369) -/

/-- R341–R343: doorbells and queue slots. A doorbell of a resident context adds a valid queue, neither pending nor mapped, to the pending
queues, and else does nothing; a free slot maps, of the pending queues, one of the highest priority, or, when the last seven mappings
were all made by priority, the one that waits longest; a slot whose quantum has passed gives its queue back.
R342, R348, R349: one step of a slot that fetches. An invalid queue or an empty one frees the slot, a full pool or a full graph window
stalls it; else the record at RD is read, RD moves on, and a node enters the pool. The node depends on every node of its queue whose tiles
meet its own with a write among them, and on every node where one of the two is a cut. -/
def Obligations.QueueSlots : Prop :=
  (
  let slot := fun (s : State) (n : Nat) => tget ({} : QSlot) s.qslots n
  let pr := fun (p : Nat × Nat × Nat × Nat) => p.1
  let since := fun (p : Nat × Nat × Nat × Nat) => p.2.1
  let who := fun (p : Nat × Nat × Nat × Nat) => p.2.2
  let longest := fun (p q : Nat × Nat × Nat × Nat) => since p < since q ∨ (since p = since q ∧ ((who p).1 < (who q).1 ∨ ((who p).1 = (who q).1 ∧ (who p).2 ≤ (who q).2)))
  (∀ d : QDesc, d.valid = true ↔ d.en = true ∧ 1 ≤ d.size ∧ d.size ≤ 16 ∧ d.ring % 4096 = 0 ∧ d.rd ≤ d.wr ∧ d.wr - d.rd ≤ 2 ^ d.size) ∧
  (∀ (x q : Nat) (s : State),
    let rings := s.resident x = true ∧ q ≤ (s.ctx x).qmax ∧ (∃ d, s.readQueue x q = .ok d ∧ d.valid = true) ∧
      (∀ p ∈ s.qslots, p.2.st = .free ∨ p.2.ctx ≠ x ∨ p.2.q ≠ q) ∧ ∀ p ∈ (s.ctx x).pending, p.1 ≠ q
    (rings → exec (.doorbell x q) s = .next (s.modCtx x fun c => { c with pending := c.pending ++ [(q, s.cycle)] })) ∧
    (¬rings → exec (.doorbell x q) s = .next s)) ∧
  (∀ (n : Nat) (s : State), (64 ≤ n ∨ (slot s n).st ≠ .free ∨ s.pendingQueues = []) → exec (.slotMap n) s = .next s) ∧
  (∀ (n : Nat) (s : State), n < 64 → (slot s n).st = .free → s.pendingQueues ≠ [] → ∃ p ∈ s.pendingQueues,
    let aged := s.mappings.length = 7 ∧ ∀ b ∈ s.mappings, b = true
    (aged → ∀ q ∈ s.pendingQueues, longest p q) ∧
    (¬aged → ∀ q ∈ s.pendingQueues, pr q < pr p ∨ (pr q = pr p ∧ longest p q)) ∧
    ∃ t, exec (.slotMap n) s = .next t ∧ slot t n = { st := .fetch, ctx := (who p).1, q := (who p).2, since := s.cycle } ∧
      (t.ctx (who p).1).pending = ((s.ctx (who p).1).pending.filter fun y => y.1 != (who p).2) ∧
      (∀ m, m ≠ n → slot t m = slot s m) ∧ (∀ y, y ≠ (who p).1 → t.ctx y = s.ctx y) ∧ t.nodes = s.nodes ∧ t.mem = s.mem ∧ t.warps = s.warps) ∧
  (∀ (n : Nat) (s : State),
    let x := (slot s n).ctx
    let expires := (slot s n).st ≠ .free ∧ (slot s n).since + (s.ctx x).quant ≤ s.cycle ∧ s.pendingQueues ≠ []
    (¬expires → exec (.quantumExpire n) s = .next s) ∧
    (expires → exec (.quantumExpire n) s =
      .next ((s.freeSlot n).modCtx x fun c => { c with pending := c.pending ++ [((slot s n).q, s.cycle)] }))) ∧
  (∀ (n : Nat) (s : State),
    let full := 4096 ≤ s.nodes.length ∨ 1024 ≤ (s.queueNodes (slot s n).ctx (slot s n).q).length
    ((slot s n).st ≠ .stall ∨ full → exec (.slotUnstall n) s = .next s) ∧
    ((slot s n).st = .stall → ¬full → ∃ t, exec (.slotUnstall n) s = .next t ∧ slot t n = { slot s n with st := .fetch } ∧ t = { s with qslots := t.qslots }))) ∧
  (
  (∀ (n : Nat) (s : State), (tget ({} : QSlot) s.qslots n).st ≠ .fetch → exec (.slotFetch n) s = .next s) ∧
  (∀ (n : Nat) (s : State), (tget ({} : QSlot) s.qslots n).st = .fetch →
    let t := tget ({} : QSlot) s.qslots n
    let s1 := s.agentTouch t.ctx 0 (s.queueVa t.ctx t.q) 0 24
    (∀ e, s1.readQueue t.ctx t.q = .error e → exec (.slotFetch n) s = .next (s1.queueError n t.ctx t.q e)) ∧
    (∀ d, s1.readQueue t.ctx t.q = .ok d → (d.valid = false ∨ d.rd = d.wr → exec (.slotFetch n) s = .next (s1.freeSlot n)) ∧
      (d.valid = true → d.rd ≠ d.wr → s1.slotBlocked t.ctx t.q = true →
        exec (.slotFetch n) s = .next { s1 with qslots := tset s1.qslots n { t with st := .stall } }) ∧
      (d.valid = true → d.rd ≠ d.wr → s1.slotBlocked t.ctx t.q = false → ∀ bs s2,
        s1.agentRead t.ctx 0 (BitVec.ofNat 64 (d.ring + 128 * (d.rd % 2 ^ d.size))) 0 128 = .ok bs →
        (s1.agentTouch t.ctx 0 (BitVec.ofNat 64 (d.ring + 128 * (d.rd % 2 ^ d.size))) 0 128).agentWrite State.noWarp t.ctx (s1.queueVa t.ctx t.q + 16#64) 0 (leBytes 8 (d.rd + 1)) = .ok s2 →
        (s1.agentReady t.ctx (s1.queueVa t.ctx t.q + 16#64) 8 = true → exec (.slotFetch n) s = .next (s2.deliver t.ctx t.q (BitVec.ofNat 1024 (leNat bs)))) ∧
        (s1.agentReady t.ctx (s1.queueVa t.ctx t.q + 16#64) 8 = false → exec (.slotFetch n) s = .next s1)))) ∧
  (∀ (s : State) (x q : Nat) (h : LHdr), ∃ nd, (s.deliver x q h).nodes = s.nodes ++ [(tfresh s.nodes, nd)] ∧
    nd.ctx = x ∧ nd.queue = q ∧ nd.hdr = h ∧ nd.st = .wait ∧ (h.bad = true → nd.bad ≠ none) ∧
    ∀ k, k ∈ nd.deps ↔ ∃ p ∈ s.nodes, p.1 = k ∧ p.2.ctx = x ∧ p.2.queue = q ∧ (State.tilesMeet nd.tiles p.2.tiles = true ∨ h.kind = 3 ∨ LHdr.kind p.2.hdr = 3)) ∧
  (∀ a b : List (Int × Int × Bool), State.tilesMeet a b = true ↔
    ∃ p ∈ a, ∃ q ∈ b, p.1 ≤ q.2.1 ∧ q.1 ≤ p.2.1 ∧ (p.2.2 = true ∨ q.2.2 = true)))

/-- R350–R352, R355, R460: the life of a node. It becomes READY when what it depends on is DONE and its waits are met, and a launch with blocks
then runs; a convolution node goes to the engine with the shortest queue, a Seam node to the dispatcher; a node with nothing more to do
writes its completion entry, advances its counter and leaves the pool. -/
def Obligations.NodeLifecycle : Prop :=
  let kind := fun (nd : Node) => LHdr.kind nd.hdr
  (∀ (id : Nat) (s : State), s.node? id = none → exec (.nodeReady id) s = .next s ∧ exec (.convNodeDispatch id) s = .next s ∧ exec (.seamNodeDispatch id) s = .next s) ∧
  (∀ (id : Nat) (s : State) (nd : Node), s.node? id = some nd →
    let met := (∀ p ∈ LHdr.waits nd.hdr, p.2.toNat ≤ s.timeline nd.ctx p.1) ∧ ∀ d ∈ nd.deps, s.node? d = none
    (nd.st ≠ .wait ∨ ¬met ∨ s.resident nd.ctx = false → exec (.nodeReady id) s = .next s) ∧
    (nd.st = .wait → met → s.resident nd.ctx = true → (nd.bad ≠ none ∨ kind nd ≠ 0 ∨ (LHdr.argn nd.hdr = 0 ∧ LHdr.indir nd.hdr = false)) →
      ∃ t, exec (.nodeReady id) s = .next t ∧ t = { s with nodes := t.nodes, rdyOrder := s.rdyOrder + 1, code := s.code.filter fun p => p.1 / 2048 != id } ∧
        t.node? id = some { nd with st := if nd.bad = none ∧ kind nd = 0 ∧ nd.nblk ≠ 0 then .run else .ready, readyAt := s.rdyOrder } ∧
        ∀ k, k ≠ id → t.node? k = s.node? k) ∧
    (nd.st = .wait → met → s.resident nd.ctx = true → nd.bad = none → kind nd = 0 → LHdr.argn nd.hdr ≠ 0 → LHdr.indir nd.hdr = false →
      ∀ bs, (State.agentRead { s.modNode id (fun n => { n with st := .ready, readyAt := s.rdyOrder }) with
          rdyOrder := s.rdyOrder + 1, code := s.code.filter fun p => p.1 / 2048 != id } nd.ctx 0 (LHdr.argp nd.hdr) 0
        (8 * LHdr.argn nd.hdr)) = .ok bs →
      ∃ t, exec (.nodeReady id) s = .next t ∧ ∀ n, t.node? id = some n → n.st = (if nd.nblk ≠ 0 then .run else .ready) ∧
        n.args = (List.range (LHdr.argn nd.hdr)).map fun i => BitVec.ofNat 64 (leNat ((bs.drop (8 * i)).take 8)))) ∧
  (∀ (id : Nat) (s : State) (nd : Node), s.reap.node? id = some nd →
    (s.reap.nodeFinished nd = false → exec (.nodeDone id) s = .next s.reap) ∧
    (LHdr.cep nd.hdr ≠ 0 → s.reap.agentReady nd.ctx (LHdr.cep nd.hdr) 32 = false → exec (.nodeDone id) s = .next s.reap) ∧
    (s.reap.nodeFinished nd = true → LHdr.cep nd.hdr = 0 ∨ s.reap.agentReady nd.ctx (LHdr.cep nd.hdr) 32 = true →
      let e := match nd.bad with
        | some (c, d, a) => ({ cls := c, detail := d, unit := 0x693, addr := a, nerr := 1 } : ErrRec)
        | none => nd.err
      let s1 := if LHdr.cep nd.hdr = 0 then s.reap else s.reap.writeEntry nd.ctx (LHdr.cep nd.hdr) e
      let s2 := if LHdr.tle nd.hdr then s1.signal nd.ctx (LHdr.tlc nd.hdr) (LHdr.target nd.hdr) else s1
      exec (.nodeDone id) s = .next { s2 with nodes := tdel s2.nodes id })) ∧
  (∀ (s : State) (nd : Node), s.nodeFinished nd = true ↔
    (nd.st = .ready ∧ (nd.bad ≠ none ∨ kind nd = 3 ∨ (kind nd = 0 ∧ nd.nblk = 0 ∧ (LHdr.indir nd.hdr = false ∨ nd.counted = true)))) ∨
    (nd.st = .drain ∧ (if kind nd = 0 then nd.live = [] else nd.busy = false ∧ ∀ r ∈ s.replicas, r.owner ≠ State.noWarp))) ∧
  (∀ e : ErrRec, e.bytes.length = 32 ∧ leNat (e.bytes.take 8) = e.cls % 16 + 256 * (e.detail % 256) + 65536 * (e.unit % 4096) + 2 ^ 31 + 2 ^ 32 * min e.nerr (2 ^ 32 - 1) ∧
    leNat ((e.bytes.drop 8).take 8) = e.addr % 2 ^ 56) ∧
  (∀ s : State, s.shortestEngine < 160 ∧ ∀ e < 160, (tget [] s.conv s.shortestEngine).length ≤ (tget [] s.conv e).length) ∧
  (∀ (id : Nat) (s : State) (nd : Node), s.node? id = some nd →
    let e := s.shortestEngine
    let may := nd.st = .ready ∧ nd.bad = none ∧ kind nd = 2 ∧ s.resident nd.ctx = true ∧ (tget [] s.conv e).length < convRoom
    (¬may → exec (.convNodeDispatch id) s = .next s) ∧
    (∀ x, may → s.agentRead nd.ctx (e / 20) (LHdr.entry nd.hdr) 0 128 = .error x → exec (.convNodeDispatch id) s = .next (s.nodeFails id x)) ∧
    (∀ bs, may → s.agentRead nd.ctx (e / 20) (LHdr.entry nd.hdr) 0 128 = .ok bs →
      let s1 := s.agentTouch nd.ctx (e / 20) (LHdr.entry nd.hdr) 0 128
      exec (.convNodeDispatch id) s = .next (State.modNode { s1 with conv := tset s1.conv e (tget [] s1.conv e ++
        [{ ctx := nd.ctx, core := 8 * e, blk := none, place := (LHdr.entry nd.hdr).toNat, node := some id, fields := BitVec.ofNat 768 (leNat (bs.take 96)) }]) } id
        fun n => { n with st := .drain, busy := true }))) ∧
  (∀ (id : Nat) (s : State) (nd : Node), s.node? id = some nd →
    let queued := (s.tasks.filter fun p => p.2.st = .queued).length
    let may := nd.st = .ready ∧ nd.bad = none ∧ kind nd = 1 ∧ s.resident nd.ctx = true ∧ queued < 256
    (¬may → exec (.seamNodeDispatch id) s = .next s) ∧
    (∀ x, may → s.agentRead nd.ctx 0 (LHdr.entry nd.hdr) 0 128 = .error x → exec (.seamNodeDispatch id) s = .next (s.nodeFails id x)) ∧
    (∀ bs, may → s.agentRead nd.ctx 0 (LHdr.entry nd.hdr) 0 128 = .ok bs →
      exec (.seamNodeDispatch id) s = .next (((s.agentTouch nd.ctx 0 (LHdr.entry nd.hdr) 0 128).addTask nd.ctx (some id) bs).modNode id
        fun n => { n with st := .drain, busy := true })))

/-- R99, R119, R346, R353, R354, R357, R359: placing blocks and choosing warps. A step of placement puts the next blocks of a node on cores
that meet every condition, a node passed over for 100,000 cycles may reserve cores, and one that cannot be placed asks blocks of lower
priority to yield. A warp starts at ENTRY with every lane and member on; a warp out of a full active set for 256 cycles displaces the one
that has been in it longest. -/
def Obligations.PlacementAndActiveSet : Prop :=
  (∀ (h : LHdr) (x core slot blk pos : Nat) (info : LaunchInfo) (args : List Word) (now : Nat), h.pod ≤ 16 →
    let w := startWarp h x core slot blk pos info args now
    w.pc = h.entry ∧ w.sup = false ∧ w.st = .out ∧ w.ended = false ∧ w.p = h.pod ∧ w.paths = [] ∧ w.jmBusy = 0 ∧ w.log = [] ∧ w.mm = BitVec.ofNat 16 (2 ^ h.pod - 1) ∧
    w.banks.length = h.pod ∧ (∀ m, m < h.pod → (w.bank m).em = ~~~0#96 ∧ (w.bank m).exited = 0 ∧ (w.bank m).dead = 0 ∧
      (w.bank m).num = 16 * (pos % h.crew) + m ∧ (w.bank m).midx = BitVec.ofNat 16 (h.mbase + pos % h.crew * h.pod + m)) ∧
    ∀ i, tget 0 w.s i = args.getD i 0) ∧
  (∀ (id : Nat) (cores : List Nat) (s : State) (nd : Node), s.reap.node? id = some nd →
    let s0 := s.reap
    (¬(∃ p ∈ s0.placing, p.1 = id) → exec (.blockPlace id cores) s = .next s0) ∧
    ((∃ p ∈ s0.placing, p.1 = id) → nd.st ≠ .ready → nd.next < nd.nblk → cores.length = (if LHdr.phased nd.hdr then nd.nblk else LHdr.cgs nd.hdr) →
      (∀ g ∈ State.groupsOf (LHdr.cgs nd.hdr) cores, State.oneCluster g = true) → (∀ c ∈ cores, s0.unreserved id c = true) → s0.firstInTurn id nd = true →
      (∀ p ∈ s0.savedOf id, ∀ c < 1280, s0.restoreFits id nd p.2 c = false) →
      (s0.placeAll id nd nd.next cores = none → exec (.blockPlace id cores) s = .next s0) ∧
      (∀ s1, s0.placeAll id nd nd.next cores = some s1 →
        exec (.blockPlace id cores) s = .next (((s1.passOver id nd).modNode id fun n => { n with next := n.next + cores.length }).drainIfPlaced id)))) ∧
  (∀ (s : State) (id : Nat) (nd : Node) (b c : Nat) (rest : List Nat), s.placeAll id nd b (c :: rest) =
    if s.coreFits nd.ctx nd.hdr c = true then (s.placeBlock id nd b c).placeAll id nd (b + 1) rest else none) ∧
  (∀ (s : State) (x : Nat) (h : LHdr) (core : Nat), s.coreFits x h core = true → core < 1280 ∧ h.slots ≤ (s.freeSlots core).length ∧
    (s.held core).foldl (fun n p => n + p.2.ns) h.near ≤ 491520 ∧ (s.held core).foldl (fun n p => n + p.2.srec) h.srec ≤ 32) ∧
  (∀ (id : Nat) (cores : List Nat) (s : State), (∀ p ∈ s.placing, p.1 ≠ id) → exec (.placementReserve id cores) s = .next s ∧ exec (.preqRaise id) s = .next s) ∧
  (∀ (id : Nat) (cores : List Nat) (s : State) (nd : Node), (s.placing.find? fun p => p.1 = id) = some (id, nd) →
    (s.canPlace id nd = true → exec (.placementReserve id cores) s = .next s) ∧
    (s.canPlace id nd = false → nd.passedAt = none → exec (.placementReserve id cores) s = .next (s.modNode id fun n => { n with passedAt := some s.cycle })) ∧
    (∀ t, s.canPlace id nd = false → nd.passedAt = some t →
      let may := t + 100000 ≤ s.cycle ∧ cores ≠ [] ∧ (∀ c ∈ cores, c < 1280 ∧ s.unreserved id c = true) ∧
        ∀ g ∈ State.groupsOf (LHdr.cgs nd.hdr) cores, State.oneCluster g = true
      (may → exec (.placementReserve id cores) s = .next (s.modNode id fun n => { n with reserved := cores })) ∧
      (¬may → exec (.placementReserve id cores) s = .next s)) ∧
    (let asked := (s.blocks.filter fun p => p.2.preq.getLsbD 0 && p.2.st = .resident).map (·.1)
     ((s.without asked).canPlace id nd = true → exec (.preqRaise id) s = .next s) ∧
     ((s.without asked).canPlace id nd = false → s.victim (s.ctx nd.ctx).prio = none → exec (.preqRaise id) s = .next s) ∧
     (∀ k b, (s.without asked).canPlace id nd = false → s.victim (s.ctx nd.ctx).prio = some (k, b) →
       exec (.preqRaise id) s = .next ((s.together k b).foldl (fun s k => s.raiseReq k 1) s)))) ∧
  (∀ (s : State) (p k : Nat) (b : Block), s.victim p = some (k, b) → (k, b) ∈ s.blocks ∧ b.st = .resident ∧ (s.ctx b.ctx).prio < p ∧ b.preq.getLsbD 0 = false) ∧
  (∀ (c k : Nat) (s : State) (w : Warp), s.warp? (warpKey c k) = some w →
    exec (.warpWake c k) s = .next (if w.st = .wait then s.putWarp { w.awake with waitSince := s.coreCycle w.core } else s.putWarp w)) ∧
  (∀ (c k : Nat) (s : State), s.warp? (warpKey c k) = none → exec (.warpWake c k) s = .next s ∧ exec (.activeSetDisplace c k) s = .next s) ∧
  (∀ (c k : Nat) (s : State) (w : Warp), s.warp? (warpKey c k) = some w →
    let set := (s.warps.map (·.2)).filter fun x => x.core = c && !x.foreman && x.st = .act
    let may := w.foreman = false ∧ w.st = .out ∧ 8 ≤ set.length ∧ w.waitSince + 256 ≤ s.coreCycle c
    (¬may → exec (.activeSetDisplace c k) s = .next s) ∧
    (may → ∃ y ∈ set, (∀ z ∈ set, y.waitSince < z.waitSince ∨ (y.waitSince = z.waitSince ∧ y.slot ≤ z.slot)) ∧
      exec (.activeSetDisplace c k) s = .next ((s.putWarp { y with st := .out, waitSince := s.coreCycle c }).putWarp { w with st := .act, waitSince := s.coreCycle c })))

/-- R288, R365, R369, R403: a command form whose operands are common makes one attempt for all members, one with private operands one for each active
member in turn. What the attempt does becomes the
machine, and its result reaches the destination; `qpush` stores its record at WR, moves WR on and rings the queue's doorbell, and answers
all ones where the queue cannot take it. An instruction whose command a fault holds waits for it, and retires with its result. `qdoor` rings one doorbell for each value of its operand. -/
def Obligations.CommandForms : Prop :=
  let rule := fun (mk : FormM → Instr) (opc : BitVec 9) (dst : FormM → Spec) (hasB : Bool) => ∀ (f : FormM) (s : State) (w : Warp),
    s.curWarp = some w → w.tx = none → Warp.never f.h = false → w.active ≠ [] → w.heldCommand = none → ((∃ n, dst f = .scl n) ∨ dst f = .imm 0) →
    let os : List Warp.Operand := (⟨f.addr, 0, f.fa⟩, 1) :: (if hasB then [(f.data, 1)] else [])
    let m := w.active.headD 0
    let ea := w.ea f.addr f.off m 0
    w.anyPrivate (os.map (·.1)) = false → w.Clear f.h (w.needs os ++ w.needsDst 1 (dst f)) false false →
    (ea.toNat % 128 ≠ 0 → Traps (mk f) s w { cls := 11, slot := m, detail := ea }) ∧
    (ea.toNat % 128 = 0 → releaseBusy s w true = true ∨ w.freeEntry = none → Waits (mk f) s w .log) ∧
    (ea.toNat % 128 = 0 → releaseBusy s w true = false → w.freeEntry ≠ none →
      (s.attempt w w.sup opc m ea (if hasB then (w.scl m f.data).toNat else 0) = .wait → Waits (mk f) s w .queue) ∧
      (∀ t r, s.attempt w w.sup opc m ea (if hasB then (w.scl m f.data).toNat else 0) = .did t r →
        let w1 := (t.warp? w.key).getD w
        exec (mk f) s = .next (t.finish w (.fall (match dst f with | .scl n => (m :: w.active).foldl (fun (w : Warp) k => w.sput k n.toNat r) w1 | _ => w1)))))
  let each := fun (mk : FormM → Instr) (opc : BitVec 9) (dst : FormM → Spec) (hasB : Bool) => ∀ (f : FormM) (s : State) (w : Warp),
    s.curWarp = some w → w.tx = none → Warp.never f.h = false → w.heldCommand = none →
    let os : List Warp.Operand := (⟨f.addr, 0, f.fa⟩, 1) :: (if hasB then [(f.data, 1)] else [])
    let ea := fun (m : Nat) => w.ea f.addr f.off m 0
    let tried := w.active.foldlM (fun (x : State × List (Nat × Word)) m =>
      match x.1.attempt w w.sup opc m (ea m) (if hasB then (w.scl m f.data).toNat else 0) with
      | .did t r => some (t, x.2 ++ [(m, r)])
      | _ => none) (s, [])
    ((∃ n, dst f = .scl n) ∨ dst f = .imm 0) → w.anyPrivate (os.map (·.1)) = true →
    w.Clear f.h (w.needs os ++ w.needsDst 1 (dst f)) false (match dst f with | .scl n => decide (n.toNat < 128) | _ => false) →
    (∀ m, (w.active.find? fun m => (ea m).toNat % 128 != 0) = some m → Traps (mk f) s w { cls := 11, slot := m, detail := ea m }) ∧
    ((∀ m ∈ w.active, (ea m).toNat % 128 = 0) → w.active ≠ [] → releaseBusy s w true = false → w.freeEntry ≠ none → ∀ t rs, tried = some (t, rs) →
      let w1 := (t.warp? w.key).getD w
      exec (mk f) s = .next (t.finish w (.fall (match dst f with | .scl n => rs.foldl (fun (w : Warp) p => w.sput p.1 n.toNat p.2) w1 | _ => w1))))
  rule .qpush 0x180 (fun f => f.dst) true ∧ rule .seamgo 0x18B (fun _ => .imm 0) false ∧
  each .qpush 0x180 (fun f => f.dst) true ∧ each .seamgo 0x18B (fun _ => .imm 0) false ∧
  (∀ (f : FormM) (s : State) (w : Warp) (e : LogEntry), s.curWarp = some w → w.tx = none → w.heldCommand = some e →
    ((∃ p ∈ e.parts, p.ok = false) → Waits (.qpush f) s w .log) ∧
    ((∀ p ∈ e.parts, p.ok = true) → Retires (.qpush f) s w ((e.parts.filter fun p => !p.dead).foldl (fun w p => w.putResult e p.slot (p.data.setWidth 64))
      { w with log := w.log.filter fun x => x.seq != e.seq }))) ∧
  (∀ (s : State) (w : Warp) (sup : Bool) (m : Nat) (ea : Word) (q : Nat),
    let va := s.queueVa w.ctx q
    ((s.ctx w.ctx).qmax < q → s.attempt w sup 0x180 m ea q = .did s (~~~0#64)) ∧
    (∀ ps ps', q ≤ (s.ctx w.ctx).qmax → s.pageLocate w.ctx va 0 24 .read false = .ok ps → s.pageLocate w.ctx va 0 16 .write false = .ok ps' →
      let d := QDesc.ofNat (leNat (s.agentBytes w.ctx 0 va 0 ps))
      (d.valid = false ∨ d.wr - d.rd = 2 ^ d.size → s.attempt w sup 0x180 m ea q = .did s (~~~0#64)) ∧
      (∀ bs ps'', d.valid = true → d.wr - d.rd ≠ 2 ^ d.size → s.cmdRead w sup m ea 128 = .inr bs →
        s.pageLocate w.ctx (d.place d.wr) 0 128 .write false = .ok ps'' →
        (s.agentReady w.ctx (d.place d.wr) 128 = false ∨ s.agentReady w.ctx (va + 8#64) 8 = false → s.attempt w sup 0x180 m ea q = .wait) ∧
        (s.agentReady w.ctx (d.place d.wr) 128 = true → s.agentReady w.ctx (va + 8#64) 8 = true → s.attempt w sup 0x180 m ea q = .did (State.doorbell (((s.agentTouch w.ctx (dieOf w.core) ea (State.midxOf w m) 128 sup w.core).agentStore w.ctx (d.place d.wr) bs).agentStore w.ctx (va + 8#64)
          (leBytes 8 (d.wr + 1))) w.ctx q) (BitVec.ofNat 64 d.wr))))) ∧
  (∀ (s : State) (w : Warp) (sup : Bool) (m arg : Nat) (ea : Word),
    (256 ≤ s.seamQueue → s.attempt w sup 0x18B m ea arg = .wait) ∧
    (∀ bs, s.seamQueue < 256 → s.cmdRead w sup m ea 128 = .inr bs →
      s.attempt w sup 0x18B m ea arg = .did ((s.agentTouch w.ctx (dieOf w.core) ea (State.midxOf w m) 128 sup w.core).addTask w.ctx none bs) 0)) ∧
  (∀ (f : FormR) (s : State) (w : Warp), s.curWarp = some w → w.tx = none → Warp.never f.h = false → w.Clear f.h (w.needs [(f.b, 1)]) false false →
    (releaseBusy s w true = true → Waits (.qdoor f) s w .log) ∧
    (releaseBusy s w true = false →
      let ms := if w.anyPrivate [f.b] then w.active else [w.active.headD 0]
      exec (.qdoor f) s = .next ((ms.foldl (fun s m => if (w.scl m f.b).toNat ≤ (s.ctx w.ctx).qmax then s.doorbell w.ctx (w.scl m f.b).toNat else s) s).retire w w)))

/-- R356, R362, R366–R368: what a launch fixes can be read; a warp of a launch that is not phase-led raises its block's phase at once, a warp of
one that is waits for the others, and the phase rises with no block more than PHL ahead of a neighbour; the decision queue holds 64 entries
and the mailbox 16, each first in, first out, and a full or an empty one is waited for; the foreman ends at `fmend`. -/
def Obligations.PhasesAndMailboxes : Prop :=
  (∀ f : FormR, SclRuleNT (.lhrd f) f.h f.dst (fun _ _ => True) fun _ w _ => BitVec.ofNat 64
    (if f.x = 0 then w.info.b else if f.x = 1 then w.info.pos else if f.x = 2 then w.info.nblk else if f.x = 3 then w.info.queue
     else if f.x = 4 then w.info.foff * 2 ^ 20 else w.core)) ∧
  (∀ f : FormR, SclRuleNT (.phrd f) f.h f.dst (fun s w => ∃ b, s.block? w.blk = some b) fun s w _ =>
    let b := (s.block? w.blk).getD { node := 0, ctx := 0, b := 0, core := 0 }
    let ns := (s.neighbours b).map fun n => n.ph.toNat
    if f.x = 0 then b.ph else if ns = [] ∨ w.info.phased = false then ~~~0#64
    else BitVec.ofNat 64 (ns.tail.foldl min (ns.headD 0) + (s.headerOf b).phl) - b.ph) ∧
  (∀ (f : FormR) (s : State) (w : Warp), s.curWarp = some w → w.tx = none →
    (Warp.never f.h = true → Retires (.advance f) s w w) ∧
    (Warp.never f.h = false → releaseBusy s w true = true → Waits (.advance f) s w .log) ∧
    (Warp.never f.h = false → releaseBusy s w true = false → w.info.phased = false →
      exec (.advance f) s = .next ((s.modBlock w.blk fun b => { b with ph := b.ph + 1 }).retire w w)) ∧
    (Warp.never f.h = false → releaseBusy s w true = false → w.info.phased = true →
      let s1 := s.putWarp { w with rdv := some .advance, st := .wait, waitOn := some .rendezvous }
      (s1.phaseMay w.blk = true → ∃ t, exec (.advance f) s = .next t ∧ t.block? w.blk = (s1.phaseUp w.blk).block? w.blk) ∧
      (s1.phaseMay w.blk = false → ∃ t w1, exec (.advance f) s = .next t ∧ t = { s with warps := t.warps } ∧ t.warp? w.key = some w1 ∧
        w1.pc = w.pc ∧ w1.retired = w.retired ∧ w1.rdv = some .advance ∧ w1.waitOn = some .rendezvous))) ∧
  (∀ (blk : Nat) (s : State), (s.phaseMay blk = false → exec (.phaseRise blk) s = .next s) ∧ (s.phaseMay blk = true → exec (.phaseRise blk) s = .next (s.phaseUp blk))) ∧
  (∀ (k : Nat) (s : State) (b : Block) (w : Warp), s.block? k = some b → s.advancing k = [w] → s.warp? w.key = some w →
    (s.phaseUp k).block? k = some { b with ph := b.ph + 1 } ∧ ∃ w1, (s.phaseUp k).warp? w.key = some w1 ∧ w1.pc = w.pc + 12#64 ∧ w1.rdv = none ∧
      w1.retired = w.retired + 1) ∧
  (∀ (k : Nat) (s : State) (b : Block), s.block? k = some b → (s.phaseMay k = true ↔ b.savedWarps = [] ∧ s.advancing k ≠ [] ∧
    (∀ w ∈ s.advancing k, w.rdv = some .advance) ∧ ∀ n ∈ s.neighbours b, b.ph.toNat + 1 ≤ n.ph.toNat + (s.headerOf b).phl)) ∧
  (∀ (f : FormR) (s : State) (w : Warp) (b : Block), s.curWarp = some w → w.tx = none → Warp.never f.h = false → s.block? w.blk = some b →
    let ms := if w.anyPrivate [f.a, f.b] then w.active else [w.active.headD 0]
    let dest := fun (m : Nat) => (w.scl m f.b).toNat
    let live := fun (m : Nat) => dest m < b.wpb && s.warpLives w.blk (dest m)
    let adds := ms.filter live
    w.Clear f.h (w.needs [(f.a, 1), (f.b, 1)]) false false →
    (live (w.active.headD 0) = true → releaseBusy s w false = true → Waits (.dqpush f) s w .log) ∧
    (live (w.active.headD 0) = false ∨ releaseBusy s w false = false →
      (adds ≠ [] → 64 < b.dq.length + adds.length → Waits (.dqpush f) s w .queue) ∧
      (adds = [] ∨ b.dq.length + adds.length ≤ 64 →
        exec (.dqpush f) s = .next ((s.modBlock w.blk fun _ => { b with dq := b.dq ++ adds.map fun m => (w.scl m f.a, dest m) }).retire w w)))) ∧
  (∀ (f : FormR) (s : State) (w : Warp) (b : Block), s.curWarp = some w → w.tx = none → Warp.never f.h = false → s.block? w.blk = some b →
    (f.dst.num < 128 ∨ w.active ≠ []) → (∃ n, f.dst = .scl n) → w.Clear f.h (w.needsDst 1 f.dst) false false →
    let take := fun (i : Instr) (b1 : Block) (v : Word) =>
      let w1 := w.sclWrite f.dst.num fun _ => v
      let s1 := ((s.modBlock w.blk fun _ => b1).putWarp w1).acquireBy w.key w.core 1
      exec i s = .next (s1.finish w (.fall ((s1.warp? w.key).getD w1)))
    (∀ i, (b.dq.findIdx? fun e => e.2 = w.info.pos) = some i → take (.dqpop f) { b with dq := b.dq.eraseIdx i } ((b.dq.getD i (0, 0)).1)) ∧
    ((∀ e ∈ b.dq, e.2 ≠ w.info.pos) → (s.foremanLives w.blk = true → Waits (.dqpop f) s w .queue) ∧
      (s.foremanLives w.blk = false → Traps (.dqpop f) s w { cls := 17 })) ∧
    (∀ v rest, b.mbox = v :: rest → take (.fmrecv f) { b with mbox := rest } v) ∧
    (b.mbox = [] → ((∃ p < b.wpb, s.warpLives w.blk p = true) → Waits (.fmrecv f) s w .queue) ∧
      ((∀ p < b.wpb, s.warpLives w.blk p = false) → Traps (.fmrecv f) s w { cls := 17 })) ∧
    exec (.dqstat f) s = .next ((s.modBlock w.blk fun _ => b).retire w (w.sclWrite f.dst.num fun _ => BitVec.ofNat 64
      (if w.foreman then (64 - b.dq.length) + 2 ^ 32 * b.mbox.length else (b.dq.filter fun e => e.2 = w.info.pos).length + 2 ^ 32 * (16 - b.mbox.length))))) ∧
  (∀ (f : FormR) (s : State) (w : Warp) (b : Block), s.curWarp = some w → w.tx = none → Warp.never f.h = false → s.block? w.blk = some b →
    let ms := if w.anyPrivate [f.a] then w.active else [w.active.headD 0]
    w.Clear f.h (w.needs [(f.a, 1)]) false false →
    (releaseBusy s w false = true → Waits (.fmpost f) s w .log) ∧
    (releaseBusy s w false = false → ms ≠ [] → 16 < b.mbox.length + ms.length → Waits (.fmpost f) s w .queue) ∧
    (releaseBusy s w false = false → b.mbox.length + ms.length ≤ 16 →
      exec (.fmpost f) s = .next ((s.modBlock w.blk fun _ => { b with mbox := b.mbox ++ ms.map fun m => w.scl m f.a }).retire w w))) ∧
  (∀ (f : FormR) (s : State) (w : Warp), s.curWarp = some w → w.tx = none →
    (Warp.never f.h = true → Retires (.fmend f) s w w) ∧
    (let over' := w.log = [] ∧ w.copies.opened = [] ∧ w.copies.closed = [] ∧ ∀ r ∈ s.replicas, r.owner ≠ w.key
     Warp.never f.h = false → (over' → Leaves (.fmend f) s w w.endWarp) ∧ (¬over' → Waits (.fmend f) s w .log)))

/-! ## Traps, pre-emption, the monitor and the system registers (R396–R421) -/

/-- R396–R402: taking a trap. Handled, it saves the trap pc, INFO, the detail and the return pc in the record with s120–s127 and mm, selects the
record's member, enters supervisor mode and goes to the class's handler; unhandled (no handler, the foreman, or supervisor mode already),
it writes class 6 to the launch's error record and aborts the block. The handler is entered once what the warp has issued is complete or held.
R401, R403, R404, R421: the software trap raises class 22 at its own pc with its immediate as detail; the trap record is read by `trrd`; a
return leaves supervisor mode and brings s120–s127, mm and the loop state back. Of a trap of the whole warp, `tret` issues the
trapping instruction again, or goes past a software trap; `tret.skip` goes past it; `tret.to` goes to its address. In user mode
`trrd` and the returns raise the privilege trap. -/
def Obligations.TrapEntryAndForms : Prop :=
  (
  let vec := fun (s : State) (w : Warp) => (s.ctx w.ctx).trapvec &&& 0x00FFFFFFFFFFFFFC#64
  let entered := fun (w w1 : Warp) (base trapPc retPc detail info : Word) (slot cls pend : Nat) =>
    w1.sup = true ∧ w1.pc = base + BitVec.ofNat 64 (128 * cls) ∧ w1.mm = 1#16 <<< slot ∧ w1.recMm = w.mm ∧ w1.lcSaved = w.lc ∧
    (w1.record.take 8 = [info, trapPc, detail, retPc, BitVec.ofNat 64 pend, 0, 0, 0]) ∧ (∀ i < 8, w1.record.getD (8 + i) 0 = tget 0 w.s (120 + i)) ∧
    w1.s = w.s ∧ w1.v = w.v ∧ w1.banks = w.banks ∧ w1.paths = w.paths ∧ w1.lc = w.lc ∧ w1.key = w.key
  (∀ (s : State) (w : Warp) (t : TrapReq) (pc : Word),
    let w0 := w.trapAbort (if t.cls = 2 || t.cls = 11 then t.detail else 0)
    ∃ w1, s.enterHandler w t pc false = s.putWarp w1 ∧ w1.recEntry = none ∧ w1.log = w0.log ∧
      entered w0 w1 (vec s w0) pc w0.pc t.detail (trapInfo t w0.curPath 0 false) t.slot t.cls w0.pendingFaults.length) ∧
  (∀ (w : Warp) (a : Word), w.tx = none → w.trapAbort a = w) ∧
  (∀ (s : State) (w : Warp) (t : TrapReq) (pc : Word), w.foreman = false → vec s w ≠ 0 → w.sup = false →
    (w.log = [] → s.mxOf w = [] → s.takeTrap w t pc = s.enterHandler w t pc false) ∧
    (w.log ≠ [] ∨ s.mxOf w ≠ [] → w.tx = none → s.takeTrap w t pc = s.putWarp { w.awake with trapDue := some (t, pc, false) })) ∧
  (∀ (s : State) (w : Warp) (t : TrapReq) (pc : Word), w.foreman = true ∨ vec s w = 0 ∨ w.sup = true →
    s.takeTrap w t pc = ((s.putWarp (w.trapAbort 0)).blockError w.blk 6 t.cls w.core pc.toNat).abortBlock w.blk) ∧
  (∀ (s : State) (w : Warp) (t : TrapReq) (pc : Word) (back : Bool), s.boundary w = none → w.trapDue = some (t, pc, back) →
    s.frontWarp w = (if s.settled w then s.enterHandler w t pc back else s, none)) ∧
  (∀ (s : State) (b : Nat), ∀ p ∈ (s.abortBlock b).warps, p.2.blk = b → p.2.ended = true ∧ p.2.st = .free ∧ p.2.log = [] ∧ p.2.tx = none) ∧
  (∀ (s : State) (b k : Nat) (x : Block), s.block? k = some x → (s.abortBlock b).block? k = some (if k = b then { x with aborted := true } else x)) ∧
  (∀ (s : State) (b cls detail unit addr : Nat) (x : Block) (n : Node), s.block? b = some x → s.node? x.node = some n →
    (s.blockError b cls detail unit addr).node? x.node = some { n with err := n.err.add cls detail unit addr }) ∧
  (∀ (t : TrapReq) (path log : Nat) (lane : Bool), t.cls < 256 → t.cause < 256 → t.slot < 16 → t.lane < 128 → path < 4 → log < 8 →
    let x := trapInfo t path log lane
    x.extractLsb' 0 8 = BitVec.ofNat 8 t.cls ∧ x.extractLsb' 8 8 = BitVec.ofNat 8 t.cause ∧ x.extractLsb' 16 4 = BitVec.ofNat 4 t.slot ∧
    x.extractLsb' 20 7 = BitVec.ofNat 7 t.lane ∧ x.extractLsb' 27 2 = BitVec.ofNat 2 path ∧ x.extractLsb' 29 3 = BitVec.ofNat 3 log ∧
    x.getLsbD 32 = lane ∧ x.extractLsb' 33 31 = 0) ∧
  (∀ (s : State) (w : Warp) (e : LogEntry) (p : Part) (cls cause : Nat) (addr : Word), p.fault = some (cls, cause, addr) →
    let w0 := w.trapAbort addr
    (w.foreman = false → vec s w ≠ 0 → e.sup = false → ∃ w1, s.takeLaneFault w e p = s.putWarp w1 ∧ w1.recEntry = some e.seq ∧
      entered w0 w1 (vec s w) e.pc w0.pc addr (trapInfo { cls := cls, cause := cause, slot := p.slot, lane := p.lane % 96, detail := addr } (e.path % 4) e.idx true)
        p.slot cls (w.pendingFaults.length - 1) ∧
      w1.log = w0.log.map fun x => if x.seq = e.seq then
        { x with parts := x.parts.map fun q => if q.slot = p.slot && q.lane = p.lane then { q with inRec := true } else q } else x) ∧
    (w.foreman = true ∨ vec s w = 0 ∨ e.sup = true → s.takeLaneFault w e p = (s.blockError w.blk 6 cls w.core e.pc.toNat).abortBlock w.blk)) ∧
  (∀ (c k : Nat) (s : State) (w : Warp), s.warp? (warpKey c k) = some w →
    let due := w.pendingFaults.filter fun p => !p.2.inRec && !p.2.retry && (p.1.sup || !w.sup)
    let stopped := w.ended = true ∨ w.st = .free ∨ w.st = .save ∨ s.settled w = false
    (due = [] ∨ stopped → exec (.trapDeliver c k) s = .next s) ∧
    (due ≠ [] → ¬stopped → ∃ x ∈ due, (∀ y ∈ due, faultFirst y x = false) ∧ exec (.trapDeliver c k) s = .next (s.takeLaneFault w x.1 x.2))) ∧
  (∀ (c k : Nat) (s : State), s.warp? (warpKey c k) = none → exec (.trapDeliver c k) s = .next s)) ∧
  (
  (∀ (f : FormI) (s : State) (w : Warp), s.curWarp = some w → w.tx = none →
    (Warp.never f.h = true → Retires (.trap f) s w w) ∧
    (Warp.never f.h = false → Traps (.trap f) s w { cls := 22, detail := BitVec.ofNat 64 f.imm.toNat })) ∧
  (∀ f : FormR, SclRuleNT (.trrd f) f.h f.dst (fun _ w => w.sup = true ∨ Warp.never f.h = true) fun _ w _ =>
    if f.x.toNat = 4 then BitVec.ofNat 64 (w.pendingFaults.filter fun p => !p.2.inRec).length else w.record.getD f.x.toNat 0) ∧
  (∀ (f : FormR) (s : State) (w : Warp), s.curWarp = some w → w.tx = none → w.sup = false → Warp.never f.h = false → w.Clear f.h (w.needsDst 1 f.dst) false false →
    Traps (.trrd f) s w { cls := 23 }) ∧
  (let rule := fun (mk : FormR → Instr) (mode : Nat) => ∀ (f : FormR) (s : State) (w : Warp), s.curWarp = some w → w.tx = none →
     w.Clear f.h (if mode = 2 then w.needs [(f.a, 1)] else []) false false →
     (Warp.never f.h = true → Retires (mk f) s w w) ∧
     (Warp.never f.h = false → w.sup = false → Traps (mk f) s w { cls := 23 }) ∧
     (Warp.never f.h = false → w.sup = true →
       let w1 := w.trapReturn mode (if mode = 2 then w.scl (w.active.headD 0) f.a else 0)
       let left := (w.log.filter fun e => w1.log.all fun x => x.seq != e.seq).filterMap fun e => match e.acc with | .scales r => some r | _ => none
       let s1 := if left = [] then s else s.modBlock w.blk fun b => { b with scalePend := b.scalePend.filter fun r => !left.contains r }
       exec (mk f) s = .next (s1.putWarp { w1.running with retired := w.retired + 1 }))
   rule .tret 0 ∧ rule .tretSkip 1 ∧ rule .tretTo 2) ∧
  (∀ w : Warp, w.leaveTrap.sup = false ∧ w.leaveTrap.mm = w.recMm ∧ w.leaveTrap.lc = w.lcSaved ∧
    (∀ i < 8, tget 0 w.leaveTrap.s (120 + i) = w.record.getD (8 + i) 0) ∧ (∀ n, n < 120 ∨ 128 ≤ n → tget 0 w.leaveTrap.s n = tget 0 w.s n) ∧
    w.leaveTrap.v = w.v ∧ w.leaveTrap.banks = w.banks ∧ w.leaveTrap.log = w.log ∧ w.leaveTrap.pc = w.pc) ∧
  (∀ (w : Warp) (dest : Word), w.recEntry = none → w.loopTrap = false →
    let soft := (w.record.getD 0 0).extractLsb' 0 8 = 22#8
    (¬soft → w.trapReturn 0 dest = { w.leaveTrap with pc := w.record.getD 1 0, loopDue := false }) ∧
    (soft → (w.trapReturn 0 dest).pc = w.record.getD 1 0 + 12#64 ∧ (w.trapReturn 0 dest).sup = false ∧ (w.trapReturn 0 dest).s = w.leaveTrap.s) ∧
    ((w.trapReturn 1 dest).pc = w.record.getD 1 0 + 12#64 ∧ (w.trapReturn 1 dest).sup = false ∧ (w.trapReturn 1 dest).s = w.leaveTrap.s) ∧
    ((w.trapReturn 2 dest).pc = dest ∧ (w.trapReturn 2 dest).sup = false ∧ (w.trapReturn 2 dest).s = w.leaveTrap.s)) ∧
  (∀ (w : Warp) (dest : Word) (q : Nat), w.recEntry = some q →
    ((w.trapReturn 0 dest).pc = w.record.getD 3 0 ∧ (w.trapReturn 1 dest).pc = w.record.getD 3 0 ∧ (w.trapReturn 2 dest).pc = dest) ∧
    (∀ mode, mode ≤ 2 → (w.trapReturn mode dest).recEntry = none ∧ (w.trapReturn mode dest).sup = false)) ∧
  (∀ (w : Warp) (dest : Word) (e : LogEntry), w.recEntry = some e.seq → w.log = [e] → e.acc = .command → e.dst < 256 → e.pc = w.record.getD 3 0 →
    ∃ x ∈ (w.trapReturn 1 dest).log, x.seq = e.seq))

/-- R405–R407, R416–R419, R421: time, requests and the monitor. `brpq` branches while a request is pending and `yield` then has the warp saved;
`mon` arms the monitor on a line, `mwait` goes on once the line is written or the monitor is not armed, and raises class 21 past its
limit. -/
def Obligations.RequestsAndMonitor : Prop :=
  let asked := fun (s : State) (w : Warp) => ∃ b, s.block? w.blk = some b ∧ b.preq.getLsbD 0 = true
  (∀ (f : FormR) (s : State) (w : Warp), s.curWarp = some w → w.tx = none →
    (Warp.never f.h = true ∨ ¬asked s w → Retires (.yield f) s w w) ∧
    (Warp.never f.h = false → asked s w → exec (.yield f) s = .next (((s.retire w w).beginSave w.key false).endSave w.key))) ∧
  (∀ (f : FormC) (s : State) (w : Warp), s.curWarp = some w → w.tx = none →
    (Warp.never f.h = true ∨ ¬asked s w → Retires (.brpq f) s w w) ∧
    (Warp.never f.h = false → asked s w → Jumps (.brpq f) s w { w with pc := w.pc + 12#64 * f.disp.signExtend 64 })) ∧
  (∀ f : FormR, SclRuleNT (.cycrd f) f.h f.dst (fun _ _ => True) fun s _ _ => BitVec.ofNat 64 s.cycle) ∧
  (∀ f : FormR, SclRuleNT (.ydlrd f) f.h f.dst (fun s w => ¬asked s w) fun _ _ _ => ~~~0#64) ∧
  (∀ (f : FormR) (b : Block), SclRuleNT (.ydlrd f) f.h f.dst (fun s w => s.block? w.blk = some b ∧ b.preq.getLsbD 0 = true) fun s _ _ =>
    BitVec.ofNat 64 (b.deadline - s.coreCycle b.core)) ∧
  (∀ (f : FormM) (s : State) (w : Warp), s.curWarp = some w → s.warp? w.key = some w → w.tx = none → Warp.never f.h = false →
    w.Clear f.h (w.needs [(⟨f.addr, 0, f.fa⟩, 1)]) false false →
    let m := w.active.headD 0
    let ea := w.ea f.addr f.off m 0
    let p : Part := { slot := m, lane := 0, addr := ea }
    (w.heldByFence false = true → Waits (.mon f) s w .memory) ∧
    (w.heldByFence false = false → w.freeEntry = none → Waits (.mon f) s w .log) ∧
    (∀ k, w.heldByFence false = false → w.freeEntry = some k →
      let e := newEntry w k (packM 0x191 f) { acc := .monitor, size := 1 } false [p] 0
      (∀ x, s.locateByte w e p 0 = .error x → Retires (.mon f) s w (w.logEntry { e with parts := [{ p with fault := some x }] })) ∧
      (∀ ph, s.locateByte w e p 0 = .ok ph → exec (.mon f) s = .next (((s.fillFor w p [(0, 0, ph)]).l1Drop w.core (s.readAddr w p 0 ph)).retire w
        { w with mon := { armed := true, line := ea &&& ~~~127#64, pline := ph.pa / 128 * 128, rline := s.readAddr w p 0 ph / 128 * 128,
                          midx := State.midxOf w m } })))) ∧
  (∀ (f : FormR) (s : State) (w : Warp), s.curWarp = some w → w.tx = none → Warp.never f.h = false → w.Clear f.h (w.needs [(f.a, 1)]) false false →
    (∀ e ∈ w.log, e.acc ≠ .monitor) →
    let off : Warp := { w with mon := {}, restored := false }
    let lim := w.scl (w.active.headD 0) f.a
    let dl := if w.mon.deadline ≠ none then w.mon.deadline else if lim = ~~~0#64 then none else some (s.coreCycle w.core + lim.toNat)
    (w.mon.armed = false → Retires (.mwait f) s w off) ∧
    (w.mon.armed = true → w.mon.written = true ∨ w.restored = true → exec (.mwait f) s = .next ((s.l1Drop w.core w.mon.rline).retire w off)) ∧
    (w.mon.armed = true → w.mon.written = false → w.restored = false →
      ((∃ d, dl = some d ∧ d < s.coreCycle w.core) → exec (.mwait f) s = .next (s.takeTrap off { cls := 21, detail := w.mon.line } w.pc)) ∧
      ((∀ d, dl = some d → s.coreCycle w.core ≤ d) → ∃ w1, exec (.mwait f) s = .next (s.putWarp w1) ∧ w1.waitOn = some .monitor ∧ w1.pc = w.pc ∧
        w1.mon = { w.mon with deadline := dl } ∧ w1.key = w.key ∧ w1.retired = w.retired))) ∧
  (∀ (f : FormR) (s : State) (w : Warp), s.curWarp = some w → w.tx = none → Warp.never f.h = false →
    ((∃ e ∈ w.log, e.acc = .monitor) → Waits (.monclr f) s w .log) ∧
    ((∀ e ∈ w.log, e.acc ≠ .monitor) → Retires (.monclr f) s w { w with mon := {} })) ∧
  (∀ (c k : Nat) (s : State) (w : Warp), s.warp? (warpKey c k) = some w →
    let waiting := w.st = .wait ∧ w.waitOn = some .monitor
    exec (.monitorWrite c k) s = .next (s.putWarp (if w.st = .wait ∧ w.waitOn = some .monitor ∧ w.mon.written = true then w.awake else w)) ∧
    (waiting → w.mon.armed = true → w.mon.written = false → (∃ d, w.mon.deadline = some d ∧ d < s.coreCycle w.core) →
      exec (.mwaitTimeout c k) s = .next (s.takeTrap { w with mon := {}, restored := false } { cls := 21, detail := w.mon.line } w.pc)) ∧
    (¬(waiting ∧ w.mon.armed = true ∧ w.mon.written = false ∧ ∃ d, w.mon.deadline = some d ∧ d < s.coreCycle w.core) → exec (.mwaitTimeout c k) s = .next s))

/-- R15, R250, R324, R327, R330, R398, R405, R406, R410, R418, R419, R464: the system registers. A mode that may not read or write one takes the
privilege trap; a read gives the register's value; a write keeps the bits the register holds. A write of TTROOT drops the context's cached translations, one
of SEGTAB reads the table, and TLBINV drops one page's or all; a copy in flight may keep the translations it was given. -/
def Obligations.SystemRegisters : Prop :=
  let num := fun (f : FormR) => (f.x.extractLsb' 0 8).toNat
  (∀ n sup, sysReads n sup = true ↔ sup = true ∨ (n ≠ 8 ∧ n ≠ 9 ∧ n ≠ 10 ∧ n ≠ 12)) ∧
  (∀ n sup, sysWrites n sup = true ↔ n = 1 ∨ n = 2 ∨ (sup = true ∧ (n = 4 ∨ n = 5 ∨ n = 6 ∨ n = 8 ∨ n = 9 ∨ n = 10 ∨ n = 12 ∨ (16 ≤ n ∧ n ≤ 31)))) ∧
  (∀ f : FormR, SclRuleNT (.sysrd f) f.h f.dst (fun _ w => Warp.never f.h = true ∨ sysReads (num f) w.sup = true) fun s w _ => s.sysRead w (num f)) ∧
  (∀ (f : FormR) (s : State) (w : Warp), s.curWarp = some w → w.tx = none → w.Clear f.h (w.needsDst 1 f.dst) false false →
    Warp.never f.h = false → sysReads (num f) w.sup = false → Traps (.sysrd f) s w { cls := 23 }) ∧
  (∀ (s : State) (w : Warp), s.sysRead w 0 = BitVec.ofNat 64 (w.core % 160 + 2 ^ 8 * (w.core / 160) + 2 ^ 11 * (w.core % 160 / 8)) ∧
    s.sysRead w 1 = w.wstat ∧ s.sysRead w 2 = w.pathev ∧ (∀ b, s.block? w.blk = some b → s.sysRead w 3 = b.preq) ∧ s.sysRead w 4 = (s.ctx w.ctx).ydl ∧
    s.sysRead w 5 = (s.ctx w.ctx).trapvec ∧ s.sysRead w 6 = (s.ctx w.ctx).ways ∧ s.sysRead w 7 = tget 0 s.roofst w.core ∧
    s.sysRead w 8 = (s.ctx w.ctx).ttroot ∧ s.sysRead w 9 = (s.ctx w.ctx).segtab ∧ s.sysRead w 11 = BitVec.ofNat 64 s.mscSize ∧
    s.sysRead w 12 = (s.ctx w.ctx).svpool ∧ ∀ n, 16 ≤ n → n ≤ 31 → s.sysRead w n = tget 0 s.counters (counterKey n w.core)) ∧
  (let rule := fun (mk : FormR → Instr) (n : FormR → Nat) (act : State → Warp → Nat → Word → State) => ∀ (f : FormR) (s : State) (w : Warp),
     s.curWarp = some w → w.tx = none → Warp.never f.h = false → (w.active ≠ [] ∨ w.common? f.a.spec = true) → w.Clear f.h (w.needs [(f.a, 1)]) false false →
     (sysWrites (n f) w.sup = false → Traps (mk f) s w { cls := 23 }) ∧
     (sysWrites (n f) w.sup = true → ∀ w1, (act (s.putWarp w) w (n f) (w.scl (w.active.headD 0) f.a)).warp? w.key = some w1 →
       exec (mk f) s = .next ((act (s.putWarp w) w (n f) (w.scl (w.active.headD 0) f.a)).finish w (.fall w1)))
   rule .syswr num (fun s w n v => s.sysWrite w.key w n v) ∧
   rule .ttrootWrite (fun _ => 8) (fun s w _ v => ((s.freeze w.ctx).modCtx w.ctx fun c => { c with ttroot := v &&& 0x000FFFFFFFF00000#64 }).tlbDrop w.ctx true 0) ∧
   rule .segtabWrite (fun _ => 9) (fun s w _ v => ((s.freeze w.ctx).modCtx w.ctx fun c => { c with segtab := v &&& 0x000FFFFFFFFFFF00#64 }).readSegs w.ctx) ∧
   rule .tlbinv (fun _ => 10) (fun s w _ v => (s.freeze w.ctx).tlbDrop w.ctx (v.getLsbD 0) ((v.extractLsb' 16 40).toNat * 65536))) ∧
  (∀ (s : State) (w : Warp) (v : Word), s.warp? w.key = some w →
    (s.sysWrite w.key w 1 v).warp? w.key = some { w with wstat := (w.wstat &&& ~~~(v &&& 0xB#64) &&& ~~~4#64) ||| (v &&& 4#64) } ∧
    (s.sysWrite w.key w 2 v).warp? w.key = some { w with pathev := v } ∧
    (s.sysWrite w.key w 4 v).sysRead w 4 = v &&& 0xFFFFFFFF#64 ∧ (s.sysWrite w.key w 5 v).sysRead w 5 = v &&& 0x00FFFFFFFFFFFFFC#64 ∧
    (s.sysWrite w.key w 6 v).sysRead w 6 = BitVec.ofNat 64 (min 16 (v.toNat % 32)) ∧ (s.sysWrite w.key w 12 v).sysRead w 12 = v &&& 0x00FFFFFFFFFFFFFF#64 ∧
    ∀ n, 16 ≤ n → n ≤ 31 → (s.sysWrite w.key w n v).sysRead w n = v &&& 0xFFFFFFFFFFFF#64) ∧
  (∀ (s : State) (x va : Nat) (all : Bool) (l : Leaf), l ∈ (s.tlbDrop x all va).tlb ↔
    l ∈ s.tlb ∧ (l.ctx ≠ x ∨ (all = false ∧ (va < l.va ∨ l.va + l.size ≤ va)))) ∧
  (∀ (s : State) (x va : Nat) (all : Bool) (p : Pointer), p ∈ (s.tlbDrop x all va).walks ↔ p ∈ s.walks ∧ p.ctx ≠ x) ∧
  (∀ (s : State) (x : Nat), ∀ c ∈ (s.freeze x).copies, ∃ d ∈ s.copies, c.1 = d.1 ∧ c.2 = { d.2 with was := c.2.was } ∧
    (c.2.was = d.2.was ∨ (d.2.ctx = x ∧ d.2.was = none ∧ c.2.was = some (s.viewNow (d.2.owner / 32) x))))

/-- R79, R80, R115, R407–R410, R414, R415: saving and restoring. A warp saved frees its slot once everything it issued has completed; a block whose warps
and foreman are all saved or ended gives its core back; a saved block comes back where R353 lets it, or ends with class 4 where its far
scratch is lost; a path that has gone round 1024 times unchanged is set behind the others; a complete rendezvous regroups its crew. -/
def Obligations.SavesAndRestores : Prop :=
  (∀ (c k : Nat) (s : State) (w : Warp), s.warp? (warpKey c k) = some w →
    exec (.canaryDemote c k) s = .next (s.putWarp (if 1024 ≤ w.canCount then w.demote else w)) ∧
    (¬(isRegrp w.rdv = true ∧ (s.rendezvous w fun x => isRegrp x.rdv) = true) → exec (.regroupDone c k) s = .next s) ∧
    (isRegrp w.rdv = true → (s.rendezvous w fun x => isRegrp x.rdv) = true → exec (.regroupDone c k) s = .next (s.regroupCrew w))) ∧
  (∀ (c k : Nat) (s : State), s.warp? (warpKey c k) = none → exec (.canaryDemote c k) s = .next s ∧ exec (.regroupDone c k) s = .next s) ∧
  (∀ (ag : Agent) (k : Nat) (s : State) (w : Warp), agentKey ag = some k → s.warp? k = some w →
    let late := (∃ b, s.block? w.blk = some b ∧ b.preq.getLsbD 0 = true ∧ b.deadline < s.coreCycle w.core) ∧ w.ended = false ∧ w.st ≠ .free ∧
      w.trapDue = none ∧ w.loopDue = false ∧ w.canCount < 1024
    (w.saving ≠ none → exec (.forcedSave ag) s = .next (s.endSave k)) ∧
    (w.saving = none → late → exec (.forcedSave ag) s = .next ((s.beginSave k true).endSave k)) ∧
    (w.saving = none → ¬late → exec (.forcedSave ag) s = .next s)) ∧
  (∀ (k : Nat) (forced : Bool) (s : State) (w : Warp), s.warp? k = some w → w.key = k → w.ended = false → w.saving = none →
    ∃ w1, (s.beginSave k forced).warp? k = some w1 ∧ w1.st = .save ∧ w1.saving = some forced ∧ (w.txQuiet = true → w1.tx = none) ∧
      (w.txQuiet = false → w1.tx = w.tx.map fun t => if t.pending.isSome then t else { t with pending := some (4, 0, 0) })) ∧
  (∀ (k : Nat) (s : State) (w : Warp) (forced : Bool) (b : Block) (u : Nat), s.warp? k = some w → w.foreman = false → w.tail = none → w.tx = none → w.saving = some forced →
    s.quiet w = true → s.pairLevel w = true → s.block? w.blk = some b → s.unitFor b 2 = some u →
    (s.endSave k).warp? k = none ∧ ∃ b1 x, (s.endSave k).block? w.blk = some b1 ∧ b1.savedWarps = b.savedWarps ++ [x] ∧ b1.frames = b.frames ++ [(x.pos, u)] ∧
      x.warp.pc = w.pc ∧ x.warp.s = w.s ∧ x.warp.banks = w.banks ∧ x.warp.v = w.v ∧ x.warp.log = w.log) ∧
  (∀ (k : Nat) (s : State) (w : Warp), s.warp? k = some w → s.quiet w = false ∨ s.pairLevel w = false → s.endSave k = s) ∧
  (∀ (blk : Nat) (s : State) (b : Block), s.block? blk = some b →
    let cl := clusterOf b.core
    let runs := ∃ j ∈ tget [] s.conv cl, j.blk = some blk ∧ j.started = true
    let ready := b.st = .resident ∧ b.aborted = false ∧ (b.savedWarps ≠ [] ∨ (b.preq.getLsbD 0 = true ∧ b.jobs ≠ 0)) ∧ (∀ p ∈ s.warps, p.2.blk = blk → s.warpOver p.2 = true) ∧ ¬runs
    (¬ready ∨ s.unitFor b (1 + b.fscr) = none → exec (.blockSave blk) s = .next s) ∧
    (∀ u, ready → s.unitFor b (1 + b.fscr) = some u → ∃ t b1, exec (.blockSave blk) s = .next t ∧ t.block? blk = some b1 ∧ b1.st = .saved ∧
      b1.bunit = u ∧ b1.savedWarps = b.savedWarps ∧ b1.near = b.near ∧ b1.dq = b.dq ∧ b1.mbox = b.mbox ∧ b1.ph = b.ph ∧
      b1.farSave = (if b.fscr = 0 then [] else s.physRead (State.farLo b.core b.foff) (b.fscr * 2 ^ 20)) ∧ (∀ p ∈ t.warps, p.2.blk ≠ blk) ∧
      ∀ j ∈ tget [] t.conv cl, j.blk ≠ some blk)) ∧
  (∀ (blk core : Nat) (s : State), s.reap.block? blk = none → exec (.blockRestore blk core) s = .next s.reap) ∧
  (∀ (blk core : Nat) (s : State) (b : Block) (nd : Node), s.reap.block? blk = some b → s.reap.node? b.node = some nd →
    let s0 := s.reap
    let lost := b.fscr ≠ 0 ∧ (s0.roofMode b.core = 3 ∨ 64 - 4 * s0.waysOf nd.ctx < b.foff + b.fscr)
    let first := (∀ p ∈ s0.savedOf b.node, p.2.b < b.b → ∀ c < 1280, s0.restoreFits b.node nd p.2 c = false) ∧ s0.firstInTurn b.node nd = true
    let moved := dieOf core ≠ dieOf b.core ∧ s0.replicas ≠ []
    let f := s0.readBlock b
    (b.st ≠ .saved ∨ b.aborted = true ∨ s0.resident b.ctx = false → exec (.blockRestore blk core) s = .next s0) ∧
    (b.st = .saved → b.aborted = false → s0.resident b.ctx = true → lost → exec (.blockRestore blk core) s =
      .next ((((((s0.blockError blk 4 0 b.core 0).abortBlock blk).modBlock blk fun x => { x with savedWarps := [] }).requeueJobs b.ctx).reap).drainIfPlaced b.node)) ∧
    (b.st = .saved → b.aborted = false → s0.resident b.ctx = true → ¬lost → (s0.restoreFits b.node nd b core = false ∨ moved ∨ ¬first) →
      exec (.blockRestore blk core) s = .next s0) ∧
    (b.st = .saved → b.aborted = false → s0.resident b.ctx = true → ¬lost → s0.restoreFits b.node nd b core = true → first → ¬moved →
      ∃ t b1, exec (.blockRestore blk core) s = .next t ∧ t.block? blk = some b1 ∧ b1.st = .resident ∧ b1.core = core ∧ b1.preq = 0 ∧ b1.savedWarps = [] ∧
        b1.frames = [] ∧ b1.near = f.near ∧ b1.dq = f.dq ∧ b1.mbox = f.mbox ∧ b1.ph = f.ph)) ∧
  (∀ (s : State) (b : Block), let f := s.frameAt b.ctx b.bunit
    (s.readBlock b).ph = f.word 8 ∧ (s.readBlock b).near = b.near.writeBytes 0 (f 0x8000 b.ns) ∧ (s.readBlock b).mbox.length = f.num 0x20 8 / 256 % 256 ∧
    (s.readBlock b).st = b.st ∧ ∀ v ∈ b.savedWarps, v.pos ≠ 32 → ∀ u, (b.frames.find? fun p => p.1 = v.pos) = some (v.pos, u) →
      { v with warp := readWarp (s.frameAt b.ctx u) v.warp } ∈ (s.readBlock b).savedWarps)

/-! ## Fabric, collectives and reliability (R422–R466) -/

/-- R98, R433, R434, R438, R446, R447: starting collectives and loading groups. `coll` releases, waits in the order its core's asked for a context,
reads its parameter block and answers its sequence number, or all ones for an empty entry; `grpld` is the supervisor's and answers how the load went. -/
def Obligations.CollectiveForms : Prop :=
  let rule := fun (mk : FormM → Instr) (opc : BitVec 9) (hasB : Bool) (align : Nat) (release privileged : Bool) => ∀ (f : FormM) (s : State) (w : Warp),
    s.curWarp = some w → w.tx = none → w.heldCommand = none → Warp.never f.h = false → (∃ n, f.dst = .scl n) → (w.active ≠ [] ∨ f.dst.num < 128) →
    let os : List Warp.Operand := (⟨f.addr, 0, f.fa⟩, 1) :: (if hasB then [(f.data, 1)] else [])
    let m := w.active.headD 0
    let ea := w.ea f.addr f.off m 0
    let att := s.attempt w w.sup opc m ea (if hasB then (w.scl 0 f.data).toNat else 0)
    w.Clear f.h (w.needs os ++ w.needsDst 1 f.dst) false false →
    (privileged = true → w.sup = false → Traps (mk f) s w { cls := 23 }) ∧
    ((privileged = true → w.sup = true) →
      (ea.toNat % align ≠ 0 → Traps (mk f) s w { cls := 11, slot := m, detail := ea }) ∧
      (ea.toNat % align = 0 → (release = true ∧ releaseBusy s w true = true) ∨ w.freeEntry = none → Waits (mk f) s w .log) ∧
      (ea.toNat % align = 0 → ¬(release = true ∧ releaseBusy s w true = true) → w.freeEntry ≠ none →
        (att = .wait → exec (mk f) s = .next ((if opc = 0x198#9 then s.askColl w.key else s).waits w .queue)) ∧
        (∀ t r, att = .did t r →
          let w1 := (t.warp? w.key).getD w
          exec (mk f) s = .next (t.finish w (.fall (match f.dst with | .scl n => (m :: w.active).foldl (fun (w : Warp) k => w.sput k n.toNat r) w1 | _ => w1))))))
  rule .coll 0x198 false 128 true false ∧ rule .grpld 0x199 true 64 false true ∧
  (∀ mk : FormM → Instr, mk = .coll ∨ mk = .grpld → ∀ (f : FormM) (s : State) (w : Warp) (e : LogEntry), s.curWarp = some w → w.tx = none →
    w.heldCommand = some e → ((∃ p ∈ e.parts, p.ok = false) → Waits (mk f) s w .log) ∧
    ((∀ p ∈ e.parts, p.ok = true) → Retires (mk f) s w ((e.parts.filter fun p => !p.dead).foldl (fun w p => w.putResult e p.slot (p.data.setWidth 64))
      { w with log := w.log.filter fun x => x.seq != e.seq }))) ∧
  (∀ (s : State) (w : Warp) (sup : Bool) (m arg : Nat) (ea : Word) (bs : List Byte), s.cmdRead w sup m ea 96 = .inr bs →
    (s.collTurn w = false → s.attempt w sup 0x198 m ea arg = .wait) ∧
    (s.collTurn w = true → s.attempt w sup 0x198 m ea arg = (State.agentTouch { s with collAsk := s.collAsk.filter (· != w.key) } w.ctx (dieOf w.core) ea
      (State.midxOf w m) 96 sup w.core).acceptColl w.ctx w.core ea (BitVec.ofNat 768 (leNat bs)))) ∧
  (∀ (s : State) (w : Warp), (s.collAsk = [] → s.collTurn w = true) ∧
    (∀ k rest v, s.collAsk = k :: rest → s.asksColl k = true → s.warp? k = some v → v.core = w.core → (s.collTurn w = true ↔ k = w.key))) ∧
  (∀ (s : State) (k : Nat), k ∉ s.collAsk → (s.askColl k).collAsk = s.collAsk ++ [k]) ∧
  (∀ (s : State) (core : Nat), (∀ e, s.freeEngine core = some e → e ≤ 1 ∧ (s.colls.filter fun p => p.2.engine = e).length < 32) ∧
    (s.freeEngine core = none → ∀ e ≤ 1, 32 ≤ (s.colls.filter fun p => p.2.engine = e).length)) ∧
  (∀ (s : State) (x core : Nat) (va : Word) (p : BitVec 768),
    let gi := (p.extractLsb' 16 8).toNat
    let g := tget {} (s.ctx x).groups gi
    (s.freeEngine core = none → s.acceptColl x core va p = .wait) ∧
    (g.valid = false → s.agentReady x (va + 96#64) 32 = false → s.acceptColl x core va p = .wait) ∧
    (∀ e, s.freeEngine core = some e → g.valid = false → s.agentReady x (va + 96#64) 32 = true → s.acceptColl x core va p = .did
      ((s.writeEntry x (va + 96#64) ({ cls := 1, detail := 0, unit := 0x690 + e, addr := gi, nerr := 1 } : ErrRec)).postAdvance x (p.extractLsb' 416 6).toNat
        (BitVec.ofNat 64 (p.extractLsb' 448 64).toNat)) (~~~0#64)) ∧
    (∀ e, s.freeEngine core = some e → g.valid = true → ∃ t c, s.acceptColl x core va p = .did t g.seq ∧
      t.colls = s.colls ++ [(tfresh s.colls, c)] ∧ c.ctx = x ∧ c.core = core ∧ c.g = gi ∧ c.seq = g.seq.toNat ∧ c.blk = va ∧ c.params = p ∧ c.group = g ∧ c.engine = e ∧
      c.chunks = ((s.early.filter fun y => y.1 = x && y.2.1 = gi && y.2.2.1 = g.seq.toNat).map fun y => y.2.2.2) ∧
      c.sent = false ∧ c.done = collInvalid p g ∧ (tget {} (t.ctx x).groups gi).seq = g.seq + 1 ∧
      (collInvalid p g = true → c.err.cls = 1 ∧ ∀ r ∈ groupRanks g.img, r ≠ s.rank → HostOut.cancel r (groupKey g.img) g.seq.toNat false ∈ t.hostOut))) ∧
  (∀ (s : State) (w : Warp) (sup : Bool) (m g : Nat) (ea : Word), (255 < g → s.attempt w sup 0x199 m ea g = .did s 5) ∧
    (g ≤ 255 → (∃ p ∈ s.colls, p.2.ctx = w.ctx ∧ p.2.g = g) → s.attempt w sup 0x199 m ea g = .wait) ∧
    (∀ bs, g ≤ 255 → (∀ p ∈ s.colls, p.2.ctx ≠ w.ctx ∨ p.2.g ≠ g) → s.cmdRead w sup m ea 192 = .inr bs →
      let r := (s.agentTouch w.ctx (dieOf w.core) ea (State.midxOf w m) 192 sup w.core).loadGroup w.ctx g (BitVec.ofNat 1536 (leNat bs))
      s.attempt w sup 0x199 m ea g = .did r.1 (BitVec.ofNat 64 r.2))) ∧
  (∀ (s : State) (x g : Nat) (img : BitVec 1536),
    let ranks := groupRanks img
    let reserved := img.extractLsb' 1040 16 ≠ 0 ∨ img.extractLsb' 1104 432 ≠ 0
    let taken := ∃ p ∈ s.ctxs, p.1 ≠ x ∧ s.resident p.1 = true ∧ ∃ e ∈ p.2.groups, e.2.valid = true ∧ groupKey e.2.img = groupKey img
    let r := s.loadGroup x g img
    (reserved → r = (s, 4)) ∧ (¬reserved → img.getLsbD 1039 = false → r.2 = 1 ∧ (tget {} (r.1.ctx x).groups g).valid = false) ∧
    (¬reserved → img.getLsbD 1039 = true → (∃ k ∈ ranks, 16384 ≤ k) → r = (s, 4)) ∧
    (¬reserved → img.getLsbD 1039 = true → (∀ k ∈ ranks, k < 16384) → s.rank ∉ ranks → r = (s, 2)) ∧
    (¬reserved → img.getLsbD 1039 = true → (∀ k ∈ ranks, k < 16384) → s.rank ∈ ranks → taken → r = (s, 3)) ∧
    (¬reserved → img.getLsbD 1039 = true → (∀ k ∈ ranks, k < 16384) → s.rank ∈ ranks → ¬taken →
      r.2 = 0 ∧ (tget {} (r.1.ctx x).groups g).valid = true ∧ (tget {} (r.1.ctx x).groups g).img = img ∧ (tget {} (r.1.ctx x).groups g).seq = 0 ∧
      ranks[(tget {} (r.1.ctx x).groups g).own]? = some s.rank ∧
      r.1.early = if (tget {} (s.ctx x).groups g).valid = true ∧ groupKey (tget {} (s.ctx x).groups g).img = groupKey img then s.early
        else s.early.filter fun c => !(c.1 = x && c.2.1 = g)))

/-- R429, R433–R439: running collectives. A collective begins after those of its entry with lower sequence numbers; it sends its contribution in
chunks of the largest whole number of elements CHUNK holds, each with the digest of the group. A chunk that its collective awaits is staged, one for a
later sequence number is held early, up to 64 a peer, and others are discarded. A combining step is dispatched once its launch counter, the chunks it
still needs, is zero: of a reduction one step for each chunk of the result. A cancel, a mismatch, a silence of TMO ms or an unreachable peer ends it with its class; once it writes
nothing more its completion entry is written, its counter advances and it is gone.
R444: accumulators travel as windows, one for each element, and arrive as the cells they were; other elements travel as they stand. -/
def Obligations.CollectivesRun : Prop :=
  (∀ (id rank : Nat) (s : State), tfind s.colls id = none → exec (.combineDispatch id) s = .next s ∧ exec (.collTimeout id) s = .next s ∧
    exec (.collPeerUnreachable id rank) s = .next s ∧ exec (.collComplete id) s = .next s) ∧
  (∀ (id : Nat) (s : State) (c : Coll), tfind s.colls id = some c →
    let fails := fun (cls detail addr : Nat) => s.modColl id fun c' => { c' with done := true, err := c'.err.add cls detail c.unit addr }
    let silent := c.awaited.filter fun r => !c.arrived r
    let tmo := (c.group.img.extractLsb' 1088 16).toNat
    let behind := c.sent = false ∧ ∃ p ∈ s.colls, p.2.ctx = c.ctx ∧ p.2.g = c.g ∧ p.2.seq < c.seq ∧ p.2.sent = false ∧ p.2.done = false
    (behind → exec (.combineDispatch id) s = .next s) ∧
    (c.done = true → exec (.combineDispatch id) s = .next s ∧ exec (.collTimeout id) s = .next s ∧ ∀ rank, exec (.collPeerUnreachable id rank) s = .next s) ∧
    (c.done = false → ¬behind → (∃ k ∈ c.chunks, k.cancel ≠ none ∨ k.ok = false) → ∃ k ∈ c.chunks, (k.cancel ≠ none ∨ k.ok = false) ∧
      (k.cancel = some true → exec (.combineDispatch id) s = .next (fails 7 0 ((groupRanks c.group.img).getD k.src 0))) ∧
      (k.cancel ≠ some true → ∃ a, exec (.combineDispatch id) s = .next (fails 1 0 a))) ∧
    (c.done = false → ¬behind → (∀ k ∈ c.chunks, k.cancel = none ∧ k.ok = true) →
      (c.sent = false → ∀ e, s.collInput c = .error e → exec (.combineDispatch id) s = .next ((fails 2 e.detail e.addr).sendCancels c.group c.seq true)) ∧
      (c.sent = false → ∀ bs ps, s.collInput c = .ok (bs, ps) → c.op ≤ 1 ∨ 5 ≤ c.op → ∃ t c1, exec (.combineDispatch id) s = .next t ∧
        tfind t.colls id = some c1 ∧ c1.done = false ∧ c1.sent = true ∧ c1.own.data = c.merged bs ∧
        ∀ (j r q : Nat), j ≠ c.me → (groupRanks c.group.img)[j]? = some r → q < c.chunkCount (c.wireElems c.me) →
          ∃ k ∈ c1.cut (c1.partFor j) (c.wireElems c.me), k.idx = q ∧ k.digest = c.group.digest ∧ HostOut.chunk r (groupKey c.group.img) c.seq k ∈ t.hostOut) ∧
      (c.sent = true → (∀ u ∈ c.steps, u ∈ c.put ∨ c.counter u ≠ 0) → exec (.combineDispatch id) s = .next s) ∧
      (c.sent = true → ∀ u, (c.steps.find? fun v => !(c.put.contains v) && c.counter v = 0) = some u →
        (s.outsReady c (State.stepOuts c u) = false → exec (.combineDispatch id) s = .next s) ∧
        (∀ t, s.outsReady c (State.stepOuts c u) = true → s.writeOuts id c (State.stepOuts c u) = .ok t → exec (.combineDispatch id) s =
          .next (t.modColl id fun c' => { c' with put := c'.put ++ [u], done := c.steps.all fun v => v = u || c.put.contains v })) ∧
        (∀ e, s.outsReady c (State.stepOuts c u) = true → s.writeOuts id c (State.stepOuts c u) = .error e →
          exec (.combineDispatch id) s = .next ((fails 2 e.detail e.addr).sendCancels c.group c.seq true)))) ∧
    (c.done = false → silent ≠ [] → tmo ≠ 0 → c.last + tmo * 1500000 ≤ s.cycle →
      exec (.collTimeout id) s = .next (fails 8 0 ((groupRanks c.group.img).getD (silent.headD 0) 0))) ∧
    (silent = [] ∨ tmo = 0 ∨ s.cycle < c.last + tmo * 1500000 → exec (.collTimeout id) s = .next s) ∧
    (∀ rank, c.done = false → rank ∈ groupRanks c.group.img → s.unreachable rank = true → exec (.collPeerUnreachable id rank) s = .next (fails 8 0 rank)) ∧
    (∀ rank, rank ∉ groupRanks c.group.img ∨ s.unreachable rank = false → exec (.collPeerUnreachable id rank) s = .next s) ∧
    (let over' := c.done = true ∧ (∀ r ∈ s.replicas, r.owner ≠ State.noWarp) ∧ s.agentReady c.ctx (c.blk + 96#64) 32 = true
     let s1 := (s.writeEntry c.ctx (c.blk + 96#64) c.err).signal c.ctx (c.params.extractLsb' 416 6).toNat (BitVec.ofNat 64 (c.params.extractLsb' 448 64).toNat)
     (¬over' → exec (.collComplete id) s = .next s) ∧ (over' → exec (.collComplete id) s = .next { s1 with colls := tdel s1.colls id }))) ∧
  (∀ c : Coll, let chunk := if c.params.extractLsb' 320 64 = 0 then 2 ^ 20 else (c.params.extractLsb' 320 64).toNat
    c.esz ≤ chunk → c.perChunk * c.esz ≤ chunk ∧ chunk < (c.perChunk + 1) * c.esz) ∧
  (∀ (c : Coll) (n : Nat), (List.range (c.chunkCount n)).foldl (fun a j => a + c.chunkElems n j) 0 = n) ∧
  (∀ (c : Coll) (i j : Nat), c.op ≤ 1 → c.counter (c.me, j) = (c.awaited.filter fun r => decide (j < c.chunkCount (c.wireElems r)) && (c.chunk? r j).isNone).length ∧
    (i < c.count → j = i / c.perChunk → (c.me, j) ∈ c.steps ∧ (⟨c.recv (c.esz * i), c.reduced i, c.tainted i⟩ : Coll.Out) ∈ State.stepOuts c (c.me, j))) ∧
  (∀ (x g sq src idx : Nat) (digest : BitVec 64) (agree fault : Bool) (poison : List Nat) (data : List Byte) (s : State),
    let e := tget {} (s.ctx x).groups g
    let ok := agree && decide (digest = e.digest)
    let k : Chunk := { src := src, idx := idx, digest := digest, ok := ok, poison := poison, data := data }
    let cancel : Chunk := { src := src, cancel := some fault }
    let peer := fun (y h r : Nat) => (groupRanks (tget {} (s.ctx y).groups h).img).getD r 0
    let heldOf := (s.early.filter fun p => peer p.1 p.2.1 p.2.2.2.src = peer x g src).length
    (e.valid = false ∨ e.n ≤ src ∨ src = e.own →
      exec (.chunkReceive x g sq src ⟨idx, digest, agree⟩ poison data) s = .next s ∧ exec (.collCancelReceive x g sq src fault) s = .next s) ∧
    (e.valid = true → src < e.n → src ≠ e.own → (∀ p ∈ s.colls, ¬(p.2.ctx = x ∧ p.2.g = g ∧ p.2.seq = sq)) →
      (sq < e.seq.toNat ∨ 64 ≤ heldOf → exec (.chunkReceive x g sq src ⟨idx, digest, agree⟩ poison data) s = .next s ∧ exec (.collCancelReceive x g sq src fault) s = .next s) ∧
      (e.seq.toNat ≤ sq → heldOf < 64 → exec (.chunkReceive x g sq src ⟨idx, digest, agree⟩ poison data) s = .next { s with early := s.early ++ [(x, g, sq, k)] } ∧
        exec (.collCancelReceive x g sq src fault) s = .next { s with early := s.early ++ [(x, g, sq, cancel)] })) ∧
    (∀ id c, e.valid = true → src < e.n → src ≠ e.own → (s.colls.find? fun p => p.2.ctx = x && p.2.g = g && p.2.seq = sq) = some (id, c) → c.done = false →
      (∀ y ∈ c.chunks, (y.src ≠ src ∨ y.idx ≠ idx) ∧ y.cancel = none ∧ y.ok = true) →
      let fits := idx < c.chunkCount (c.wireElems src) ∧ (c.unpack (c.chunkElems (c.wireElems src) idx) data).isSome = true ∧ src ∈ c.awaited
      (ok = true → fits →
        exec (.chunkReceive x g sq src ⟨idx, digest, agree⟩ poison data) s = .next (s.modColl id fun _ => { c with chunks := c.chunks ++ [k], last := s.cycle })) ∧
      (ok = true → ¬fits → exec (.chunkReceive x g sq src ⟨idx, digest, agree⟩ poison data) s = .next s) ∧
      (ok = false → ∃ t, exec (.chunkReceive x g sq src ⟨idx, digest, agree⟩ poison data) s = .next t ∧ ∀ c1, tfind t.colls id = some c1 → c1.done = true ∧
        (c.err.nerr = 0 → c1.err.cls = 1)) ∧
      (∃ t, exec (.collCancelReceive x g sq src fault) s = .next t ∧ ∀ c1, tfind t.colls id = some c1 → c1.done = true ∧
        (c.err.nerr = 0 → c1.err.cls = if fault then 7 else 1)))) ∧
  (∀ (c : Coll) (n : Nat) (bs : List Byte),
    (c.windowed = true ↔ (c.rop = 3 ∨ c.rop = 4) ∧ c.op ≤ 1) ∧
    (c.windowed = true → c.unpack n (c.pack n bs) = some ((List.range n).flatMap fun i => (Exact.ofCell ((bs.drop (576 * i)).take 576)).toCell) ∧
      (c.pack 1 bs).take (Exact.ofCell (bs.take 576)).toWindow.length = (Exact.ofCell (bs.take 576)).toWindow) ∧
    (c.windowed = false → c.pack n bs = bs ∧ (bs.length = n * c.wireSize → c.unpack n bs = some bs)))

/-- R423–R426, R448: fabric ports. An intact flit is accepted, one that fails its check is replayed up to 16 times and then retrains the port;
each interval moves a lane between GOOD, MARGINAL and RETIRED; the width is the widest of 8, 4, 2 and 1 that its live lanes allow, and a
change of it retrains the port for 2^16 cycles. `fhrd` and `grprd` read the ports and the group table. What a port adds to its counts of flits sent and
of corrected and uncorrected codewords is free (log entry 42).
R431, R432, R435, R495: what a reduction combines. The contributions are combined in ascending rank for the direct algorithm, as a balanced tree
for halving; an exact sum is the exact sum of every contribution, rounded once; the algorithm follows from the hint, the size and the
number of participants. -/
def Obligations.PortsAndReductionValues : Prop :=
  (
  (∀ (port : Nat) (ok : Bool) (margins serrs : List Nat) (hi : BitVec 8) (lane : Nat) (s : State), tfind s.ports port = none →
    exec (.flitReceive port ok) s = .next s ∧ exec (.laneInterval port margins serrs hi) s = .next s ∧ exec (.portRetrainDone port) s = .next s ∧
    exec (.laneRetrain port lane ok) s = .next s) ∧
  (∀ (port : Nat) (s : State) (p : Port), tfind s.ports port = some p →
    let put := fun (x : Port) => ({ s with ports := tset s.ports port x } : State)
    (∀ ok, p.width = 0 ∨ p.retraining ≠ none → exec (.flitReceive port ok) s = .next s) ∧
    (p.width ≠ 0 → p.retraining = none →
      let d := Config.portTraffic s.tick port
      let p' : Port := { p with sent := p.sent + d.1, fixed := p.fixed + d.2.1, unfixed := p.unfixed + d.2.2 }
      exec (.flitReceive port true) s = .next (put { p' with received := p.received + 1, replays := 0 }) ∧
      (p.replays < 16 → exec (.flitReceive port false) s = .next ((put { p' with replays := p.replays + 1, replayed := p.replayed + 1 }).count 0x1C 0 1)) ∧
      (16 ≤ p.replays → exec (.flitReceive port false) s = .next (put { p' with replays := 0, retraining := some s.cycle }))) ∧
    (∀ t, p.retraining = some t → exec (.portRetrainDone port) s = .next (if s.cycle < t + 65536 then s else put { p with retraining := none })) ∧
    (p.retraining = none → exec (.portRetrainDone port) s = .next s) ∧
    (∀ lane l, p.lanes[lane]? = some l → l.st ≠ 2 → ∀ ok, exec (.laneRetrain port lane ok) s = .next s) ∧
    (∀ lane l, p.lanes[lane]? = some l → exec (.laneRetrain port lane false) s = .next s) ∧
    (∀ lane l, p.lanes[lane]? = some l → l.st = 2 →
      let wider := fun (p : Port) => ({ p with width := p.fitWidth, wchg := p.wchg + 1, retraining := some s.cycle } : Port)
      let q : Port := { p with lanes := lset p.lanes lane { l with st := 0, trans := l.trans + 1, goodRun := 0 } }
      exec (.laneRetrain port lane true) s = .next (put (if q.fitWidth = q.width then q else wider q)))) ∧
  (∀ (port : Nat) (margins serrs : List Nat) (hi : BitVec 8) (s : State) (p : Port), tfind s.ports port = some p →
    ∃ t q, exec (.laneInterval port margins serrs hi) s = .next t ∧ tfind t.ports port = some q ∧ q.width = q.fitWidth ∧
      q.lanes.length = p.lanes.length ∧ p.sent ≤ q.sent ∧ p.fixed ≤ q.fixed ∧ p.unfixed ≤ q.unfixed ∧ (q.width ≠ p.width → q.retraining = some s.cycle ∧ q.wchg = p.wchg + 1) ∧ t.mem = s.mem ∧ t.warps = s.warps ∧
      ∀ i l, p.lanes[i]? = some l → ∃ l', q.lanes[i]? = some l' ∧
        let m := margins.getD i 0
        let e := serrs.getD i 0
        let failing := m < 150 ∨ hi.getLsbD i = true
        (l.st = 3 → l' = l) ∧ (l.st ≠ 3 → l'.margin = m ∧ l'.serr = e) ∧ (l.st = 2 → l'.st = 2) ∧
        (l.st = 0 → l'.st = if failing then 2 else if m < 350 ∨ 1000000 < e then 1 else 0) ∧
        (l.st = 1 → l'.st = if failing then 2 else if 450 ≤ m ∧ e ≤ 10000 ∧ 63 ≤ l.goodRun then 0 else 1)) ∧
  (∀ p : Port, let n := ((List.range 8).filter fun i => (p.lanes[i]?).any fun l => l.st ≤ 1).length
    p.fitWidth = if 8 ≤ n then 8 else if 4 ≤ n then 4 else if 2 ≤ n then 2 else n) ∧
  (∀ f : FormR, SclRuleNT (.fhrd f) f.h f.dst (fun _ _ => True) fun s _ _ => s.portWord (f.x.extractLsb' 0 5).toNat (f.x.extractLsb' 5 4).toNat) ∧
  (∀ (s : State) (port : Nat),
    let p := tget {} s.ports port
    let free := ∀ i < 8, ∀ l, p.lanes[i]? = some l → l.st = 3
    (free → s.portWord port 0 = 0x30#64 ∧ ∀ sel, 1 ≤ sel → s.portWord port sel = 0#64) ∧
    (¬free → s.portWord port 1 = BitVec.ofNat 64 p.sent ∧ s.portWord port 2 = BitVec.ofNat 64 p.received ∧ s.portWord port 3 = BitVec.ofNat 64 p.replayed ∧
      s.portWord port 4 = BitVec.ofNat 64 p.fixed ∧ s.portWord port 5 = BitVec.ofNat 64 p.unfixed ∧
      ∀ i l, p.lanes[i]? = some l → s.portWord port (8 + i) =
        BitVec.ofNat 64 (min l.margin 1023 + 2 ^ 10 * l.st + 2 ^ 16 * min l.serr (2 ^ 32 - 1) + 2 ^ 48 * min l.trans 0xFFFF))) ∧
  (∀ (f : FormR) (s : State) (w : Warp), s.curWarp = some w → w.tx = none →
    w.Clear f.h (w.needs [(f.b, 1)] ++ w.needsDst 1 f.dst) false (f.dst.num < 128 && w.anyPrivate [f.b]) →
    Retires (.grprd f) s w (w.sclResult f.h f.dst fun m =>
      let g := (w.scl m f.b).toNat
      let e := if g ≤ 255 then tget {} (s.ctx w.ctx).groups g else {}
      if f.x = 4 then BitVec.ofNat 64 s.rank else if e.valid = false then 0
      else if f.x = 0 then 1 else if f.x = 1 then BitVec.ofNat 64 (groupRanks e.img).length else if f.x = 2 then BitVec.ofNat 64 e.own else e.seq))) ∧
  (
  (∀ (rop t a b : Nat), 4 ≤ t → t ≤ 7 →
    let n := if t = 4 then 64 else if t = 7 then 8 else 32
    let less := if t = 6 then a % 2 ^ n ≤ b % 2 ^ n else (BitVec.ofNat n a).toInt ≤ (BitVec.ofNat n b).toInt
    a < 2 ^ n → b < 2 ^ n →
    combine2 0 t a b = (a + b) % 2 ^ n ∧ combine2 1 t a b = (if less then a else b) ∧ combine2 2 t a b = (if less then b else a) ∧
    combine2 5 t a b = a &&& b ∧ combine2 6 t a b = a ||| b ∧ combine2 7 t a b = a ^^^ b) ∧
  (∀ (a b : Nat), combine2 0 0 a b = fpAdd Fmt.f64 {} a b ∧ combine2 0 1 a b = fpAdd Fmt.f32 {} a b ∧ combine2 0 2 a b = fpAdd Fmt.bf16 {} a b ∧
    combine2 0 3 a b = fpAdd Fmt.f16 {} a b) ∧
  (∀ (op : Nat → Nat → Nat) (a : Nat) (l sets : List Nat) (seg : Nat) (second : Bool), combineOrder op .direct (a :: l) sets seg second = l.foldl op a) ∧
  (∀ (op : Nat → Nat → Nat) (a b c d : Nat) (sets : List Nat) (seg : Nat) (second : Bool),
    combineOrder op .halving [a, b, c, d] sets seg second = op (op a b) (op c d) ∧
    combineOrder op .ring [a, b, c, d] sets 0 second = op (op (op b c) d) a ∧ combineOrder op .ring [a, b, c, d] sets 2 second = op (op (op d a) b) c ∧
    combineOrder op .biring [a, b, c, d] sets 0 true = op (op (op d c) b) a ∧
    combineOrder op .twoLevel [a, b, c, d] [0, 0, 1, 1] seg second = op (op a b) (op c d)) ∧
  (∀ (op n bytes : Nat), chooseAlg op 1 n bytes = .ring ∧ chooseAlg op 2 n bytes = .biring ∧ (n ≤ 8 → chooseAlg op 0 n bytes = .direct) ∧
    (op ≠ 4 → 8 < n → (∀ k, n ≠ 2 ^ k) → n ≤ 256 → chooseAlg op 0 n bytes = .biring) ∧ (op ≠ 4 → 256 < n → (∀ k, n ≠ 2 ^ k) → chooseAlg op 0 n bytes = .twoLevel) ∧
    (∀ k, op ≠ 4 → n = 2 ^ k → 8 < n → bytes ≤ 2 ^ 20 → chooseAlg op 0 n bytes = .halving) ∧ (n ≤ 64 → chooseAlg op 5 n bytes = .direct) ∧
    (16 ≤ n → chooseAlg op 4 n bytes = .twoLevel)) ∧
  (∀ (c : Coll) (i : Nat), c.rop = 3 → c.reduced i =
    leBytes c.esz (((c.parts.map fun k => Exact.ofCell ((k.data.drop (c.wireSize * i)).take c.wireSize)).foldl Exact.merge {}).roundTo ((cFmt c.ty).getD Fmt.f64) (cOpw c.params 0).toNat)))

/-- R256, R453, R455–R459, R465, R466: reliability. `kill` kills the lanes taking part with cause 8, `deadrd` reads the dead lanes, `shwait`
waits until a pair is level, `errinj` makes an error pending in supervisor mode; outputs of a pair that differ kill their lanes with cause 1;
a shaft's wires are replaced by its four spares, then its group runs at half rate, then its bank is retired and of memory loses only lines its ways
held dirty.
R449, R464: a storage error that is corrected is counted and changes nothing else; an uncorrectable lane word is marked, an accumulator gets NAN and
POISON, a register of scalar class kills every live lane of its member, or of the warp, a line under parity is dropped and a line of memory is
poisoned. -/
def Obligations.ReliabilityForms : Prop :=
  (∀ (s : State) (n copy k : Nat), s.upset (.corrected n copy k) =
    if n ∈ [0x10, 0x11, 0x12, 0x13, 0x14, 0x16, 0x17, 0x18, 0x19, 0x1A, 0x1B, 0x1F] then s.count n copy k else s) ∧
  (∀ (s : State) (key m reg lane n : Nat) (w : Warp), s.warp? key = some w → w.key = key → w.ended = false → w.st ≠ .free → w.st ≠ .save → lane < 96 →
    (∃ w1, (s.upset (.vector key none reg lane)).warp? key = some w1 ∧ (tget 0 w1.bad reg).getLsbD lane = true ∧ w1 = { w with bad := w1.bad }) ∧
    (m < w.banks.length → ∃ w1, (s.upset (.vector key (some m) reg lane)).warp? key = some w1 ∧ (tget 0 (w1.bank m).bad reg).getLsbD lane = true ∧
      w1 = { w with banks := w1.banks }) ∧
    (n < 8 → w.xa.length = 8 → ∃ w1, (s.upset (.accumulator key n)).warp? key = some w1 ∧ (w1.xa.getD n {}).st = (w.xa.getD n {}).st ||| 9 ∧
      (w1.xa.getD n {}).v = (w.xa.getD n {}).v ∧ w1 = { w with xa := w1.xa }) ∧
    (w.foreman = false → w.tail = none → w.lead = none → m < w.banks.length →
      (∃ w1, (s.upset (.scalar key (some m))).warp? key = some w1 ∧ (w1.bank m).live = 0 ∧ ∀ j ≠ m, (w1.bank j).dead = (w.bank j).dead) ∧
      (∃ w1, (s.upset (.scalar key none)).warp? key = some w1 ∧ ∀ j < w.p, j < w.banks.length → (w1.bank j).live = 0))) ∧
  (∀ (s : State) (core line : Nat), let t := s.upset (.l1 core line)
    t.l1Line core line = none ∧ t.mem = s.mem ∧ t.warps = s.warps) ∧
  (∀ (s : State) (pa : Nat), State.isHost pa = false → s.home (pa / 128 * 128) ∈ (s.upset (.line pa)).poison ∧ ∀ l ∈ s.poison, l ∈ (s.upset (.line pa)).poison) ∧
  (∀ (f : FormR) (s : State) (w : Warp), s.curWarp = some w → w.tx = none → w.Clear f.h [] false false →
    exec (.kill f) s = .next (s.finish w (.kill w (w.active.map fun m => (m, w.part f.h m)) 8 true))) ∧
  (∀ (s : State) (k m : Nat) (mask : LaneMask) (cause addr : Nat) (w : Warp), s.warp? k = some w → w.key = k → w.tx = none → w.tail = none → w.lead = none →
    let lost := mask &&& (w.bank m).live
    (lost = 0 → s.killLanes k m mask cause addr = s) ∧
    (m < w.banks.length → lost ≠ 0 → ∃ w1, (s.killLanes k m mask cause addr).warp? k = some w1 ∧ (w1.bank m).dead = (w.bank m).dead ||| lost ∧
      (w1.bank m).em = (w.bank m).em &&& ~~~lost ∧ w1.wstat.getLsbD 3 = true ∧ w1.wstat.extractLsb' 8 8 = BitVec.ofNat 8 cause ∧ w1.pc = w.pc)) ∧
  (∀ (f : FormR) (s : State) (w : Warp), s.curWarp = some w → w.tx = none → w.Clear f.h (w.needsDst 1 f.dst) false (f.dst.num < 128) →
    Retires (.deadrd f) s w (w.sclResult f.h f.dst fun m => ((w.bank m).dead.extractLsb' (32 * f.x.toNat) 32).setWidth 64)) ∧
  (∀ (f : FormR) (s : State) (w : Warp), s.curWarp = some w → w.tx = none →
    (Warp.never f.h = true ∨ w.tail = none ∨ (s.pairLevel w = true ∧ w.outq = []) → Retires (.shwait f) s w w) ∧
    (Warp.never f.h = false → w.tail ≠ none → ¬(s.pairLevel w = true ∧ w.outq = []) → Waits (.shwait f) s w .pair)) ∧
  (∀ (f : FormR) (s : State) (w : Warp), s.curWarp = some w → w.tx = none → Warp.never f.h = false → w.Clear f.h (w.needs [(f.a, 1)]) false false →
    (w.sup = false → Traps (.errinj f) s w { cls := 23 }) ∧
    (w.sup = true → Retires (.errinj f) s w { w with inject := injection (w.scl (if w.common? f.a.spec then 0 else w.active.getLastD 0) f.a) })) ∧
  (∀ v : Word, let kind := v.toNat % 4
    injection v = if (kind = 1 ∨ kind = 2) ∧ v.extractLsb' 18 46 = 0 ∧ v.toNat / 128 % 128 ≤ 95 then some (kind, v.toNat / 4 % 32, v.toNat / 128 % 128, v.toNat / 2 ^ 14 % 16) else none) ∧
  (∀ (c k : Nat) (s : State), (s.warp? (warpKey c k) = none ∨ ∃ w, s.warp? (warpKey c k) = some w ∧ (w.tail = none ∨ w.outq = [])) →
    exec (.outputCompare c k) s = .next s) ∧
  (∀ (c k t : Nat) (s : State) (w y : Warp) (a b : PairEntry) (rest others : List PairEntry), s.warp? (warpKey c k) = some w → w.tail = some t →
    s.warp? (warpKey c t) = some y → w.outq = a :: rest → y.outq = b :: others →
    let key := warpKey c k
    (a.n ≠ b.n → exec (.outputCompare c k) s = .next s) ∧
    (a.n = b.n → (∀ e ∈ w.log, e.seq = a.seq → e.shared = false) → exec (.outputCompare c k) s = .next
      (((w.slots.foldl (fun s m => s.killLanes key m (outputDiff a b m) 1 a.pc.toNat)
        ((s.putWarp (({ w with outq := rest } : Warp).release a.seq fun m => outputDiff a b m)).modWarp y.key fun y => { y with outq := others })).afterKill s key).afterKill s y.key))) ∧
  (∀ (a : PairEntry) (m : Nat), outputDiff a a m = 0) ∧
  (∀ (core group : Nat) (dirty : List Nat) (s : State),
    let v := tget 0 s.roofst core
    let mode := v.toNat % 4
    let used := tget 0 s.wires (core * 32 + group)
    (1280 ≤ core ∨ 32 ≤ group ∨ 2 ≤ mode → exec (.shaftWireFail core group dirty) s = .next s) ∧
    (core < 1280 → group < 32 → mode < 2 →
      (used < 4 → exec (.shaftWireFail core group dirty) s = 
        .next (State.count { s with
          wires := tset s.wires (core * 32 + group) (used + 1)
          roofst := tset s.roofst core (BitVec.ofNat 64 (mode + 16 * ((roofUsed v + 1) % 256) + 4096 * roofGroup v)) } 0x15 core 1)) ∧
      (4 ≤ used → mode = 0 → exec (.shaftWireFail core group dirty) s = 
        .next (State.logRoof { s with
          roofst := tset s.roofst core (BitVec.ofNat 64 (1 + 16 * roofUsed v + 4096 * group)) } core)) ∧
      (4 ≤ used → mode = 1 → roofGroup v = group → exec (.shaftWireFail core group dirty) s = .next s) ∧
      (4 ≤ used → mode = 1 → roofGroup v ≠ group → ∃ t, exec (.shaftWireFail core group dirty) s = .next t ∧
        ((tget 0 t.roofst core).toNat % 4 = if tget 0 s.spares (dieOf core) < 4 then 2 else 3) ∧
        tget 0 t.spares (dieOf core) = (if tget 0 s.spares (dieOf core) < 4 then tget 0 s.spares (dieOf core) + 1 else tget 0 s.spares (dieOf core)) ∧
        t.boot.seq = s.boot.seq + 1 ∧ (∀ p ∈ t.dirty, p.1 ≠ core) ∧
        ∀ l ∈ t.poison, l ∈ s.poison ∨ (∃ d, (core, d) ∈ s.dirty ∧ l = s.home d) ∨
          ∃ d, roofLo + core * 2 ^ 26 ≤ d ∧ d < roofLo + (core + 1) * 2 ^ 26 ∧ l = s.home d)))

/-! ## Seam cores (R369–R395) -/

/-- R22, R382, R383, R387, R388, R394: the scalar forms of a Seam core. x0 reads 0 and discards what is written to it; a form answers its result in D,
a branch goes to the pc plus 8 times IMM, `jr` to a register's value, which must be a multiple of 8; `sfence`, `tladv` and `done` wait for
the instance's writes, `tlwt` for its counter. HBM4E is interleaved over the stacks and Seam cores, byte for byte. -/
def Obligations.SeamScalarForms : Prop :=
  let imm := fun (o : SeamOp) => o.imm.signExtend 64
  (∀ (i : SeamInst) (r : BitVec 5) (v : Word), i.xget 0 = 0 ∧ i.xput 0 v = i ∧ (r ≠ 0 → (i.xput r v).xget r = v) ∧ ∀ q, q ≠ r → (i.xput r v).xget q = i.xget q) ∧
  SeamScalar .seamLi (fun o _ _ _ => imm o) ∧
  SeamScalar .seamLih (fun o _ i _ => BitVec.ofNat 64 ((i.xget o.a).toNat % 2 ^ 32 + 2 ^ 32 * o.imm.toNat)) ∧
  SeamScalar .seamAlu (fun o _ i _ => seamInteger o.f.toNat (i.xget o.a) (i.xget o.b) ((i.xget o.b).toNat % 64)) ∧
  SeamScalar .seamAluImm (fun o _ i _ => seamInteger o.f.toNat (i.xget o.a) (imm o) (o.imm.toNat % 64)) ∧
  SeamScalar .seamSrd (fun o s i t =>
    let n := o.imm.toNat
    BitVec.ofNat 64 (if n = 0 then i.core else if n = 1 then i.idx else if n = 2 then t.places.length else if n = 3 then t.argp else if n = 4 then s.cycle
      else if n % 2 = 1 then t.base ((n - 5) / 2) else t.base ((n - 5) / 2) + t.size ((n - 5) / 2))) ∧
  SeamScalar .rgnext (fun o s i t => s.regionNext i t o.imm.toNat (i.xget o.a)) ∧
  (∀ (s : State) (i : SeamInst) (t : SeamTask) (j : Nat) (a : Word), t.mode j ≠ 0 → t.base j % 4096 = 0 → t.base j + t.size j < 2 ^ 56 → a.toNat < t.base j + t.size j →
    let r := (s.regionNext i t j a).toNat
    let mine := fun (v : Nat) => s.seamOwns i (BitVec.ofNat 64 v) = some true
    (r = t.base j + t.size j ∨ (max (t.base j) a.toNat ≤ r ∧ r + 4096 ≤ t.base j + t.size j ∧ r % 4096 = 0 ∧ mine r)) ∧
    ∀ v, max (t.base j) a.toNat ≤ v → v < r → v + 4096 ≤ t.base j + t.size j → v % 4096 = 0 → ¬mine v) ∧
  (∀ a : Nat, a < hbmTop →
    let g := a / 4096
    let u := a / 256 % 16
    let p := hbmPlace a
    p.stack = g % 8 ∧ p.seam = g / 8 % 24 ∧ p.row = g / 192 ∧ p.channel = 8 * p.seam + u % 8 ∧ p.off = p.row * 512 + u / 8 * 256 + a % 256 ∧
    p.addr = a ∧ p.row < 2 ^ 20 ∧ p.channel < 192 ∧ p.off < 2 ^ 29 ∧ seamOwner a = some (24 * p.stack + p.seam)) ∧
  (∀ p : HbmPlace, p.stack < 8 → p.channel < 192 → p.off < 2 ^ 29 → p.seam = p.channel / 8 → p.row = p.off / 512 → p.addr < hbmTop ∧ hbmPlace p.addr = p) ∧
  (∀ (o : SeamOp) (s : State) (id : Nat) (i : SeamInst) (t : SeamTask), s.SeamRuns id i t →
    let a := i.xget o.a
    let b := i.xget o.b
    let next := fun (s : State) (i1 : SeamInst) => Host.Outcome.next (φ := Fault) (ρ := Refusal) (s.putInst id { i1 with pc := i.pc + 8#64, waitFrom := none })
    let goes := fun (i1 : SeamInst) (pc : Word) => Host.Outcome.next (φ := Fault) (ρ := Refusal) (s.putInst id { i1 with pc := pc, waitFrom := none })
    let taken := if o.f = 0 then a.toNat = b.toNat else if o.f = 1 then a.toNat ≠ b.toNat else if o.f = 2 then a.toInt < b.toInt
      else if o.f = 3 then b.toInt ≤ a.toInt else if o.f = 4 then a.toNat < b.toNat else b.toNat ≤ a.toNat
    (taken → exec (.seamBranch o) s = goes i (i.pc + 8#64 * imm o)) ∧ (¬taken → exec (.seamBranch o) s = next s i) ∧
    exec (.seamJal o) s = goes (i.xput o.d (i.pc + 8#64)) (i.pc + 8#64 * imm o) ∧
    (a.toNat % 8 = 0 → exec (.seamJr o) s = goes i a) ∧ (a.toNat % 8 ≠ 0 → exec (.seamJr o) s = .next (s.endByFault id i (6, 11, a.toNat))) ∧
    exec (.pown o) s = next (s.seamFill i.ctx [(a, 1)]) (i.xput o.d (match s.seamOwns i a with | none => ~~~0#64 | some true => 1 | some false => 0)) ∧
    (o.f.getLsbD 1 = true → s.seamQuiet i = false → exec (.sfence o) s = .next (s.putInst id i)) ∧
    (o.f.getLsbD 1 = false ∨ s.seamQuiet i = true → exec (.sfence o) s = next s i) ∧
    (s.seamQuiet i = false → exec (.tladv o) s = .next (s.putInst id i) ∧ exec (.seamDone o) s = .next (s.putInst id i)) ∧
    (s.counterReady i.ctx o.imm.toNat = false → exec (.tladv o) s = .next (s.putInst id i)) ∧
    (s.seamQuiet i = true → s.counterReady i.ctx o.imm.toNat = true → exec (.tladv o) s = next (s.advance i.ctx o.imm.toNat b) i) ∧
    (s.seamQuiet i = true →
      exec (.seamDone o) s = .next (s.putInst id { i with st := .ended, waitFrom := none })) ∧
    (b.toNat ≤ s.timeline i.ctx o.imm.toNat → exec (.tlwt o) s = next s i) ∧
    (s.timeline i.ctx o.imm.toNat < b.toNat → exec (.tlwt o) s = .next (s.putInst id { i with waitFrom := some (i.waitFrom.getD s.cycle) })) ∧
    exec (.seamNop o) s = next s i)

/-- R382, R383, R389–R391: the predicate and vector forms of a Seam core, each lane by lane; a lane that takes no part keeps its value. -/
def Obligations.SeamVectorForms : Prop :=
  let on := fun (o : SeamOp) (i : SeamInst) (l : Nat) => (i.kget o.k.toNat).getLsbD l
  let all := fun (_ : SeamOp) => True
  let pred := fun (mk : SeamOp → Instr) (val : SeamOp → SeamInst → BitVec 16) =>
    SeamRule mk fun o _ i _ => { i with k := tset i.k o.d.toNat (val o i) }
  (∀ (i : SeamInst) (r : Nat) (v : BitVec 16), i.kget 0 = 0xFFFF ∧ (r ≠ 0 → (i.kput r v).kget r = v)) ∧
  pred .seamKlogic (fun o i =>
    let a := i.kget o.a.toNat
    let b := i.kget o.b.toNat
    if o.f = 0 then a &&& b else if o.f = 1 then a ||| b else if o.f = 2 then a ^^^ b else if o.f = 3 then a &&& ~~~b else ~~~a) ∧
  pred .kmov (fun o i => (i.xget o.a).setWidth 16) ∧
  SeamScalar .kget (fun o _ i _ => let a := i.kget o.a.toNat
    BitVec.ofNat 64 (if o.f = 0 then a.toNat else ((List.range 16).filter fun l => a.getLsbD l).length)) ∧
  SeamFloat .vfArith (fun o i f e => seamVf f (o.f.toNat % 8) (seamEl i o.a f e) (seamEl i o.b f e)) ∧
  SeamFloat .vfArithX (fun o i f e => seamVf f (o.f.toNat % 8) (seamEl i o.a f e) ((i.xget o.b).toNat % 2 ^ f.width)) ∧
  SeamFloat .vfma (fun o i f e => fpFma f {} (o.f.getLsbD 0) (seamEl i o.a f e) (seamEl i o.b f e) (seamEl i (o.imm.setWidth 5) f e)) ∧
  SeamFloat .vfUnary (fun o i f e =>
    let a := seamEl i o.a f e
    if o.f.toNat % 4 = 0 then fpSqrt f {} a else if o.f.toNat % 4 = 1 then fpRsqrt f {} a else if o.f.toNat % 4 = 2 then a % f.signBit else f.negate a) ∧
  (∀ (f : Fmt) (a b : Nat), seamVf f 0 a b = fpAdd f {} a b ∧ seamVf f 1 a b = fpSub f {} a b ∧ seamVf f 2 a b = fpMul f {} a b ∧ seamVf f 3 a b = fpDiv f {} a b ∧
    seamVf f 4 a b = fpMinMax f false false a b ∧ seamVf f 5 a b = fpMinMax f false true a b) ∧
  SeamVector .viArith all on (fun o i l => seamInteger o.f.toNat (i.zlane o.a l) (i.zlane o.b l) ((i.zlane o.b l).toNat % 32)) ∧
  SeamVector .viArithX all on (fun o i l => seamInteger o.f.toNat (i.zlane o.a l) ((i.xget o.b).setWidth 32) ((i.xget o.b).toNat % 32)) ∧
  pred .vcmp (fun o i => BitVec.ofNat 16 (((List.range 16).filter fun l =>
    let cc := o.f.toNat % 8
    let ty := o.f.toNat / 8 % 4
    let a := i.zlane o.a l
    let b := i.zlane o.b l
    if ty = 0 then on o i l && fpCmp Fmt.f32 false cc a.toNat b.toNat
    else if ty = 1 then on o i l && conditionHolds cc a b
    else if ty = 2 then on o i l && conditionHolds (if cc < 2 then cc else cc + 4) a b
    else on o i (l / 2 * 2) && fpCmp Fmt.f64 false cc (i.zpair o.a (l / 2)).toNat (i.zpair o.b (l / 2)).toNat).foldl (fun n l => n + 2 ^ l) 0)) ∧
  SeamVector .seamVsel all (fun _ _ _ => true) (fun o i l => if on o i l then i.zlane o.a l else i.zlane o.b l) ∧
  SeamVector .vcvt (fun o => o.f.toNat ≤ 5) on (fun o i l =>
    let a := (i.zlane o.a l).toNat
    BitVec.ofNat 32 (if o.f = 0 then convertFF Fmt.bf16 Fmt.f32 {} (a % 2 ^ 16) else if o.f = 1 then convertFF Fmt.f32 Fmt.bf16 {} a
      else if o.f = 2 then convertFF Fmt.f16 Fmt.f32 {} (a % 2 ^ 16) else if o.f = 3 then convertFF Fmt.f32 Fmt.f16 {} a
      else if o.f = 4 then convertIF 32 true Fmt.f32 {} a else convertFI Fmt.f32 32 true { mode := 1, sat := true } a)) ∧
  SeamVector .vcvt (fun o => o.f = 6 ∨ o.f = 7) (fun o i l => on o i ((if o.f = 7 then 8 else 0) + l / 2)) (fun o i l =>
    let v := convertFF Fmt.f32 Fmt.f64 {} (i.zlane o.a ((if o.f = 7 then 8 else 0) + l / 2)).toNat
    BitVec.ofNat 32 (if l % 2 = 0 then v else v / 2 ^ 32)) ∧
  SeamVector .vcvt (fun o => o.f = 8 ∨ o.f = 9) (fun o i l => on o i l && (if o.f = 9 then 8 ≤ l else l < 8)) (fun o i l =>
    BitVec.ofNat 32 (convertFF Fmt.f64 Fmt.f32 {} (i.zpair o.a (l % 8)).toNat)) ∧
  SeamVector .vbc all on (fun o i _ => if o.f.getLsbD 0 then ((i.xget o.a) >>> 32).setWidth 32 else (i.xget o.a).setWidth 32) ∧
  SeamScalar .seamVext (fun o _ i _ => (i.zlane o.a o.imm.toNat).setWidth 64) ∧
  SeamVector .seamVins all (fun o _ l => l = o.imm.toNat) (fun o i _ => (i.xget o.a).setWidth 32) ∧
  SeamVector .vperm all on (fun o i l => i.zlane o.a ((i.zlane o.b l).toNat % 16)) ∧
  SeamVector .vlane all on (fun _ _ l => BitVec.ofNat 32 l) ∧
  SeamVector .seamVmov all on (fun o i l => i.zlane o.a l) ∧
  SeamScalar .vrdl (fun o _ i _ => seamReduce o i) ∧
  (∀ (o : SeamOp) (i : SeamInst),
    let ls := (List.range 16).filter fun l => on o i l
    (o.f = 3 → (seamReduce o i) = ((ls.foldl (fun (n : Lane32) l => n + i.zlane o.a l) 0).signExtend 64)) ∧
    (o.f = 4 → ls ≠ [] → ∃ l ∈ ls, seamReduce o i = (i.zlane o.a l).signExtend 64 ∧ ∀ m ∈ ls, (i.zlane o.a l).toInt ≤ (i.zlane o.a m).toInt) ∧
    (o.f = 5 → ls ≠ [] → ∃ l ∈ ls, seamReduce o i = (i.zlane o.a l).signExtend 64 ∧ ∀ m ∈ ls, (i.zlane o.a m).toInt ≤ (i.zlane o.a l).toInt) ∧
    (ls = [] → seamReduce o i = if o.f = 0 then 0 else if o.f.toNat < 3 then 0x7FC00000 else if o.f = 3 then 0 else if o.f = 4 then 0x7FFFFFFF else 0xFFFFFFFF80000000)) ∧
  (∀ (o : SeamOp) (s : State) (id : Nat) (i : SeamInst) (t : SeamTask), s.SeamRuns id i t →
    let ls := (List.range 16).filter fun l => on o i l
    let key : Nat → Int := fun l => Fmt.f32.orderKey (i.zlane o.a l).toNat
    ∃ ranked : List Nat, ranked.Perm ls ∧
      (∀ j k l m : Nat, j < k → ranked[j]? = some l → ranked[k]? = some m →
        (if o.f.getLsbD 1 then key m < key l else key l < key m) ∨ (key l = key m ∧ l < m)) ∧
      exec (.vsrt o) s = .next (s.putInst id { i with
        z := tset i.z o.d.toNat ((List.range 16).map fun n => match ranked[n]? with | some l => i.zlane (if o.f.getLsbD 0 then o.b else o.a) l | none => 0xFFFFFFFF)
        pc := i.pc + 8#64
        waitFrom := none }))

/-- R376, R380, R381, R385–R387, R392, R393, R395: the memory forms of a Seam core. Elements that take part are read or written at their own addresses; a
misaligned element, one that does not translate, and a write to a read-only region end the instance with no effect. A write waits its turn
behind the instance's earlier instructions; the reductions of one instruction at one place are one step. -/
def Obligations.SeamMemoryForms : Prop :=
  let size := fun (o : SeamOp) => 2 ^ (o.f.toNat % 4)
  let on := fun (o : SeamOp) (i : SeamInst) => (List.range 16).filter fun l => (i.kget o.k.toNat).getLsbD l
  let ea := fun (o : SeamOp) (i : SeamInst) => i.xget o.a + o.imm.signExtend 64
  let idx := fun (o : SeamOp) (i : SeamInst) (sh l : Nat) => i.xget o.a + BitVec.ofNat 64 ((i.zlane o.b l).toNat * 2 ^ sh)
  let c := fun (o : SeamOp) => o.imm.setWidth 5
  let widen := fun (n : Nat) (o : SeamOp) (bs : List Byte) => if o.f.getLsbD 2 then (BitVec.ofNat (8 * size o) (leNat bs)).signExtend n else BitVec.ofNat n (leNat bs)
  let gathered := fun (o : SeamOp) (i : SeamInst) (vals : List (List Byte)) => { i with
    z := tset i.z o.d.toNat ((List.range 16).map fun l => if (i.kget o.k.toNat).getLsbD l then widen 32 o (vals.getD ((on o i).idxOf l) []) else i.zlane o.d l) }
  let any := fun (_ : SeamOp) => True
  SeamReads .seamLd size (fun o i => [(ea o i, size o)])
    (fun o i vals => if o.d = 0 then i else { i with x := tset i.x o.d.toNat (widen 64 o (vals.headD [])) }) ∧
  SeamReads .vld size (fun o i => (on o i).map fun l => (ea o i + BitVec.ofNat 64 (size o * l), size o)) gathered ∧
  SeamReads .vgth size (fun o i => (on o i).map fun l => (idx o i (o.imm.toNat % 8) l, size o)) gathered ∧
  SeamWrites .seamSt any (.inr size) (fun _ => none) (fun o i => [(ea o i, leBytes (size o) (i.xget o.b).toNat)]) (fun _ i => i) ∧
  SeamWrites .vst any (.inr size) (fun _ => none)
    (fun o i => (on o i).map fun l => (ea o i + BitVec.ofNat 64 (size o * l), leBytes (size o) (i.zlane o.b l).toNat)) (fun _ i => i) ∧
  SeamWrites .vsct any (.inr size) (fun _ => none)
    (fun o i => (on o i).map fun l => (idx o i (o.imm.toNat / 32 % 8) l, leBytes (size o) (i.zlane (c o) l).toNat)) (fun _ i => i) ∧
  SeamWrites .vcst any (.inl 4) (fun _ => none)
    (fun o i => ((List.range (on o i).length).zip (on o i)).map fun p => (ea o i + BitVec.ofNat 64 (4 * p.1), leBytes 4 (i.zlane o.b p.2).toNat))
    (fun o i => if o.d = 0 then i else { i with x := tset i.x o.d.toNat (BitVec.ofNat 64 (on o i).length) }) ∧
  SeamWrites .vred (fun o => o.f ≠ 6) (.inl 4) (fun o => some o.f.toNat)
    (fun o i => (on o i).map fun l => (ea o i + BitVec.ofNat 64 (4 * l), leBytes 4 (i.zlane o.b l).toNat)) (fun _ i => i) ∧
  SeamWrites .vred (fun o => o.f = 6) (.inl 8) (fun _ => some 6)
    (fun o i => ((List.range 8).filter fun e => (i.kget o.k.toNat).getLsbD (2 * e)).map fun e =>
      (ea o i + BitVec.ofNat 64 (8 * e), leBytes 8 (i.zpair o.b e).toNat)) (fun _ i => i) ∧
  SeamWrites .vredx any (.inl 4) (fun o => some o.f.toNat)
    (fun o i => (on o i).map fun l => (idx o i (o.imm.toNat / 32 % 8) l, leBytes 4 (i.zlane (c o) l).toNat)) (fun _ i => i) ∧
  (∀ (s : State) (i : SeamInst) (t : SeamTask) (as : List SeamRange) (al : Nat),
    (∀ a, (as.find? fun a => a.1.toNat % al != 0) = some a → s.seamRead i t as al = .fault (6, 11, a.1.toNat)) ∧
    (∀ s1 vals, s.seamRead i t as al = .got s1 vals → vals.length = as.length ∧ s1.insts = s.insts ∧
      ∀ a ∈ as, a.1.toNat % al = 0 ∧ ∃ ps, s.agentLocate i.ctx a.1 0 a.2 .read = .ok ps)) ∧
  (∀ (s : State) (i : SeamInst) (t : SeamTask) (es : List (Word × List Byte)) (al : Nat) (red : Option Nat),
    (∀ e, (es.find? fun e => e.1.toNat % al != 0) = some e → s.seamWrite i t es al red = .error (6, 11, e.1.toNat)) ∧
    (∀ s1 i1, s.seamWrite i t es al red = .ok (s1, i1) → s1 = s.seamFill i.ctx (es.map fun e => (e.1, e.2.length)) ∧ s1.mem = s.mem ∧ s1.insts = s.insts ∧
      (∃ ws, i1 = { i with writes := i.writes ++ ws, group := i.group + 1 } ∧ ∀ w ∈ ws, w.group = i.group ∧ w.red = red) ∧
      ∀ e ∈ es, e.1.toNat % al = 0 ∧ t.modeAt e.1.toNat ≠ 1 ∧ ∃ ps, s.agentLocate i.ctx e.1 0 e.2.length .write = .ok ps)) ∧
  (∀ (core e m : Nat) (lanes : LaneMask) (s : State), (∀ p ∈ s.insts, p.2.core ≠ core ∨ p.2.writes = []) →
    exec (.writePerformed (.seam core) e m lanes) s = .next s) ∧
  (∀ (core m : Nat) (lanes : LaneMask) (s : State) (id : Nat) (i : SeamInst) (w : SeamWrite) (rest : List SeamWrite),
    (s.insts.find? fun p => p.2.core = core && p.2.writes != []) = some (id, i) → i.writes = w :: rest → s.hostReady w.pa w.data.length (Leaf.ca w.leaf) = true →
    (w.red = none → ∃ t, exec (.writePerformed (.seam core) 0 m lanes) s = .next t ∧ tfind t.insts id = some { i with writes := rest } ∧
      t.mem = (s.seamApply core w).mem) ∧
    (w.red ≠ none →
      let mates := rest.filter fun v => v.group = w.group && v.pa = w.pa
      ∃ t, exec (.writePerformed (.seam core) 0 m lanes) s = .next t ∧
        tfind t.insts id = some { i with writes := rest.filter fun v => !(v.group = w.group && v.pa = w.pa) } ∧
        t.mem = ((w :: mates).foldl (fun s v => s.seamApply core v) s).mem)) ∧
  (∀ old v : Nat, old < 2 ^ 32 → v < 2 ^ 32 →
    let sg := fun (a : Nat) => (BitVec.ofNat 32 a).toInt
    State.redStep 0 old v = fpAdd Fmt.f32 {} old v ∧ State.redStep 1 old v = (old + v) % 2 ^ 32 ∧ State.redStep 2 old v = fpMinMax Fmt.f32 false false old v ∧
    State.redStep 3 old v = fpMinMax Fmt.f32 false true old v ∧ sg (State.redStep 4 old v) = min (sg old) (sg v) ∧ sg (State.redStep 5 old v) = max (sg old) (sg v) ∧
    State.redStep 6 old v = fpAdd Fmt.f64 {} old v)

/-- R370–R378: Seam tasks. The oldest task of the highest priority leaves QUEUED once its regions are free and its cores have places; after its probe
it runs; a core runs the instance of the highest priority that has waited longest, and gives it up for a higher one, when its context leaves, or when a
wait has lasted 65,536 cycles; a task whose instances have ended writes its entry and advances its counter. -/
def Obligations.SeamTasks : Prop :=
  (∀ (id : Nat) (s : State), s.task? id = none → exec (.seamTaskStart id) s = .next s ∧ exec (.seamProbeDone id) s = .next s ∧ exec (.seamTaskDone id) s = .next s) ∧
  (∀ (core : Nat) (s : State), s.runningOn core = none → exec (.seamInstancePreempt core) s = .next s ∧ exec (.seamLongWait core) s = .next s) ∧
  (∀ (id : Nat) (s : State) (t : SeamTask), s.task? id = some t →
    let may := t.st = .queued ∧ s.firstTask id = true ∧ s.taskFits t = true
    (¬may → exec (.seamTaskStart id) s = .next s) ∧
    (may → ∃ u, exec (.seamTaskStart id) s = .next u ∧ u.task? id = some { t with st := .probe } ∧
      (t.invalid = true → u.insts = s.insts) ∧
      (t.invalid = false → u.insts.map (·.2) = s.insts.map (·.2) ++ t.places.map fun p => { task := id, idx := p.1, core := p.2, ctx := t.ctx })) ∧
    (t.st ≠ .probe → exec (.seamProbeDone id) s = .next s) ∧
    (t.st = .probe → ∃ u t1, exec (.seamProbeDone id) s = .next u ∧ u.task? id = some t1 ∧
      (t.invalid = true → t1.st = .done ∧ ∃ a, t1.fails = [(0, 1, 0, a)]) ∧
      (∀ c a, t.invalid = false → s.probe t = .error (c, a) → t1.st = .done ∧ t1.fails = [(0, 2, c, a)] ∧ ∀ p ∈ u.insts, p.2.task ≠ id) ∧
      (∀ l, t.invalid = false → s.probe t = .ok l → t1 = { t with st := .run, held := l }))) ∧
  (∀ (s : State) (id : Nat), s.firstTask id = true → ∃ t, (id, t) ∈ s.tasks ∧ t.st = .queued ∧ s.resident t.ctx = true ∧
    ∀ p ∈ s.tasks, p.2.st = .queued → s.resident p.2.ctx = true → (s.ctx p.2.ctx).prio ≤ (s.ctx t.ctx).prio) ∧
  (∀ (s : State) (t : SeamTask), s.taskFits t = true → (∀ u ∈ s.holding, State.regionsClash t u = false) ∧ ∀ p ∈ t.places, s.placesOn p.2 < 8) ∧
  (∀ (core : Nat) (s : State), (s.runningOn core ≠ none ∨ s.nextInst core = none → exec (.seamInstanceRun core) s = .next s) ∧
    (∀ id i t, s.runningOn core = none → s.nextInst core = some (id, i) → s.task? i.task = some t →
      exec (.seamInstanceRun core) s = .next (s.runInst id i t) ∧
      i.core = core ∧ i.st = .queued ∧ s.resident i.ctx = true ∧
      (∀ q ∈ s.waitingOn core, (s.ctx q.2.ctx).prio < (s.ctx i.ctx).prio ∨ ((s.ctx q.2.ctx).prio = (s.ctx i.ctx).prio ∧ i.order ≤ q.2.order)) ∧
      (i.fresh = true → s.runInst id i t = s.putInst id { i with x := [(1, BitVec.ofNat 64 t.argp), (2, BitVec.ofNat 64 i.idx), (3, BitVec.ofNat 64 i.core)]
                                                                 z := []
                                                                 k := []
                                                                 pc := BitVec.ofNat 64 t.code
                                                                 fresh := false
                                                                 st := .running }))) ∧
  (∀ (core : Nat) (s : State) (id : Nat) (i : SeamInst) (t : SeamTask), s.runningOn core = some (id, i) → s.task? i.task = some t →
    let leaves := s.resident i.ctx = false ∨ ∃ p ∈ s.waitingOn i.core, (s.ctx i.ctx).prio < (s.ctx p.2.ctx).prio
    let long := ∃ c, i.waitFrom = some c ∧ c + 65536 ≤ s.cycle
    (¬leaves → exec (.seamInstancePreempt core) s = .next s) ∧
    (leaves → exec (.seamInstancePreempt core) s = .next (s.saveInst id i t (if s.resident i.ctx then .queued else .saved))) ∧
    (¬long → exec (.seamLongWait core) s = .next s) ∧ (long → exec (.seamLongWait core) s = .next (s.saveInst id i t .queued))) ∧
  (∀ (s : State) (id : Nat) (i : SeamInst) (t : SeamTask) (st : InstState),
    let there := s.agentReady i.ctx (BitVec.ofNat 64 (t.save + 2368 * i.idx)) 2368
    (s.seamQuiet i = false ∨ there = false → s.saveInst id i t st = s) ∧
    (∀ s1, s.seamQuiet i = true → there = true → s.agentWrite (seamKey i.core) i.ctx (BitVec.ofNat 64 (t.save + 2368 * i.idx)) 0 i.image = .ok s1 →
      ∃ i1, tfind (s.saveInst id i t st).insts id = some i1 ∧ i1.st = st ∧ i1.writes = i.writes ∧ (s.saveInst id i t st).mem = s1.mem)) ∧
  (∀ (i : SeamInst) (r : BitVec 5) (l : Nat), i.image.length = 2368 ∧ (i.load i.image).xget r = i.xget r ∧ (l < 16 → (i.load i.image).zlane r l = i.zlane r l) ∧
    (i.load i.image).pc = i.pc ∧ ∀ k < 8, (i.load i.image).kget k = i.kget k) ∧
  (∀ (id : Nat) (s : State) (t : SeamTask), s.task? id = some t →
    let mine := s.insts.filter fun p => p.2.task = id
    let ended := (t.st = .done ∨ (t.st = .run ∧ ∀ p ∈ mine, p.2.st = .ended ∧ s.seamQuiet p.2 = true)) ∧
      (t.node = none → t.cep ≠ 0 → s.agentReady t.ctx (BitVec.ofNat 64 t.cep) 32 = true)
    let s1 : State := { s with
      tasks := tdel s.tasks id
      insts := s.insts.filter fun p => p.2.task != id }
    (¬ended → exec (.seamTaskDone id) s = .next s) ∧
    (∀ n, ended → t.node = some n → exec (.seamTaskDone id) s = .next (s1.modNode n fun nd => { nd with err := State.taskEntry t, busy := false })) ∧
    (let s2 := if t.cep = 0 then s1 else s1.writeEntry t.ctx (BitVec.ofNat 64 t.cep) (State.taskEntry t)
     ended → t.node = none → exec (.seamTaskDone id) s = .next (if t.tle then s2.signal t.ctx t.tlc t.target else s2)))

/-! ## The host port, starting and power (R467–R480) -/

/-- R336, R467, R468: the host reads and writes the device's memory. A read of memory that only the device may reach returns ones and is logged, a
write there is discarded and logged; else a read answers the newest bytes, a write is performed, and the host may then hold the line.
R339, R447, R470–R473, R478: the windows of BAR0. A doorbell, a timeline access, a descriptor write and a group load act on their context; an access that
names no register has no effect, and a read of it returns ones; ROOFCFG, YDL, SVPOOL and TRAPVEC keep the bits they hold, PCAP its limits. -/
def Obligations.HostPort : Prop :=
  (
  let addr := fun (range : Bool) (off n : Nat) => if range then (if off + n ≤ 2 ^ 41 then some (capLo + off) else none) else if off + n ≤ hbmTop then some off else none
  let returns := fun (s : State) (bs : List Byte) (bad : Bool) => ({ s with hostOut := s.hostOut ++ [.data bs bad] } : State)
  let logged := fun (s : State) (n a : Nat) => s.logDevice { cls := 1, detail := n, unit := 0x694, addr := a, nerr := 1 }
  (∀ (range : Bool) (off len : Nat) (data : List Byte) (s : State),
    (addr range off len = none → exec (.cxlMemRead range off len) s = .next s) ∧
    (addr range off data.length = none → exec (.cxlMemWrite range off data) s = .next s) ∧
    (∀ a, addr range off len = some a → ((∀ i < len, s.deviceOnly (a + i) = false) → ∃ t, exec (.cxlMemRead range off len) s = .next t ∧
        (∃ o, t.hostOut = s.hostOut ++ o ++ [.data (t.physRead a len) (t.poisoned a len)] ∧ ∀ x ∈ o, x = .msix) ∧ t.blocks = s.blocks ∧ t.nodes = s.nodes ∧ ∀ l ∈ State.lineSpan a len, l ∈ t.hostHeld) ∧
      (∀ i < len, s.deviceOnly (a + i) = true → (∀ j < i, s.deviceOnly (a + j) = false) →
        exec (.cxlMemRead range off len) s = .next (returns (logged s 0 (a + i)) (List.replicate len 0xFF) false))) ∧
    (∀ a, addr range off data.length = some a →
      ((∀ i < data.length, s.deviceOnly (a + i) = false) → exec (.cxlMemWrite range off data) s =
        .next (((s.bypassLines a data.length true).perform State.noWarp a data).hostTakes a data.length)) ∧
      (∀ i < data.length, s.deviceOnly (a + i) = true → (∀ j < i, s.deviceOnly (a + j) = false) → exec (.cxlMemWrite range off data) s = .next (logged s 1 (a + i))))) ∧
  (∀ (line : Nat) (s : State),
    let l := line / 128 * 128
    (State.isHost l = false → exec (.hostSnoop line) s = .next s ∧ exec (.cxlOwnershipGrant line) s = .next s) ∧
    (State.isHost l = true → exec (.hostSnoop line) s =
      .next (returns { s with hostOwned := s.hostOwned.filter fun x => x != l } (s.physRead l 128) (s.poisoned l 128))) ∧
    (State.isHost l = true → ∃ t, exec (.cxlOwnershipGrant line) s = .next t ∧ l ∈ t.hostOwned ∧ (l ∈ s.hostOwned → t = s) ∧ t = { s with hostOwned := t.hostOwned }) ∧
    ∃ t, exec (.backInvalidateResponse line) s = .next t ∧ t = { s with hostHeld := t.hostHeld } ∧ ∀ x, x ∈ t.hostHeld ↔ x ∈ s.hostHeld ∧ x ≠ l)) ∧
  (
  let up := fun (s : State) => s.devState = 1
  (∀ (x : Nat) (q : BitVec 32) (s : State), (up s → x < 16 → exec (.hostDoorbellWrite x q) s = .next (s.doorbell x q.toNat)) ∧
    (¬up s ∨ 16 ≤ x → exec (.hostDoorbellWrite x q) s = .next s)) ∧
  (∀ (x c : Nat) (v : BitVec 64) (s : State),
    (up s → x < 16 → c < 64 → (s.ctx x).held = true →
      (s.counterReady x c = true → exec (.timelineWindowWrite x c v) s = .next (s.advance x c v)) ∧
      (s.counterReady x c = false → exec (.timelineWindowWrite x c v) s = .next (s.postAdvance x c v))) ∧
    (¬up s ∨ 16 ≤ x ∨ 64 ≤ c ∨ (s.ctx x).held = false → exec (.timelineWindowWrite x c v) s = .next s) ∧
    (x < 16 → s.powered = true → up s → c < 64 → exec (.timelineWindowRead x c) s = .next { s with
      hostOut := s.hostOut ++ [.data (if (s.ctx x).held then leBytes 8 (s.timeline x c) else List.replicate 8 0xFF) false] }) ∧
    (16 ≤ x ∨ s.powered = false → exec (.timelineWindowRead x c) s = .next s)) ∧
  (∀ (x off size : Nat) (v : BitVec 64) (s : State),
    (¬up s ∨ 16 ≤ x ∨ 0x40 ≤ off ∨ (s.ctx x).res = true ∨ (s.ctx x).busy = true → exec (.descriptorWrite x off size v) s = .next s) ∧
    (up s → x < 16 → off < 0x40 → off % 8 = 0 → (s.ctx x).res = false → (s.ctx x).busy = false → ∃ t, exec (.descriptorWrite x off 8 v) s = .next t ∧
      (t.ctx x).fresh = true ∧ (t.ctx x).desc.extractLsb' (8 * off) 64 = v ∧
      (∀ o, o < 0x40 → o % 8 = 0 → o ≠ off → (t.ctx x).desc.extractLsb' (8 * o) 64 = (s.ctx x).desc.extractLsb' (8 * o) 64) ∧ ∀ y, y ≠ x → t.ctx y = s.ctx y)) ∧
  (∀ (x g : Nat) (s : State),
    (¬up s ∨ 16 ≤ x ∨ s.resident x = false ∨ 256 ≤ g ∨ (s.ctx x).gload.contains g = true → exec (.groupWindowLoad x g) s = .next s) ∧
    (up s → x < 16 → s.resident x = true → g < 256 → (s.ctx x).gload.contains g = false →
      exec (.groupWindowLoad x g) s = .next (s.modCtx x fun c => { c with gload := c.gload ++ [g] })) ∧
    ((s.ctx x).gload.contains g = false ∨ (∃ p ∈ s.colls, p.2.ctx = x ∧ p.2.g = g) → exec (.groupLoadDecided x g) s = .next s) ∧
    ((s.ctx x).gload.contains g = true → (∀ p ∈ s.colls, p.2.ctx ≠ x ∨ p.2.g ≠ g) →
      let r := s.loadGroup x g (tget 0 (s.ctx x).gimg g)
      exec (.groupLoadDecided x g) s = .next (r.1.modCtx x fun c => { c with gload := c.gload.filter (· != g), gstat := tset c.gstat g (BitVec.ofNat 64 r.2) }))) ∧
  (∀ (off size : Nat) (v : BitVec 64) (s : State), s.powered = true →
    (State.barAligned off size = false → exec (.barRegisterWrite off size v) s = .next s ∧
      exec (.barInvalidAccess off size true) s = .next { s with hostOut := s.hostOut ++ [.data (List.replicate size 0xFF) false] }) ∧
    exec (.barInvalidAccess off size false) s = .next s ∧
    (up s → exec (.barRegisterWrite 0x402000 8 v) s = .next { s with rptr := v.toNat / 256 % 256 }) ∧
    (∀ d, up s → d < 8 → exec (.barRegisterWrite (0x501000 + 8 * d) 8 v) s =
      .next { s with pcap := tset s.pcap d ((tget 0 s.pcap d &&& 0xFFFFFF0000000000#64) ||| (v &&& 0xFFFFFFFFFF#64)) }) ∧
    (∀ x, up s → x < 16 → s.resident x = true →
      exec (.barRegisterWrite (0x200048 + 65536 * x) 8 v) s = .next (s.modCtx x fun c => { c with trapvec := v &&& 0x00FFFFFFFFFFFFFC#64 }) ∧
      exec (.barRegisterWrite (0x200050 + 65536 * x) 8 v) s = .next (s.modCtx x fun c => { c with ydl := v &&& 0xFFFFFFFF#64 }) ∧
      exec (.barRegisterWrite (0x200058 + 65536 * x) 8 v) s = .next (s.modCtx x fun c => { c with svpool := v &&& 0x00FFFFFFFFFFFFFF#64 }) ∧
      exec (.barRegisterWrite (0x200060 + 65536 * x) 8 v) s = .next (s.modCtx x fun c => { c with ways := BitVec.ofNat 64 (min 16 (v.toNat % 32)) }))) ∧
  (∀ (off size : Nat) (v : BitVec 64) (s : State), s.powered = false → exec (.barRegisterWrite off size v) s = .next s))

/-- R339, R342, R373, R472: contexts. RES written 1 with NEW set creates the slot's context from its descriptor, or refuses a bad one; without NEW it brings the held
context back; RES written 0 frees the context's queue slots and asks its blocks to yield, and BUSY falls once nothing of it is left. -/
def Obligations.ContextChanges : Prop :=
  let f := fun (d : BitVec 512) (lo n : Nat) => (d.extractLsb' lo n).toNat
  (∀ (x : Nat) (s : State), 16 ≤ x ∨ s.devState ≠ 1 ∨ (s.ctx x).res = true ∨ (s.ctx x).busy = true →
    exec (.contextCreate x) s = .next s ∧ exec (.contextReturn x) s = .next s) ∧
  (∀ (x : Nat) (s : State), ((s.ctx x).fresh = false → exec (.contextCreate x) s = .next s) ∧ ((s.ctx x).fresh = true → exec (.contextReturn x) s = .next s)) ∧
  (∀ (x : Nat) (s : State), x < 16 → s.devState = 1 → (s.ctx x).res = false → (s.ctx x).busy = false → (s.ctx x).fresh = true →
    let d := (s.ctx x).desc
    (s.descBad d = true → ∃ t, exec (.contextCreate x) s = .next t ∧ t.ctx x = { desc := d, err := true, fresh := true }) ∧
    (s.descBad d = false → ∃ t c, exec (.contextCreate x) s = .next t ∧ t.ctx x = c ∧ c.res = true ∧ c.held = true ∧ c.err = false ∧ c.fresh = false ∧ c.busy = false ∧
      c.ttroot = d.extractLsb' 0 64 &&& 0x000FFFFFFFF00000#64 ∧ c.segtab = d.extractLsb' 64 64 &&& 0x000FFFFFFFFFFF00#64 ∧ c.tlblk = d.extractLsb' 128 64 ∧
      c.qtab.toNat = f d 192 56 ∧ c.qmax = f d 256 16 ∧ c.prio = f d 272 3 ∧ c.quant = (if f d 288 16 = 0 then 3000000 else 1500 * f d 288 16) ∧
      c.trapvec = 0 ∧ c.ydl = 20000 ∧ c.svpool = 0 ∧ c.ways = 0 ∧ c.pending = [] ∧ (s.Canonical → ∀ k, k < 64 → t.timeline x k = 0) ∧
      (∀ p ∈ t.nodes, p.2.ctx ≠ x) ∧ (∀ p ∈ t.blocks, p.2.ctx ≠ x) ∧ (∀ l ∈ t.tlb, l.ctx ≠ x) ∧ (∀ p ∈ t.walks, p.ctx ≠ x) ∧ ∀ y, y ≠ x → (t.ctx y).desc = (s.ctx y).desc ∧ (t.ctx y).res = (s.ctx y).res)) ∧
  (∀ (x : Nat) (s : State), x < 16 → s.devState = 1 → (s.ctx x).res = false → (s.ctx x).busy = false → (s.ctx x).fresh = false →
    ((s.ctx x).held = false → exec (.contextReturn x) s = .next (s.modCtx x fun c => { c with err := true })) ∧
    ((s.ctx x).held = true → ∃ t, exec (.contextReturn x) s = .next t ∧ (t.ctx x).res = true ∧ (t.ctx x).err = false ∧ (t.ctx x).trapvec = (s.ctx x).trapvec ∧
      (t.ctx x).mapped = [] ∧ (∀ q, (∃ p ∈ (t.ctx x).pending, p.1 = q) ↔ (∃ p ∈ (s.ctx x).pending, p.1 = q) ∨ q ∈ (s.ctx x).mapped) ∧
      ∀ p ∈ t.insts, p.2.ctx = x → p.2.st ≠ .saved)) ∧
  (∀ (x : Nat) (s : State), (16 ≤ x ∨ (s.ctx x).res = false ∨ (s.ctx x).busy = true → exec (.contextMakeNonresident x) s = .next s) ∧
    (x < 16 → (s.ctx x).res = true → (s.ctx x).busy = false → ∃ t, exec (.contextMakeNonresident x) s = .next t ∧ (t.ctx x).res = false ∧ (t.ctx x).busy = true ∧
      (∀ p ∈ t.qslots, p.2.ctx = x → p.2.st = .free) ∧ ∀ q, (∃ p ∈ s.qslots, p.2.st ≠ .free ∧ p.2.ctx = x ∧ p.2.q = q) → q ∈ (t.ctx x).mapped)) ∧
  (∀ (x : Nat) (s : State), ((s.reap.ctx x).busy = false → exec (.residencyChangeDone x) s = .next s.reap) ∧
    ((s.reap.ctx x).busy = true → s.reap.hasLeft x = true → exec (.residencyChangeDone x) s = .next (s.reap.modCtx x fun c => { c with busy := false })) ∧
    ((s.reap.ctx x).busy = true → s.reap.hasLeft x = false → exec (.residencyChangeDone x) s = .next (s.reap.raiseAll x))) ∧
  (∀ (s : State) (x cl : Nat), (tget [] (s.requeueJobs x).conv cl).length ≤ max 16 (tget [] s.conv cl).length) ∧
  (∀ (s : State) (x : Nat) (j : ConvJob), s.resident x = true → s.poolUnits x = 0 → (s.ctx x).jobs = [j] → j.blk = none →
    let q := tget [] s.conv (clusterOf j.core)
    (16 ≤ q.length → s.requeueJobs x = s) ∧
    (q.length < 16 → (s.requeueJobs x).conv = tset s.conv (clusterOf j.core) (q ++ [j]) ∧ ((s.requeueJobs x).ctx x).jobs = []))

/-- R333, R422, R474–R476: the start, and the record as flash holds it: 64 KiB with its map, its routing table and a correct CRC. A start goes through steps 1 to 7, each recorded before and after its work; a failure starts again, a third failure of a step halts the device, a
second one takes the step's alternative; after step 7 the device is ready. Step 2 measures the record as it writes it. The machine right after reset starts at step 1. -/
def Obligations.DeviceStart : Prop :=
  let clean := fun (s : State) (n : Nat) => s.boot.fail.getD (n - 1) 0 = 0
  (∀ (hot : Bool) (s : State), (hot = true ∨ s.powered = false ∨ (s.devState = 0 ∧ s.devStep = 0) → exec (.deviceStart hot) s = .next s.startUp) ∧
    (hot = false → s.powered = true → s.devState ≠ 0 ∨ s.devStep ≠ 0 → exec (.deviceStart hot) s = .next s)) ∧
  (exec (.deviceStart false) State.reset = .next { State.reset with
    devStep := 1
    boot := { seq := 1, step := 1, pend := true } }) ∧
  (∀ s : State, s.startUp.mem = [] ∧ s.startUp.warps = [] ∧ s.startUp.nodes = [] ∧ s.startUp.ctxs = [] ∧ s.startUp.cycle = 0 ∧ s.startUp.powered = true ∧
    s.startUp.boot.map = (if s.boot.seq < s.bootOld.seq then s.bootOld else s.boot).map) ∧
  (∀ (ok : Bool) (s : State), s.devState ≠ 0 ∨ s.devStep = 0 ∨ s.boot.pend = false → exec (.bootStepDone ok) s = .next s) ∧
  (∀ s : State, s.devState = 0 → s.boot.pend = true → s.boot.fail.length = 7 →
    (∀ n, 1 ≤ n → n ≤ 6 → s.devStep = n → clean s n → clean s (n + 1) → ∃ t, exec (.bootStepDone true) s = .next t ∧ t.devState = 0 ∧ t.devStep = n + 1 ∧ t.devAlt = s.devAlt ∧
      t.boot.pend = true ∧ t.boot.step = n + 1 ∧ t.boot.fail = s.boot.fail ∧ t.boot.seq = s.boot.seq + 2 ∧
      t.measured = (if n = 1 then t.boot else s.measured) ∧
      (n = 5 → t.mscSize = if s.boot.size ≤ 4 then s.boot.size else 0)) ∧
    (s.devStep = 7 → clean s 7 → ∃ t, exec (.bootStepDone true) s = .next t ∧ t.devState = 1 ∧ t.boot.pend = false ∧ t.rank = s.boot.rank ∧ t.route = s.boot.route) ∧
    (∀ n, 1 ≤ n → n ≤ 7 → s.devStep = n → s.boot.fail.getD (n - 1) 0 = 2 → ∃ t, exec (.bootStepDone false) s = .next t ∧ t.devState = 2 ∧ t.devFail = n ∧ t.boot.pend = false) ∧
    (∀ n, 1 ≤ n → n ≤ 7 → s.devStep = n → s.boot.fail.getD 0 0 ≤ 1 → clean s n → ∃ t, exec (.bootStepDone false) s = .next t ∧
      t.devState = 0 ∧ t.devStep = 1 ∧ t.boot.fail.getD (n - 1) 0 = 1 ∧ t.boot.pend = true ∧ t.mem = [] ∧ t.ctxs = [])) ∧
  (∀ (v : BitVec 64) (s : State), (s.powered = true → ∃ t, exec (.bootclr v) s = .next t ∧ t.boot.fail = [0, 0, 0, 0, 0, 0, 0] ∧ t.boot.seq = s.boot.seq + 1 ∧ t.bootOld = s.boot ∧
      t = { s with boot := t.boot, bootOld := t.bootOld }) ∧ (s.powered = false → exec (.bootclr v) s = .next s)) ∧
  (∀ s : State, exec .powerLoss s = .next { State.reset with tick := s.tick, agenda := s.agenda, hostOut := s.hostOut, boot := s.boot, bootOld := s.bootOld, powered := false } ∧
    exec .inputShutdown s = .next { State.reset with tick := s.tick, agenda := s.agenda, hostOut := s.hostOut, boot := s.boot, bootOld := s.bootOld, powered := false }) ∧
  (∀ b : BootRec, b.fail.length = 7 → b.image.length = 65536 ∧ bootValid b.image = true ∧ leNat (b.image.take 8) = b.seq % 2 ^ 64 ∧
    (∀ r, r < 16384 → leNat ((b.image.drop (0x2000 + 3 * r)).take 3) = (tget 0 b.route r).toNat) ∧
    (∀ g, g < 1280 → leNat ((b.image.drop (0x100 + 4 * g)).take 4) = (tget 0 b.map g).toNat))

/-- R477–R480: power. A sample fills a rail's word and counts it; at the end of a window above a limit a die first throttles by 8 up to 48, then lowers its step, and
inside all of them by a tenth it goes back the same way; a margin below half of MMIN takes the lowest step at once; an identity message is answered. -/
def Obligations.PowerControl : Prop :=
  (∀ (rail : Nat) (mv ca temp : BitVec 16) (s : State), (28 ≤ rail ∨ s.powered = false → exec (.telemetrySample rail mv ca temp) s = .next s) ∧
    (rail < 28 → s.powered = true → ∃ t, exec (.telemetrySample rail mv ca temp) s = .next t ∧ t = { s with rails := t.rails } ∧
      (tget 0 t.rails rail).extractLsb' 0 16 = mv ∧ (tget 0 t.rails rail).extractLsb' 16 16 = ca ∧ (tget 0 t.rails rail).extractLsb' 32 16 = temp ∧
      (tget 0 t.rails rail).extractLsb' 48 16 = (tget 0 s.rails rail).extractLsb' 48 16 + 1 ∧ ∀ r, r ≠ rail → tget 0 t.rails r = tget 0 s.rails r)) ∧
  (∀ (die power flux margin : Nat) (s : State), 8 ≤ die ∨ s.powered = false →
    exec (.capWindow die power flux margin) s = .next s ∧ exec (.marginEmergency die margin) s = .next s) ∧
  (∀ (die power flux margin : Nat) (s : State), die < 8 → s.powered = true →
    let v := tget 0 s.pcap die
    let plim := v.toNat % 2 ^ 16
    let flim := v.toNat / 2 ^ 16 % 2 ^ 12
    let mmin := v.toNat / 2 ^ 28 % 2 ^ 12
    let vf := v.toNat / 2 ^ 40 % 4
    let thr := v.toNat / 2 ^ 42 % 64
    let above := plim < power ∨ flim < flux ∨ margin < mmin
    let inside := power * 10 ≤ plim * 9 ∧ flux * 10 ≤ flim * 9 ∧ mmin * 11 ≤ margin * 10
    let moved := fun (i : Instr) (vf' thr' : Nat) => ∃ t, exec i s = .next t ∧ t = { s with pcap := t.pcap } ∧
      tget 0 t.pcap die = BitVec.ofNat 64 (v.toNat % 2 ^ 40 + 2 ^ 40 * vf' + 2 ^ 42 * thr') ∧ ∀ d, d ≠ die → tget 0 t.pcap d = tget 0 s.pcap d
    v.toNat < 2 ^ 48 → thr % 8 = 0 → thr ≤ 48 →
    (above → thr < 48 → moved (.capWindow die power flux margin) vf (thr + 8)) ∧
    (above → thr = 48 → moved (.capWindow die power flux margin) (min 3 (vf + 1)) 48) ∧
    (¬above → inside → 0 < vf → moved (.capWindow die power flux margin) (vf - 1) thr) ∧
    (¬above → inside → vf = 0 → moved (.capWindow die power flux margin) 0 (thr - 8)) ∧
    (¬above → ¬inside → moved (.capWindow die power flux margin) vf thr) ∧
    (margin * 2 < mmin → moved (.marginEmergency die margin) 3 thr) ∧ (mmin ≤ margin * 2 → exec (.marginEmergency die margin) s = .next s)) ∧
  (∀ (code : BitVec 8) (body : List Byte) (s : State), s.powered = true → ∃ b, exec (.spdmMessage code body) s = .next { s with hostOut := s.hostOut ++ [.spdm b] }) ∧
  (∀ (code : BitVec 8) (body : List Byte) (s : State), s.powered = false → exec (.spdmMessage code body) s = .next s)

/-! ## The machine as a whole: encoding, fetching, memory, reset and frames -/

/-- R24–R31, R43, R383, R386: five words written out from the encodings: `?g2 kill`, `split jm1, g2` to six instructions on, `arrive jm0`, and of a Seam
core `bgeu x5, x6` to eight instructions on and `vsel z4, z3, z0, k1`. -/
def Obligations.SampleWords : Prop :=
  let yes : Hdr := ⟨7, false, 0, false, true⟩
  let none' : Src := ⟨.vec 0, 0, false⟩
  decodeTableWord 96 0x00000800_00000000_0060059C = some (.kill ⟨⟨2, false, 0, false, true⟩, .imm 0, none', none', false, 0⟩) ∧
  decodeTableWord 96 0x00000800_0080C001_01600E08 = some (.split ⟨yes, .imm 0, ⟨.spc 2, 0, false⟩, 1, 6⟩) ∧
  decodeTableWord 96 0x00000800_00000000_00600E09 = some (.arrive ⟨yes, .imm 0, none', 0, 0⟩) ∧
  decodeTableWord 64 0x00000008_1418A005 = some (.seamBranch ⟨0, 5, 6, 0, 5, 8⟩) ∧
  decodeTableWord 64 0x00000000_00806423 = some (.seamVsel ⟨4, 3, 0, 1, 0, 0⟩)

/-- R24–R44: a Jarja instruction that breaks no rule of its row decodes from its own word, with every operand at every value the word admits; and from
its twelve bytes, with what follows them left over.
R383–R386: the same of Seam instructions, from their own word and from eight bytes.
R24–R44, R383–R386: each word has one meaning: what a word decodes to encodes as that word and breaks no rule of its row. -/
def Obligations.EncodingRoundTrip : Prop :=
  (
  ∀ (i : Instr) (w : BitVec 96), illegal i = none → encode i = .jarja w →
    decodeJarja w = .ok i ∧ ∀ rest : List Byte, decodeJarjaBytes (encodeBytes i ++ rest) = .ok (i, rest)) ∧
  (
  ∀ (i : Instr) (w : BitVec 64), illegal i = none → encode i = .seam w →
    decodeSeam w = .ok i ∧ ∀ rest : List Byte, decodeSeamBytes (encodeBytes i ++ rest) = .ok (i, rest)) ∧
  (
  (∀ (w : BitVec 96) (i : Instr), decodeJarja w = .ok i → encode i = .jarja w ∧ illegal i = none) ∧
  (∀ (w : BitVec 64) (i : Instr), decodeSeam w = .ok i → encode i = .seam w ∧ illegal i = none))

/-- R2, R25, R44, R46, R141, R294, R373, R385: a step runs the decoded instruction. Time passes, a die's cycles at the rate of its VF step, and the warp's
ordering points that are complete go; then, when the current warp is active with no boundary event due and the word at its pc decodes to an
instruction of its kind of core, the step is that instruction on the machine with the word kept in the loop buffer and the lines of code it came
from in the core; a word that does not decode raises the illegal-instruction trap. A core may go on fetching a line of code as it had it. A turn of
the agenda comes first. The same for a Seam core. -/
def Obligations.StepRunsDecoded : Prop :=
  (∀ (s : State) (w0 w : Warp) (x : BitVec 96),
    let s0 := (s.tickOn.settleFences w0.key).dropStale w0.key
    s.agenda = [] → s.curWarp = some w0 → w = (s0.warp? w0.key).getD w0 → w.tail = none → w.lead = none → s0.boundary w = none → State.boundaryWait w = false →
    w.st = .act → (∀ e ∈ w.log, e.full = false) → s0.fetch w = .word x →
    let s1 := s0.fetched w x
    let w1 := (s1.warp? w.key).getD w
    (∀ i, decodeJarja x = .ok i → placeOk w.foreman i = true → step s = exec i s1) ∧
    (∀ i, decodeJarja x = .ok i → placeOk w.foreman i = false → step s = .next (s1.takeTrap w1 { cls := 0 } w.pc)) ∧
    (∀ e, decodeJarja x = .error e → step s = .next (s1.takeTrap w1 { cls := 0 } w.pc))) ∧
  (∀ (s : State) (k : Nat) (w : Warp), s.warp? k = some w → (w.fences = [] → s.settleFences k = s) ∧ ((∀ e ∈ w.log, e.acc ≠ .command) → s.dropStale k = s)) ∧
  (∀ (s : State) (w : Warp) (as : List Nat) (i : Instr) (x : BitVec 96), w.pc.toNat % 4 = 0 → w.outerLoop = none →
    s.fetchAddrs w.core w.ctx (dieOf w.core) w.pc w.sup 12 = .ok as → encode i = .jarja x →
    ((∀ a ∈ as, s.codePoisoned (s.codeKey w) a = false) → (as.map fun a => s.codeByte (s.codeKey w) a) = encodeBytes i → s.fetch w = .word x) ∧
    ((∃ a ∈ as, s.codePoisoned (s.codeKey w) a = true) → s.fetch w = .poisoned)) ∧
  (∀ (s : State) (w : Warp) (x : BitVec 96) (as : List Nat), s.fetchAddrs w.core w.ctx (dieOf w.core) w.pc w.sup 12 = .ok as → tfind w.loopBuf w.pc.toNat = none →
    (s.fetched w x).mem = s.mem ∧ (s.fetched w x).copies = s.copies ∧ (s.fetched w x).ctxs = s.ctxs ∧
    ∀ a ∈ as, (s.oldCode (s.codeKey w) (a / 128 * 128)) = none → tfind (tget [] (s.fetched w x).code (s.codeKey w)) (a / 128 * 128) = some (s.physRead (a / 128 * 128) 128)) ∧
  (∀ (s : State) (key a : Nat),
    (tfind (tget [] s.code key) (a / 128 * 128) = none → s.codeByte key a = s.mem.read (s.home a) ∧ s.codePoisoned key a = s.poisoned a 1) ∧
    (∀ l, tfind (tget [] s.code key) (a / 128 * 128) = some l → s.codeByte key a = l.getD (a % 128) 0 ∨ s.codeByte key a = s.mem.read (s.home a))) ∧
  (∀ (s : State) (c id : Nat) (k : SeamInst) (as : List Nat) (i : Instr) (x : BitVec 64),
    let s0 := s.tickOn
    s.agenda = [] → s.cur = some (.seam c) → s.runningOn c = some (id, k) → s0.mustLeave k = false → s0.waitedLong k = false → k.pc.toNat % 8 = 0 →
    s0.fetchAddrs State.noWarp k.ctx (seamDie c) k.pc false 8 = .ok as → (∀ a ∈ as, s0.poisoned a 1 = false) → encode i = .seam x →
    (as.map fun a => s0.mem.read (s0.home a)) = encodeBytes i → decodeSeam x = .ok i →
    step s = exec i ([0, 7].foldl (fun s j => s.fillTlb State.noWarp k.ctx (k.pc + BitVec.ofNat 64 j) 0) s0)) ∧
  (∀ (s : State) (a : Agent) (rest : List Turn), s.agenda = .run a :: rest →
    step s = State.turn { s.tickOn with agenda := rest, cur := some a } a) ∧
  (∀ (s : State) (e : Instr) (rest : List Turn), s.agenda = .event e :: rest → step s = State.happen { s.tickOn with agenda := rest } e) ∧
  (∀ (s : State) (u : Upset) (rest : List Turn), s.agenda = .upset u :: rest → (∀ p ∈ ({ s.tickOn with agenda := rest }.upset u).warps, p.2.tail = none) →
    step s = .next ({ s.tickOn with agenda := rest }.upset u)) ∧
  (∀ s : State, s.tickOn.tick = s.tick + 1 ∧ s.cycle ≤ s.tickOn.cycle ∧ s.tickOn = { s with tick := s.tick + 1, cycle := s.tickOn.cycle, dieTime := s.tickOn.dieTime } ∧
    ∀ d < 8, s.tickOn.dieTime.getD d 0 = s.dieTime.getD d 0 + (s.tickOn.cycle - s.cycle) * (10 - (tget 0 s.pcap d).toNat / 2 ^ 40 % 4))

/-- R256, R310, R317, R334, R416: physical memory. Bytes written are read back, every other byte reads as before (the cache carve-out is reached
through the addresses it fronts alone), the canonical form is kept, and a performed write marks armed monitors of others on its lines. -/
def Obligations.PhysicalMemory : Prop :=
  let direct := fun (s : State) (a : Nat) => ¬(s.carveLo ≤ a ∧ a < hbmTop)
  (∀ (s : State) (a : Nat) (bs : List Byte), s.Canonical → (s.physWrite a bs).Canonical ∧ ∀ who, (s.perform who a bs).mem = (s.physWrite a bs).mem) ∧
  (∀ (s : State) (a : Nat) (bs : List Byte), s.Canonical → s.mscSize ≤ 4 → (∀ i < bs.length, direct s (a + i)) →
    (s.physWrite a bs).physRead a bs.length = bs ∧
    ∀ b, direct s b → (b < a ∨ a + bs.length ≤ b) → (s.physWrite a bs).physRead b 1 = s.physRead b 1) ∧
  (∀ (s : State) (a : Nat) (bs : List Byte), ∀ l ∈ State.lineSpan a bs.length, a ≤ l → l + 128 ≤ a + bs.length → s.home l ∉ (s.physWrite a bs).poison) ∧
  (∀ (s : State) (who a k : Nat) (bs : List Byte) (w : Warp), s.warp? k = some w → k ≠ who → ∃ w1, (s.perform who a bs).warp? k = some w1 ∧
    (w.mon.armed = true → w.mon.pline ∈ State.lineSpan a bs.length → w1.mon.written = true) ∧ w1.pc = w.pc ∧ w1.s = w.s ∧ w1.v = w.v ∧ w1.banks = w.banks ∧
    (∀ t, w.tx = some t → t.pending = none → (∃ l ∈ State.lineSpan a bs.length, l ∈ t.writes ∨ l ∈ t.reads) → ∃ u, w1.tx = some u ∧ ∃ va, u.pending = some (1, va)))

/-- Right after reset memory is in its canonical form, every warp is held under its own key (there is none), and no byte is poisoned. -/
def Obligations.ResetInvariants : Prop :=
  State.reset.Canonical ∧ State.reset.Keyed ∧ State.reset.poison = [] ∧ ∀ a n, State.reset.physRead a n = List.replicate n Memory.unlisted

/-- Every step keeps memory, near scratch and the scale records in their canonical form (log entry 1), and every warp under its own key. The second
gives the premise `s.warp? w.key = some w` of other statements for the current warp. -/
def Obligations.StepKeepsInvariants : Prop :=
  (∀ s t : State, s.Canonical → step s = .next t → t.Canonical) ∧ (∀ s t : State, s.Keyed → step s = .next t → t.Keyed) ∧
  (∀ (s : State) (w : Warp), s.Keyed → s.curWarp = some w → s.warp? w.key = some w)

/-- R333, R339, R342, R406, R421, R464, R473, R476, R478: what the machine holds right after reset. Nothing is resident or mapped, the boot has not begun, the cycle
count and the error counters are 0, the log is empty, every die's PLIM is 300, a context's YDL is 20,000 and its handlers are off. The
timeline, region and warp tables are empty: what starts with zeros here and the rules do not name is the model's (log entries 4 and 5). -/
def Obligations.ResetValues : Prop :=
  let r := State.reset
  r.warps = [] ∧ r.blocks = [] ∧ r.nodes = [] ∧ r.tasks = [] ∧ r.insts = [] ∧ r.copies = [] ∧ r.colls = [] ∧ r.tlb = [] ∧ r.walks = [] ∧ r.code = [] ∧ r.dirty = [] ∧ r.collAsk = [] ∧
  r.cycle = 0 ∧ (∀ d, r.dieTime.getD d 0 = 0) ∧
  r.devState = 0 ∧ r.devStep = 0 ∧ r.devFail = 0 ∧ r.devAlt = 0 ∧ r.powered = true ∧ r.mscSize = 0 ∧ r.rank = 0 ∧
  (∀ n core, tget 0 r.counters (counterKey n core) = 0) ∧ (∀ d, d < 8 → tget 0 r.pcap d = 300#64) ∧
  r.wptr = 0 ∧ r.rptr = 0 ∧ r.lost = 0 ∧
  (∀ n, (tget ({} : QSlot) r.qslots n).st = .free) ∧
  (∀ x, (r.ctx x).res = false ∧ (r.ctx x).busy = false ∧ (r.ctx x).err = false ∧ (r.ctx x).fresh = false ∧ (r.ctx x).held = false ∧ (r.ctx x).ydl = 20000#64 ∧
    (r.ctx x).trapvec = 0 ∧ (r.ctx x).svpool = 0 ∧ (r.ctx x).ways = 0 ∧ ∀ g, (tget ({} : Group) (r.ctx x).groups g).valid = false) ∧
  (∀ c, tget 0 r.roofst c = 0 ∧ tget 0 r.ways c = 0 ∧ tget [] r.l1 c = [])

/-- R40, R59, R101, R104: what a result writes. A private vector result is written in the lanes taking part of every active member and nowhere else, a common one
once; a scalar result in every active member or once, where em0–em2 keep exited lanes at 0; a predicate result in the lanes taking part;
and none of them changes anything but registers.
R63, R139, R140, R357: what retiring and a taken transfer of control change. Retiring moves the pc on by 12 and counts the instruction, and every other warp, and
the machine beside the warps, stays as it was; a transfer leaves the pc where the instruction put it and at most ends loops. -/
def Obligations.ResultAndRetireFrames : Prop :=
  (
  (∀ (w : Warp) (h : Hdr) (r k : Nat) (f : Nat → Nat → List Lane32) (m n l : Nat), w.banks.length = w.p → m < w.p → l < 96 → (∀ i, i < k → w.commonV (r + i) = false) →
    k ≠ 0 → (w.vecWrite h r k f).vget m n l =
      if m ∈ w.active ∧ (w.part h m).getLsbD l = true ∧ r ≤ n ∧ n < r + k then (f m l).getD (n - r) 0 else w.vget m n l) ∧
  (∀ (w : Warp) (h : Hdr) (r k : Nat) (f : Nat → Nat → List Lane32) (m n l : Nat), l < 96 → (∀ i, i < k → w.commonV (r + i) = true) → k ≠ 0 →
    (w.vecWrite h r k f).vget m n l = if (w.union h).getLsbD l = true ∧ r ≤ n ∧ n < r + k
      then (f ((w.active.find? fun x => (w.part h x).getLsbD l).getD 0) l).getD (n - r) 0 else w.vget m n l) ∧
  (∀ (w : Warp) (n m j : Nat) (f : Nat → Word), w.banks.length = w.p → m < w.p → n < 253 → (w.sclWrite n f).sget m j =
    if j = n ∧ (n < 128 ∨ m ∈ w.active) then f (if n < 128 then w.active.headD 0 else m) else w.sget m j) ∧
  (∀ (w : Warp) (i m : Nat) (f : Nat → Word), w.banks.length = w.p → m ∈ w.active → i < 3 →
    (w.sclWrite (253 + i) f).sget m (253 + i) = f m &&& ~~~(((w.bank m).exited.extractLsb' (32 * i) 32).setWidth 64)) ∧
  (∀ (w : Warp) (h : Hdr) (dst : Spec) (os : List Warp.Operand) (val : Nat → Nat → Bool) (m n l : Nat), w.banks.length = w.p → m < w.p → n ≤ 6 → l < 96 →
    ((w.predResult h dst os val).gmask m n).getLsbD l =
      if n = dst.num ∧ m ∈ w.active ∧ (w.part h m).getLsbD l = true then
        val (if w.anyPrivate (os.map (·.1)) then m else (w.active.find? fun x => (w.part h x).getLsbD l).getD m) l
      else (w.gmask m n).getLsbD l) ∧
  (∀ (w : Warp) (h : Hdr) (dst : Spec) (k : Nat) (os own : List Warp.Operand) (priv : Bool) (vv : Nat → Nat → List Lane32) (sv : Nat → Word) (pv : Nat → Nat → Bool),
    w.OnlyRegs (w.vecResult h dst k os priv vv own) ∧ w.OnlyRegs (w.sclResult h dst sv) ∧ w.OnlyRegs (w.predResult h dst os pv) ∧
    (w.vecResult h dst k os priv vv own).s = w.s ∧ (w.sclResult h dst sv).v = w.v ∧ (w.predResult h dst os pv).v = w.v ∧ (w.predResult h dst os pv).s = w.s)) ∧
  (
  (∀ (s : State) (w w1 : Warp), w1.ended = false →
    let t := s.retire w w1
    t = { s with warps := t.warps } ∧ (∀ k, k ≠ w1.key → t.warp? k = s.warp? k) ∧ ∃ w2, t.warp? w1.key = some w2 ∧
      w2 = { w1 with pc := w1.pc + 12#64, retired := w1.retired + 1, st := .act, waitOn := none, foreign := false, checkKilled := [], loopDue := w1.loopEnds, canSig := w2.canSig }) ∧
  (∀ (s : State) (w w1 : Warp), w1.ended = false →
    let t := s.finish w (.jump w1)
    t = { s with warps := t.warps } ∧ (∀ k, k ≠ w1.key → t.warp? k = s.warp? k) ∧ ∃ w2, t.warp? w1.key = some w2 ∧
      w2 = { w1 with retired := w1.retired + 1, st := .act, waitOn := none, foreign := false, checkKilled := [], loopDue := false, lc := w2.lc, loopBuf := w2.loopBuf,
                     canPc := w2.canPc, canSig := w2.canSig, canPrev := w2.canPrev, canCount := w2.canCount }) ∧
  (∀ (s : State) (w : Warp) (r : Wait), ∃ w1, s.waits w r = s.putWarp w1 ∧ w1.waitOn = some r ∧ (w1.st = .wait ∨ w1.st = .save) ∧
    (w.tx = none ∨ r.preemptable = false ∨ s.requested w.blk = false →
      w1 = { w with st := w1.st, waitOn := some r, foreign := decide (r = .fragment), waitSince := w1.waitSince, saving := w1.saving }) ∧
    (r.preemptable = true → s.requested w.blk = true → w1.st = .save ∧ w1.saving = some false ∧ (w.txQuiet = true → w1.tx = none) ∧
      (w.txQuiet = false → w1.pc = w.pc ∧ w1.banks = w.banks ∧ ∀ t, w.tx = some t → ∃ u, w1.tx = some u ∧ u.pending.isSome = true))))

/-- The frame of the 237 instructions that act on their warp alone (R11): memory, poison, every context, copies, queues, engines, translations and near
scratch stay as they are, whatever the instruction comes to: it may retire, wait, take a trap or kill lanes. -/
def Obligations.OwnWarpFrame : Prop :=
  ∀ (i : Instr) (s t : State), i.ownWarp = true → exec i s = .next t →
    t = { s with warps := t.warps, blocks := t.blocks, nodes := t.nodes, counters := t.counters, ordq := t.ordq, mx := t.mx } ∧
    (t.blocks.map fun p => (p.1, p.2.near, p.2.scales, p.2.ph, p.2.preq, p.2.mbox)) = s.blocks.map fun p => (p.1, p.2.near, p.2.scales, p.2.ph, p.2.preq, p.2.mbox)
end

