-- ==== Sys2Proof/Laws/Encoding.lean ====
section
/-!
SUPPORT. Taking apart a word that the encoder put together gives back its fields (R24–R31, R383).
-/

namespace Sys2Proof

@[simp] theorem decodeSpec_encodeSpec (s : Spec) : decodeSpec (encodeSpec s) = s := by
  cases s <;>
    · simp (disch := decide) only [decodeSpec, encodeSpec, BitVec.extractLsb'_append_eq_of_le, BitVec.extractLsb'_append_eq_of_add_le]
      simp

/-! ## The fields of a Jarja word (R24) -/

section Fields
variable (x : BitVec 18) (h : Hdr) (ru fb fa : Bool) (mb : BitVec 12) (sb : BitVec 10) (ma : BitVec 12) (sa dst : BitVec 10) (opc : BitVec 9)

@[simp] theorem packWord_opc : (packWord x h ru fb fa mb sb ma sa dst opc).extractLsb' 0 9 = opc := by
  simp (disch := decide) only [packWord, BitVec.extractLsb'_append_eq_of_add_le]
  simp

@[simp] theorem packWord_gp : (packWord x h ru fb fa mb sb ma sa dst opc).extractLsb' 9 3 = h.gp := by
  simp (disch := decide) only [packWord, BitVec.extractLsb'_append_eq_of_le, BitVec.extractLsb'_append_eq_of_add_le]
  simp

@[simp] theorem packWord_dst : (packWord x h ru fb fa mb sb ma sa dst opc).extractLsb' 13 10 = dst := by
  simp (disch := decide) only [packWord, BitVec.extractLsb'_append_eq_of_le, BitVec.extractLsb'_append_eq_of_add_le]
  simp

@[simp] theorem packWord_sa : (packWord x h ru fb fa mb sb ma sa dst opc).extractLsb' 23 10 = sa := by
  simp (disch := decide) only [packWord, BitVec.extractLsb'_append_eq_of_le, BitVec.extractLsb'_append_eq_of_add_le]
  simp

@[simp] theorem packWord_ma : (packWord x h ru fb fa mb sb ma sa dst opc).extractLsb' 33 12 = ma := by
  simp (disch := decide) only [packWord, BitVec.extractLsb'_append_eq_of_le, BitVec.extractLsb'_append_eq_of_add_le]
  simp

@[simp] theorem packWord_sb : (packWord x h ru fb fa mb sb ma sa dst opc).extractLsb' 45 10 = sb := by
  simp (disch := decide) only [packWord, BitVec.extractLsb'_append_eq_of_le, BitVec.extractLsb'_append_eq_of_add_le]
  simp

@[simp] theorem packWord_mb : (packWord x h ru fb fa mb sb ma sa dst opc).extractLsb' 55 12 = mb := by
  simp (disch := decide) only [packWord, BitVec.extractLsb'_append_eq_of_le, BitVec.extractLsb'_append_eq_of_add_le]
  simp

@[simp] theorem packWord_hs : (packWord x h ru fb fa mb sb ma sa dst opc).extractLsb' 70 4 = h.hs := by
  simp (disch := decide) only [packWord, BitVec.extractLsb'_append_eq_of_le, BitVec.extractLsb'_append_eq_of_add_le]
  simp

@[simp] theorem packWord_zero : (packWord x h ru fb fa mb sb ma sa dst opc).extractLsb' 76 2 = 0 := by
  simp (disch := decide) only [packWord, BitVec.extractLsb'_append_eq_of_le, BitVec.extractLsb'_append_eq_of_add_le]
  simp

@[simp] theorem packWord_x : (packWord x h ru fb fa mb sb ma sa dst opc).extractLsb' 78 18 = x := by
  simp (disch := decide) only [packWord, BitVec.extractLsb'_append_eq_of_le]
  simp

@[simp] theorem packWord_gn : (packWord x h ru fb fa mb sb ma sa dst opc)[12] = h.gn := by
  rw [← BitVec.getLsbD_eq_getElem]
  simp only [packWord, BitVec.getLsbD_append]
  simp

@[simp] theorem packWord_fa : (packWord x h ru fb fa mb sb ma sa dst opc)[67] = fa := by
  rw [← BitVec.getLsbD_eq_getElem]
  simp only [packWord, BitVec.getLsbD_append]
  simp

@[simp] theorem packWord_fb : (packWord x h ru fb fa mb sb ma sa dst opc)[68] = fb := by
  rw [← BitVec.getLsbD_eq_getElem]
  simp only [packWord, BitVec.getLsbD_append]
  simp

@[simp] theorem packWord_ru : (packWord x h ru fb fa mb sb ma sa dst opc)[69] = ru := by
  rw [← BitVec.getLsbD_eq_getElem]
  simp only [packWord, BitVec.getLsbD_append]
  simp

@[simp] theorem packWord_hy : (packWord x h ru fb fa mb sb ma sa dst opc)[74] = h.hy := by
  rw [← BitVec.getLsbD_eq_getElem]
  simp only [packWord, BitVec.getLsbD_append]
  simp

@[simp] theorem packWord_hd : (packWord x h ru fb fa mb sb ma sa dst opc)[75] = h.hd := by
  rw [← BitVec.getLsbD_eq_getElem]
  simp only [packWord, BitVec.getLsbD_append]
  simp

@[simp] theorem unHdr_packWord : unHdr (packWord x h ru fb fa mb sb ma sa dst opc) = h := by simp [unHdr]
end Fields

/-! ## The four forms (R26–R30) -/

@[simp] theorem unR_packR (opc : BitVec 9) (f : FormR) : unR (packR opc f) = f := by simp [unR, packR, unA, unB]

@[simp] theorem unM_packM (opc : BitVec 9) (f : FormM) : unM (packM opc f) = f := by simp [unM, packM, unB]

/-- Cutting a word into adjacent fields and joining them again. -/
theorem join30 (v : BitVec 40) : v.extractLsb' 22 18 ++ v.extractLsb' 10 12 = v.extractLsb' 10 30 :=
  BitVec.extractLsb'_append_extractLsb'_eq_extractLsb' (by decide)

theorem join40 (v : BitVec 40) : v.extractLsb' 22 18 ++ v.extractLsb' 10 12 ++ v.extractLsb' 0 10 = v := by
  rw [join30]
  exact (BitVec.extractLsb'_append_extractLsb'_eq_extractLsb' (by decide)).trans (by simp)

theorem join28 (v : BitVec 28) : v.extractLsb' 10 18 ++ v.extractLsb' 0 10 = v :=
  (BitVec.extractLsb'_append_extractLsb'_eq_extractLsb' (by decide)).trans (by simp)

@[simp] theorem unI_packI (opc : BitVec 9) (f : FormI) : unI (packI opc f) = f := by simp [unI, packI, unA, join40]

@[simp] theorem unC_packC (opc : BitVec 9) (f : FormC) : unC (packC opc f) = f := by simp [unC, packC, unA, join28]

@[simp] theorem packR_opc (opc : BitVec 9) (f : FormR) : (packR opc f).extractLsb' 0 9 = opc := by simp [packR]
@[simp] theorem packI_opc (opc : BitVec 9) (f : FormI) : (packI opc f).extractLsb' 0 9 = opc := by simp [packI]
@[simp] theorem packM_opc (opc : BitVec 9) (f : FormM) : (packM opc f).extractLsb' 0 9 = opc := by simp [packM]
@[simp] theorem packC_opc (opc : BitVec 9) (f : FormC) : (packC opc f).extractLsb' 0 9 = opc := by simp [packC]
@[simp] theorem packR_zero (opc : BitVec 9) (f : FormR) : (packR opc f).extractLsb' 76 2 = 0 := by simp [packR]
@[simp] theorem packI_zero (opc : BitVec 9) (f : FormI) : (packI opc f).extractLsb' 76 2 = 0 := by simp [packI]
@[simp] theorem packM_zero (opc : BitVec 9) (f : FormM) : (packM opc f).extractLsb' 76 2 = 0 := by simp [packM]
@[simp] theorem packC_zero (opc : BitVec 9) (f : FormC) : (packC opc f).extractLsb' 76 2 = 0 := by simp [packC]
@[simp] theorem packI_fb (opc : BitVec 9) (f : FormI) : (packI opc f)[68] = false := by simp [packI]
@[simp] theorem packC_fb (opc : BitVec 9) (f : FormC) : (packC opc f)[68] = false := by simp [packC]
@[simp] theorem packC_ru (opc : BitVec 9) (f : FormC) : (packC opc f)[69] = false := by simp [packC]
@[simp] theorem packR_x (opc : BitVec 9) (f : FormR) : (packR opc f).extractLsb' 78 18 = f.x := by simp [packR]
@[simp] theorem packM_x (opc : BitVec 9) (f : FormM) : (packM opc f).extractLsb' 78 18 = f.off := by simp [packM]

/-! ## The Seam word (R383) -/

@[simp] theorem packSeam_op (op : BitVec 8) (o : SeamOp) : (packSeam op o).extractLsb' 0 8 = op := by
  simp (disch := decide) only [packSeam, BitVec.extractLsb'_append_eq_of_add_le]
  simp

@[simp] theorem unSeam_packSeam (op : BitVec 8) (o : SeamOp) : unSeam (packSeam op o) = o := by
  simp (disch := decide) only [packSeam, unSeam, BitVec.extractLsb'_append_eq_of_le, BitVec.extractLsb'_append_eq_of_add_le]
  simp

end Sys2Proof
end

