-- ==== Sys2Proof/Laws/Memory.lean ====
section
/-!
SUPPORT. Memory: a read after a write, and the canonical form every memory operation keeps.
-/

namespace Sys2Proof.Machine.Memory

/-- Weakening the lower bound of the canonical form. -/
theorem wfFrom_mono {lo hi : Nat} {m : Memory} (h : wfFrom hi m = true) (hl : lo ≤ hi) : wfFrom lo m = true := by
  cases m with
  | nil => rfl
  | cons c t =>
    obtain ⟨a, b⟩ := c
    simp only [wfFrom, Bool.and_eq_true, decide_eq_true_eq] at h ⊢
    exact ⟨⟨Nat.le_trans hl h.1.1, h.1.2⟩, h.2⟩

/-- Below its first address a canonical memory lists nothing. -/
theorem read_below {lo n : Nat} {m : Memory} (h : wfFrom lo m = true) (hn : n < lo) : read m n = unlisted := by
  cases m with
  | nil => rfl
  | cons c t =>
    obtain ⟨a, b⟩ := c
    simp only [wfFrom, Bool.and_eq_true, decide_eq_true_eq] at h
    have h1 : ¬ a = n := by omega
    have h2 : n < a := by omega
    simp [read, h1, h2]

theorem wfFrom_write {lo n : Nat} {m : Memory} (v : Byte) (h : wfFrom lo m = true) (hn : lo ≤ n) : wfFrom lo (write m n v) = true := by
  induction m generalizing lo with
  | nil => by_cases hv : v = unlisted <;> simp_all [write, wfFrom]
  | cons c t ih =>
    obtain ⟨a, b⟩ := c
    simp only [wfFrom, Bool.and_eq_true, decide_eq_true_eq, bne_iff_ne] at h
    obtain ⟨⟨ha, hb⟩, ht⟩ := h
    by_cases h1 : n < a
    · by_cases hv : v = unlisted
      · simp [write, h1, hv, wfFrom, ha, hb, ht]
      · simp only [write, h1, hv, if_true, if_false, wfFrom, Bool.and_eq_true, decide_eq_true_eq, bne_iff_ne]
        exact ⟨⟨hn, hv⟩, ⟨by omega, hb⟩, ht⟩
    · by_cases h2 : a = n
      · subst h2
        by_cases hv : v = unlisted
        · simpa [write, hv] using wfFrom_mono ht (by omega)
        · simp [write, hv, wfFrom, ha, ht]
      · simp only [write, h1, h2, if_false, wfFrom, Bool.and_eq_true, decide_eq_true_eq, bne_iff_ne]
        exact ⟨⟨ha, hb⟩, ih ht (by omega)⟩

/-- Writing a byte keeps the canonical form. -/
theorem wf_write {m : Memory} (n : Nat) (v : Byte) (h : wf m = true) : wf (write m n v) = true := wfFrom_write v h (Nat.zero_le n)

theorem read_write_same {m : Memory} (n : Nat) (v : Byte) (h : wf m = true) : read (write m n v) n = v := by
  have key : ∀ lo, wfFrom lo m = true → read (write m n v) n = v := by
    intro lo h
    induction m generalizing lo with
    | nil => by_cases hv : v = unlisted <;> simp [write, read, hv]
    | cons c t ih =>
      obtain ⟨a, b⟩ := c
      simp only [wfFrom, Bool.and_eq_true, decide_eq_true_eq, bne_iff_ne] at h
      obtain ⟨⟨ha, hb⟩, ht⟩ := h
      by_cases h1 : n < a
      · have hna : ¬ a = n := by omega
        by_cases hv : v = unlisted <;> simp [write, read, h1, hv, hna]
      · by_cases h2 : a = n
        · subst h2
          by_cases hv : v = unlisted
          · simpa [write, hv] using read_below ht (by omega)
          · simp [write, read, hv]
        · simp only [write, read, h1, h2, if_false]
          exact ih (wfFrom_mono ht (Nat.zero_le _)) (a + 1) ht
  exact key 0 h

theorem read_write_ne {m : Memory} {n k : Nat} (v : Byte) (h : wf m = true) (hk : n ≠ k) : read (write m n v) k = read m k := by
  have key : ∀ lo, wfFrom lo m = true → read (write m n v) k = read m k := by
    intro lo h
    induction m generalizing lo with
    | nil => by_cases hv : v = unlisted <;> by_cases hl : k < n <;> simp [write, read, hv, hk, hl]
    | cons c t ih =>
      obtain ⟨a, b⟩ := c
      simp only [wfFrom, Bool.and_eq_true, decide_eq_true_eq, bne_iff_ne] at h
      obtain ⟨⟨ha, hb⟩, ht⟩ := h
      by_cases h1 : n < a
      · by_cases hv : v = unlisted
        · simp [write, h1, hv]
        · simp only [write, h1, hv, if_true, if_false, read, hk]
          by_cases h3 : a = k
          · simp [h3, show ¬ k < n by omega]
          · by_cases h4 : k < n
            · simp [h3, h4, show k < a by omega]
            · simp [h3, h4]
      · by_cases h2 : a = n
        · subst h2
          by_cases hv : v = unlisted
          · simp only [write, hv, if_true, read, hk, if_false, Nat.lt_irrefl]
            by_cases h3 : k < a
            · simp [h3, read_below ht (show k < a + 1 by omega)]
            · simp [h3]
          · simp [write, read, hv, hk]
        · simp only [write, read, h1, h2, if_false]
          rw [ih (wfFrom_mono ht (Nat.zero_le _)) (a + 1) ht]
  exact key 0 h

/-- Storing a list of bytes keeps the canonical form. -/
theorem wf_writeBytes {m : Memory} (a : Nat) (bs : List Byte) (h : wf m = true) : wf (writeBytes m a bs) = true := by
  induction bs generalizing m a with
  | nil => exact h
  | cons b t ih => exact ih (a + 1) (wf_write a b h)

/-- A byte after a store of a list of bytes. -/
theorem read_writeBytes {m : Memory} (a k : Nat) (bs : List Byte) (h : wf m = true) :
    read (writeBytes m a bs) k = if a ≤ k ∧ k < a + bs.length then bs.getD (k - a) 0 else read m k := by
  induction bs generalizing m a with
  | nil => rw [if_neg (by simp only [List.length_nil]; omega)]; rfl
  | cons b t ih =>
    rw [writeBytes, ih (a + 1) (wf_write a b h)]
    by_cases h1 : a = k
    · subst h1
      have h2 : ¬ (a + 1 ≤ a ∧ a < a + 1 + t.length) := by omega
      rw [if_neg h2, read_write_same a b h, if_pos (by simp)]
      simp
    · rw [read_write_ne b h h1]
      by_cases h2 : a + 1 ≤ k ∧ k < a + 1 + t.length
      · have h3 : a ≤ k ∧ k < a + (b :: t).length := by simp; omega
        rw [if_pos h2, if_pos h3]
        obtain ⟨j, hj⟩ : ∃ j, k - a = j + 1 := ⟨k - a - 1, by omega⟩
        rw [hj, List.getD_cons_succ, show k - (a + 1) = j by omega]
      · have h3 : ¬ (a ≤ k ∧ k < a + (b :: t).length) := by simp; omega
        rw [if_neg h2, if_neg h3]

/-- Filtering a canonical memory keeps the canonical form. -/
theorem wfFrom_filter {lo : Nat} {m : Memory} (p : Host.Cell → Bool) (h : wfFrom lo m = true) : wfFrom lo (m.filter p) = true := by
  induction m generalizing lo with
  | nil => rfl
  | cons c t ih =>
    obtain ⟨a, b⟩ := c
    simp only [wfFrom, Bool.and_eq_true, decide_eq_true_eq, bne_iff_ne] at h
    obtain ⟨⟨ha, hb⟩, ht⟩ := h
    by_cases hp : p (a, b) = true
    · simp [hp, wfFrom, ha, hb, ih ht]
    · simp only [List.filter_cons, hp]
      exact wfFrom_mono (ih ht) (by omega)

theorem wf_clear {m : Memory} (lo hi : Nat) (h : wf m = true) : wf (clear m lo hi) = true := wfFrom_filter _ h

/-- Writing bytes at a list of addresses keeps the canonical form. -/
theorem wf_foldl_write {β : Type} {m : Memory} (l : List β) (a : β → Nat) (v : β → Byte) (h : wf m = true) :
    wf (l.foldl (fun m x => write m (a x) (v x)) m) = true := by
  induction l generalizing m with
  | nil => exact h
  | cons x t ih => exact ih (wf_write _ _ h)

/-- An address that is not among those written keeps its byte. -/
theorem read_foldl_write {β : Type} {m : Memory} (l : List β) (a : β → Nat) (v : β → Byte) (k : Nat) (h : wf m = true)
    (hk : ∀ x ∈ l, a x ≠ k) : read (l.foldl (fun m x => write m (a x) (v x)) m) k = read m k := by
  induction l generalizing m with
  | nil => rfl
  | cons x t ih =>
    rw [List.foldl_cons, ih (wf_write _ _ h) (fun y hy => hk y (List.mem_cons_of_mem _ hy)), read_write_ne _ h (hk x (List.mem_cons_self ..))]

/-- Two canonical memories that read the same everywhere are the same list. -/
theorem ext_of_wf {m n : Memory} (hm : wf m = true) (hn : wf n = true) (h : ∀ a, read m a = read n a) : m = n := by
  have key : ∀ lo, wfFrom lo m = true → wfFrom lo n = true → m = n := by
    clear hm hn
    intro lo hm hn
    induction m generalizing n lo with
    | nil =>
      cases n with
      | nil => rfl
      | cons c t =>
        obtain ⟨a, b⟩ := c
        simp only [wfFrom, Bool.and_eq_true, decide_eq_true_eq, bne_iff_ne] at hn
        have := h a
        simp [read] at this
        exact absurd this.symm hn.1.2
    | cons c t ih =>
      obtain ⟨a, b⟩ := c
      have hm' := hm
      simp only [wfFrom, Bool.and_eq_true, decide_eq_true_eq, bne_iff_ne] at hm
      cases n with
      | nil =>
        have := h a
        simp [read] at this
        exact absurd this hm.1.2
      | cons c' t' =>
        obtain ⟨a', b'⟩ := c'
        have hn' := hn
        simp only [wfFrom, Bool.and_eq_true, decide_eq_true_eq, bne_iff_ne] at hn
        have haa : a = a' := by
          rcases Nat.lt_trichotomy a a' with hl | he | hl
          · have := h a
            simp [read, show ¬ a' = a by omega, hl] at this
            exact absurd this hm.1.2
          · exact he
          · have := h a'
            simp [read, show ¬ a = a' by omega, hl] at this
            exact absurd this.symm hn.1.2
        subst haa
        have hb : b = b' := by simpa [read] using h a
        subst hb
        have ht : ∀ k, read t k = read t' k := by
          intro k
          by_cases hk : k < a + 1
          · rw [read_below hm.2 hk, read_below hn.2 hk]
          · have := h k
            simpa [read, show ¬ a = k by omega, show ¬ k < a by omega] using this
        rw [ih ht (a + 1) hm.2 hn.2]
  exact key 0 hm hn

end Sys2Proof.Machine.Memory
end

