-- ==== Sys2Proof/Laws/Tables.lean ====
section
/-!
SUPPORT. Reading a table or a list after writing it.
-/

namespace Sys2Proof.Machine

variable {α : Type}

@[simp] theorem tget_nil (d : α) (n : Nat) : tget d [] n = d := rfl
@[simp] theorem tfind_nil (n : Nat) : tfind ([] : Tab α) n = none := rfl

@[simp] theorem tget_tset_same (d : α) (t : Tab α) (n : Nat) (v : α) : tget d (tset t n v) n = v := by
  induction t with
  | nil => simp [tset, tget]
  | cons p t ih => obtain ⟨k, w⟩ := p; by_cases h : k = n <;> simp [tset, tget, h, ih]

theorem tget_tset_ne (d : α) (t : Tab α) {n m : Nat} (v : α) (h : n ≠ m) : tget d (tset t n v) m = tget d t m := by
  induction t with
  | nil => simp [tset, tget, h]
  | cons p t ih =>
    obtain ⟨k, w⟩ := p
    by_cases hk : k = n
    · subst hk; simp [tset, tget, h]
    · rw [tset, if_neg hk]; by_cases hm : k = m <;> simp [tget, hm, ih]

@[simp] theorem tfind_tset_same (t : Tab α) (n : Nat) (v : α) : tfind (tset t n v) n = some v := by
  induction t with
  | nil => simp [tset, tfind]
  | cons p t ih => obtain ⟨k, w⟩ := p; by_cases h : k = n <;> simp [tset, tfind, h, ih]

theorem tfind_tset_ne (t : Tab α) {n m : Nat} (v : α) (h : n ≠ m) : tfind (tset t n v) m = tfind t m := by
  induction t with
  | nil => simp [tset, tfind, h]
  | cons p t ih =>
    obtain ⟨k, w⟩ := p
    by_cases hk : k = n
    · subst hk; simp [tset, tfind, h]
    · rw [tset, if_neg hk]; by_cases hm : k = m <;> simp [tfind, hm, ih]

theorem tget_eq_of_tfind (d : α) {t : Tab α} {n : Nat} {v : α} (h : tfind t n = some v) : tget d t n = v := by
  induction t with
  | nil => simp at h
  | cons p t ih =>
    obtain ⟨k, w⟩ := p
    by_cases hk : k = n
    · simp_all [tfind, tget]
    · simp only [tfind, hk, if_false] at h; simp only [tget, hk, if_false, ih h]

theorem tget_eq_of_tfind_none (d : α) {t : Tab α} {n : Nat} (h : tfind t n = none) : tget d t n = d := by
  induction t with
  | nil => rfl
  | cons p t ih =>
    obtain ⟨k, w⟩ := p
    by_cases hk : k = n
    · simp [tfind, hk] at h
    · simp only [tfind, hk, if_false] at h; simp only [tget, hk, if_false, ih h]

theorem tfind_tmod_same (t : Tab α) (n : Nat) (f : α → α) : tfind (tmod t n f) n = (tfind t n).map f := by
  induction t with
  | nil => rfl
  | cons p t ih => obtain ⟨k, w⟩ := p; by_cases h : k = n <;> simp_all [tmod, tfind]

theorem tfind_tmod_ne (t : Tab α) {n m : Nat} (f : α → α) (h : n ≠ m) : tfind (tmod t n f) m = tfind t m := by
  induction t with
  | nil => rfl
  | cons p t ih =>
    obtain ⟨k, w⟩ := p
    by_cases hk : k = n
    · subst hk; simp_all [tmod, tfind]
    · by_cases hm : k = m <;> simp_all [tmod, tfind]

@[simp] theorem length_lset (l : List α) (i : Nat) (v : α) : (lset l i v).length = l.length := by
  induction l generalizing i with
  | nil => rfl
  | cons a t ih => cases i <;> simp [lset, ih]

theorem getD_lset_same (d : α) {l : List α} {i : Nat} (v : α) (h : i < l.length) : (lset l i v).getD i d = v := by
  induction l generalizing i with
  | nil => simp at h
  | cons a t ih => cases i with
    | zero => simp [lset]
    | succ n => simp only [lset, List.getD_cons_succ]; exact ih (by simpa using h)

theorem getD_lset_ne (d : α) (l : List α) {i j : Nat} (v : α) (h : i ≠ j) : (lset l i v).getD j d = l.getD j d := by
  induction l generalizing i j with
  | nil => rfl
  | cons a t ih => cases i <;> cases j <;> simp_all [lset]

end Sys2Proof.Machine
end

