-- ==== Sys2Proof/Laws/State.lean ====
section
/-!
SUPPORT. What each update of the state record leaves in each field, one lemma for each field and update: no later proof unfolds one.
-/

namespace Sys2Proof.Machine

namespace State

/-! ### putWarp -/

@[simp] theorem putWarp_tick (s : State) (w : Warp) : (s.putWarp w).tick = s.tick := rfl
@[simp] theorem putWarp_agenda (s : State) (w : Warp) : (s.putWarp w).agenda = s.agenda := rfl
@[simp] theorem putWarp_cur (s : State) (w : Warp) : (s.putWarp w).cur = s.cur := rfl
@[simp] theorem putWarp_cycle (s : State) (w : Warp) : (s.putWarp w).cycle = s.cycle := rfl
@[simp] theorem putWarp_dieTime (s : State) (w : Warp) : (s.putWarp w).dieTime = s.dieTime := rfl
@[simp] theorem putWarp_mem (s : State) (w : Warp) : (s.putWarp w).mem = s.mem := rfl
@[simp] theorem putWarp_poison (s : State) (w : Warp) : (s.putWarp w).poison = s.poison := rfl
@[simp] theorem putWarp_warps (s : State) (w : Warp) : (s.putWarp w).warps = tset s.warps w.key w := rfl
@[simp] theorem putWarp_blocks (s : State) (w : Warp) : (s.putWarp w).blocks = s.blocks := rfl
@[simp] theorem putWarp_nodes (s : State) (w : Warp) : (s.putWarp w).nodes = s.nodes := rfl
@[simp] theorem putWarp_ctxs (s : State) (w : Warp) : (s.putWarp w).ctxs = s.ctxs := rfl
@[simp] theorem putWarp_qslots (s : State) (w : Warp) : (s.putWarp w).qslots = s.qslots := rfl
@[simp] theorem putWarp_mappings (s : State) (w : Warp) : (s.putWarp w).mappings = s.mappings := rfl
@[simp] theorem putWarp_tasks (s : State) (w : Warp) : (s.putWarp w).tasks = s.tasks := rfl
@[simp] theorem putWarp_insts (s : State) (w : Warp) : (s.putWarp w).insts = s.insts := rfl
@[simp] theorem putWarp_conv (s : State) (w : Warp) : (s.putWarp w).conv = s.conv := rfl
@[simp] theorem putWarp_mx (s : State) (w : Warp) : (s.putWarp w).mx = s.mx := rfl
@[simp] theorem putWarp_mxLatch (s : State) (w : Warp) : (s.putWarp w).mxLatch = s.mxLatch := rfl
@[simp] theorem putWarp_copies (s : State) (w : Warp) : (s.putWarp w).copies = s.copies := rfl
@[simp] theorem putWarp_colls (s : State) (w : Warp) : (s.putWarp w).colls = s.colls := rfl
@[simp] theorem putWarp_early (s : State) (w : Warp) : (s.putWarp w).early = s.early := rfl
@[simp] theorem putWarp_collAsk (s : State) (w : Warp) : (s.putWarp w).collAsk = s.collAsk := rfl
@[simp] theorem putWarp_ways (s : State) (w : Warp) : (s.putWarp w).ways = s.ways := rfl
@[simp] theorem putWarp_roofst (s : State) (w : Warp) : (s.putWarp w).roofst = s.roofst := rfl
@[simp] theorem putWarp_wires (s : State) (w : Warp) : (s.putWarp w).wires = s.wires := rfl
@[simp] theorem putWarp_spares (s : State) (w : Warp) : (s.putWarp w).spares = s.spares := rfl
@[simp] theorem putWarp_l1 (s : State) (w : Warp) : (s.putWarp w).l1 = s.l1 := rfl
@[simp] theorem putWarp_fused (s : State) (w : Warp) : (s.putWarp w).fused = s.fused := rfl
@[simp] theorem putWarp_ordq (s : State) (w : Warp) : (s.putWarp w).ordq = s.ordq := rfl
@[simp] theorem putWarp_tlb (s : State) (w : Warp) : (s.putWarp w).tlb = s.tlb := rfl
@[simp] theorem putWarp_walks (s : State) (w : Warp) : (s.putWarp w).walks = s.walks := rfl
@[simp] theorem putWarp_code (s : State) (w : Warp) : (s.putWarp w).code = s.code := rfl
@[simp] theorem putWarp_dirty (s : State) (w : Warp) : (s.putWarp w).dirty = s.dirty := rfl
@[simp] theorem putWarp_mscSize (s : State) (w : Warp) : (s.putWarp w).mscSize = s.mscSize := rfl
@[simp] theorem putWarp_sectors (s : State) (w : Warp) : (s.putWarp w).sectors = s.sectors := rfl
@[simp] theorem putWarp_replicas (s : State) (w : Warp) : (s.putWarp w).replicas = s.replicas := rfl
@[simp] theorem putWarp_hostHeld (s : State) (w : Warp) : (s.putWarp w).hostHeld = s.hostHeld := rfl
@[simp] theorem putWarp_hostOwned (s : State) (w : Warp) : (s.putWarp w).hostOwned = s.hostOwned := rfl
@[simp] theorem putWarp_counters (s : State) (w : Warp) : (s.putWarp w).counters = s.counters := rfl
@[simp] theorem putWarp_devlog (s : State) (w : Warp) : (s.putWarp w).devlog = s.devlog := rfl
@[simp] theorem putWarp_wptr (s : State) (w : Warp) : (s.putWarp w).wptr = s.wptr := rfl
@[simp] theorem putWarp_rptr (s : State) (w : Warp) : (s.putWarp w).rptr = s.rptr := rfl
@[simp] theorem putWarp_lost (s : State) (w : Warp) : (s.putWarp w).lost = s.lost := rfl
@[simp] theorem putWarp_rank (s : State) (w : Warp) : (s.putWarp w).rank = s.rank := rfl
@[simp] theorem putWarp_route (s : State) (w : Warp) : (s.putWarp w).route = s.route := rfl
@[simp] theorem putWarp_ports (s : State) (w : Warp) : (s.putWarp w).ports = s.ports := rfl
@[simp] theorem putWarp_boot (s : State) (w : Warp) : (s.putWarp w).boot = s.boot := rfl
@[simp] theorem putWarp_bootOld (s : State) (w : Warp) : (s.putWarp w).bootOld = s.bootOld := rfl
@[simp] theorem putWarp_measured (s : State) (w : Warp) : (s.putWarp w).measured = s.measured := rfl
@[simp] theorem putWarp_devState (s : State) (w : Warp) : (s.putWarp w).devState = s.devState := rfl
@[simp] theorem putWarp_devStep (s : State) (w : Warp) : (s.putWarp w).devStep = s.devStep := rfl
@[simp] theorem putWarp_devFail (s : State) (w : Warp) : (s.putWarp w).devFail = s.devFail := rfl
@[simp] theorem putWarp_devAlt (s : State) (w : Warp) : (s.putWarp w).devAlt = s.devAlt := rfl
@[simp] theorem putWarp_powered (s : State) (w : Warp) : (s.putWarp w).powered = s.powered := rfl
@[simp] theorem putWarp_rails (s : State) (w : Warp) : (s.putWarp w).rails = s.rails := rfl
@[simp] theorem putWarp_pcap (s : State) (w : Warp) : (s.putWarp w).pcap = s.pcap := rfl
@[simp] theorem putWarp_rdyOrder (s : State) (w : Warp) : (s.putWarp w).rdyOrder = s.rdyOrder := rfl
@[simp] theorem putWarp_hostOut (s : State) (w : Warp) : (s.putWarp w).hostOut = s.hostOut := rfl

/-! ### modCtx -/

@[simp] theorem modCtx_tick (s : State) (x : Nat) (f : Context → Context) : (s.modCtx x f).tick = s.tick := rfl
@[simp] theorem modCtx_agenda (s : State) (x : Nat) (f : Context → Context) : (s.modCtx x f).agenda = s.agenda := rfl
@[simp] theorem modCtx_cur (s : State) (x : Nat) (f : Context → Context) : (s.modCtx x f).cur = s.cur := rfl
@[simp] theorem modCtx_cycle (s : State) (x : Nat) (f : Context → Context) : (s.modCtx x f).cycle = s.cycle := rfl
@[simp] theorem modCtx_dieTime (s : State) (x : Nat) (f : Context → Context) : (s.modCtx x f).dieTime = s.dieTime := rfl
@[simp] theorem modCtx_mem (s : State) (x : Nat) (f : Context → Context) : (s.modCtx x f).mem = s.mem := rfl
@[simp] theorem modCtx_poison (s : State) (x : Nat) (f : Context → Context) : (s.modCtx x f).poison = s.poison := rfl
@[simp] theorem modCtx_warps (s : State) (x : Nat) (f : Context → Context) : (s.modCtx x f).warps = s.warps := rfl
@[simp] theorem modCtx_blocks (s : State) (x : Nat) (f : Context → Context) : (s.modCtx x f).blocks = s.blocks := rfl
@[simp] theorem modCtx_nodes (s : State) (x : Nat) (f : Context → Context) : (s.modCtx x f).nodes = s.nodes := rfl
@[simp] theorem modCtx_ctxs (s : State) (x : Nat) (f : Context → Context) : (s.modCtx x f).ctxs = tset s.ctxs x (f (s.ctx x)) := rfl
@[simp] theorem modCtx_qslots (s : State) (x : Nat) (f : Context → Context) : (s.modCtx x f).qslots = s.qslots := rfl
@[simp] theorem modCtx_mappings (s : State) (x : Nat) (f : Context → Context) : (s.modCtx x f).mappings = s.mappings := rfl
@[simp] theorem modCtx_tasks (s : State) (x : Nat) (f : Context → Context) : (s.modCtx x f).tasks = s.tasks := rfl
@[simp] theorem modCtx_insts (s : State) (x : Nat) (f : Context → Context) : (s.modCtx x f).insts = s.insts := rfl
@[simp] theorem modCtx_conv (s : State) (x : Nat) (f : Context → Context) : (s.modCtx x f).conv = s.conv := rfl
@[simp] theorem modCtx_mx (s : State) (x : Nat) (f : Context → Context) : (s.modCtx x f).mx = s.mx := rfl
@[simp] theorem modCtx_mxLatch (s : State) (x : Nat) (f : Context → Context) : (s.modCtx x f).mxLatch = s.mxLatch := rfl
@[simp] theorem modCtx_copies (s : State) (x : Nat) (f : Context → Context) : (s.modCtx x f).copies = s.copies := rfl
@[simp] theorem modCtx_colls (s : State) (x : Nat) (f : Context → Context) : (s.modCtx x f).colls = s.colls := rfl
@[simp] theorem modCtx_early (s : State) (x : Nat) (f : Context → Context) : (s.modCtx x f).early = s.early := rfl
@[simp] theorem modCtx_collAsk (s : State) (x : Nat) (f : Context → Context) : (s.modCtx x f).collAsk = s.collAsk := rfl
@[simp] theorem modCtx_ways (s : State) (x : Nat) (f : Context → Context) : (s.modCtx x f).ways = s.ways := rfl
@[simp] theorem modCtx_roofst (s : State) (x : Nat) (f : Context → Context) : (s.modCtx x f).roofst = s.roofst := rfl
@[simp] theorem modCtx_wires (s : State) (x : Nat) (f : Context → Context) : (s.modCtx x f).wires = s.wires := rfl
@[simp] theorem modCtx_spares (s : State) (x : Nat) (f : Context → Context) : (s.modCtx x f).spares = s.spares := rfl
@[simp] theorem modCtx_l1 (s : State) (x : Nat) (f : Context → Context) : (s.modCtx x f).l1 = s.l1 := rfl
@[simp] theorem modCtx_fused (s : State) (x : Nat) (f : Context → Context) : (s.modCtx x f).fused = s.fused := rfl
@[simp] theorem modCtx_ordq (s : State) (x : Nat) (f : Context → Context) : (s.modCtx x f).ordq = s.ordq := rfl
@[simp] theorem modCtx_tlb (s : State) (x : Nat) (f : Context → Context) : (s.modCtx x f).tlb = s.tlb := rfl
@[simp] theorem modCtx_walks (s : State) (x : Nat) (f : Context → Context) : (s.modCtx x f).walks = s.walks := rfl
@[simp] theorem modCtx_code (s : State) (x : Nat) (f : Context → Context) : (s.modCtx x f).code = s.code := rfl
@[simp] theorem modCtx_dirty (s : State) (x : Nat) (f : Context → Context) : (s.modCtx x f).dirty = s.dirty := rfl
@[simp] theorem modCtx_mscSize (s : State) (x : Nat) (f : Context → Context) : (s.modCtx x f).mscSize = s.mscSize := rfl
@[simp] theorem modCtx_sectors (s : State) (x : Nat) (f : Context → Context) : (s.modCtx x f).sectors = s.sectors := rfl
@[simp] theorem modCtx_replicas (s : State) (x : Nat) (f : Context → Context) : (s.modCtx x f).replicas = s.replicas := rfl
@[simp] theorem modCtx_hostHeld (s : State) (x : Nat) (f : Context → Context) : (s.modCtx x f).hostHeld = s.hostHeld := rfl
@[simp] theorem modCtx_hostOwned (s : State) (x : Nat) (f : Context → Context) : (s.modCtx x f).hostOwned = s.hostOwned := rfl
@[simp] theorem modCtx_counters (s : State) (x : Nat) (f : Context → Context) : (s.modCtx x f).counters = s.counters := rfl
@[simp] theorem modCtx_devlog (s : State) (x : Nat) (f : Context → Context) : (s.modCtx x f).devlog = s.devlog := rfl
@[simp] theorem modCtx_wptr (s : State) (x : Nat) (f : Context → Context) : (s.modCtx x f).wptr = s.wptr := rfl
@[simp] theorem modCtx_rptr (s : State) (x : Nat) (f : Context → Context) : (s.modCtx x f).rptr = s.rptr := rfl
@[simp] theorem modCtx_lost (s : State) (x : Nat) (f : Context → Context) : (s.modCtx x f).lost = s.lost := rfl
@[simp] theorem modCtx_rank (s : State) (x : Nat) (f : Context → Context) : (s.modCtx x f).rank = s.rank := rfl
@[simp] theorem modCtx_route (s : State) (x : Nat) (f : Context → Context) : (s.modCtx x f).route = s.route := rfl
@[simp] theorem modCtx_ports (s : State) (x : Nat) (f : Context → Context) : (s.modCtx x f).ports = s.ports := rfl
@[simp] theorem modCtx_boot (s : State) (x : Nat) (f : Context → Context) : (s.modCtx x f).boot = s.boot := rfl
@[simp] theorem modCtx_bootOld (s : State) (x : Nat) (f : Context → Context) : (s.modCtx x f).bootOld = s.bootOld := rfl
@[simp] theorem modCtx_measured (s : State) (x : Nat) (f : Context → Context) : (s.modCtx x f).measured = s.measured := rfl
@[simp] theorem modCtx_devState (s : State) (x : Nat) (f : Context → Context) : (s.modCtx x f).devState = s.devState := rfl
@[simp] theorem modCtx_devStep (s : State) (x : Nat) (f : Context → Context) : (s.modCtx x f).devStep = s.devStep := rfl
@[simp] theorem modCtx_devFail (s : State) (x : Nat) (f : Context → Context) : (s.modCtx x f).devFail = s.devFail := rfl
@[simp] theorem modCtx_devAlt (s : State) (x : Nat) (f : Context → Context) : (s.modCtx x f).devAlt = s.devAlt := rfl
@[simp] theorem modCtx_powered (s : State) (x : Nat) (f : Context → Context) : (s.modCtx x f).powered = s.powered := rfl
@[simp] theorem modCtx_rails (s : State) (x : Nat) (f : Context → Context) : (s.modCtx x f).rails = s.rails := rfl
@[simp] theorem modCtx_pcap (s : State) (x : Nat) (f : Context → Context) : (s.modCtx x f).pcap = s.pcap := rfl
@[simp] theorem modCtx_rdyOrder (s : State) (x : Nat) (f : Context → Context) : (s.modCtx x f).rdyOrder = s.rdyOrder := rfl
@[simp] theorem modCtx_hostOut (s : State) (x : Nat) (f : Context → Context) : (s.modCtx x f).hostOut = s.hostOut := rfl

/-! ### modBlock -/

@[simp] theorem modBlock_tick (s : State) (b : Nat) (f : Block → Block) : (s.modBlock b f).tick = s.tick := rfl
@[simp] theorem modBlock_agenda (s : State) (b : Nat) (f : Block → Block) : (s.modBlock b f).agenda = s.agenda := rfl
@[simp] theorem modBlock_cur (s : State) (b : Nat) (f : Block → Block) : (s.modBlock b f).cur = s.cur := rfl
@[simp] theorem modBlock_cycle (s : State) (b : Nat) (f : Block → Block) : (s.modBlock b f).cycle = s.cycle := rfl
@[simp] theorem modBlock_dieTime (s : State) (b : Nat) (f : Block → Block) : (s.modBlock b f).dieTime = s.dieTime := rfl
@[simp] theorem modBlock_mem (s : State) (b : Nat) (f : Block → Block) : (s.modBlock b f).mem = s.mem := rfl
@[simp] theorem modBlock_poison (s : State) (b : Nat) (f : Block → Block) : (s.modBlock b f).poison = s.poison := rfl
@[simp] theorem modBlock_warps (s : State) (b : Nat) (f : Block → Block) : (s.modBlock b f).warps = s.warps := rfl
@[simp] theorem modBlock_blocks (s : State) (b : Nat) (f : Block → Block) : (s.modBlock b f).blocks = tmod s.blocks b f := rfl
@[simp] theorem modBlock_nodes (s : State) (b : Nat) (f : Block → Block) : (s.modBlock b f).nodes = s.nodes := rfl
@[simp] theorem modBlock_ctxs (s : State) (b : Nat) (f : Block → Block) : (s.modBlock b f).ctxs = s.ctxs := rfl
@[simp] theorem modBlock_qslots (s : State) (b : Nat) (f : Block → Block) : (s.modBlock b f).qslots = s.qslots := rfl
@[simp] theorem modBlock_mappings (s : State) (b : Nat) (f : Block → Block) : (s.modBlock b f).mappings = s.mappings := rfl
@[simp] theorem modBlock_tasks (s : State) (b : Nat) (f : Block → Block) : (s.modBlock b f).tasks = s.tasks := rfl
@[simp] theorem modBlock_insts (s : State) (b : Nat) (f : Block → Block) : (s.modBlock b f).insts = s.insts := rfl
@[simp] theorem modBlock_conv (s : State) (b : Nat) (f : Block → Block) : (s.modBlock b f).conv = s.conv := rfl
@[simp] theorem modBlock_mx (s : State) (b : Nat) (f : Block → Block) : (s.modBlock b f).mx = s.mx := rfl
@[simp] theorem modBlock_mxLatch (s : State) (b : Nat) (f : Block → Block) : (s.modBlock b f).mxLatch = s.mxLatch := rfl
@[simp] theorem modBlock_copies (s : State) (b : Nat) (f : Block → Block) : (s.modBlock b f).copies = s.copies := rfl
@[simp] theorem modBlock_colls (s : State) (b : Nat) (f : Block → Block) : (s.modBlock b f).colls = s.colls := rfl
@[simp] theorem modBlock_early (s : State) (b : Nat) (f : Block → Block) : (s.modBlock b f).early = s.early := rfl
@[simp] theorem modBlock_collAsk (s : State) (b : Nat) (f : Block → Block) : (s.modBlock b f).collAsk = s.collAsk := rfl
@[simp] theorem modBlock_ways (s : State) (b : Nat) (f : Block → Block) : (s.modBlock b f).ways = s.ways := rfl
@[simp] theorem modBlock_roofst (s : State) (b : Nat) (f : Block → Block) : (s.modBlock b f).roofst = s.roofst := rfl
@[simp] theorem modBlock_wires (s : State) (b : Nat) (f : Block → Block) : (s.modBlock b f).wires = s.wires := rfl
@[simp] theorem modBlock_spares (s : State) (b : Nat) (f : Block → Block) : (s.modBlock b f).spares = s.spares := rfl
@[simp] theorem modBlock_l1 (s : State) (b : Nat) (f : Block → Block) : (s.modBlock b f).l1 = s.l1 := rfl
@[simp] theorem modBlock_fused (s : State) (b : Nat) (f : Block → Block) : (s.modBlock b f).fused = s.fused := rfl
@[simp] theorem modBlock_ordq (s : State) (b : Nat) (f : Block → Block) : (s.modBlock b f).ordq = s.ordq := rfl
@[simp] theorem modBlock_tlb (s : State) (b : Nat) (f : Block → Block) : (s.modBlock b f).tlb = s.tlb := rfl
@[simp] theorem modBlock_walks (s : State) (b : Nat) (f : Block → Block) : (s.modBlock b f).walks = s.walks := rfl
@[simp] theorem modBlock_code (s : State) (b : Nat) (f : Block → Block) : (s.modBlock b f).code = s.code := rfl
@[simp] theorem modBlock_dirty (s : State) (b : Nat) (f : Block → Block) : (s.modBlock b f).dirty = s.dirty := rfl
@[simp] theorem modBlock_mscSize (s : State) (b : Nat) (f : Block → Block) : (s.modBlock b f).mscSize = s.mscSize := rfl
@[simp] theorem modBlock_sectors (s : State) (b : Nat) (f : Block → Block) : (s.modBlock b f).sectors = s.sectors := rfl
@[simp] theorem modBlock_replicas (s : State) (b : Nat) (f : Block → Block) : (s.modBlock b f).replicas = s.replicas := rfl
@[simp] theorem modBlock_hostHeld (s : State) (b : Nat) (f : Block → Block) : (s.modBlock b f).hostHeld = s.hostHeld := rfl
@[simp] theorem modBlock_hostOwned (s : State) (b : Nat) (f : Block → Block) : (s.modBlock b f).hostOwned = s.hostOwned := rfl
@[simp] theorem modBlock_counters (s : State) (b : Nat) (f : Block → Block) : (s.modBlock b f).counters = s.counters := rfl
@[simp] theorem modBlock_devlog (s : State) (b : Nat) (f : Block → Block) : (s.modBlock b f).devlog = s.devlog := rfl
@[simp] theorem modBlock_wptr (s : State) (b : Nat) (f : Block → Block) : (s.modBlock b f).wptr = s.wptr := rfl
@[simp] theorem modBlock_rptr (s : State) (b : Nat) (f : Block → Block) : (s.modBlock b f).rptr = s.rptr := rfl
@[simp] theorem modBlock_lost (s : State) (b : Nat) (f : Block → Block) : (s.modBlock b f).lost = s.lost := rfl
@[simp] theorem modBlock_rank (s : State) (b : Nat) (f : Block → Block) : (s.modBlock b f).rank = s.rank := rfl
@[simp] theorem modBlock_route (s : State) (b : Nat) (f : Block → Block) : (s.modBlock b f).route = s.route := rfl
@[simp] theorem modBlock_ports (s : State) (b : Nat) (f : Block → Block) : (s.modBlock b f).ports = s.ports := rfl
@[simp] theorem modBlock_boot (s : State) (b : Nat) (f : Block → Block) : (s.modBlock b f).boot = s.boot := rfl
@[simp] theorem modBlock_bootOld (s : State) (b : Nat) (f : Block → Block) : (s.modBlock b f).bootOld = s.bootOld := rfl
@[simp] theorem modBlock_measured (s : State) (b : Nat) (f : Block → Block) : (s.modBlock b f).measured = s.measured := rfl
@[simp] theorem modBlock_devState (s : State) (b : Nat) (f : Block → Block) : (s.modBlock b f).devState = s.devState := rfl
@[simp] theorem modBlock_devStep (s : State) (b : Nat) (f : Block → Block) : (s.modBlock b f).devStep = s.devStep := rfl
@[simp] theorem modBlock_devFail (s : State) (b : Nat) (f : Block → Block) : (s.modBlock b f).devFail = s.devFail := rfl
@[simp] theorem modBlock_devAlt (s : State) (b : Nat) (f : Block → Block) : (s.modBlock b f).devAlt = s.devAlt := rfl
@[simp] theorem modBlock_powered (s : State) (b : Nat) (f : Block → Block) : (s.modBlock b f).powered = s.powered := rfl
@[simp] theorem modBlock_rails (s : State) (b : Nat) (f : Block → Block) : (s.modBlock b f).rails = s.rails := rfl
@[simp] theorem modBlock_pcap (s : State) (b : Nat) (f : Block → Block) : (s.modBlock b f).pcap = s.pcap := rfl
@[simp] theorem modBlock_rdyOrder (s : State) (b : Nat) (f : Block → Block) : (s.modBlock b f).rdyOrder = s.rdyOrder := rfl
@[simp] theorem modBlock_hostOut (s : State) (b : Nat) (f : Block → Block) : (s.modBlock b f).hostOut = s.hostOut := rfl

/-! ### modNode -/

@[simp] theorem modNode_tick (s : State) (n : Nat) (f : Node → Node) : (s.modNode n f).tick = s.tick := rfl
@[simp] theorem modNode_agenda (s : State) (n : Nat) (f : Node → Node) : (s.modNode n f).agenda = s.agenda := rfl
@[simp] theorem modNode_cur (s : State) (n : Nat) (f : Node → Node) : (s.modNode n f).cur = s.cur := rfl
@[simp] theorem modNode_cycle (s : State) (n : Nat) (f : Node → Node) : (s.modNode n f).cycle = s.cycle := rfl
@[simp] theorem modNode_dieTime (s : State) (n : Nat) (f : Node → Node) : (s.modNode n f).dieTime = s.dieTime := rfl
@[simp] theorem modNode_mem (s : State) (n : Nat) (f : Node → Node) : (s.modNode n f).mem = s.mem := rfl
@[simp] theorem modNode_poison (s : State) (n : Nat) (f : Node → Node) : (s.modNode n f).poison = s.poison := rfl
@[simp] theorem modNode_warps (s : State) (n : Nat) (f : Node → Node) : (s.modNode n f).warps = s.warps := rfl
@[simp] theorem modNode_blocks (s : State) (n : Nat) (f : Node → Node) : (s.modNode n f).blocks = s.blocks := rfl
@[simp] theorem modNode_nodes (s : State) (n : Nat) (f : Node → Node) : (s.modNode n f).nodes = tmod s.nodes n f := rfl
@[simp] theorem modNode_ctxs (s : State) (n : Nat) (f : Node → Node) : (s.modNode n f).ctxs = s.ctxs := rfl
@[simp] theorem modNode_qslots (s : State) (n : Nat) (f : Node → Node) : (s.modNode n f).qslots = s.qslots := rfl
@[simp] theorem modNode_mappings (s : State) (n : Nat) (f : Node → Node) : (s.modNode n f).mappings = s.mappings := rfl
@[simp] theorem modNode_tasks (s : State) (n : Nat) (f : Node → Node) : (s.modNode n f).tasks = s.tasks := rfl
@[simp] theorem modNode_insts (s : State) (n : Nat) (f : Node → Node) : (s.modNode n f).insts = s.insts := rfl
@[simp] theorem modNode_conv (s : State) (n : Nat) (f : Node → Node) : (s.modNode n f).conv = s.conv := rfl
@[simp] theorem modNode_mx (s : State) (n : Nat) (f : Node → Node) : (s.modNode n f).mx = s.mx := rfl
@[simp] theorem modNode_mxLatch (s : State) (n : Nat) (f : Node → Node) : (s.modNode n f).mxLatch = s.mxLatch := rfl
@[simp] theorem modNode_copies (s : State) (n : Nat) (f : Node → Node) : (s.modNode n f).copies = s.copies := rfl
@[simp] theorem modNode_colls (s : State) (n : Nat) (f : Node → Node) : (s.modNode n f).colls = s.colls := rfl
@[simp] theorem modNode_early (s : State) (n : Nat) (f : Node → Node) : (s.modNode n f).early = s.early := rfl
@[simp] theorem modNode_collAsk (s : State) (n : Nat) (f : Node → Node) : (s.modNode n f).collAsk = s.collAsk := rfl
@[simp] theorem modNode_ways (s : State) (n : Nat) (f : Node → Node) : (s.modNode n f).ways = s.ways := rfl
@[simp] theorem modNode_roofst (s : State) (n : Nat) (f : Node → Node) : (s.modNode n f).roofst = s.roofst := rfl
@[simp] theorem modNode_wires (s : State) (n : Nat) (f : Node → Node) : (s.modNode n f).wires = s.wires := rfl
@[simp] theorem modNode_spares (s : State) (n : Nat) (f : Node → Node) : (s.modNode n f).spares = s.spares := rfl
@[simp] theorem modNode_l1 (s : State) (n : Nat) (f : Node → Node) : (s.modNode n f).l1 = s.l1 := rfl
@[simp] theorem modNode_fused (s : State) (n : Nat) (f : Node → Node) : (s.modNode n f).fused = s.fused := rfl
@[simp] theorem modNode_ordq (s : State) (n : Nat) (f : Node → Node) : (s.modNode n f).ordq = s.ordq := rfl
@[simp] theorem modNode_tlb (s : State) (n : Nat) (f : Node → Node) : (s.modNode n f).tlb = s.tlb := rfl
@[simp] theorem modNode_walks (s : State) (n : Nat) (f : Node → Node) : (s.modNode n f).walks = s.walks := rfl
@[simp] theorem modNode_code (s : State) (n : Nat) (f : Node → Node) : (s.modNode n f).code = s.code := rfl
@[simp] theorem modNode_dirty (s : State) (n : Nat) (f : Node → Node) : (s.modNode n f).dirty = s.dirty := rfl
@[simp] theorem modNode_mscSize (s : State) (n : Nat) (f : Node → Node) : (s.modNode n f).mscSize = s.mscSize := rfl
@[simp] theorem modNode_sectors (s : State) (n : Nat) (f : Node → Node) : (s.modNode n f).sectors = s.sectors := rfl
@[simp] theorem modNode_replicas (s : State) (n : Nat) (f : Node → Node) : (s.modNode n f).replicas = s.replicas := rfl
@[simp] theorem modNode_hostHeld (s : State) (n : Nat) (f : Node → Node) : (s.modNode n f).hostHeld = s.hostHeld := rfl
@[simp] theorem modNode_hostOwned (s : State) (n : Nat) (f : Node → Node) : (s.modNode n f).hostOwned = s.hostOwned := rfl
@[simp] theorem modNode_counters (s : State) (n : Nat) (f : Node → Node) : (s.modNode n f).counters = s.counters := rfl
@[simp] theorem modNode_devlog (s : State) (n : Nat) (f : Node → Node) : (s.modNode n f).devlog = s.devlog := rfl
@[simp] theorem modNode_wptr (s : State) (n : Nat) (f : Node → Node) : (s.modNode n f).wptr = s.wptr := rfl
@[simp] theorem modNode_rptr (s : State) (n : Nat) (f : Node → Node) : (s.modNode n f).rptr = s.rptr := rfl
@[simp] theorem modNode_lost (s : State) (n : Nat) (f : Node → Node) : (s.modNode n f).lost = s.lost := rfl
@[simp] theorem modNode_rank (s : State) (n : Nat) (f : Node → Node) : (s.modNode n f).rank = s.rank := rfl
@[simp] theorem modNode_route (s : State) (n : Nat) (f : Node → Node) : (s.modNode n f).route = s.route := rfl
@[simp] theorem modNode_ports (s : State) (n : Nat) (f : Node → Node) : (s.modNode n f).ports = s.ports := rfl
@[simp] theorem modNode_boot (s : State) (n : Nat) (f : Node → Node) : (s.modNode n f).boot = s.boot := rfl
@[simp] theorem modNode_bootOld (s : State) (n : Nat) (f : Node → Node) : (s.modNode n f).bootOld = s.bootOld := rfl
@[simp] theorem modNode_measured (s : State) (n : Nat) (f : Node → Node) : (s.modNode n f).measured = s.measured := rfl
@[simp] theorem modNode_devState (s : State) (n : Nat) (f : Node → Node) : (s.modNode n f).devState = s.devState := rfl
@[simp] theorem modNode_devStep (s : State) (n : Nat) (f : Node → Node) : (s.modNode n f).devStep = s.devStep := rfl
@[simp] theorem modNode_devFail (s : State) (n : Nat) (f : Node → Node) : (s.modNode n f).devFail = s.devFail := rfl
@[simp] theorem modNode_devAlt (s : State) (n : Nat) (f : Node → Node) : (s.modNode n f).devAlt = s.devAlt := rfl
@[simp] theorem modNode_powered (s : State) (n : Nat) (f : Node → Node) : (s.modNode n f).powered = s.powered := rfl
@[simp] theorem modNode_rails (s : State) (n : Nat) (f : Node → Node) : (s.modNode n f).rails = s.rails := rfl
@[simp] theorem modNode_pcap (s : State) (n : Nat) (f : Node → Node) : (s.modNode n f).pcap = s.pcap := rfl
@[simp] theorem modNode_rdyOrder (s : State) (n : Nat) (f : Node → Node) : (s.modNode n f).rdyOrder = s.rdyOrder := rfl
@[simp] theorem modNode_hostOut (s : State) (n : Nat) (f : Node → Node) : (s.modNode n f).hostOut = s.hostOut := rfl

/-! ### count -/

@[simp] theorem count_tick (s : State) (n core k : Nat) : (s.count n core k).tick = s.tick := rfl
@[simp] theorem count_agenda (s : State) (n core k : Nat) : (s.count n core k).agenda = s.agenda := rfl
@[simp] theorem count_cur (s : State) (n core k : Nat) : (s.count n core k).cur = s.cur := rfl
@[simp] theorem count_cycle (s : State) (n core k : Nat) : (s.count n core k).cycle = s.cycle := rfl
@[simp] theorem count_dieTime (s : State) (n core k : Nat) : (s.count n core k).dieTime = s.dieTime := rfl
@[simp] theorem count_mem (s : State) (n core k : Nat) : (s.count n core k).mem = s.mem := rfl
@[simp] theorem count_poison (s : State) (n core k : Nat) : (s.count n core k).poison = s.poison := rfl
@[simp] theorem count_warps (s : State) (n core k : Nat) : (s.count n core k).warps = s.warps := rfl
@[simp] theorem count_blocks (s : State) (n core k : Nat) : (s.count n core k).blocks = s.blocks := rfl
@[simp] theorem count_nodes (s : State) (n core k : Nat) : (s.count n core k).nodes = s.nodes := rfl
@[simp] theorem count_ctxs (s : State) (n core k : Nat) : (s.count n core k).ctxs = s.ctxs := rfl
@[simp] theorem count_qslots (s : State) (n core k : Nat) : (s.count n core k).qslots = s.qslots := rfl
@[simp] theorem count_mappings (s : State) (n core k : Nat) : (s.count n core k).mappings = s.mappings := rfl
@[simp] theorem count_tasks (s : State) (n core k : Nat) : (s.count n core k).tasks = s.tasks := rfl
@[simp] theorem count_insts (s : State) (n core k : Nat) : (s.count n core k).insts = s.insts := rfl
@[simp] theorem count_conv (s : State) (n core k : Nat) : (s.count n core k).conv = s.conv := rfl
@[simp] theorem count_mx (s : State) (n core k : Nat) : (s.count n core k).mx = s.mx := rfl
@[simp] theorem count_mxLatch (s : State) (n core k : Nat) : (s.count n core k).mxLatch = s.mxLatch := rfl
@[simp] theorem count_copies (s : State) (n core k : Nat) : (s.count n core k).copies = s.copies := rfl
@[simp] theorem count_colls (s : State) (n core k : Nat) : (s.count n core k).colls = s.colls := rfl
@[simp] theorem count_early (s : State) (n core k : Nat) : (s.count n core k).early = s.early := rfl
@[simp] theorem count_collAsk (s : State) (n core k : Nat) : (s.count n core k).collAsk = s.collAsk := rfl
@[simp] theorem count_ways (s : State) (n core k : Nat) : (s.count n core k).ways = s.ways := rfl
@[simp] theorem count_roofst (s : State) (n core k : Nat) : (s.count n core k).roofst = s.roofst := rfl
@[simp] theorem count_wires (s : State) (n core k : Nat) : (s.count n core k).wires = s.wires := rfl
@[simp] theorem count_spares (s : State) (n core k : Nat) : (s.count n core k).spares = s.spares := rfl
@[simp] theorem count_l1 (s : State) (n core k : Nat) : (s.count n core k).l1 = s.l1 := rfl
@[simp] theorem count_fused (s : State) (n core k : Nat) : (s.count n core k).fused = s.fused := rfl
@[simp] theorem count_ordq (s : State) (n core k : Nat) : (s.count n core k).ordq = s.ordq := rfl
@[simp] theorem count_tlb (s : State) (n core k : Nat) : (s.count n core k).tlb = s.tlb := rfl
@[simp] theorem count_walks (s : State) (n core k : Nat) : (s.count n core k).walks = s.walks := rfl
@[simp] theorem count_code (s : State) (n core k : Nat) : (s.count n core k).code = s.code := rfl
@[simp] theorem count_dirty (s : State) (n core k : Nat) : (s.count n core k).dirty = s.dirty := rfl
@[simp] theorem count_mscSize (s : State) (n core k : Nat) : (s.count n core k).mscSize = s.mscSize := rfl
@[simp] theorem count_sectors (s : State) (n core k : Nat) : (s.count n core k).sectors = s.sectors := rfl
@[simp] theorem count_replicas (s : State) (n core k : Nat) : (s.count n core k).replicas = s.replicas := rfl
@[simp] theorem count_hostHeld (s : State) (n core k : Nat) : (s.count n core k).hostHeld = s.hostHeld := rfl
@[simp] theorem count_hostOwned (s : State) (n core k : Nat) : (s.count n core k).hostOwned = s.hostOwned := rfl
@[simp] theorem count_devlog (s : State) (n core k : Nat) : (s.count n core k).devlog = s.devlog := rfl
@[simp] theorem count_wptr (s : State) (n core k : Nat) : (s.count n core k).wptr = s.wptr := rfl
@[simp] theorem count_rptr (s : State) (n core k : Nat) : (s.count n core k).rptr = s.rptr := rfl
@[simp] theorem count_lost (s : State) (n core k : Nat) : (s.count n core k).lost = s.lost := rfl
@[simp] theorem count_rank (s : State) (n core k : Nat) : (s.count n core k).rank = s.rank := rfl
@[simp] theorem count_route (s : State) (n core k : Nat) : (s.count n core k).route = s.route := rfl
@[simp] theorem count_ports (s : State) (n core k : Nat) : (s.count n core k).ports = s.ports := rfl
@[simp] theorem count_boot (s : State) (n core k : Nat) : (s.count n core k).boot = s.boot := rfl
@[simp] theorem count_bootOld (s : State) (n core k : Nat) : (s.count n core k).bootOld = s.bootOld := rfl
@[simp] theorem count_measured (s : State) (n core k : Nat) : (s.count n core k).measured = s.measured := rfl
@[simp] theorem count_devState (s : State) (n core k : Nat) : (s.count n core k).devState = s.devState := rfl
@[simp] theorem count_devStep (s : State) (n core k : Nat) : (s.count n core k).devStep = s.devStep := rfl
@[simp] theorem count_devFail (s : State) (n core k : Nat) : (s.count n core k).devFail = s.devFail := rfl
@[simp] theorem count_devAlt (s : State) (n core k : Nat) : (s.count n core k).devAlt = s.devAlt := rfl
@[simp] theorem count_powered (s : State) (n core k : Nat) : (s.count n core k).powered = s.powered := rfl
@[simp] theorem count_rails (s : State) (n core k : Nat) : (s.count n core k).rails = s.rails := rfl
@[simp] theorem count_pcap (s : State) (n core k : Nat) : (s.count n core k).pcap = s.pcap := rfl
@[simp] theorem count_rdyOrder (s : State) (n core k : Nat) : (s.count n core k).rdyOrder = s.rdyOrder := rfl
@[simp] theorem count_hostOut (s : State) (n core k : Nat) : (s.count n core k).hostOut = s.hostOut := rfl

/-! ### callBack -/

@[simp] theorem callBack_tick (s : State) (core pa n : Nat) : (s.callBack core pa n).tick = s.tick := rfl
@[simp] theorem callBack_agenda (s : State) (core pa n : Nat) : (s.callBack core pa n).agenda = s.agenda := rfl
@[simp] theorem callBack_cur (s : State) (core pa n : Nat) : (s.callBack core pa n).cur = s.cur := rfl
@[simp] theorem callBack_cycle (s : State) (core pa n : Nat) : (s.callBack core pa n).cycle = s.cycle := rfl
@[simp] theorem callBack_dieTime (s : State) (core pa n : Nat) : (s.callBack core pa n).dieTime = s.dieTime := rfl
@[simp] theorem callBack_mem (s : State) (core pa n : Nat) : (s.callBack core pa n).mem = s.mem := rfl
@[simp] theorem callBack_poison (s : State) (core pa n : Nat) : (s.callBack core pa n).poison = s.poison := rfl
@[simp] theorem callBack_warps (s : State) (core pa n : Nat) : (s.callBack core pa n).warps = s.warps := rfl
@[simp] theorem callBack_blocks (s : State) (core pa n : Nat) : (s.callBack core pa n).blocks = s.blocks := rfl
@[simp] theorem callBack_nodes (s : State) (core pa n : Nat) : (s.callBack core pa n).nodes = s.nodes := rfl
@[simp] theorem callBack_ctxs (s : State) (core pa n : Nat) : (s.callBack core pa n).ctxs = s.ctxs := rfl
@[simp] theorem callBack_qslots (s : State) (core pa n : Nat) : (s.callBack core pa n).qslots = s.qslots := rfl
@[simp] theorem callBack_mappings (s : State) (core pa n : Nat) : (s.callBack core pa n).mappings = s.mappings := rfl
@[simp] theorem callBack_tasks (s : State) (core pa n : Nat) : (s.callBack core pa n).tasks = s.tasks := rfl
@[simp] theorem callBack_insts (s : State) (core pa n : Nat) : (s.callBack core pa n).insts = s.insts := rfl
@[simp] theorem callBack_conv (s : State) (core pa n : Nat) : (s.callBack core pa n).conv = s.conv := rfl
@[simp] theorem callBack_mx (s : State) (core pa n : Nat) : (s.callBack core pa n).mx = s.mx := rfl
@[simp] theorem callBack_mxLatch (s : State) (core pa n : Nat) : (s.callBack core pa n).mxLatch = s.mxLatch := rfl
@[simp] theorem callBack_copies (s : State) (core pa n : Nat) : (s.callBack core pa n).copies = s.copies := rfl
@[simp] theorem callBack_colls (s : State) (core pa n : Nat) : (s.callBack core pa n).colls = s.colls := rfl
@[simp] theorem callBack_early (s : State) (core pa n : Nat) : (s.callBack core pa n).early = s.early := rfl
@[simp] theorem callBack_collAsk (s : State) (core pa n : Nat) : (s.callBack core pa n).collAsk = s.collAsk := rfl
@[simp] theorem callBack_ways (s : State) (core pa n : Nat) : (s.callBack core pa n).ways = s.ways := rfl
@[simp] theorem callBack_roofst (s : State) (core pa n : Nat) : (s.callBack core pa n).roofst = s.roofst := rfl
@[simp] theorem callBack_wires (s : State) (core pa n : Nat) : (s.callBack core pa n).wires = s.wires := rfl
@[simp] theorem callBack_spares (s : State) (core pa n : Nat) : (s.callBack core pa n).spares = s.spares := rfl
@[simp] theorem callBack_l1 (s : State) (core pa n : Nat) : (s.callBack core pa n).l1 = s.l1 := rfl
@[simp] theorem callBack_fused (s : State) (core pa n : Nat) : (s.callBack core pa n).fused = s.fused := rfl
@[simp] theorem callBack_ordq (s : State) (core pa n : Nat) : (s.callBack core pa n).ordq = s.ordq := rfl
@[simp] theorem callBack_tlb (s : State) (core pa n : Nat) : (s.callBack core pa n).tlb = s.tlb := rfl
@[simp] theorem callBack_walks (s : State) (core pa n : Nat) : (s.callBack core pa n).walks = s.walks := rfl
@[simp] theorem callBack_code (s : State) (core pa n : Nat) : (s.callBack core pa n).code = s.code := rfl
@[simp] theorem callBack_mscSize (s : State) (core pa n : Nat) : (s.callBack core pa n).mscSize = s.mscSize := rfl
@[simp] theorem callBack_sectors (s : State) (core pa n : Nat) : (s.callBack core pa n).sectors = s.sectors := rfl
@[simp] theorem callBack_replicas (s : State) (core pa n : Nat) : (s.callBack core pa n).replicas = s.replicas := rfl
@[simp] theorem callBack_hostHeld (s : State) (core pa n : Nat) : (s.callBack core pa n).hostHeld = s.hostHeld := rfl
@[simp] theorem callBack_hostOwned (s : State) (core pa n : Nat) : (s.callBack core pa n).hostOwned = s.hostOwned := rfl
@[simp] theorem callBack_counters (s : State) (core pa n : Nat) : (s.callBack core pa n).counters = s.counters := rfl
@[simp] theorem callBack_devlog (s : State) (core pa n : Nat) : (s.callBack core pa n).devlog = s.devlog := rfl
@[simp] theorem callBack_wptr (s : State) (core pa n : Nat) : (s.callBack core pa n).wptr = s.wptr := rfl
@[simp] theorem callBack_rptr (s : State) (core pa n : Nat) : (s.callBack core pa n).rptr = s.rptr := rfl
@[simp] theorem callBack_lost (s : State) (core pa n : Nat) : (s.callBack core pa n).lost = s.lost := rfl
@[simp] theorem callBack_rank (s : State) (core pa n : Nat) : (s.callBack core pa n).rank = s.rank := rfl
@[simp] theorem callBack_route (s : State) (core pa n : Nat) : (s.callBack core pa n).route = s.route := rfl
@[simp] theorem callBack_ports (s : State) (core pa n : Nat) : (s.callBack core pa n).ports = s.ports := rfl
@[simp] theorem callBack_boot (s : State) (core pa n : Nat) : (s.callBack core pa n).boot = s.boot := rfl
@[simp] theorem callBack_bootOld (s : State) (core pa n : Nat) : (s.callBack core pa n).bootOld = s.bootOld := rfl
@[simp] theorem callBack_measured (s : State) (core pa n : Nat) : (s.callBack core pa n).measured = s.measured := rfl
@[simp] theorem callBack_devState (s : State) (core pa n : Nat) : (s.callBack core pa n).devState = s.devState := rfl
@[simp] theorem callBack_devStep (s : State) (core pa n : Nat) : (s.callBack core pa n).devStep = s.devStep := rfl
@[simp] theorem callBack_devFail (s : State) (core pa n : Nat) : (s.callBack core pa n).devFail = s.devFail := rfl
@[simp] theorem callBack_devAlt (s : State) (core pa n : Nat) : (s.callBack core pa n).devAlt = s.devAlt := rfl
@[simp] theorem callBack_powered (s : State) (core pa n : Nat) : (s.callBack core pa n).powered = s.powered := rfl
@[simp] theorem callBack_rails (s : State) (core pa n : Nat) : (s.callBack core pa n).rails = s.rails := rfl
@[simp] theorem callBack_pcap (s : State) (core pa n : Nat) : (s.callBack core pa n).pcap = s.pcap := rfl
@[simp] theorem callBack_rdyOrder (s : State) (core pa n : Nat) : (s.callBack core pa n).rdyOrder = s.rdyOrder := rfl
@[simp] theorem callBack_hostOut (s : State) (core pa n : Nat) : (s.callBack core pa n).hostOut = s.hostOut := rfl

/-! ### tickOn -/

@[simp] theorem tickOn_tick (s : State) : s.tickOn.tick = s.tick + 1 := rfl
@[simp] theorem tickOn_agenda (s : State) : s.tickOn.agenda = s.agenda := rfl
@[simp] theorem tickOn_cur (s : State) : s.tickOn.cur = s.cur := rfl
@[simp] theorem tickOn_cycle (s : State) : s.tickOn.cycle = s.cycle + Config.cyclesAt s.tick := rfl
@[simp] theorem tickOn_dieTime (s : State) :
    s.tickOn.dieTime = (List.range 8).map fun d => s.dieTime.getD d 0 + Config.cyclesAt s.tick * s.dieRate d := rfl
@[simp] theorem tickOn_mem (s : State) : s.tickOn.mem = s.mem := rfl
@[simp] theorem tickOn_poison (s : State) : s.tickOn.poison = s.poison := rfl
@[simp] theorem tickOn_warps (s : State) : s.tickOn.warps = s.warps := rfl
@[simp] theorem tickOn_blocks (s : State) : s.tickOn.blocks = s.blocks := rfl
@[simp] theorem tickOn_nodes (s : State) : s.tickOn.nodes = s.nodes := rfl
@[simp] theorem tickOn_ctxs (s : State) : s.tickOn.ctxs = s.ctxs := rfl
@[simp] theorem tickOn_qslots (s : State) : s.tickOn.qslots = s.qslots := rfl
@[simp] theorem tickOn_mappings (s : State) : s.tickOn.mappings = s.mappings := rfl
@[simp] theorem tickOn_tasks (s : State) : s.tickOn.tasks = s.tasks := rfl
@[simp] theorem tickOn_insts (s : State) : s.tickOn.insts = s.insts := rfl
@[simp] theorem tickOn_conv (s : State) : s.tickOn.conv = s.conv := rfl
@[simp] theorem tickOn_mx (s : State) : s.tickOn.mx = s.mx := rfl
@[simp] theorem tickOn_mxLatch (s : State) : s.tickOn.mxLatch = s.mxLatch := rfl
@[simp] theorem tickOn_copies (s : State) : s.tickOn.copies = s.copies := rfl
@[simp] theorem tickOn_colls (s : State) : s.tickOn.colls = s.colls := rfl
@[simp] theorem tickOn_early (s : State) : s.tickOn.early = s.early := rfl
@[simp] theorem tickOn_collAsk (s : State) : s.tickOn.collAsk = s.collAsk := rfl
@[simp] theorem tickOn_ways (s : State) : s.tickOn.ways = s.ways := rfl
@[simp] theorem tickOn_roofst (s : State) : s.tickOn.roofst = s.roofst := rfl
@[simp] theorem tickOn_wires (s : State) : s.tickOn.wires = s.wires := rfl
@[simp] theorem tickOn_spares (s : State) : s.tickOn.spares = s.spares := rfl
@[simp] theorem tickOn_l1 (s : State) : s.tickOn.l1 = s.l1 := rfl
@[simp] theorem tickOn_fused (s : State) : s.tickOn.fused = s.fused := rfl
@[simp] theorem tickOn_ordq (s : State) : s.tickOn.ordq = s.ordq := rfl
@[simp] theorem tickOn_tlb (s : State) : s.tickOn.tlb = s.tlb := rfl
@[simp] theorem tickOn_walks (s : State) : s.tickOn.walks = s.walks := rfl
@[simp] theorem tickOn_code (s : State) : s.tickOn.code = s.code := rfl
@[simp] theorem tickOn_dirty (s : State) : s.tickOn.dirty = s.dirty := rfl
@[simp] theorem tickOn_mscSize (s : State) : s.tickOn.mscSize = s.mscSize := rfl
@[simp] theorem tickOn_sectors (s : State) : s.tickOn.sectors = s.sectors := rfl
@[simp] theorem tickOn_replicas (s : State) : s.tickOn.replicas = s.replicas := rfl
@[simp] theorem tickOn_hostHeld (s : State) : s.tickOn.hostHeld = s.hostHeld := rfl
@[simp] theorem tickOn_hostOwned (s : State) : s.tickOn.hostOwned = s.hostOwned := rfl
@[simp] theorem tickOn_counters (s : State) : s.tickOn.counters = s.counters := rfl
@[simp] theorem tickOn_devlog (s : State) : s.tickOn.devlog = s.devlog := rfl
@[simp] theorem tickOn_wptr (s : State) : s.tickOn.wptr = s.wptr := rfl
@[simp] theorem tickOn_rptr (s : State) : s.tickOn.rptr = s.rptr := rfl
@[simp] theorem tickOn_lost (s : State) : s.tickOn.lost = s.lost := rfl
@[simp] theorem tickOn_rank (s : State) : s.tickOn.rank = s.rank := rfl
@[simp] theorem tickOn_route (s : State) : s.tickOn.route = s.route := rfl
@[simp] theorem tickOn_ports (s : State) : s.tickOn.ports = s.ports := rfl
@[simp] theorem tickOn_boot (s : State) : s.tickOn.boot = s.boot := rfl
@[simp] theorem tickOn_bootOld (s : State) : s.tickOn.bootOld = s.bootOld := rfl
@[simp] theorem tickOn_measured (s : State) : s.tickOn.measured = s.measured := rfl
@[simp] theorem tickOn_devState (s : State) : s.tickOn.devState = s.devState := rfl
@[simp] theorem tickOn_devStep (s : State) : s.tickOn.devStep = s.devStep := rfl
@[simp] theorem tickOn_devFail (s : State) : s.tickOn.devFail = s.devFail := rfl
@[simp] theorem tickOn_devAlt (s : State) : s.tickOn.devAlt = s.devAlt := rfl
@[simp] theorem tickOn_powered (s : State) : s.tickOn.powered = s.powered := rfl
@[simp] theorem tickOn_rails (s : State) : s.tickOn.rails = s.rails := rfl
@[simp] theorem tickOn_pcap (s : State) : s.tickOn.pcap = s.pcap := rfl
@[simp] theorem tickOn_rdyOrder (s : State) : s.tickOn.rdyOrder = s.rdyOrder := rfl
@[simp] theorem tickOn_hostOut (s : State) : s.tickOn.hostOut = s.hostOut := rfl

/-! ### Reading a table after an update -/

@[simp] theorem warp?_putWarp_same (s : State) (w : Warp) : (s.putWarp w).warp? w.key = some w := by simp [warp?]
theorem warp?_putWarp_ne (s : State) {w : Warp} {k : Nat} (h : k ≠ w.key) : (s.putWarp w).warp? k = s.warp? k := by
  simp only [warp?, putWarp_warps]; exact tfind_tset_ne _ _ (Ne.symm h)
@[simp] theorem ctx_modCtx_same (s : State) (x : Nat) (f : Context → Context) : (s.modCtx x f).ctx x = f (s.ctx x) := by simp [ctx]
theorem ctx_modCtx_ne (s : State) {x y : Nat} (f : Context → Context) (h : y ≠ x) : (s.modCtx x f).ctx y = s.ctx y := by
  simp only [ctx, modCtx_ctxs]; exact tget_tset_ne _ _ _ (Ne.symm h)
@[simp] theorem block?_modBlock_same (s : State) (b : Nat) (f : Block → Block) : (s.modBlock b f).block? b = (s.block? b).map f := by
  simp only [block?, modBlock_blocks]; exact tfind_tmod_same ..
theorem block?_modBlock_ne (s : State) {b c : Nat} (f : Block → Block) (h : c ≠ b) : (s.modBlock b f).block? c = s.block? c := by
  simp only [block?, modBlock_blocks]; exact tfind_tmod_ne _ _ (Ne.symm h)
@[simp] theorem node?_modNode_same (s : State) (n : Nat) (f : Node → Node) : (s.modNode n f).node? n = (s.node? n).map f := by
  simp only [node?, modNode_nodes]; exact tfind_tmod_same ..
theorem node?_modNode_ne (s : State) {n m : Nat} (f : Node → Node) (h : m ≠ n) : (s.modNode n f).node? m = s.node? m := by
  simp only [node?, modNode_nodes]; exact tfind_tmod_ne _ _ (Ne.symm h)

end State

/-! ### A bank of a warp -/

namespace Warp

@[simp] theorem setBank_ctx (w : Warp) (m : Nat) (b : Bank) : (w.setBank m b).ctx = w.ctx := rfl
@[simp] theorem setBank_core (w : Warp) (m : Nat) (b : Bank) : (w.setBank m b).core = w.core := rfl
@[simp] theorem setBank_slot (w : Warp) (m : Nat) (b : Bank) : (w.setBank m b).slot = w.slot := rfl
@[simp] theorem setBank_blk (w : Warp) (m : Nat) (b : Bank) : (w.setBank m b).blk = w.blk := rfl
@[simp] theorem setBank_foreman (w : Warp) (m : Nat) (b : Bank) : (w.setBank m b).foreman = w.foreman := rfl
@[simp] theorem setBank_info (w : Warp) (m : Nat) (b : Bank) : (w.setBank m b).info = w.info := rfl
@[simp] theorem setBank_st (w : Warp) (m : Nat) (b : Bank) : (w.setBank m b).st = w.st := rfl
@[simp] theorem setBank_waitOn (w : Warp) (m : Nat) (b : Bank) : (w.setBank m b).waitOn = w.waitOn := rfl
@[simp] theorem setBank_waitSince (w : Warp) (m : Nat) (b : Bank) : (w.setBank m b).waitSince = w.waitSince := rfl
@[simp] theorem setBank_foreign (w : Warp) (m : Nat) (b : Bank) : (w.setBank m b).foreign = w.foreign := rfl
@[simp] theorem setBank_pc (w : Warp) (m : Nat) (b : Bank) : (w.setBank m b).pc = w.pc := rfl
@[simp] theorem setBank_sup (w : Warp) (m : Nat) (b : Bank) : (w.setBank m b).sup = w.sup := rfl
@[simp] theorem setBank_ended (w : Warp) (m : Nat) (b : Bank) : (w.setBank m b).ended = w.ended := rfl
@[simp] theorem setBank_h (w : Warp) (m : Nat) (b : Bank) : (w.setBank m b).h = w.h := rfl
@[simp] theorem setBank_hmax (w : Warp) (m : Nat) (b : Bank) : (w.setBank m b).hmax = w.hmax := rfl
@[simp] theorem setBank_p (w : Warp) (m : Nat) (b : Bank) : (w.setBank m b).p = w.p := rfl
@[simp] theorem setBank_common (w : Warp) (m : Nat) (b : Bank) : (w.setBank m b).common = w.common := rfl
@[simp] theorem setBank_mm (w : Warp) (m : Nat) (b : Bank) : (w.setBank m b).mm = w.mm := rfl
@[simp] theorem setBank_banks (w : Warp) (m : Nat) (b : Bank) : (w.setBank m b).banks = lset w.banks m b := rfl
@[simp] theorem setBank_s (w : Warp) (m : Nat) (b : Bank) : (w.setBank m b).s = w.s := rfl
@[simp] theorem setBank_v (w : Warp) (m : Nat) (b : Bank) : (w.setBank m b).v = w.v := rfl
@[simp] theorem setBank_emptyS (w : Warp) (m : Nat) (b : Bank) : (w.setBank m b).emptyS = w.emptyS := rfl
@[simp] theorem setBank_emptyV (w : Warp) (m : Nat) (b : Bank) : (w.setBank m b).emptyV = w.emptyV := rfl
@[simp] theorem setBank_emptyX (w : Warp) (m : Nat) (b : Bank) : (w.setBank m b).emptyX = w.emptyX := rfl
@[simp] theorem setBank_bad (w : Warp) (m : Nat) (b : Bank) : (w.setBank m b).bad = w.bad := rfl
@[simp] theorem setBank_jmBusy (w : Warp) (m : Nat) (b : Bank) : (w.setBank m b).jmBusy = w.jmBusy := rfl
@[simp] theorem setBank_paths (w : Warp) (m : Nat) (b : Bank) : (w.setBank m b).paths = w.paths := rfl
@[simp] theorem setBank_nextAge (w : Warp) (m : Nat) (b : Bank) : (w.setBank m b).nextAge = w.nextAge := rfl
@[simp] theorem setBank_tables (w : Warp) (m : Nat) (b : Bank) : (w.setBank m b).tables = w.tables := rfl
@[simp] theorem setBank_meld (w : Warp) (m : Nat) (b : Bank) : (w.setBank m b).meld = w.meld := rfl
@[simp] theorem setBank_lc (w : Warp) (m : Nat) (b : Bank) : (w.setBank m b).lc = w.lc := rfl
@[simp] theorem setBank_loopBuf (w : Warp) (m : Nat) (b : Bank) : (w.setBank m b).loopBuf = w.loopBuf := rfl
@[simp] theorem setBank_loopDue (w : Warp) (m : Nat) (b : Bank) : (w.setBank m b).loopDue = w.loopDue := rfl
@[simp] theorem setBank_st8 (w : Warp) (m : Nat) (b : Bank) : (w.setBank m b).st8 = w.st8 := rfl
@[simp] theorem setBank_xa (w : Warp) (m : Nat) (b : Bank) : (w.setBank m b).xa = w.xa := rfl
@[simp] theorem setBank_wstat (w : Warp) (m : Nat) (b : Bank) : (w.setBank m b).wstat = w.wstat := rfl
@[simp] theorem setBank_pathev (w : Warp) (m : Nat) (b : Bank) : (w.setBank m b).pathev = w.pathev := rfl
@[simp] theorem setBank_txstat (w : Warp) (m : Nat) (b : Bank) : (w.setBank m b).txstat = w.txstat := rfl
@[simp] theorem setBank_txaddr (w : Warp) (m : Nat) (b : Bank) : (w.setBank m b).txaddr = w.txaddr := rfl
@[simp] theorem setBank_tx (w : Warp) (m : Nat) (b : Bank) : (w.setBank m b).tx = w.tx := rfl
@[simp] theorem setBank_log (w : Warp) (m : Nat) (b : Bank) : (w.setBank m b).log = w.log := rfl
@[simp] theorem setBank_clearing (w : Warp) (m : Nat) (b : Bank) : (w.setBank m b).clearing = w.clearing := rfl
@[simp] theorem setBank_fences (w : Warp) (m : Nat) (b : Bank) : (w.setBank m b).fences = w.fences := rfl
@[simp] theorem setBank_trapDue (w : Warp) (m : Nat) (b : Bank) : (w.setBank m b).trapDue = w.trapDue := rfl
@[simp] theorem setBank_nextSeq (w : Warp) (m : Nat) (b : Bank) : (w.setBank m b).nextSeq = w.nextSeq := rfl
@[simp] theorem setBank_record (w : Warp) (m : Nat) (b : Bank) : (w.setBank m b).record = w.record := rfl
@[simp] theorem setBank_recMm (w : Warp) (m : Nat) (b : Bank) : (w.setBank m b).recMm = w.recMm := rfl
@[simp] theorem setBank_recEntry (w : Warp) (m : Nat) (b : Bank) : (w.setBank m b).recEntry = w.recEntry := rfl
@[simp] theorem setBank_loopTrap (w : Warp) (m : Nat) (b : Bank) : (w.setBank m b).loopTrap = w.loopTrap := rfl
@[simp] theorem setBank_mon (w : Warp) (m : Nat) (b : Bank) : (w.setBank m b).mon = w.mon := rfl
@[simp] theorem setBank_copies (w : Warp) (m : Nat) (b : Bank) : (w.setBank m b).copies = w.copies := rfl
@[simp] theorem setBank_ordN (w : Warp) (m : Nat) (b : Bank) : (w.setBank m b).ordN = w.ordN := rfl
@[simp] theorem setBank_checkKilled (w : Warp) (m : Nat) (b : Bank) : (w.setBank m b).checkKilled = w.checkKilled := rfl
@[simp] theorem setBank_inject (w : Warp) (m : Nat) (b : Bank) : (w.setBank m b).inject = w.inject := rfl
@[simp] theorem setBank_canPc (w : Warp) (m : Nat) (b : Bank) : (w.setBank m b).canPc = w.canPc := rfl
@[simp] theorem setBank_canSig (w : Warp) (m : Nat) (b : Bank) : (w.setBank m b).canSig = w.canSig := rfl
@[simp] theorem setBank_canPrev (w : Warp) (m : Nat) (b : Bank) : (w.setBank m b).canPrev = w.canPrev := rfl
@[simp] theorem setBank_canCount (w : Warp) (m : Nat) (b : Bank) : (w.setBank m b).canCount = w.canCount := rfl
@[simp] theorem setBank_rdv (w : Warp) (m : Nat) (b : Bank) : (w.setBank m b).rdv = w.rdv := rfl
@[simp] theorem setBank_rdvN (w : Warp) (m : Nat) (b : Bank) : (w.setBank m b).rdvN = w.rdvN := rfl
@[simp] theorem setBank_reqOrder (w : Warp) (m : Nat) (b : Bank) : (w.setBank m b).reqOrder = w.reqOrder := rfl
@[simp] theorem setBank_tail (w : Warp) (m : Nat) (b : Bank) : (w.setBank m b).tail = w.tail := rfl
@[simp] theorem setBank_lead (w : Warp) (m : Nat) (b : Bank) : (w.setBank m b).lead = w.lead := rfl
@[simp] theorem setBank_lvq (w : Warp) (m : Nat) (b : Bank) : (w.setBank m b).lvq = w.lvq := rfl
@[simp] theorem setBank_outq (w : Warp) (m : Nat) (b : Bank) : (w.setBank m b).outq = w.outq := rfl
@[simp] theorem setBank_retired (w : Warp) (m : Nat) (b : Bank) : (w.setBank m b).retired = w.retired := rfl
@[simp] theorem setBank_seen (w : Warp) (m : Nat) (b : Bank) : (w.setBank m b).seen = w.seen := rfl
@[simp] theorem setBank_saving (w : Warp) (m : Nat) (b : Bank) : (w.setBank m b).saving = w.saving := rfl
@[simp] theorem setBank_lcSaved (w : Warp) (m : Nat) (b : Bank) : (w.setBank m b).lcSaved = w.lcSaved := rfl
@[simp] theorem setBank_restored (w : Warp) (m : Nat) (b : Bank) : (w.setBank m b).restored = w.restored := rfl

theorem bank_setBank_same (w : Warp) {m : Nat} (b : Bank) (h : m < w.banks.length) : (w.setBank m b).bank m = b := by
  unfold bank; exact getD_lset_same _ _ h
theorem bank_setBank_ne (w : Warp) {m n : Nat} (b : Bank) (h : m ≠ n) : (w.setBank m b).bank n = w.bank n := by
  unfold bank; exact getD_lset_ne _ _ _ h

end Warp

end Sys2Proof.Machine
end

