-- ==== Sys2Proof/Laws/Warp.lean ====
section
/-!
SUPPORT. What writing registers can change in a warp, and that the checks of an instruction, when clear, stand in nobody's way.
-/

namespace Sys2Proof.Machine

/-- A property every step of a fold keeps. -/
theorem foldl_keep {α β γ : Type} (g : α → γ) (f : α → β → α) (h : ∀ a b, g (f a b) = g a) (l : List β) (a : α) : g (l.foldl f a) = g a := by
  induction l generalizing a with
  | nil => rfl
  | cons b t ih => rw [List.foldl_cons, ih, h]

namespace Warp

theorem OnlyRegs.refl (w : Warp) : OnlyRegs w w := rfl

theorem OnlyRegs.trans {a b c : Warp} (h : OnlyRegs a b) (k : OnlyRegs b c) : OnlyRegs a c := by
  unfold OnlyRegs at *
  rw [k, h]

theorem OnlyRegs.foldl {β : Type} {f : Warp → β → Warp} (h : ∀ w b, OnlyRegs w (f w b)) (l : List β) (w : Warp) : OnlyRegs w (l.foldl f w) := by
  induction l generalizing w with
  | nil => rfl
  | cons b t ih => exact (h w b).trans (ih _)

theorem onlyRegs_setBank (w : Warp) (m : Nat) (b : Bank) : OnlyRegs w (w.setBank m b) := rfl

theorem onlyRegs_vput (w : Warp) (m n : Nat) (mask : LaneMask) (vals : List Lane32) : OnlyRegs w (w.vput m n mask vals) := by
  simp only [vput]; split
  · rfl
  · split <;> rfl

theorem onlyRegs_sput (w : Warp) (m n : Nat) (v : Word) : OnlyRegs w (w.sput m n v) := by simp only [sput]; split <;> rfl

theorem onlyRegs_gput (w : Warp) (m n : Nat) (mask vals : LaneMask) : OnlyRegs w (w.gput m n mask vals) := rfl

theorem onlyRegs_dsrc (w : Warp) (c : Bool) : OnlyRegs w (w.dsrc c) := by unfold dsrc; split <;> rfl

theorem onlyRegs_setEmpty (w : Warp) (m : Nat) (e : Bool) (r : Reg) : OnlyRegs w (w.setEmpty m e r) := by
  cases r with
  | v n => simp only [setEmpty]; split <;> rfl
  | s n => simp only [setEmpty]; split <;> rfl
  | x k => rfl
  | g n => rfl
  | st k => rfl

theorem onlyRegs_eachActive (w : Warp) (f : Nat → Bank → Bank) : OnlyRegs w (w.eachActive f) := by
  unfold eachActive; exact OnlyRegs.foldl (fun w m => onlyRegs_setBank w m _) _ _

theorem onlyRegs_eachSlot (w : Warp) (f : Nat → Bank → Bank) : OnlyRegs w (w.eachSlot f) := by
  unfold eachSlot; exact OnlyRegs.foldl (fun w m => onlyRegs_setBank w m _) _ _

theorem onlyRegs_vecWrite (w : Warp) (h : Hdr) (r k : Nat) (f : Nat → Nat → List Lane32) : OnlyRegs w (w.vecWrite h r k f) := by
  unfold vecWrite
  split
  · exact OnlyRegs.foldl (fun _ _ => onlyRegs_vput ..) _ _
  · exact OnlyRegs.foldl (fun _ _ => OnlyRegs.foldl (fun _ _ => onlyRegs_vput ..) _ _) _ _

theorem onlyRegs_sclWrite (w : Warp) (n : Nat) (f : Nat → Word) : OnlyRegs w (w.sclWrite n f) := by
  unfold sclWrite
  split
  · exact onlyRegs_sput ..
  · exact OnlyRegs.foldl (fun _ _ => onlyRegs_sput ..) _ _

theorem onlyRegs_noteDead (w : Warp) (h : Hdr) (os : List Operand) : OnlyRegs w (w.noteDead h os) := onlyRegs_dsrc ..
theorem onlyRegs_noteDeadOnce (w : Warp) (h : Hdr) (os : List Operand) : OnlyRegs w (w.noteDeadOnce h os) := onlyRegs_dsrc ..

theorem onlyRegs_predWrite (w : Warp) (h : Hdr) (n : Nat) (f : Nat → Nat → Bool) : OnlyRegs w (w.predWrite h n f) :=
  OnlyRegs.foldl (fun _ _ => onlyRegs_gput ..) _ _

theorem onlyRegs_vecResult (w : Warp) (h : Hdr) (d : Spec) (k : Nat) (os own : List Operand) (priv : Bool) (val : Nat → Nat → List Lane32) :
    OnlyRegs w (w.vecResult h d k os priv val own) := by
  simp only [vecResult]
  split
  · exact (onlyRegs_vecWrite ..).trans (onlyRegs_noteDeadOnce ..)
  · exact (onlyRegs_vecWrite ..).trans (onlyRegs_noteDead ..)

theorem onlyRegs_sclResult (w : Warp) (h : Hdr) (d : Spec) (val : Nat → Word) : OnlyRegs w (w.sclResult h d val) := by
  unfold sclResult
  split
  · rfl
  · exact onlyRegs_sclWrite ..

theorem onlyRegs_predResult (w : Warp) (h : Hdr) (d : Spec) (os : List Operand) (val : Nat → Nat → Bool) :
    OnlyRegs w (w.predResult h d os val) := by
  simp only [predResult]
  split
  · exact (onlyRegs_predWrite ..).trans (onlyRegs_noteDeadOnce ..)
  · exact (onlyRegs_predWrite ..).trans (onlyRegs_noteDead ..)

theorem OnlyRegs.ended {w w' : Warp} (h : OnlyRegs w w') : w'.ended = w.ended := by rw [h]
theorem OnlyRegs.key {w w' : Warp} (h : OnlyRegs w w') : w'.key = w.key := by rw [h]; rfl
theorem OnlyRegs.pc {w w' : Warp} (h : OnlyRegs w w') : w'.pc = w.pc := by rw [h]

/-- With the checks clear, an instruction goes on to its effect. -/
theorem checked_clear {w : Warp} {h : Hdr} {ns : List Need} {mf cw : Bool} {k : WRes} (c : w.Clear h ns mf cw) : w.checked h ns mf cw k = k := by
  obtain ⟨c1, c2, c3, c4, c5, c6⟩ := c
  have : (w.active.map fun m => (m, w.badReads h ns m)).filter (fun p => p.2 != 0) = [] := by
    rw [List.filter_eq_nil_iff]
    intro p hp
    obtain ⟨m, hm, rfl⟩ := List.mem_map.1 hp
    simp [c5 m hm]
  simp only [checked, c1, c2, c3, c4, c6, this, if_true]
  simp

theorem sclOp_clear {w : Warp} {h : Hdr} {dst : Spec} {os : List Operand} {priv : Bool} {val : Nat → Word}
    (c : w.Clear h (w.needs os ++ w.needsDst 1 dst) false (dst.num < 128 && (priv || w.anyPrivate (os.map (·.1))))) :
    w.sclOp h dst os priv val = .fall (w.sclResult h dst val) := by
  unfold sclOp; rw [checked_clear c]; rfl

theorem vecOp_clear {w : Warp} {h : Hdr} {dst : Spec} {k : Nat} {os : List Operand} {priv : Bool} {val : Nat → Nat → List Lane32}
    (c : w.Clear h (w.needs os ++ w.needsDst k dst) (w.misfits os || w.misfit k dst)
      (w.commonV (w.xlat dst.num) && (priv || w.anyPrivate (os.map (·.1))))) :
    w.vecOp h dst k os priv val = .fall (w.vecResult h dst k os priv val) := by
  unfold vecOp; simp only [List.append_nil]; rw [checked_clear c]; rfl

theorem predOp_clear {w : Warp} {h : Hdr} {dst : Spec} {os : List Operand} {val : Nat → Nat → Bool}
    (c : w.Clear h (w.needs os) (w.misfits os) false) : w.predOp h dst os val = .fall (w.predResult h dst os val) := by
  simp only [predOp]; rw [checked_clear c]; rfl

theorem soften_fall {w w1 : Warp} {h : Hdr} {dst : Spec} (c : w.injected h = none) : w.soften h dst (.fall w1) = .fall w1 := by
  unfold soften; rw [c]

end Warp

/-! ## The end of an instruction -/

theorem ended_of_cur {s : State} {w : Warp} (h : s.curWarp = some w) : w.ended = false := by
  unfold State.curWarp at h
  split at h <;> try simp at h
  split at h <;> try simp at h
  split at h <;> try simp at h
  obtain ⟨h1, h2⟩ := h
  subst h2
  simp_all

theorem finish_fall {s : State} {w w1 : Warp} (h : w1.ended = false) : s.finish w (.fall w1) = s.retire w w1 := by
  simp [State.finish, State.endBusy, h]

theorem warpOp_cur {s : State} {w : Warp} (f : Warp → WRes) (h : s.curWarp = some w) : warpOp s f = .next (s.finish w (f w)) := by
  simp [warpOp, h]

theorem machineOp_cur {s : State} {w : Warp} (f : State → Warp → State × WRes) (h : s.curWarp = some w) :
    machineOp s f = .next ((f s w).1.finish w (f s w).2) := by
  simp [machineOp, h]

/-- A form of the running warp that falls through with `w1` retires. -/
theorem retires_of_fall {i : Instr} {s : State} {w w1 : Warp} (hc : s.curWarp = some w) (e : exec i s = .next (s.finish w (.fall w1)))
    (h : w.OnlyRegs w1) : Retires i s w w1 := by
  unfold Retires
  rw [e, finish_fall (h.ended.trans (ended_of_cur hc))]

theorem sclRule_of {i : Instr} {h : Hdr} {dst : Spec} {os : List Warp.Operand} {priv : Warp → Bool} {val : State → Warp → Nat → Word}
    (e : ∀ s, exec i s = warpOp s fun w => w.sclOp h dst os (priv w) (val s w)) : SclRule i h dst os priv val := by
  intro s w hc cl
  refine retires_of_fall hc ?_ (Warp.onlyRegs_sclResult ..)
  rw [e, warpOp_cur _ hc, Warp.sclOp_clear cl]

theorem vecRule_of {i : Instr} {h : Hdr} {dst : Spec} {k : Nat} {os : List Warp.Operand} {priv : Warp → Bool} {val : Warp → Nat → Nat → List Lane32}
    (e : ∀ s, exec i s = warpOp s fun w => w.vecOp h dst k os (priv w) (val w)) : VecRule false i h dst k os priv val := by
  intro s w hc _ cl
  refine retires_of_fall hc ?_ (Warp.onlyRegs_vecResult ..)
  rw [e, warpOp_cur _ hc, Warp.vecOp_clear cl]

theorem softRule_of {i : Instr} {h : Hdr} {dst : Spec} {k : Nat} {os : List Warp.Operand} {priv : Warp → Bool} {val : Warp → Nat → Nat → List Lane32}
    (e : ∀ s, exec i s = warpOp s fun w => w.soften h dst (w.vecOp h dst k os (priv w) (val w))) : VecRule true i h dst k os priv val := by
  intro s w hc hi cl
  refine retires_of_fall hc ?_ (Warp.onlyRegs_vecResult ..)
  rw [e, warpOp_cur _ hc, Warp.vecOp_clear cl, Warp.soften_fall (hi rfl)]

theorem predRule_of {i : Instr} {h : Hdr} {dst : Spec} {os : List Warp.Operand} {val : Warp → Nat → Nat → Bool}
    (e : ∀ s, exec i s = warpOp s fun w => w.predOp h dst os (val w)) : PredRule false i h dst os val := by
  intro s w hc _ cl
  refine retires_of_fall hc ?_ (Warp.onlyRegs_predResult ..)
  rw [e, warpOp_cur _ hc, Warp.predOp_clear cl]

theorem softPred_of {i : Instr} {h : Hdr} {dst : Spec} {os : List Warp.Operand} {val : Warp → Nat → Nat → Bool}
    (e : ∀ s, exec i s = warpOp s fun w => w.soften h dst (w.predOp h dst os (val w))) : PredRule true i h dst os val := by
  intro s w hc hi cl
  refine retires_of_fall hc ?_ (Warp.onlyRegs_predResult ..)
  rw [e, warpOp_cur _ hc, Warp.predOp_clear cl, Warp.soften_fall (hi rfl)]

end Sys2Proof.Machine
end

