-- ==== Sys2Proof/Laws/Frames.lean ====
section
/-!
SUPPORT. What the end of a warp's instruction can change in the machine beside the warp: what kills, traps, waits and retirement share.
-/

namespace Sys2Proof.Machine

/-- What an instruction that acts on its warp alone leaves of every block: all but its decision queue and its abort. -/
def Block.core4 (p : Nat × Block) : Nat × Memory × Memory × Word × Word × List Word := (p.1, p.2.near, p.2.scales, p.2.ph, p.2.preq, p.2.mbox)

/-- `t` is `s` but for warps, nodes, counters, ordered contributions, engines, and the decision queue and abort of blocks. -/
def State.Beside (s t : State) : Prop :=
  t = { s with warps := t.warps, blocks := t.blocks, nodes := t.nodes, counters := t.counters, ordq := t.ordq, mx := t.mx } ∧
  t.blocks.map Block.core4 = s.blocks.map Block.core4

theorem map_tmod {α β : Type} (g : Nat × α → β) (t : Tab α) (n : Nat) (f : α → α) (h : ∀ k a, g (k, f a) = g (k, a)) : (tmod t n f).map g = t.map g := by
  simp only [tmod, List.map_map]
  refine List.map_congr_left fun p _ => ?_
  obtain ⟨k, a⟩ := p
  simp only [Function.comp]
  split
  · exact h k a
  · rfl

namespace State

theorem Beside.refl (s : State) : Beside s s := ⟨rfl, rfl⟩

theorem Beside.trans {a b c : State} (h : Beside a b) (k : Beside b c) : Beside a c := by
  obtain ⟨h1, h2⟩ := h
  obtain ⟨k1, k2⟩ := k
  refine ⟨?_, k2.trans h2⟩
  rw [k1, h1]

theorem Beside.foldl {β : Type} {f : State → β → State} (h : ∀ s b, Beside s (f s b)) (l : List β) (s : State) : Beside s (l.foldl f s) := by
  induction l generalizing s with
  | nil => exact refl s
  | cons b t ih => exact (h s b).trans (ih _)

theorem beside_ite {c : Prop} [Decidable c] {s a b : State} (ha : Beside s a) (hb : Beside s b) : Beside s (if c then a else b) := by
  split <;> assumption

theorem beside_putWarp (s : State) (w : Warp) : Beside s (s.putWarp w) := ⟨rfl, rfl⟩

theorem beside_modWarp (s : State) (k : Nat) (f : Warp → Warp) : Beside s (s.modWarp k f) := by
  unfold modWarp; split
  · exact beside_putWarp ..
  · exact .refl s

theorem beside_modNode (s : State) (n : Nat) (f : Node → Node) : Beside s (s.modNode n f) := ⟨rfl, rfl⟩

theorem beside_modBlock (s : State) (b : Nat) (f : Block → Block) (h : ∀ k x, Block.core4 (k, f x) = Block.core4 (k, x)) : Beside s (s.modBlock b f) :=
  ⟨rfl, map_tmod _ _ _ _ h⟩

theorem beside_count (s : State) (n c k : Nat) : Beside s (s.count n c k) := ⟨rfl, rfl⟩

theorem beside_dropMx (s : State) (w : Warp) : Beside s (s.dropMx w) := by
  unfold dropMx; split
  · exact .refl s
  · exact ⟨rfl, rfl⟩

theorem beside_blockError (s : State) (b c d u a : Nat) : Beside s (s.blockError b c d u a) := by
  unfold blockError; split
  · exact .refl s
  · exact beside_modNode ..

theorem beside_finishWarp (s : State) (k : Nat) : Beside s (s.finishWarp k) := by
  unfold finishWarp; split
  · exact .refl s
  · split
    · dsimp only
      split
      · exact (beside_dropMx ..).trans (beside_putWarp ..)
      · exact ((beside_dropMx ..).trans (beside_putWarp ..)).trans (beside_modBlock _ _ _ fun _ _ => rfl)
    · exact .refl s

theorem beside_abortBlock (s : State) (b : Nat) : Beside s (s.abortBlock b) := by
  unfold abortBlock
  refine (Beside.foldl beside_dropMx (s.blockWarps b) s).trans (Beside.trans ⟨rfl, rfl⟩ (beside_modBlock _ _ _ fun _ _ => rfl))

theorem beside_trapUnhandled (s : State) (w : Warp) (c : Nat) (pc : Word) : Beside s (s.trapUnhandled w c pc) :=
  (beside_blockError ..).trans (beside_abortBlock ..)

theorem beside_enterHandler (s : State) (w : Warp) (t : TrapReq) (pc : Word) (l : Bool) : Beside s (s.enterHandler w t pc l) := beside_putWarp ..

theorem beside_takeTrap (s : State) (w : Warp) (t : TrapReq) (pc : Word) (l : Bool) : Beside s (s.takeTrap w t pc l) := by
  unfold takeTrap
  exact beside_ite ((beside_putWarp ..).trans (beside_trapUnhandled ..)) (beside_ite (beside_enterHandler ..) (beside_putWarp ..))

theorem beside_takeLaneFault (s : State) (w : Warp) (e : LogEntry) (p : Part) : Beside s (s.takeLaneFault w e p) := by
  unfold takeLaneFault
  split
  · exact .refl s
  · dsimp only
    split
    · exact beside_trapUnhandled ..
    · exact beside_putWarp ..

theorem beside_killLanes (s : State) (k m : Nat) (mask : LaneMask) (c a : Nat) : Beside s (s.killLanes k m mask c a) := by
  unfold killLanes
  split
  · exact .refl s
  · rename_i w _
    dsimp only
    split
    · exact .refl s
    · have tailed : ∀ s0 : State, Beside s0 (match w.tail with
          | some t => s0.modWarp (warpKey w.core t) fun x => x.killBank m (mask &&& (w.bank m).live) c
          | none => match w.lead with
            | some l => s0.modWarp (warpKey w.core l) fun x => x.killBank m (mask &&& (w.bank m).live) c
            | none => s0) := by
        intro s0; split
        · exact beside_modWarp ..
        · split
          · exact beside_modWarp ..
          · exact .refl s0
      have counted : ∀ s0 : State, Beside s0 (if (c = 6 || c = 7) = true then s0.count 0x1E w.core 1 else s0) := by
        intro s0; split
        · exact beside_count ..
        · exact .refl s0
      split
      · exact (((beside_putWarp ..).trans (tailed _)).trans (beside_count ..)).trans (counted _)
      · exact ((((beside_putWarp ..).trans (tailed _)).trans (beside_count ..)).trans (counted _)).trans (beside_modNode ..)

theorem beside_waits (s : State) (w : Warp) (r : Wait) : Beside s (s.waits w r) := beside_putWarp ..

theorem beside_retire (s : State) (w0 w : Warp) : Beside s (s.retire w0 w) := (beside_putWarp ..).trans (beside_finishWarp ..)

/-- However an instruction of a warp ends, it changes nothing beside the warp but what a kill, a trap or the warp's end changes. -/
theorem beside_finish (s : State) (w : Warp) (r : WRes) : Beside s (s.finish w r) := by
  unfold finish
  cases r with
  | fall w1 => exact beside_ite (beside_waits ..) (beside_retire ..)
  | jump w1 => exact (beside_putWarp ..).trans (beside_finishWarp ..)
  | switch w1 => exact beside_ite (beside_waits ..) ((beside_putWarp ..).trans (beside_finishWarp ..))
  | trap w1 t => exact beside_takeTrap ..
  | done w1 => exact beside_putWarp ..
  | wait r => exact beside_waits ..
  | kill w1 ks c go =>
    dsimp only
    refine Beside.trans (Beside.trans (Beside.trans ?_ (Beside.foldl (fun _ _ => beside_killLanes ..) ks _)) (beside_modWarp ..)) (beside_finishWarp ..)
    exact beside_ite (beside_retire ..) (beside_putWarp ..)
  | abort c d a => exact beside_putWarp ..

theorem mem_finish (s : State) (w : Warp) (r : WRes) : (s.finish w r).mem = s.mem := by rw [(beside_finish s w r).1]
theorem poison_finish (s : State) (w : Warp) (r : WRes) : (s.finish w r).poison = s.poison := by rw [(beside_finish s w r).1]

/-- What changes nothing of memory and of a block's near scratch and scale records keeps the canonical form. -/
theorem Beside.canonical {s t : State} (h : Beside s t) (c : s.Canonical) : t.Canonical := by
  obtain ⟨h1, h2⟩ := h
  refine ⟨by rw [h1]; exact c.1, fun p hp => ?_⟩
  have : Block.core4 p ∈ s.blocks.map Block.core4 := h2 ▸ List.mem_map_of_mem hp
  obtain ⟨q, hq, e⟩ := List.mem_map.1 this
  simp only [Block.core4, Prod.mk.injEq] at e
  obtain ⟨-, e1, e2, -⟩ := e
  rw [← e1, ← e2]
  exact c.2 q hq

/-! ### The operations on memory keep its canonical form -/

theorem canonical_of_blocks {s t : State} (c : s.Canonical) (hm : t.mem.wf = true) (hb : t.blocks = s.blocks) : t.Canonical := ⟨hm, hb ▸ c.2⟩

theorem mem_dirtySector (s : State) (a : Nat) : (s.dirtySector a).mem = s.mem ∧ (s.dirtySector a).blocks = s.blocks := by
  unfold dirtySector; split <;> exact ⟨rfl, rfl⟩

theorem mem_foldl_dirtySector (l : List Nat) (s : State) : (l.foldl dirtySector s).mem = s.mem ∧ (l.foldl dirtySector s).blocks = s.blocks := by
  induction l generalizing s with
  | nil => exact ⟨rfl, rfl⟩
  | cons a t ih => exact ⟨(ih _).1.trans (mem_dirtySector s a).1, (ih _).2.trans (mem_dirtySector s a).2⟩

theorem mem_physWrite (s : State) (a : Nat) (bs : List Byte) :
    (s.physWrite a bs).mem = ((List.range bs.length).zip bs).foldl (fun m p => Memory.write m (s.home (a + p.1)) p.2) s.mem := rfl

theorem wf_physWrite {s : State} (a : Nat) (bs : List Byte) (h : s.mem.wf = true) : (s.physWrite a bs).mem.wf = true := by
  rw [mem_physWrite]; exact Memory.wf_foldl_write _ (fun p : Nat × Byte => s.home (a + p.1)) (fun p => p.2) h

theorem blocks_physWrite (s : State) (a : Nat) (bs : List Byte) : (s.physWrite a bs).blocks = s.blocks := (mem_foldl_dirtySector _ s).2

/-- What a performed access does to others leaves memory and blocks alone. -/
theorem mem_others (l : List Nat) (who : Nat) (s : State) :
    (l.foldl (fun s l => (s.conflicts who l true).wakeMonitors who l) s).mem = s.mem ∧
    (l.foldl (fun s l => (s.conflicts who l true).wakeMonitors who l) s).blocks = s.blocks := by
  induction l generalizing s with
  | nil => exact ⟨rfl, rfl⟩
  | cons a t ih => exact ih _

theorem mem_readBy (s : State) (who a n : Nat) : (s.readBy who a n).mem = s.mem ∧ (s.readBy who a n).blocks = s.blocks := by
  have keep : ∀ (l : List Nat) (s : State), (l.foldl (fun s l => s.conflicts who l false) s).mem = s.mem ∧
      (l.foldl (fun s l => s.conflicts who l false) s).blocks = s.blocks := fun l => by
    induction l with
    | nil => exact fun _ => ⟨rfl, rfl⟩
    | cons a t ih => exact fun _ => ih _
  exact keep ..

theorem wf_nearWrite {s : State} (b a : Nat) (bs : List Byte) (h : s.Canonical) : (s.nearWrite b a bs).Canonical := by
  refine ⟨h.1, fun p hp => ?_⟩
  simp only [nearWrite, modBlock_blocks, tmod, List.mem_map] at hp
  obtain ⟨q, hq, rfl⟩ := hp
  split
  · exact ⟨Memory.wf_writeBytes _ _ (h.2 q hq).1, (h.2 q hq).2⟩
  · exact h.2 q hq

end State

end Sys2Proof.Machine
end

