-- ==== Sys2Proof/Tests/Slice0.lean ====
section
/-!
SUPPORT. Small tests: words the spec writes out and what they decode to, one ill-formed term for each check, a few single steps whose result the
spec gives, and for every obligation a state and operands that meet its hypotheses.
-/

namespace Sys2Proof.Tests

open Sys2Proof Sys2Proof.Machine

-- The checks of these theorems run one after another, each on its own.
set_option Elab.async false

/-! ## Operands -/

/-- Guard 0b0111 and the default hints (R40, R54). -/
def yes : Hdr := ⟨7, false, 0, false, true⟩
def never : Hdr := ⟨7, true, 0, false, true⟩
def nil : Src := ⟨.vec 0, 0, false⟩
def v (n : BitVec 8) : Src := ⟨.vec n, 0, false⟩
def s (n : BitVec 8) : Src := ⟨.scl n, 0, false⟩
def g (n : BitVec 8) : Src := ⟨.spc n, 0, false⟩
def k (n : BitVec 8) : Src := ⟨.imm n, 0, false⟩

/-- A form R word with no options. -/
def fr (d : Spec) (a b : Src) (x : BitVec 18 := 0) : FormR := ⟨yes, d, a, b, false, x⟩
def fm (d : Spec) (addr : Spec) (data : Src) (off : BitVec 18 := 0) (attr : BitVec 12 := 0) : FormM := ⟨yes, d, addr, attr, false, data, false, off⟩
def fc (a : Src) (ctl : BitVec 12 := 0) (disp : BitVec 28 := 0) : FormC := ⟨yes, noDst, a, ctl, disp⟩
def fi (d : Spec) (a : Src) (imm : BitVec 40) : FormI := ⟨yes, d, a, false, imm⟩

/-- The instruction that the three little-endian 32-bit parts of a Jarja word decode to. -/
noncomputable def jarja (a b c : Nat) : Option Instr := decodeTableWord 96 (a + 2 ^ 32 * b + 2 ^ 64 * c)
/-- The instruction that the two parts of a Seam word decode to. -/
noncomputable def seam (a b : Nat) : Option Instr := decodeTableWord 64 (a + 2 ^ 32 * b)

/-! ## Decoding: the spec's worked words -/

/-- Chapter 2: `?g3 fadd.f32 v3, v1.rot32.5, v2!`. -/
theorem test_decode_fadd : jarja 0x00806680 0x00004162 0x00000810 =
    some (.faddF32 ⟨⟨3, false, 0, false, true⟩, .vec 3, ⟨.vec 1, 0x0B1, false⟩, ⟨.vec 2, 0, true⟩, false, 0⟩) := by decide +kernel
/-- Chapter 3: a `split` on g1 with K 0 and NEG 1, and the words of program 1 (chapter 20). -/
theorem test_decode_split : jarja 0x00E00E08 0x04008001 0x00000800 = some (.split (fc (g 1) 8 4)) ∧
    jarja 0x01600E08 0x0080C001 0x00000800 = some (.split (fc (g 2) 1 6)) ∧ jarja 0x00600E09 0 0x00000800 = some (.arrive (fc nil)) ∧
    jarja 0x00600E07 0 0x00000800 = some (.nop (fc nil)) ∧ jarja 0x01E00E0E 0x0C000001 0x00000800 = some (.meld (fc (g 3) 0x018)) := by decide +kernel
/-- Chapters 4 and 22: `mred.x.f64.rz v40, v20` and `mred.x.f64 v16, v10`. -/
theorem test_decode_mred : jarja 0x0A050E27 0 0x00004800 = some (.mredXF64 (fr (.vec 40) (v 20) nil 1)) ∧
    jarja 0x05020E27 0 0x00000800 = some (.mredXF64 (fr (.vec 16) (v 10) nil)) := by decide +kernel
/-- Chapters 5 and 25: `loop lc0, 12` over two instructions, and `smovhi s4, s4, 2`. -/
theorem test_decode_scalar : jarja 0x86600E62 0x00006001 0x00000800 = some (.loop (fc (k 12) 0 3)) ∧
    jarja 0x82208E41 0x00004000 0x00000800 = some (.smovhi (fi (.scl 4) (s 4) 2)) := by decide +kernel
/-- Chapters 7 and 24: `ffma.f32.rz` with a swizzled B, `strd.v v20, st0` and `cvt.bf16.f32 v26, v24, 0, 0`. -/
theorem test_decode_vector : jarja 0x05814E83 0x35818000 0x01034800 =
      some (.ffmaF32 (fr (.vec 10) (v 11) ⟨.vec 12, 0x06B, false⟩ 0x40D)) ∧
    jarja 0x0C028E68 0x00000001 0x00000800 = some (.strdV (fr (.vec 20) (g 0x18) nil)) ∧
    jarja 0x0C034EC9 0 0x00004800 = some (.cvtBf16 (fr (.vec 26) (v 24) nil 1)) := by decide +kernel
/-- Chapters 8 and 22: `exadd.f64 xa2, v20` and `exaddm.f64 [v4 + 55296], v12`. -/
theorem test_decode_exact : jarja 0x0A444EE0 0 0x00000800 = some (.exaddF64 (fr (.spc 0x22) (v 20) nil)) ∧
    jarja 0x02600EEA 0x00018000 0x36000800 = some (.exaddmF64 (fm noDst (.vec 4) (v 12) 0xD800)) := by decide +kernel
/-- Chapters 9 and 21: `mma.bf16` with A kept, `mmas.e2m1` with its third source, `cvgo`. -/
theorem test_decode_matrix :
    jarja 0x00100F00 0x00210000 0x00000820 = some (.mmaBf16 ⟨yes, .vec 0x80, v 0, s 8, true, 0⟩) ∧
    jarja 0x08140F10 0x00210000 0x00424800 = some (.mmasE2m1 (fr (.vec 0xA0) (v 0x10) (s 8) 0x109)) ∧
    jarja 0x83600F13 0 0x00000800 = some (.cvgo (fr noDst (s 6) nil)) ∧
    jarja 0x00160F00 0x00256000 0x00000820 = some (.mmaBf16 ⟨yes, .vec 0xB0, v 0, s 0x2B, true, 0⟩) := by decide +kernel
/-- Chapters 10, 24, 25: `atom.add.ord.f32`, `st.u16`, `sld.u64`, `sst.u64`. -/
theorem test_decode_memory : jarja 0x83600F49 0x00012000 0x00200800 = some (.atomAddOrdF32 (fm noDst (.scl 6) (v 9) 0x80)) ∧
    jarja 0x16600F28 0x00038000 0x00100800 = some (.stU16 (fm noDst (.vec 0x2C) (v 0x1C) 0x40)) ∧
    jarja 0x82228F2D 0 0x00000800 = some (.sldU64 (fm (.scl 0x14) (.scl 4) nil)) ∧
    jarja 0x82E00F2F 0x00216000 0x00000800 = some (.sstU64 (fm noDst (.scl 5) (s 0xB))) ∧
    jarja 0x91246F2D 0x00000022 0x00000800 = some (.sldU64 (fm (.scl 0x23) (.scl 0x22) nil 0 0x011)) := by decide +kernel
/-- Chapters 11, 21, 23: `cpy`, `cpyt`, `cpyg` and `bbwt`. -/
theorem test_decode_copies : jarja 0x85600F60 0x00216000 0x05430800 = some (.cpy (fr noDst (s 0xA) (s 0xB) 0x150C)) ∧
    jarja 0x89600F62 0x00226000 0x05468800 = some (.cpyt (fr noDst (s 0x12) (s 0x13) 0x151A)) ∧
    jarja 0x0D600F63 0x00218000 0x00000800 = some (.cpyg (fm noDst (.vec 0x1A) (s 0xC))) ∧
    jarja 0x8B600F6B 0x00244000 0x00000800 = some (.bbwt (fm noDst (.scl 0x16) (s 0x22))) := by decide +kernel
/-- Chapters 12, 25: fences and `txbegin`. -/
theorem test_decode_fences : jarja 0x00600F73 0 0x00010800 = some (.fenceSc (fr noDst nil nil 4)) ∧
    jarja 0x00600F74 0x00012000 0x00000800 = some (.txbegin (fc nil 0 9)) ∧
    jarja 0x00600F72 0 0x00010800 = some (.fenceAr (fr noDst nil nil 4)) := by decide +kernel
/-- Chapters 14, 16, 17, 18, 23: `qpush`, `mwait s9`, `sysrd s5, 3`, `coll`, `?g2 kill`, `tret`. -/
theorem test_decode_system : jarja 0x82212F80 0x0020A000 0x00200800 = some (.qpush (fm (.scl 9) (.scl 4) (s 5) 0x80)) ∧
    jarja 0x84E00F92 0 0x00000800 = some (.mwait (fr noDst (s 9) nil)) ∧ jarja 0x0020AF93 0 0x0000C800 = some (.sysrd (fr (.scl 5) nil nil 3)) ∧
    jarja 0x82212F98 0 0x00000800 = some (.coll (fm (.scl 9) (.scl 4) nil)) ∧
    jarja 0x0060059C 0 0x00000800 = some (.kill ⟨⟨2, false, 0, false, true⟩, noDst, nil, nil, false, 0⟩) ∧
    jarja 0x00600F8D 0 0x00000800 = some (.tret (fr noDst nil nil)) := by decide +kernel
/-- Chapter 15: `rgnext x5, x5, 0`, `bgeu x5, x6` to eight instructions on, `vfmul.x z1, z1, x7`. -/
theorem test_decode_seam : seam 0x0000A50C 0 = some (.rgnext ⟨5, 5, 0, 0, 0, 0⟩) ∧ seam 0x1418A005 8 = some (.seamBranch ⟨0, 5, 6, 0, 5, 8⟩) ∧
    seam 0x081C211D 0 = some (.vfArithX ⟨1, 1, 7, 0, 2, 0⟩) := by decide +kernel

/-! ## Decoding: one ill-formed word for each check (R44, R385) -/

noncomputable def why (w : BitVec 96) : Option Illegal := match decodeJarja w with | .error e => some e | .ok _ => none
/-- `sadd s5, s3, s4`, the word the next tests spoil in one place each. -/
def good : FormR := fr (.scl 5) (s 3) (s 4)

theorem test_wf_good : why (packR 0x047 good) = none ∧ illegal (.sadd good) = none := by decide +kernel
theorem test_wf_opcode : why (packR 0x03F good) = some .opcode := by decide +kernel
theorem test_wf_reserved : why (packR 0x047 good ||| (1#96 <<< 76)) = some .reserved := by decide +kernel
theorem test_wf_unused : why (packC 0x007 (fc nil) ||| (1#96 <<< 68)) = some .unused ∧ why (packR 0x042 { good with b := s 4 }) = some .unused := by decide +kernel
theorem test_wf_operand : why (packR 0x047 { good with a := v 3 }) = some .operand := by decide +kernel
theorem test_wf_dest : why (packR 0x047 { good with dst := .vec 5 }) = some .dest := by decide +kernel
theorem test_wf_modifier : why (packR 0x080 { fr (.vec 3) ⟨.vec 1, 0x01D, false⟩ (v 2) with ru := false }) = some .modifier := by decide +kernel
theorem test_wf_policy : why (packR 0x047 { good with b := ⟨.imm 4, 0, true⟩ }) = some .policy := by decide +kernel
theorem test_wf_guard : why (packC 0x001 { fc nil with h := ⟨2, false, 0, false, true⟩ }) = some .guard := by decide +kernel
theorem test_wf_memAttr : why (packM 0x12D (fm (.scl 5) (.scl 4) nil 0 0x002)) = some .memAttr := by decide +kernel
theorem test_wf_option : why (packR 0x047 { good with x := 1 }) = some .option := by decide +kernel
theorem test_wf_length : (match decodeJarjaBytes [0, 1, 2] with | .error e => some e | .ok _ => none) = some .length := by decide +kernel
/-- Item 11 is a check of place: only a foreman executes `fmend`, and it executes no vector form. -/
theorem test_wf_place : placeOk false (.fmend (fr noDst nil nil)) = false ∧ placeOk true (.faddF32 (fr (.vec 1) (v 2) (v 3))) = false := by decide +kernel
/-- A Seam destination predicate k0, and an unused field (R385). -/
theorem test_wf_seam : (seam 0x00000012 0).isNone = true ∧ (seam 0x0000A511 0).isNone = true := by decide +kernel

/-! ## States the witnesses use -/

/-- Context 0 resident, one block of one warp on core 0 (log entry 8); `run w` is that machine with the warp `w` in its place. -/
def dev : State := State.reset.setupContext
def allL : LaneMask := BitVec.allOnes 96
def one : State := dev.setupBlock false
def run (w : Warp) : State := one.putWarp w
/-- The warp a launch leaves, with addresses of mapped pages in s4 and in v4–v5 (lane `l`: 0x10000 + 64 l) and small numbers in s2, s3. -/
def wd : Warp := one.curWarp.getD {}
def wa : Warp := ((((wd.sput 0 4 0x10000).sput 0 2 2).sput 0 3 3).vput 0 4 allL ((List.range 96).map fun l => BitVec.ofNat 32 (0x10000 + 64 * l))).vput 0 5
  allL (List.replicate 96 0)
/-- A pod of two members with common group 0 (v0–v7). -/
def wp : Warp := { wa with p := 2, mm := 3, common := 1, banks := [wa.bank 0, { wa.bank 0 with num := 1, midx := 1 }] }
/-- Lanes 0–31 of g1. -/
def wg : Warp := wa.gput 0 1 allL 0xFFFFFFFF

theorem cur_run {w : Warp} (h : w.key = 0 ∧ w.ended = false ∧ w.st = .act) : (run w).curWarp = some w := by
  have e : one.cur = some (.warp 0 0) := by decide +kernel
  have k := State.warp?_putWarp_same one w
  rw [h.1] at k
  simp only [run, State.curWarp, State.putWarp_cur, e, agentKey, warpKey]
  simp only [Nat.zero_mul, Nat.add_zero, k, h.2.1, h.2.2]; rfl

/-! ## The scalar family -/

/-- Two scalar sources, of a divisor 0 and of −2⁶³ over −1 too, and a per-member destination read from per-member sources. -/
theorem witness_ScalarIntegerForms :
    let f := fr (.scl 5) (s 3) (s 4)
    let m := fr (.scl 0x85) (s 0x83) (s 4)
    (run wa).curWarp = some wa ∧ wa.Clear f.h (wa.needs [(f.a, 1), (f.b, 1)] ++ wa.needsDst 1 f.dst) false (f.dst.num < 128 && wa.anyPrivate [f.a, f.b]) ∧
    wa.Clear m.h (wa.needs [(m.a, 1), (m.b, 1)] ++ wa.needsDst 1 m.dst) false (m.dst.num < 128 && wa.anyPrivate [m.a, m.b]) ∧ wa.scl 0 (s 9) = 0 := by
  unfold Warp.Clear; decide +kernel
/-- A field that ends at bit 63, and the vector forms of the family. -/
theorem witness_ScalarFieldsMovesAndAddresses :
    let f := fr (.scl 5) (s 3) (s 4) 0x13C
    let b := fr (.vec 8) (s 3) (v 4)
    let e := fr (.scl 0x85) (v 4) (s 3)
    (run wa).curWarp = some wa ∧ (f.x.extractLsb' 0 6).toNat + (f.x.extractLsb' 6 7).toNat = 64 ∧ isStream f.a.spec = false ∧
    wa.Clear f.h (wa.needs [(f.a, 1), (f.b, 1), (plainSrc (xSpec 0x100), 1)] ++ wa.needsDst 1 f.dst) false
      (f.dst.num < 128 && wa.anyPrivate [f.a, f.b]) ∧
    wa.Clear b.h (wa.needs [(b.a, 1), (b.b, 1)] ++ wa.needsDst 2 b.dst) (wa.misfits [(b.a, 1), (b.b, 1)] || wa.misfit 2 b.dst)
      (wa.commonV (wa.xlat b.dst.num) && wa.anyPrivate [b.a, b.b]) ∧
    wa.Clear e.h (wa.needsPicked e.a ++ wa.needs [(e.b, 1)] ++ wa.needsDst 1 e.dst) false (e.dst.num < 128 && wa.anyPrivate [e.a, e.b]) ∧ (wa.scl 0 e.b).toNat < 96 ∧
    wa.badAt 0 e.a.spec (Warp.modLane e.a.mod 3) = false := by
  unfold Warp.Clear; decide +kernel

/-! ## The vector family -/

/-- Three sources of one register and of two, a per-member destination, no injected error; a common destination with common sources. -/
theorem witness_FloatForms :
    let f := fr (.vec 0x0E) (v 8) (v 0x0A) 0x00C
    (run wp).curWarp = some wp ∧ wp.injected f.h = none ∧
    (∀ k ∈ [1, 2], let os : List Warp.Operand := [(f.a, k), (f.b, k), (plainSrc (xSpec f.x), k)]; wp.Clear f.h (wp.needs os ++ wp.needsDst k f.dst) (wp.misfits os || wp.misfit k f.dst)
        (wp.commonV (wp.xlat f.dst.num) && wp.anyPrivate (os.map (·.1)))) ∧
    (let os : List Warp.Operand := [(v 2, 1), (v 3, 1)]; wp.Clear yes (wp.needs os ++ wp.needsDst 1 (.vec 1)) (wp.misfits os || wp.misfit 1 (.vec 1)) (wp.commonV (wp.xlat 1) && wp.anyPrivate (os.map (·.1)))) := by
  unfold Warp.Clear; decide +kernel
theorem witness_FloatTestsAndReductions :
    let f := fr (.spc 2) (v 8) (v 0x0A)
    (run wp).curWarp = some wp ∧ wp.injected f.h = none ∧ wp.Clear f.h (wp.needs [(f.a, 2), (f.b, 2)]) (wp.misfits [(f.a, 2), (f.b, 2)]) false ∧
    wp.Clear f.h (wp.needs [(f.a, 2)] ++ wp.needsDst 2 (.vec 0x0C)) (wp.misfits [(f.a, 2)] || wp.misfit 2 (.vec 0x0C))
      (wp.commonV (wp.xlat 0x0C) && wp.anyPrivate [f.a]) := by
  unfold Warp.Clear; decide +kernel
theorem witness_PackedAndDotForms :
    let f := fr (.vec 0x0E) (v 8) (v 0x0A) 0x00C
    let os : List Warp.Operand := [(f.a, 1), (f.b, 1), (plainSrc (xSpec f.x), 1)]
    (run wp).curWarp = some wp ∧ wp.injected f.h = none ∧ wp.Clear f.h (wp.needs os ++ wp.needsDst 1 f.dst) (wp.misfits os || wp.misfit 1 f.dst)
      (wp.commonV (wp.xlat f.dst.num) && wp.anyPrivate (os.map (·.1))) := by
  unfold Warp.Clear; decide +kernel
/-- As above, with two registers, and a field that ends at bit 31. -/
theorem witness_VectorIntegerForms :
    let f := fr (.vec 0x0E) (v 8) (v 0x0A) 0x21C
    let os : List Warp.Operand := [(f.a, 2), (f.b, 2)]
    (run wp).curWarp = some wp ∧ wp.injected f.h = none ∧ wp.Clear f.h (wp.needs os ++ wp.needsDst 2 f.dst) (wp.misfits os || wp.misfit 2 f.dst)
      (wp.commonV (wp.xlat f.dst.num) && wp.anyPrivate (os.map (·.1))) ∧ wp.Clear f.h (wp.needs [(f.a, 1), (f.b, 1)]) (wp.misfits [(f.a, 1), (f.b, 1)]) false ∧
    (f.x.extractLsb' 0 5).toNat + (f.x.extractLsb' 5 6).toNat ≤ 44 ∧ ((0x09C : BitVec 18).extractLsb' 0 5).toNat + ((0x09C : BitVec 18).extractLsb' 5 6).toNat = 32 := by
  unfold Warp.Clear; decide +kernel
/-- `vsel` by g1, and `cvt.e4m3` of an FP64 source, rounded stochastically, into element 3. -/
theorem witness_SelectMoveConvert :
    let f := fr (.vec 0x0E) (v 8) (v 0x0A) 0x201
    let c := fr (.vec 0x0E) (v 8) (s 3) 0x1180
    let os : List Warp.Operand := [(f.a, 1), (f.b, 1), (plainSrc (xSpec f.x), 1)]
    let oc : List Warp.Operand := [(c.a, 2), (c.b, 1), (plainSrc c.dst, 1)]
    (run wp).curWarp = some wp ∧ wp.injected f.h = none ∧ wp.Clear f.h (wp.needs os ++ wp.needsDst 1 f.dst) (wp.misfits (os.take 2) || wp.misfit 1 f.dst)
      (wp.commonV (wp.xlat f.dst.num) && wp.anyPrivate [f.a, f.b]) ∧ wp.Clear f.h (wp.needs os ++ wp.needsDst 1 (.vec 1)) (wp.misfits (os.take 2) || wp.misfit 1 (.vec 1))
      (wp.commonV (wp.xlat 1) && wp.anyPrivate [v 2, v 3]) ∧ (cvtFormat 4).bits = 8 ∧ (roundingOf c).mode = 4 ∧
    wp.Clear c.h (wp.needs oc ++ wp.needsDst 1 c.dst) (wp.misfits oc || wp.misfit 1 c.dst)
      (wp.commonV (wp.xlat c.dst.num) && wp.anyPrivate (oc.map (·.1))) := by
  unfold Warp.Clear; decide +kernel
theorem witness_SpecialFunctions :
    let f := fr (.vec 0x0E) (v 8) (v 0x0A)
    (run wp).curWarp = some wp ∧ wp.injected f.h = none ∧
    (∀ k ∈ [1, 2], ∀ os ∈ ([[(f.a, k)], [(f.a, k), (f.b, k)]] : List (List Warp.Operand)),
      wp.Clear f.h (wp.needs os ++ wp.needsDst k f.dst) (wp.misfits os || wp.misfit k f.dst)
        (wp.commonV (wp.xlat f.dst.num) && wp.anyPrivate (os.map (·.1)))) := by
  unfold Warp.Clear; decide +kernel
/-- An exact multiple, a tie, a value just below a multiple; a NaN, infinities of both signs, a zero and an infinity, zeros of both signs. -/
theorem witness_FloatArithmetic :
    (roundMag Fmt.f32 0 0 false 3 0 false).2 ≤ 0 ∧ 0 < (roundMag Fmt.f32 0 0 false 0x2000001 0 false).2 ∧
    0x2000001 % 2 ^ ((roundMag Fmt.f32 0 0 false 0x2000001 0 false).2 - 0).toNat ≠ 0 ∧ 0 < (roundMag Fmt.f32 3 0 true 0x2000003 0 false).2 ∧
    0x2000003 % 2 ^ ((roundMag Fmt.f32 3 0 true 0x2000003 0 false).2 - 0).toNat ≠ 0 ∧
    (Fmt.f32.decode 0x7F800001).isNan = true ∧ (Fmt.f32.decode 0).isNan = false ∧ Fmt.f32.decode 0x7F800000 = .inf false ∧
    Fmt.f32.decode 0xFF800000 = .inf true ∧ Fmt.f32.decode 0 = .fin false 0 (-149) ∧ Fmt.f32.decode 0x80000000 = .fin true 0 (-149) := by
  decide +kernel
/-- Stochastic rounding that is exact, goes down, goes up; a subnormal and a normal value, and one beyond the largest. -/
theorem witness_FloatArithmetic_encoding :
    (roundMag Fmt.f32 4 0 false 3 0 false).2 ≤ 0 ∧ 0 < (roundMag Fmt.f32 4 0 false 0x2000002 0 false).2 ∧
    (0x2000002 : Nat) % 2 ^ ((roundMag Fmt.f32 4 0 false 0x2000002 0 false).2 - 0).toNat ≠ 0 ∧
    roundMag Fmt.f32 4 0 false 0x2000002 0 false = (0x800000, 2) ∧ roundMag Fmt.f32 4 0xFFFFFF false 0x2000002 0 false = (0x800001, 2) ∧
    Fmt.f32.decode Fmt.f32.maxBits = .fin false 0xFFFFFF 104 ∧ (5 : Nat) * 2 ^ (Fmt.f32.emin - Fmt.f32.emin).toNat ≤ 0xFFFFFF * 2 ^ (104 - Fmt.f32.emin).toNat ∧
    0xFFFFFF * 2 ^ (104 - Fmt.f32.emin).toNat < 0x1000000 * 2 ^ (104 - Fmt.f32.emin).toNat ∧ Fmt.f32.emin = -149 := by
  decide +kernel

/-! ## Control, lanes and members -/

/-- Each side condition of the branches, of the last live lane's exit and of an exit that leaves lanes behind. -/
theorem witness_BranchAndExitForms :
    let f := fc (s 9) 1 5
    let h0 := { f with ctl := 0 }
    (run wa).curWarp = some wa ∧ Warp.never f.h = false ∧ Warp.never never = true ∧ wa.Clear f.h (wa.needs [(f.a, 1)] ++ wa.needsDst 1 (.scl 5)) false false ∧
    (f.ctl.getLsbD 0 = true ↔ wa.scl 0 f.a = 0) ∧ (h0.ctl.getLsbD 0 = true ↔ wa.scl 0 h0.a ≠ 0) ∧
    (let w := wa.eachActive fun _ b => b.setEm 0; (run w).curWarp = some w ∧ ∀ m ∈ w.active, (w.bank m).em &&& (w.bank m).live = 0) ∧
    (∃ m ∈ wa.active, (wa.bank m).em &&& (wa.bank m).live ≠ 0) ∧ (wa.scl 0 (s 4)).toNat % 4 = 0 ∧ (wa.scl 0 (s 2)).toNat % 4 ≠ 0 ∧ wa.tx = none ∧
    (let w := wg.eachActive fun m b => b.exit (wg.part { yes with gp := 1 } m); w.pathAlive = true) ∧
    (let w := wa.eachActive fun m b => b.exit (wa.part yes m); w.pathAlive = false ∧ (run wa).endBusy wa w.endPath = false) := by
  unfold Warp.Clear; decide +kernel
def wFull : Warp := { wg with paths := (List.range 64).map fun i => ⟨.deferred, 0, [], i⟩ }
def wBusy : Warp := { wg with jmBusy := 1 }
def wLast : Warp := { wBusy with banks := [{ wg.bank 0 with jmMask := [(0, 0xFF)], jmArr := [(0, 0xFF)] }] }
def wEarly : Warp := { wBusy with banks := [{ wg.bank 0 with jmMask := [(0, allL)] }], paths := [⟨.deferred, 0x400000, [allL], 0⟩] }
def leave (w : Warp) (neg : Bool) : List LaneMask :=
  w.slots.map fun m => if w.mm.getLsbD m then ((w.bank m).em &&& (w.bank m).live) &&& (if neg then ~~~(w.gmask m 1) else w.gmask m 1) else 0
def stay (w : Warp) (neg : Bool) : List LaneMask :=
  w.slots.map fun m => ((w.bank m).em &&& (w.bank m).live) &&& ~~~(if neg then ~~~(w.gmask m 1) else w.gmask m 1)
/-- `split` on g1: some lanes go and some stay, none goes, all go, a full table, a busy register. -/
theorem witness_PathForms :
    ((run wg).curWarp = some wg ∧ wg.tx = none ∧ wg.Clear yes (wg.needs [(g 1, 1)]) false false ∧ wg.jmBusy.getLsbD 0 = false ∧ wg.paths.length < 64 ∧
      (leave wg true).any (· != 0) = true ∧ (stay wg true).any (· != 0) = true) ∧ (leave wa false).all (· == 0) = true ∧
    ((leave wa true).any (· != 0) = true ∧ (stay wa true).all (· == 0) = true) ∧ ((run wFull).curWarp = some wFull ∧ 64 ≤ wFull.paths.length) ∧
    ((run wBusy).curWarp = some wBusy ∧ wBusy.jmBusy.getLsbD 0 = true) := by
  unfold Warp.Clear; decide +kernel
/-- `join`: complete, and not complete with another path to go to. -/
theorem witness_PathForms_join : (run wLast).curWarp = some wLast ∧ wLast.joinComplete (.parkedJm 0) wLast.ems = true ∧ wLast.log = [] ∧
    (run wEarly).curWarp = some wEarly ∧ wEarly.joinComplete (.parkedJm 0) wEarly.ems = false ∧ wEarly.paths.length < 64 ∧
    (run wEarly).endBusy wEarly (wEarly.park (.parkedJm 0)) = false := by decide +kernel
/-- A block of one `nop` before `unmeld`, and one of another word; `unmeld` in an open block and outside one. -/
theorem witness_MeldForms :
    let f := fc (g 1) 0x008
    let at' := fun (w1 w2 : BitVec 96) => ({ run wa with mem := (run wa).mem.writeBytes 0x40000C (leBytes 12 w1.toNat ++ leBytes 12 w2.toNat) } : State)
    let nop := packC 0x007 (fc nil)
    let un := packC 0x00F (fc nil)
    (at' nop un).curWarp = some wa ∧ wa.tx = none ∧ Warp.never f.h = false ∧ (∀ e ∈ wa.log, e.acc ≠ .tableLoad) ∧ wa.meld.opened = false ∧
    ((at' nop un).fetchBlock wa ((f.ctl.extractLsb' 4 6).toNat + 1)).toOption = some [nop, un] ∧ wordOpc un = 0x00F ∧ badInBlock wa.pc (wa.pc + 12) 1 nop = false ∧
    ((at' un nop).fetchBlock wa ((f.ctl.extractLsb' 4 6).toNat + 1)).toOption = some [un, nop] ∧ wordOpc nop ≠ 0x00F ∧ wa.log = [] ∧
    (let w : Warp := { wa with meld := { opened := true, serial := true, n := 1 } }; (run w).curWarp = some w) ∧
    (let w : Warp := { wa with meld := { opened := true, serial := false, n := 1 } }; (run w).curWarp = some w ∧ (run w).endBusy w w.meldAdvance = false) ∧
    (let w : Warp := { wa with pc := 0x100010000 }; (run w).curWarp = some w ∧ ((run w).fetchBlock w 2).toOption.isNone = true) ∧
    (let f := fr (.vec 0x0E) nil nil; wa.Clear f.h (wa.needsDst 1 f.dst) false (wa.commonV (wa.xlat f.dst.num) && true)) := by
  unfold Warp.Clear; decide +kernel
theorem witness_LaneForms :
    let f := fr (.vec 0x0E) (v 8) (v 4) 0x00C
    let os : List Warp.Operand := [(f.a, 1), (f.b, 1), (plainSrc (xSpec f.x), 1)]
    let q := fr (.scl 0x85) (g 1) nil
    (run wg).curWarp = some wg ∧ wg.Clear f.h (wg.needs os ++ wg.needsDst 1 f.dst) (wg.misfits os || wg.misfit 1 f.dst)
      (wg.commonV (wg.xlat f.dst.num) && wg.anyPrivate (os.map (·.1))) ∧ wg.Clear q.h (wg.needs [(q.a, 1)]) (wg.misfits [(q.a, 1)]) false ∧
    wg.Clear q.h (wg.needs [(q.a, 1)] ++ wg.needsDst 1 q.dst) false (q.dst.num < 128 && (true || wg.anyPrivate [q.a])) := by
  unfold Warp.Clear; decide +kernel
/-- A pod of two: the forms that read `mm`, write it, and combine the members; a member number below, at and above the pod's size. -/
theorem witness_MemberForms :
    let f := fr (.vec 0x0E) (v 0x0A) (s 2)
    (run wp).curWarp = some wp ∧ wp.Clear yes (wp.needs [(s 2, 1)] ++ wp.needsDst 1 (.scl 5)) false false ∧
    wp.Clear yes (wp.needsDst 1 (.scl 0x85)) false ((Spec.scl 0x85).num < 128 && true) ∧
    (∀ k ∈ [1, 2], wp.Clear f.h (wp.needs [(f.a, k)] ++ wp.needsDst k f.dst) (wp.misfits [(f.a, k)] || wp.misfit k f.dst) false) ∧
    wp.Clear f.h (wp.needs [(f.a, 1), (f.b, 1)] ++ wp.needsDst 1 f.dst) (wp.misfits [(f.a, 1), (f.b, 1)] || wp.misfit 1 f.dst)
      (wp.commonV (wp.xlat f.dst.num) && !wp.common? f.b.spec) ∧ (wp.scl 0 (s 2)).toNat = wp.p ∧ (wp.scl 0 (s 9)).toNat < wp.p := by
  unfold Warp.Clear; decide +kernel
/-- A crew of one regroups at once; beside a second warp that has not come, it waits. -/
theorem witness_RegroupForm :
    let f := fr noDst (s 2) nil
    let w1 : Warp := { wp with rdv := some (.regrp (wp.slots.map fun m => (wp.scl m f.a).extractLsb' 0 32)), st := .wait, waitOn := some .rendezvous }
    let s1 := (run wp).putWarp w1
    let a : Warp := { wp with info := { wp.info with crew := 2 } }
    let b : Warp := { a with slot := 1, info := { a.info with pos := 1 } }
    let t := (run a).putWarp b
    let a1 : Warp := { w1 with info := a.info }
    (run wp).curWarp = some wp ∧ wp.tx = none ∧ Warp.never f.h = false ∧ wp.Clear f.h (wp.needs [(f.a, 1)]) false false ∧ wp.log = [] ∧ (run wp).mxOf wp = [] ∧
    (s1.rendezvous w1 fun x => isRegrp x.rdv) = true ∧ ((s1.regroupCrew w1).warp? wp.key).isSome = true ∧
    t.curWarp = some a ∧ ((t.putWarp a1).rendezvous a1 fun x => isRegrp x.rdv) = false := by
  unfold Warp.Clear; decide +kernel

/-- What `exec` answers, where it answers a next state. -/
noncomputable def after (i : Instr) (st : State) : State := match exec i st with
  | .next t => t
  | _ => st
def curW (st : State) : Warp := st.curWarp.getD {}
/-- The first entry of a warp's operand log, and its first part. -/
def ent (w : Warp) : LogEntry := w.log.head?.getD { idx := 0, word := 0, pc := 0, seq := 0, sup := false, acc := .zero, parts := [] }
def part0 (w : Warp) : Part := (ent w).parts.head?.getD { slot := 0, lane := 0, addr := 0 }
def blk0 (st : State) : Block := (st.block? 0).getD { node := 0, ctx := 0, b := 0, core := 0 }

/-- A loop over one instruction, nested in one whose body ends before it does, and its counter at 0, at 1 and with an iteration left. -/
def wLoop (n : BitVec 32) (i : BitVec 32) : Warp :=
  { wa with loopDue := true, lc := lset wa.lc 0 { active := true, index := i, count := n, start := wa.pc - 12, stop := wa.pc } }
theorem witness_IdentifierTestAndLoopForms :
    let d := fr (.scl 5) (s 3) nil 5
    let f := fc (s 3) 0 2
    (run wa).curWarp = some wa ∧ wa.Clear d.h (wa.needsDst 1 d.dst) false (d.dst.num < 128 && decide (d.x.toNat = wa.info.mfld)) ∧ d.x.toNat ≤ 5 ∧
    wa.Clear yes (wa.needsDst 1 (.scl 0x85)) false (Warp.anyPrivate wa [] || (Spec.scl 0x85).num < 128) ∧
    wa.Clear yes (wa.needsDst 1 (.vec 8)) (wa.misfits [] || wa.misfit 1 (.vec 8)) (wa.commonV (wa.xlat 8) && true) ∧
    wa.outOfRange (wa.needsOf 1 (s 3)) = false ∧ wa.firstEmpty (wa.needsOf 1 (s 3)) = none ∧ wa.tx = none ∧
    (let w := wa.setEmpty 0 true (.s 3); (run w).curWarp = some w ∧ (w.firstEmpty (w.needsOf 1 (s 3))).isSome = true) ∧
    wa.Clear f.h (wa.needs [(f.a, 1)]) false false ∧ f.disp.toInt - 1 = 1 ∧ ((257 : BitVec 28).toInt - 1 = 256) ∧ (wa.scl 0 (s 3)).extractLsb' 0 32 ≠ 0 ∧
    (wa.scl 0 (s 9)).extractLsb' 0 32 = 0 ∧
    (run (wLoop 3 1)).warp? 0 = some (wLoop 3 1) ∧ (wLoop 3 1).innerLoop = some 0 ∧ (wLoop 3 1).splitSince 0 = false ∧
    (run (wLoop 2 1)).warp? 0 = some (wLoop 2 1) ∧ (wLoop 2 1).innerLoop = some 0 ∧
    Warp.innerLoop { wLoop 2 1 with lc := lset (wLoop 2 1).lc 0 { (wLoop 2 1).lc.getD 0 {} with index := 2, active := false } } = none ∧
    (let w : Warp := { wLoop 3 1 with nextAge := 1, paths := [⟨.deferred, 0, [], 0⟩] }; w.innerLoop = some 0 ∧ w.splitSince 0 = true) := by
  unfold Warp.Clear; decide +kernel

/-- st0 bound to eight 4-byte elements at 0x10000 that are read one by one: scalar or vector, read or written, at position `p`. -/
def wStream (vec wr : Bool) (p : Nat) : Warp :=
  { wa with st8 := lset wa.st8 0 { bound := true, pos := p, exhausted := p == 8, entry := 0x10000#512 ||| 4#512 <<< 64 ||| 8#512 <<< 256 ||| 1#512 <<< 288 ||| 1#512 <<< 320 |||
      (if wr then 1#512 <<< 355 else 0) ||| (if vec then 1#512 <<< 354 else 0) } }
theorem witness_StreamForms_fields : ((wStream false false 0).st8.getD 0 {}).addr 1 = 0x10004 ∧ ((wStream false false 0).st8.getD 0 {}).total = 8 ∧
    ((wStream true true 0).st8.getD 0 {}).isWrite = true ∧ ((wStream true true 0).st8.getD 0 {}).isVector = true := by decide +kernel
theorem witness_StreamForms :
    let r := wStream false false 7
    let w := wStream false true 7
    let e := wStream false false 8
    (run r).curWarp = some r ∧ (r.st8.getD 0 {}).cause false false = none ∧ r.Clear yes (r.needsDst 1 (.scl 5)) false false ∧
    ((r.st8.getD 0 {}).addr 7).toNat % (r.st8.getD 0 {}).size = 0 ∧ (run r).window r.ctx ((r.st8.getD 0 {}).addr 7) = none ∧ r.active ≠ [] ∧
    r.freeEntry = some 0 ∧ isStream (.spc 0x18) = true ∧ isStream (.scl 3) = false ∧
    (run w).curWarp = some w ∧ (w.st8.getD 0 {}).cause true false = none ∧ w.Clear yes (w.needs [(s 3, 1)]) false false ∧
    (run e).curWarp = some e ∧ (e.st8.getD 0 {}).cause false false = some 4 ∧ (wa.st8.getD 0 {}).bound = false ∧
    ((wStream true false 0).st8.getD 0 {}).cause false true = none ∧ ((wStream true true 0).st8.getD 0 {}).cause true true = none ∧
    (wa.st8.getD 0 {}).cause false true = some 0 ∧ (r.st8.getD 0 {}).ready < 16 ∧
    (r.st8.getD 0 {}).pos + (r.st8.getD 0 {}).ready < (r.st8.getD 0 {}).total ∧
    ((run r).pageLocate r.ctx ((r.st8.getD 0 {}).addr 7) 0 4 .read r.sup r.core).toOption.isSome = true ∧ (run r).windowIn r.ctx ((r.st8.getD 0 {}).addr 7) 4 = false ∧
    (run r).replicas = [] ∧ (run r).advancesDue 0 r.ctx = [] ∧ (run r).poison = [] := by
  unfold Warp.Clear; decide +kernel
/-- An element fetched ahead, of a scalar and of a vector stream: nothing the warp has issued comes before its use, and an acquire that is not complete does. -/
theorem witness_StreamForms_ahead :
    let fetched := fun (w : Warp) (n : Nat) => ({ w with st8 := lset w.st8 0 { w.st8.getD 0 {} with ready := 1, ahead := [(0x10000, List.replicate n 1)] } } : Warp)
    let r := fetched (wStream false false 0) 4
    let x := fetched (wStream true false 0) 384
    let after := fun (w : Warp) => ({ w with fences := [{ pos := 0, acq := true }], log := [{ ent w with seq := 0, acc := .load 4 false, parts := [part0 w] }] } : Warp)
    let e := r.entryFor 0 0 { acc := .sload 4, size := 4, dst := .scl 5 } true 1 [] [{ slot := 0, lane := 96, addr := 0x10000 }]
    let ps := lanePartsOf x yes false (fun _ l => 0x10000#64 + BitVec.ofNat 64 (4 * l)) fun _ _ => 0
    let e' := x.entryFor 0 0 { acc := .load 4 false, size := 4, dst := .vec 8 } true 1 [] ps
    (run r).curWarp = some r ∧ (r.st8.getD 0 {}).cause false false = none ∧ r.freeEntry = some 0 ∧ (e.parts.all fun p => (run r).inOrder (r.logEntry e) e p) = true ∧
    (run (after r)).curWarp = some (after r) ∧ (e.parts.all fun p => (run (after r)).inOrder ((after r).logEntry e) { e with seq := 1 } p) = false ∧
    (run x).curWarp = some x ∧ (x.st8.getD 0 {}).cause false true = none ∧ x.Clear yes (x.needsDst 1 (.vec 8)) (x.misfit 1 (.vec 8)) false ∧ ps ≠ [] ∧
    (ps.all fun p => p.addr.toNat % 4 == 0 && ((run x).window x.ctx p.addr).isNone) = true ∧ (ps.all fun p => (run x).inOrder (x.logEntry e') e' p) = true := by
  unfold Warp.Clear; decide +kernel
def fBind : FormM := fm (.spc 0x18) (.scl 4) nil
noncomputable def wBound (bs : List Byte) : Warp :=
  let w := curW (after (.stbind fBind) (run wa))
  { w with st := .act, waitOn := none, log := w.log.map fun e => { e with blob := bs } }
/-- `stbind` as it issues, and when its entry has been read: a valid one and one with a count of 0. -/
theorem witness_StreamForms_bind :
    let good := wBound (leBytes 64 (0x10000 + 2 ^ 64 * 4 + 2 ^ 256 * 8 + 2 ^ 288 + 2 ^ 320))
    isStream fBind.dst = true ∧ wa.Clear fBind.h (wa.needs [(⟨fBind.addr, 0, fBind.fa⟩, 1)]) false (!wa.common? fBind.addr) ∧
    (∀ m ∈ wa.active, (wa.ea fBind.addr fBind.off m 0).toNat % 64 = 0 ∧ (run wa).window wa.ctx (wa.ea fBind.addr fBind.off m 0) = none) ∧
    (run good).curWarp = some good ∧ good.log.find? (fun e => e.acc = .bind 0 && e.pc = good.pc && e.sup = good.sup) = some (ent good) ∧
    64 ≤ (ent good).blob.length ∧ (let t : Stream := { bound := true, entry := BitVec.ofNat 512 (leNat (ent good).blob) }; t.count 0 * t.count 1 * t.count 2 = 8) ∧
    (let t : Stream := { bound := true, entry := BitVec.ofNat 512 (leNat (List.replicate 64 0)) }; t.count 0 * t.count 1 * t.count 2 = 0) := by
  unfold Warp.Clear; decide +kernel

/-- A warp launched with a maximum of 64 registers: a request at the maximum that is granted, one beyond it that traps, one of a crew of two that waits. -/
theorem witness_RegisterBlocks :
    let w1 : Warp := { wa with rdv := some (.regs 64), st := .wait, waitOn := some .registers, reqOrder := (run wa).rdyOrder, waitSince := (run wa).coreCycle 0 }
    let s1 : State := { (run wa).putWarp w1 with rdyOrder := (run wa).rdyOrder + 1 }
    let a : Warp := { wa with info := { wa.info with crew := 2 }, hmax := 96 }
    let b : Warp := { a with slot := 1, info := { a.info with pos := 1 } }
    let a1 : Warp := { a with rdv := some (.regs 96), st := .wait, waitOn := some .registers }
    wa.hmax = 64 ∧ (run wa).curWarp = some wa ∧ wa.log = [] ∧ wa.rdv = none ∧ wa.tx = none ∧ (s1.grantRegs w1).isSome = true ∧ s1.crewAsked w1 = true ∧
    wa.hmax < (fi noDst nil 96).imm.toNat ∧ ((((run a).putWarp b).putWarp a1).grantRegs a1).isNone = true ∧
    (((run a).putWarp b).putWarp a1).crewAsked a1 = false ∧ w1.core = 0 ∧ w1.lead = none ∧ ({ wa with hmax := 32 } : Warp).hmax < 64 ∧
    (∀ p ∈ (run wa).warps, (run wa).crewAsked p.2 = false) ∧ (∀ p ∈ s1.warps, p.2 = w1) := by decide +kernel

/-- An exact accumulator with flags, its cell and its window. -/
theorem witness_ExactForms :
    let f := fr (.spc 0x20) (v 8) (v 0x0A)
    let os : List Warp.Operand := [(f.a, 2), (f.b, 2)]
    (run wa).curWarp = some wa ∧ wa.Clear f.h (wa.needs os ++ wa.needsDst 1 f.dst) (wa.misfits os || wa.misfit 1 f.dst) false ∧
    wa.Clear f.h (wa.needs [(g 0x21, 1)] ++ wa.needsDst 1 f.dst) false false ∧ wa.Clear f.h (wa.needs [(g 0x21, 1)] ++ wa.needsDst 1 (.scl 5)) false
      ((Spec.scl 5).num < 128 && (false || wa.anyPrivate [g 0x21])) ∧ (mulVal (.fin false 1 (-1074)) (.fin false 1 (-1074))) = .fin false 1 (-2148) ∧
    (Val.isNan (Fmt.f64.decode 0x7FF0000000000001) = true) ∧ ({ v := 5, st := 0x20001 } : Exact).st.extractLsb' 4 12 = 0 := by
  unfold Warp.Clear; decide +kernel

/-! ## Memory accesses as they issue -/

/-! ## Accesses being performed -/

/-- A shared location: lanes 0 and 1 both at 0x10000. -/
def wSame : Warp := wa.vput 0 4 3 [0x10000, 0x10000]
noncomputable def sAtom : State := after (.atomAddU32 { fm noDst (.vec 4) (v 8) with h := { yes with gp := 1 } }) (run (wSame.gput 0 1 allL 3))
noncomputable def sOrd : State := after (.atomAddOrdF32 { fm noDst (.vec 4) (v 8) with h := { yes with gp := 1 } }) (run (wa.gput 0 1 allL 1))
noncomputable def sRel : State := after (.ordrel (fm (.scl 0x85) (.scl 0x84) nil)) (run (wa.sput 0 0x84 0x10000))

/-- Per-lane and once-a-member forms: every lane at an aligned address; a misaligned lane; near scratch at its last word and beyond it; a full log;
`exstw` and `exldw`. -/
theorem witness_LoadStoreAndWindowForms :
    let f := fm (.vec 8) (.vec 4) (v 8)
    let os : List Warp.Operand := [Warp.addrOperand f, (f.data, 4)]
    let u := fm (.scl 5) (.scl 4) (s 3)
    let uo : List Warp.Operand := [(⟨u.addr, 0, u.fa⟩, 1), (u.data, 1)]
    let x := fm (.spc 0x20) (.scl 4) nil
    let xs := fm (.scl 5) (.scl 4) (g 0x20)
    let lane := fun (a : Lane32) => (wa.vput 0 4 allL (List.replicate 96 0)).vput 0 4 1 [a]
    let full : Warp := { wa with log := (List.range 8).map fun i => { ent wa with idx := i } }
    (run wa).curWarp = some wa ∧ wa.Clear f.h (wa.needs os ++ wa.needsDst 4 f.dst) (wa.misfits os || wa.misfit 4 f.dst) (wa.commonV (wa.xlat f.dst.num) && true) ∧
    wa.Clear u.h (wa.needs uo ++ wa.needsDst 1 u.dst) false (decide (u.dst.num < 128) && !wa.common? u.addr) ∧ wa.freeEntry = some 0 ∧ wa.tx = none ∧ wa.active ≠ [] ∧
    (lanePartsOf wa f.h false (wa.ea f.addr f.off) (fun _ _ => 0)).all (fun p => p.addr.toNat % 16 == 0) = true ∧
    (lanePartsOf (lane 2) f.h false ((lane 2).ea f.addr f.off) (fun _ _ => 0)).any (fun p => p.addr.toNat % 4 != 0) = true ∧
    (run wa).nearSize wa = 0x10000 ∧ ((lane 0xFFFC).ea f.addr f.off 0 0).toNat + 4 = 0x10000 ∧ ((lane 0x10000).ea f.addr f.off 0 0).toNat + 4 > 0x10000 ∧
    (wa.ea u.addr u.off 0 0).toNat % 4 = 0 ∧ (wa.ea u.addr 2 0 0).toNat % 4 ≠ 0 ∧ full.freeEntry = none ∧ (run full).curWarp = some full ∧
    wa.Clear x.h (wa.needs [(⟨x.addr, 0, x.fa⟩, 1)] ++ wa.needsDst 1 x.dst) false (!wa.common? x.addr) ∧
    wa.Clear xs.h (wa.needsDst 1 xs.dst) false false ∧ wa.Clear xs.h (wa.needs [(⟨xs.addr, 0, xs.fa⟩, 1), (xs.data, 1)]) false false ∧
    (wa.ea x.addr x.off 0 0).toNat % 64 = 0 ∧ (run wa).window wa.ctx (wa.ea x.addr x.off 0 0) = none ∧
    (Exact.ofWindow ({ v := 5, st := 0x20000 } : Exact).toWindow).isSome = true ∧ (Exact.ofWindow (List.replicate 576 0xFF)).isNone = true := by
  unfold Warp.Clear; decide +kernel
theorem witness_LoadStoreAndWindowForms_read :
    let w0 := curW (after (.exldw (fm (.spc 0x20) (.scl 4) nil)) (run wa))
    let w : Warp := { w0 with st := .act, waitOn := none, log := w0.log.map fun e => { e with blob := List.replicate 576 0 } }
    (run w).curWarp = some w ∧ (w.log.find? fun e => e.acc = .windowLoad && e.pc = w.pc && e.sup = w.sup) = some (ent w) ∧ 24 ≤ (ent w).blob.length ∧
    (let x : Warp := { w with log := w.log.map fun e => { e with blob := [0] } }
     (run x).curWarp = some x ∧ (ent x).blob ≠ [] ∧ (ent x).blob.length < 24 ∧ (x.log.find? fun e => e.acc = .windowLoad && e.pc = x.pc && e.sup = x.sup) = some (ent x)) := by
  decide +kernel
theorem witness_AtomicAndCacheForms :
    let f := fm (.vec 8) (.vec 4) (v 8)
    let os : List Warp.Operand := [Warp.addrOperand f, (f.data, 4)]
    (run wa).curWarp = some wa ∧ wa.Clear f.h (wa.needs os ++ wa.needsDst 2 f.dst) (wa.misfits os || wa.misfit 2 f.dst) (wa.commonV (wa.xlat f.dst.num) && true) ∧
    wa.tx = none ∧ wa.Clear yes (wa.needs [Warp.addrOperand f]) (wa.misfits [Warp.addrOperand f]) false ∧ wa.union yes ≠ 0 ∧ wa.freeEntry ≠ none ∧
    (let o := wa.gput 0 1 allL 1; let p := lanePartsOf o { yes with gp := 1 } false (o.ea f.addr f.off) (fun _ _ => 0)
     p = [{ slot := 0, lane := 0, addr := 0x10000 }] ∧ ((run o).translate o.core o.ctx 0x10000 (State.midxOf o 0) .read o.sup).toOption.isSome = true) ∧
    (let o : Warp := { wa with log := (List.range 8).map fun i => { ent wa with idx := i } }; o.freeEntry = none ∧ (run o).curWarp = some o) ∧
    wa.union never = 0 ∧ (∀ e ∈ wa.log, e.async = true) ∧ (∀ p ∈ (run wa).blocks, p.2.core = wa.core → p.2.st = .resident → p.2.ctx = wa.ctx) ∧
    (run wa).waysOf wa.ctx = tget 0 (run wa).ways wa.core ∧
    (let t := (run wa).modCtx 0 fun c => { c with ways := 3 }; t.waysOf wa.ctx ≠ tget 0 t.ways wa.core) ∧ wa.log = [] ∧
    (let w := (sOrd.curWarp.getD {}).sput 0 0x84 0x10000
     let f := fm (.scl 0x85) (.scl 0x84) nil
     (run w).curWarp = some w ∧ w.tx = none ∧ w.active ≠ [] ∧ w.freeEntry = some 1 ∧ (w.log.any fun e => e.acc = .ordered false) = true ∧
     w.Clear f.h (w.needs [(⟨f.addr, 0, f.fa⟩, 1)] ++ w.needsDst 1 f.dst) false false ∧ ∀ m ∈ w.active, (w.ea f.addr f.off m 0).toNat % 4 = 0) := by
  unfold Warp.Clear; decide +kernel
theorem witness_AtomicSteps_request :
    let w := curW sAtom
    (sAtom.entryOf 0 0) = some (w, ent w) ∧ (ent w).acc = .atomic .add 4 ∧ (ent w).tx = false ∧ (ent w).acquires = false ∧ (ent w).dst = 0x300 ∧
    ((ent w).parts.filter fun p => ((ent w).shared || p.slot = 0) && p.addr = 0x10000 && !p.ok).length = 2 ∧
    ((ent w).parts.all fun p => sAtom.ready w (ent w) p) = true ∧ ((sAtom.locateByte w (ent w) (part0 w) 0).toOption.map fun ph => (Leaf.ca ph.leaf, Leaf.prop ph.leaf)) = some (true, false) ∧
    sAtom.poisoned 0x10000 4 = false ∧ sAtom.poison = [] := by decide +kernel
theorem witness_AtomicSteps :
    (curW sOrd).log ≠ [] ∧ sOrd.entryOf 0 0 = some (curW sOrd, ent (curW sOrd)) ∧ (ent (curW sOrd)).acc = .ordered false ∧
    ((ent (curW sOrd)).parts.filter fun p => p.slot = 0 && p.addr = 0x10000 && !p.ok) = [part0 (curW sOrd)] ∧ (part0 (curW sOrd)).dead = false ∧
    sOrd.ready (curW sOrd) (ent (curW sOrd)) (part0 (curW sOrd)) = true ∧ sOrd.ordClash (curW sOrd) false 0x10000 = false ∧ sOrd.ordq.length = 0 ∧
    (sOrd.locateByte (curW sOrd) (ent (curW sOrd)) (part0 (curW sOrd)) 0).toOption.map (·.pa) = some 0x10000 ∧ sOrd.sliceHeld (State.homeSlice 0x10000) < 4096 ∧
    sRel.entryOf 0 0 = some (curW sRel, ent (curW sRel)) ∧ (ent (curW sRel)).acc = .release ∧ (ent (curW sRel)).parts.contains (part0 (curW sRel)) = true ∧
    sRel.ready (curW sRel) (ent (curW sRel)) (part0 (curW sRel)) = true ∧ (ent (curW sRel)).shared = false ∧ sRel.ordq = [] ∧ tfind sOrd.ordq 0x10000 = none ∧
    (sRel.pieces (curW sRel) (ent (curW sRel)) (part0 (curW sRel)) (sRel.partSize (curW sRel) (ent (curW sRel)) (part0 (curW sRel)))).isSome = true ∧
    State.keyLt [0, 0, 0, 0] [0, 0, 0, 1] = true ∧ State.keyLt [0, 0, 0, 1] [0, 0, 0, 0] = false := by decide +kernel

noncomputable def sLoad : State := after (.ldU32 (fm (.vec 8) (.vec 4) nil)) (run wa)
noncomputable def sNear : State := after (.stnU32 (fm noDst (.vec 4) (v 8))) (run (wa.vput 0 4 allL (List.replicate 96 0x100)))
noncomputable def sStore : State := after (.stU32 (fm noDst (.vec 4) (v 8))) (run wa)
/-- A warp with a load on its way leaves or regroups only after it. -/
theorem witness_BranchAndExitForms_busy :
    let w := curW sLoad
    let x := w.eachActive fun m b => b.exit (w.part yes m)
    sLoad.curWarp = some w ∧ w.tx = none ∧ x.pathAlive = false ∧ sLoad.endBusy w x.endPath = true := by decide +kernel
theorem witness_RegroupForm_busy :
    let w := curW sLoad
    let f := fr noDst (s 2) nil
    let t : State := { run wp with mx := [(0, [{ slot := 0, op := 0x100, x := 0, dst := 0x80, mem := 0, lanes := allL }])] }
    sLoad.curWarp = some w ∧ w.tx = none ∧ w.Clear f.h (w.needs [(f.a, 1)]) false false ∧ (∃ e ∈ w.log, e.async = false) ∧ t.curWarp = some wp ∧ t.mxOf wp ≠ [] := by
  unfold Warp.Clear; decide +kernel
theorem witness_AccessesPerformed_load :
    let w := curW sLoad
    sLoad.entryOf 0 0 = some (w, ent w) ∧ (ent w).parts.contains (part0 w) = true ∧ sLoad.ready w (ent w) (part0 w) = true ∧
    ((sLoad.fetchPart w (ent w) (part0 w) false).map fun r => (r.1, r.2.1)) = some ([0, 0, 0, 0], false) ∧ (ent w).blob = [] ∧ (ent w).acquires = false ∧
    (∀ y ∈ w.log, y.idx = 0 ∨ y.seq = (ent w).seq → y = ent w) ∧ (ent w).named 0 1 = [part0 w] ∧ (ent w).shared = false ∧
    (let x : LogEntry := { ent w with shared := true }; part0 w ∈ sLoad.returnGroup w x [part0 w]) ∧
    (ent w).acc = .load 4 false ∧ w.banks.length = w.p ∧ (part0 w).slot < w.p ∧ (part0 w).lane = 0 ∧ w.commonV ((ent w).dst + 0) = w.commonV (ent w).dst ∧
    (let x : Warp := { w with log := [{ ent w with held := true }] }; sLoad.ready x (ent x) (part0 x) = false) := by decide +kernel
theorem witness_AccessesPerformed_store :
    (∀ y ∈ (curW sStore).log, y.idx = 0 → y = ent (curW sStore)) ∧ (ent (curW sStore)).named 0 1 = [part0 (curW sStore)] ∧ (ent (curW sStore)).tx = false ∧
    (part0 (curW sStore)) ∈ (ent (curW sStore)).parts ∧
    sNear.entryOf 0 0 = some (curW sNear, ent (curW sNear)) ∧ (ent (curW sNear)).acc = .store 4 ∧ (ent (curW sNear)).near = true ∧
    (ent (curW sNear)).parts.contains (part0 (curW sNear)) = true ∧ sNear.ready (curW sNear) (ent (curW sNear)) (part0 (curW sNear)) = true ∧
    sStore.entryOf 0 0 = some (curW sStore, ent (curW sStore)) ∧ (ent (curW sStore)).near = false ∧ (part0 (curW sStore)).addr.toNat % 16 = 0 ∧
    sStore.ready (curW sStore) (ent (curW sStore)) (part0 (curW sStore)) = true ∧
    ((sStore.locateByte (curW sStore) (ent (curW sStore)) (part0 (curW sStore)) 0).toOption.map fun ph => (Leaf.ca ph.leaf, Leaf.prop ph.leaf)) = some (true, false) ∧
    (∀ r ∈ (0x10000, 4) :: [], capHi ≤ r.1 ∨ r.1 + r.2 ≤ capLo) := by decide +kernel
/-- A lane whose address no table maps; a walk that ends in a leaf and one that does not; a line the memory-side cache fronts, at its first and its last. -/
theorem witness_AccessesPerformed :
    let w := curW (after (.ldU32 (fm (.vec 8) (.vec 4) nil)) (run (wa.vput 0 5 allL (List.replicate 96 1))))
    let t := (run wa).putWarp w
    let c : State := { run wa with mscSize := 1 }
    t.entryOf 0 0 = some (w, ent w) ∧ (ent w).parts.find? (fun p => p.slot = 0 && p.lane = 0 && !p.dead) = some (part0 w) ∧ (part0 w).ok = false ∧
    t.inOrder w (ent w) (part0 w) = true ∧ (t.faultOf w (ent w) (part0 w)).isSome = true ∧ (ent w).async = false ∧ (part0 w).fault = none ∧ (ent w).tx = false ∧
    (run wa).cached 0 0 0x10000 = none ∧ ((run wa).walkTables 0 0 0x10000).toOption.isSome = true ∧ ((run wa).walkTables 0 0 0x100010000).toOption.isSome = false ∧
    (let u : State := { run wa with tlb := [⟨0, 0, 0x10000, 65536, 0x1002F⟩] }; (u.cached 0 0 0x10000).isSome = true) ∧
    c.fronted 0 = true ∧ (tget {} c.sectors (c.sectorOf 0).1).v = false := by decide +kernel
theorem witness_AccessesPerformed_replica :
    let r : Replica := { owner := 0, die := 2, addr := 0x10000, data := [1] }
    let t : State := { one with replicas := [r] }
    t.replicas[0]? = some r ∧ (∀ x ∈ t.replicas.take 0, x.die = r.die → State.overlap [(x.addr, x.data.length)] [(r.addr, r.data.length)] = false) ∧
    t.writerCore 0 = some 0 ∧ t.writerCore State.noWarp = none := by decide +kernel

/-! ## Engines, copies, barriers -/

/-- `mma.bf16 v144, v16, s9` over the tile at near offset 0, and `mmas` with its records in range and one pending; the engine of the core full and not. -/
theorem witness_MatrixForms :
    let f := fr (.vec 0x80) (v 0x10) (s 9) 0x103
    let w : Warp := { wa with h := 160, hmax := 160 }
    let srcs : List Warp.Operand := [(f.a, 16), (f.b, 1), (plainSrc (xSpec f.x), 1)]
    let dregs := (List.range 16).map (f.dst.num + ·)
    let dneeds : List Warp.Need := dregs.map fun r => ⟨.v r, false, some 0⟩
    let op : MxOp := { slot := 0, op := 0x100, x := 0, dst := 0x80, mem := 0, lanes := allL }
    let full : State := { run w with mx := [(0, [{ op with draw := 1 }, { op with draw := 2 }])] }
    (run w).curWarp = some w ∧ w.tx = none ∧ (run w).block? 0 = some (blk0 (run w)) ∧ w.xlat f.a.spec.num + 16 ≤ 128 ∧ w.outOfRange (w.needs srcs ++ dneeds) = false ∧
    w.Clear f.h (w.needs srcs) false false ∧ (w.scl 0 f.b).toNat % 2 ^ 19 % 1024 = 0 ∧ (w.scl 0 f.b).toNat % 2 ^ 19 + 1024 ≤ (blk0 (run w)).ns ∧
    (w.scl 0 (s 3)).toNat % 2 ^ 19 % 1024 ≠ 0 ∧ 0 < (blk0 (run w)).srec ∧ (blk0 (run w)).scalePend = [] ∧ mxBlocked w ((run w).mxOf w) dregs = false ∧
    (run w).mxFull 0 = false ∧ full.mxFull 0 = true ∧ (w.active.filter fun m => w.part f.h m != 0) = [0] ∧ tileBusy w 0 1024 = false ∧ w.heldByFence false = false ∧
    (let x : Warp := { w with fences := [{ pos := 0 }] }; (run x).curWarp = some x ∧ x.heldByFence false = true ∧ x.Clear f.h (x.needs srcs) false false) ∧
    (let x := w.setEmpty 0 true (.v 0x80); (run x).curWarp = some x ∧ mxBlocked x ((run x).mxOf x) dregs = true ∧ x.Clear f.h (x.needs srcs) false false) ∧ w.badReads f.h dneeds 0 = 0 ∧
    w.Clear f.h (dregs.map fun r => ⟨.v r, false, none⟩) false false := by
  unfold Warp.Clear; decide +kernel
/-- An operation at the head of the engine whose tile has yet to be read. -/
theorem witness_MatrixForms_engine :
    let o : MxOp := { slot := 0, op := 0x107, x := 0, dst := 0x80, mem := 0, lanes := allL, boff := some 0 }
    let t : State := { run wa with mx := [(0, [o])] }
    tget [] t.mx 0 = [o] ∧ t.warp? (warpKey 0 0) = some wa ∧ t.block? wa.blk = some (blk0 t) ∧ o.op = 0x107 ∧ tget [] one.mx 0 = [] ∧
    (let c : MxOp := { slot := 0, op := 0x111, x := 0, dst := 0x80, mem := 0, lanes := allL }
     c.boff = none ∧ c.shared = false ∧ c.dst ≠ 0x300 ∧ ({ run wa with mx := [(0, [c])] } : State).warp? (warpKey 0 0) = some wa) := by decide +kernel
/-- The record of a convolution of one axis with 4 inputs and a kernel of 1, one channel each way and one batch (R236). -/
def convRec : BitVec 768 := 1#768 <<< 32 ||| 1#768 <<< 352 ||| 1#768 <<< 384 ||| 1#768 <<< 400 ||| 4#768 <<< 448 ||| 1#768 <<< 480 ||| 1#768 <<< 488 ||| 1#768 <<< 496
theorem witness_ConvolutionForms :
    let f := fm noDst (.scl 4) (s 3)
    let c := fr noDst (s 9) nil
    let j : ConvJob := { ctx := 0, core := 0, blk := some 0, place := 0, fields := 0 }
    let q : State := { run wa with conv := [(0, [j])] }
    (run wa).curWarp = some wa ∧ wa.tx = none ∧ (run wa).block? wa.blk = some (blk0 (run wa)) ∧
    wa.Clear f.h (wa.needs [(⟨f.addr, 0, f.fa⟩, 1), (f.data, 1)]) false false ∧ (wa.ea f.addr f.off 0 0).toNat % 128 = 0 ∧ (wa.ea f.addr 64 0 0).toNat % 128 ≠ 0 ∧
    (wa.scl 0 f.data).toNat + 1 = (blk0 (run wa)).srec ∧ (blk0 (run wa)).scalePend = [] ∧ wa.freeEntry = some 0 ∧
    (∀ i, i < 4 → (run wa).window wa.ctx (wa.ea f.addr f.off 0 0 + BitVec.ofNat 64 (128 * i)) = none) ∧
    wa.Clear c.h (wa.needs [(c.a, 1)]) false false ∧ (wa.scl 0 c.a).toNat % 128 = 0 ∧ (wa.scl 0 (s 4)).toNat + 128 > (blk0 (run wa)).ns ∧
    (wa.scl 0 (s 3)).toNat % 128 ≠ 0 ∧ (tget [] (run wa).conv 0).length < convRoom ∧ (run wa).replicas = [] ∧
    tget [] q.conv 0 = [j] ∧ j.bad = true ∧ (let k := { j with started := true }; k.outs = [] ∧ k.blk = some 0 ∧ k.node = none) ∧ (let k := { j with fields := convRec }; k.bad = false ∧ (one.convOutputs k).all (fun p => p.2.toOption.isSome) = true ∧ k.outExt 0 = 4) := by
  unfold Warp.Clear; decide +kernel

/-! ## Copies, batches, barriers, timelines -/

def wCopy : Warp := (wa.sput 0 6 0x100).sput 0 7 (BitVec.ofNat 64 (16 + 2 ^ 32 * 8))
/-- Near scratch that holds, at 0x100, a tile record of one row of 4 bytes, and, at 0x200, a halo record of an 8 × 1 × 1 tile with faces 0 and 1 of width 1. -/
def nearRec : Memory :=
  Memory.writeBytes (Memory.writeBytes [] 0x100 (leBytes 64 (2 + 2 ^ 16 + 2 ^ 32 + 2 ^ 48))) 0x200
    (leBytes 128 (8 * 2 ^ 448 + 2 ^ 464 + 2 ^ 480 + 2 ^ 496 + 3 * 2 ^ 522))
def withNear (w : Warp) : State := (run w).modBlock 0 fun b => { b with near := nearRec }
/-- `cpy` of 16 bytes from mapped memory into near scratch, with a barrier; the checks of `cpyt`, `cpyg` and `halo`; a copy that is complete. -/
def wFence : Warp := { wCopy with fences := [{ pos := 0 }] }
theorem witness_CopyForms :
    let f := fr noDst (s 9) (s 4) 0x1507
    let os : List Warp.Operand := [(f.a, 1), (f.b, 1), (plainSrc (xSpec f.x), 1)]
    let t := withNear wCopy
    let gt := { fm noDst (.vec 4) (s 3) with h := { yes with gp := 1 } }
    let wgt := (wCopy.gput 0 1 allL 1).sput 0 3 (BitVec.ofNat 64 (4 * 2 ^ 19))
    (run wCopy).curWarp = some wCopy ∧ t.block? 0 = some (blk0 t) ∧ t.curWarp = some wCopy ∧ wCopy.tx = none ∧ wCopy.active = [0] ∧
    wCopy.Clear f.h (wCopy.needs os) false false ∧ (wCopy.scl 0 (plainSrc (xSpec f.x))).toNat / 2 ^ 32 % 2 ^ 19 % 8 = 0 ∧
    (wCopy.scl 0 f.a).toNat + 16 ≤ (blk0 t).ns ∧ firstCheck (buildCpyt wCopy (fr noDst (s 9) (s 4) 0x506) (blk0 t) 0).2 = none ∧
    (firstCheck (buildCpyt wCopy (fr noDst (s 9) (s 4) 0x504) (blk0 t) 0).2).isSome = true ∧
    (run wgt).curWarp = some wgt ∧ wgt.part gt.h 0 ≠ 0 ∧ wgt.deadPart gt.h 0 = 0 ∧
    wgt.Clear gt.h (wgt.needs [Warp.addrOperand gt, (gt.data, 1)]) (wgt.misfits [Warp.addrOperand gt, (gt.data, 1)]) false ∧
    nearBusy wCopy 0x100 64 = false ∧ wCopy.heldByFence false = false ∧ wFence.heldByFence false = true ∧ (run wFence).curWarp = some wFence ∧
    wFence.Clear f.h (wFence.needs os) false false ∧
    (wgt.scl 0 gt.data).toNat / 2 ^ 19 % 2 ^ 13 = 4 ∧ ((wgt.part gt.h 0).toList.map fun l => (wgt.ea gt.addr gt.off 0 l).toNat % 4) = [0] := by
  unfold Warp.Clear; decide +kernel
theorem witness_CopyForms_halo :
    let t := withNear wCopy
    let r := BitVec.ofNat 1024 (leNat ((blk0 t).near.readBytes 0x200 128))
    r.getLsbD 528 = false ∧ (∀ i, i < 7 → r.extractLsb' (64 * i + 56) 8 = 0) ∧ r.extractLsb' 529 3 = 0 ∧ r.extractLsb' 551 473 = 0 ∧ (∀ x, x < 3 → haloE r x ≠ 0) ∧
    (∀ i ∈ haloFaces r, 3 * haloH r (i / 2) ≤ haloE r (i / 2)) ∧ haloFaces r = [0, 1] ∧ ((haloFaces r).map (haloBytes r)).foldl (· + ·) 0 = 2 ∧
    (∀ i, i < 7 → t.window 0 (haloTile r i) = none) ∧ t.haloQueue 0 < 16 ∧ nearBusy wCopy 0x200 128 = false ∧
    t.sidesShared { owner := 0, ctx := 0, blk := 0, kind := .halo r, dst := 0x200, total := 2 } = true ∧ (blk0 t).ns < 0xFFA0 + 128 ∧ 0xFFA0 % 128 ≠ 0 := by decide +kernel
/-- The pod of two: a copy of each active member with its own lanes, one for both of common operands; a halo with a barrier, and one of which the
queue is full; an odd barrier offset, a side that does not fit. -/
def wpg : Warp :=
  let w := ((wp.sput 0 134 (BitVec.ofNat 64 (4 * 2 ^ 19))).sput 1 134 (BitVec.ofNat 64 (4 * 2 ^ 19))).sput 0 3 0
  ((w.vput 0 8 allL (List.replicate 96 0x10000)).vput 1 8 allL (List.replicate 96 0x10000)).gput 0 1 allL 1
theorem witness_CopyForms_members :
    let gt := { fm noDst (.vec 8) (s 134) with h := { yes with gp := 1 } }
    let os := [Warp.addrOperand gt, (gt.data, 1)]
    let w2 : Warp := wpg.gput 1 1 allL 1
    (run w2).curWarp = some w2 ∧ w2.tx = none ∧ w2.active = [0, 1] ∧ w2.Clear gt.h (w2.needs os) (w2.misfits os) false ∧
    (w2.common? gt.addr && w2.common? gt.data.spec) = false ∧ (w2.active.filter fun m => w2.part gt.h m ||| w2.deadPart gt.h m != 0) = [0, 1] ∧
    ((w2.scl 0 gt.data).toNat / 2 ^ 19 % 2 ^ 13, (w2.scl 1 gt.data).toNat / 2 ^ 19 % 2 ^ 13) = (4, 4) ∧
    (∀ r ∈ (w2.part gt.h 1).toList.map fun l => (l, w2.ea gt.addr gt.off 1 l), r.2.toNat % 4 = 0 ∧ (r.1 + 1) * 4 ≤ (blk0 (run w2)).ns) ∧
    (let g0 := { gt with addr := .scl 2, data := s 3 }
     (w2.common? g0.addr && w2.common? g0.data.spec) = true ∧ w2.Clear g0.h (w2.needs [Warp.addrOperand g0, (g0.data, 1)]) (w2.misfits [Warp.addrOperand g0, (g0.data, 1)]) false ∧
     (∀ m ∈ w2.active, ∀ l ∈ (w2.part g0.h m).toList, (run w2).windowIn w2.ctx (w2.ea g0.addr g0.off m l) ((w2.scl m g0.data).toNat / 2 ^ 19 % 2 ^ 13) = false)) := by
  unfold Warp.Clear; decide +kernel
theorem witness_CopyForms_checks :
    let f := fr noDst (s 9) (s 4) 0x1507
    let odd := wCopy.sput 0 7 (BitVec.ofNat 64 (16 + 2 ^ 32 * 9))
    let far := (wCopy.sput 0 9 0xFFFFFFFF)
    let r := BitVec.ofNat 1024 (leNat ((blk0 (withNear wCopy)).near.readBytes 0x200 128)) ||| 1#1024 <<< 528 ||| 8#1024 <<< 532
    (run odd).curWarp = some odd ∧ (odd.scl 0 (plainSrc (xSpec f.x))).toNat / 2 ^ 32 % 2 ^ 19 % 8 = 1 ∧ odd.active = [0] ∧
    (run far).curWarp = some far ∧ f.x.getLsbD 10 = true ∧ (blk0 (run far)).ns < (far.scl 0 f.a).toNat + 16 ∧
    r.getLsbD 528 = true ∧ (r.extractLsb' 532 19).toNat = 8 ∧ r.extractLsb' 529 3 = 0 ∧ r.extractLsb' 551 473 = 0 ∧ 8 + 8 ≤ (blk0 (run wCopy)).ns ∧
    ((List.range 16).foldl (fun t i => { t with copies := t.copies ++ [(i, { owner := 0, ctx := 0, blk := 0, kind := .halo r })] }) (run wCopy)).haloQueue 0 = 16 := by
  decide +kernel
noncomputable def sCopy : State := after (.cpy (fr noDst (s 9) (s 4) 0x507)) (run wCopy)
def cp0 (st : State) : Copy := (tfind st.copies 0).getD { owner := 0, ctx := 0, blk := 0, kind := .cpy }
theorem witness_CopyForms_complete :
    wCopy.copies.pending < 64 ∧ wCopy.freeEntry = some 0 ∧ tfind sCopy.copies 0 = some (cp0 sCopy) ∧ sCopy.warp? (cp0 sCopy).owner = some (curW sCopy) ∧
    (curW sCopy).blk = (cp0 sCopy).blk ∧ (cp0 sCopy).done = [] ∧ (cp0 sCopy).kind = .cpy ∧ sCopy.replicas = [] ∧ (cp0 sCopy).bar = none ∧
    wCopy.active ≠ [] ∧ ((curW sCopy).log.find? fun e => e.seq = (cp0 sCopy).entry).any (·.held) = false ∧ sCopy.copyWaits (curW sCopy) (cp0 sCopy) = false ∧
    sCopy.haloTurn 0 (cp0 sCopy) = true ∧ (cp0 sCopy).left ≠ [] ∧ wCopy.copies.pending + ([cp0 sCopy, cp0 sCopy].length) ≤ 64 ∧
    (let w : Warp := { curW sCopy with fences := [{ pos := 0, acq := true }], log := ent (curW sLoad) :: (curW sCopy).log }
     (sCopy.putWarp w).copyWaits w (cp0 sCopy) = true) := by
  decide +kernel

theorem witness_BarrierForms :
    let f := fm (.scl 5) (.scl 9) (s 3)
    let os : List Warp.Operand := [(⟨f.addr, 0, f.fa⟩, 1), (f.data, 1)]
    let set := fun (b : Barrier) => (run wa).putBarrier 0 0 b
    (run wa).curWarp = some wa ∧ (run wa).warp? wa.key = some wa ∧ wa.tx = none ∧ (run wa).block? wa.blk = some (blk0 (run wa)) ∧
    wa.Clear f.h (wa.needs os ++ wa.needsDst 1 f.dst) false (wa.anyPrivate (os.map (·.1)) && true) ∧ wa.active.length = 1 ∧
    (wa.ea f.addr f.off 0 0).toNat % 8 = 0 ∧ (wa.ea f.addr f.off 0 0).toNat + 8 ≤ (blk0 (run wa)).ns ∧ wordBusy (run wa) wa 0 = false ∧ wa.heldByFence true = false ∧ releaseBusy (run wa) wa false = false ∧
    releaseBusy sLoad (curW sLoad) false = true ∧ ((set ⟨0, 1, 1, false, true⟩).barrier 0 0).phase = true ∧ ((set ⟨0, 1, 1, false, false⟩).barrier 0 0).phase = false ∧
    (wa.scl 0 (s 3)).getLsbD 0 = true ∧ (set ⟨0, 1, 1, false, true⟩).curWarp = some wa := by
  unfold Warp.Clear; decide +kernel
/-- `Canonical` of the states used holds. -/
theorem witness_canonical : (run wa).Canonical := by unfold State.Canonical; decide +kernel
theorem witness_BatchAndTimelineForms :
    let b := fr noDst nil (s 3) 2
    let close : Warp := { wa with copies := { wa.copies with opened := [], lastClosed := 1, closed := [⟨1, [], none⟩] } }
    let open' : Warp := { wa with copies := { lastClosed := 2, lastDone := 1, closed := [⟨2, [7], none⟩] } }
    let own := (run wa).postAdvance 0 2 9 (some wa.key)
    let up : State := { run wa with mem := (run wa).mem.writeBytes ((run wa).timelineAt 0 2) (leBytes 8 3) }
    wa.copies.closed.length < 16 ∧ b.dst = noDst ∧ wa.common? b.b.spec = true ∧ wa.Clear yes [] false false ∧ wa.Clear b.h (wa.needs [(b.b, 1)]) false false ∧
    releaseBusy (run wa) wa true = false ∧ wa.heldByFence true = false ∧ wa.heldByFence false = false ∧ wFence.heldByFence false = true ∧
    wFence.Clear b.h (wFence.needs [(b.b, 1)]) false false ∧ ((((run wa).putWarp close).settleBatches wa.key).warp? wa.key).isSome = true ∧
    (run open').curWarp = some open' ∧ open'.copies.lastDone < min (maxOperand open' (s 2)) open'.copies.lastClosed ∧
    min (maxOperand wa (s 2)) wa.copies.lastClosed ≤ wa.copies.lastDone ∧ wa.Clear yes (wa.needsDst 1 (.scl 5)) false false ∧
    counterBusy own wa 2 = true ∧ own.curWarp = some wa ∧ counterBusy (run wa) wa 2 = false ∧ (run wa).timelineAt 0 2 + 8 ≤ capLo ∧
    (wa.scl 0 (s 3)).toNat = 3 ∧ (wa.scl 0 (s 9)).toNat = 0 ∧ up.timeline 0 2 = 3 ∧ ¬3 ≤ (run wa).timeline 0 2 ∧
    ((own.ctx 0).adv.find? fun a => a.1 = 2) = some (2, 9, some wa.key) := by
  unfold Warp.Clear; decide +kernel
/-- Numbers into a destination, sixteen closed batches, private operands of two members. -/
theorem witness_BatchAndTimelineForms_members :
    let b := fr (.scl 8) nil (s 133) 2
    let full : Warp := { wp with copies := { wp.copies with lastClosed := 16, closed := (List.range 16).map fun i => ⟨i + 1, [7], none⟩ } }
    let close : Warp := { wp with copies := { wp.copies with opened := [], lastClosed := 1, closed := [⟨1, [], none⟩] } }
    (run wp).curWarp = some wp ∧ (run wp).warp? wp.key = some wp ∧ wp.anyPrivate [b.b] = true ∧ wp.active = [0, 1] ∧ b.dst.none? = false ∧
    wp.Clear yes (wp.needs [(b.b, 1)] ++ wp.needsDst 1 (.scl 130)) false false ∧ wp.Clear yes (wp.needsDst 1 (.scl 8)) false false ∧
    (run full).curWarp = some full ∧ 16 ≤ full.copies.closed.length ∧ 16 < wp.copies.closed.length + 17 ∧
    ((((run wp).putWarp (close.sclWrite 8 fun _ => 1)).settleBatches wp.key).warp? wp.key).isSome = true ∧ wp.common? b.b.spec = false ∧
    releaseBusy (run wp) wp true = false ∧ wp.heldByFence true = false := by
  unfold Warp.Clear; decide +kernel
/-- `bbtst` for two members of a private offset. -/
theorem witness_BarrierForms_members :
    let f := fm (.scl 130) (.scl 132) (s 133)
    let os : List Warp.Operand := [(⟨f.addr, 0, f.fa⟩, 1), (f.data, 1)]
    (run wp).curWarp = some wp ∧ wp.anyPrivate (os.map (·.1)) = true ∧ wp.active = [0, 1] ∧
    wp.Clear f.h (wp.needs os ++ wp.needsDst 1 f.dst) false (wp.anyPrivate (os.map (·.1)) && decide (f.dst.num < 128)) ∧
    (∀ m ∈ wp.active, (wp.ea f.addr f.off m 0).toNat % 8 = 0 ∧ (wp.ea f.addr f.off m 0).toNat + 8 ≤ (blk0 (run wp)).ns ∧
      wordBusy (run wp) wp (wp.ea f.addr f.off m 0).toNat = false) := by
  unfold Warp.Clear; decide +kernel

/-! ## Fences and transactions -/

def wTx : Warp := { wa with tx := some { em := [[0xFFFFFFFF, 0xFFFFFFFF, 0xFFFFFFFF]], mm := 1, target := 0x400100 } }
theorem witness_FenceForms :
    (run wa).curWarp = some wa ∧ (run wa).warp? wa.key = some wa ∧ wa.tx = none ∧ wa.log = [] ∧ (run wa).replicas = [] ∧
    sLoad.curWarp = some (curW sLoad) ∧ (∃ e ∈ (curW sLoad).log, e.async = false ∧ e.reads = true) ∧ (curW sLoad).sup = false ∧
    (run wa).fused.contains (clusterOf 0) = false ∧ wa.fences = [] ∧ (curW sLoad).fences = [] ∧ wTx.tx ≠ none ∧ (∀ p ∈ (ent (curW sLoad)).parts, p.ok = false) ∧
    (let w := curW sLoad; (((sLoad.putWarp { w with fences := [{ pos := w.nextSeq, acq := true }] }).settleFences w.key).warp? w.key).isSome = true) := by decide +kernel
theorem witness_TransactionForms :
    let w : Warp := { wTx with tx := wTx.tx.map fun t => { t with pending := some (1, 0, 0x10000) } }
    let inside : Warp := { wTx with log := (curW sLoad).log.map fun e => { e with tx := true } }
    let far : Warp := { wTx with tx := wTx.tx.map fun t => { t with held := [0x10000] } }
    let o : Warp := { wa with meld := { opened := true } }
    (run wa).curWarp = some wa ∧ Warp.never yes = false ∧ wa.meld.opened = false ∧ wa.tx = none ∧ (∀ e ∈ wa.log, e.tx = false) ∧ (run o).curWarp = some o ∧
    (run wTx).curWarp = some wTx ∧ wTx.tx ≠ none ∧ releaseBusy (run wTx) wTx true = false ∧ (run w).warp? (warpKey 0 0) = some w ∧
    (w.tx.bind (·.pending)) = some (1, 0, 0x10000) ∧ (∀ e ∈ w.log, e.tx = false) ∧ (∃ e ∈ inside.log, e.tx = true ∧ ∃ p ∈ e.parts, p.ok = false ∧ p.fault = none) ∧
    (inside.tx.bind (·.pending)) = none ∧ (wTx.tx.map (·.ranges)) = some [] ∧
    (∃ r ∈ ((far.tx.map (·.ranges)).getD []), ({ run far with hostHeld := [0x10000] } : State).hostReady r.1 r.2.length false = false) ∧ (run far).curWarp = some far ∧ releaseBusy (run far) far true = false ∧ wa.Clear yes (wa.needsDst 1 (.scl 5)) false ((Spec.scl 5).num < 128 && (false || wa.anyPrivate [])) ∧
    (let x : Warp := { curW sLoad with tx := wTx.tx }; releaseBusy (run x) x true = true ∧ (run x).curWarp = some x) := by
  unfold Warp.Clear; decide +kernel

/-! ## Queues, nodes, placement -/

/-- Queue 0 of context 0: its descriptor at 0x30000, a ring of two records at 0x31000, and one record written and not read. -/
def qdev : State :=
  let m := (dev.mem.writeBytes 0x30000 (leBytes 24 (0x31000 + 2 ^ 56 + 2 ^ 63 + 2 ^ 64))).writeBytes 0x31000 (leBytes 128 (setupHeader 0).toNat)
  ({ dev with mem := m } : State).modCtx 0 fun c => { c with qtab := 0x30000, qmax := 1 }
def qpend : State := qdev.modCtx 0 fun c => { c with pending := [(0, 0)] }
def qfetch : State := { qdev with qslots := [(0, { st := .fetch, ctx := 0, q := 0 })] }
theorem witness_QueueSlots :
    let aged : State := { qpend with mappings := List.replicate 7 true }
    let old : State := { qpend with qslots := qfetch.qslots, cycle := 10 }
    let stall : State := { qdev with qslots := [(0, { st := .stall, ctx := 0, q := 0 })] }
    qdev.resident 0 = true ∧ 0 ≤ (qdev.ctx 0).qmax ∧ ((qdev.readQueue 0 0).toOption.map (·.valid)) = some true ∧ qdev.qslots = [] ∧ (qdev.ctx 0).pending = [] ∧
    qpend.pendingQueues ≠ [] ∧ aged.mappings.length = 7 ∧ (∀ b ∈ aged.mappings, b = true) ∧ (tget ({} : QSlot) old.qslots 0).since + (old.ctx 0).quant ≤ old.cycle ∧
    old.pendingQueues ≠ [] ∧ (tget ({} : QSlot) stall.qslots 0).st = .stall ∧ stall.nodes.length < 4096 ∧ (stall.queueNodes 0 0).length < 1024 := by decide +kernel
theorem witness_QueueSlots_fetch :
    let s1 := qfetch.agentTouch 0 0 (qfetch.queueVa 0 0) 0 24
    (tget ({} : QSlot) qfetch.qslots 0).st = .fetch ∧ ((s1.readQueue 0 0).toOption.map fun d => (d.valid, d.rd == d.wr)) = some (true, false) ∧
    s1.slotBlocked 0 0 = false ∧ (s1.agentRead 0 0 (BitVec.ofNat 64 0x31000) 0 128).toOption.isSome = true ∧
    ((s1.agentTouch 0 0 (BitVec.ofNat 64 0x31000) 0 128).agentWrite State.noWarp 0 (s1.queueVa 0 0 + 16#64) 0 (leBytes 8 1)).toOption.isSome = true ∧
    (let u : State := qfetch.modCtx 0 fun c => { c with qtab := 0x100000000 }; ((u.readQueue 0 0).toOption).isNone = true) := by decide +kernel
def nd0 : Node := { ctx := 0, queue := 0, hdr := setupHeader 0, nblk := 1 }
def withNode (n : Node) : State := { qdev with nodes := [(0, n)] }
theorem witness_NodeLifecycle :
    let conv : Node := { nd0 with hdr := (nd0.hdr &&& ~~~(0xFF#1024)) ||| 2#1024, st := .ready }
    let seam : Node := { nd0 with hdr := (nd0.hdr &&& ~~~(0xFF#1024)) ||| 1#1024, st := .ready }
    let empty : Node := { nd0 with st := .ready, nblk := 0, counted := true }
    let arg : Node := { nd0 with hdr := nd0.hdr ||| 1#1024 <<< 184 }
    (withNode nd0).node? 0 = some nd0 ∧ (withNode nd0).node? 1 = none ∧ (∀ p ∈ LHdr.waits nd0.hdr, p.2.toNat ≤ (withNode nd0).timeline 0 p.1) ∧ nd0.deps = [] ∧
    nd0.st = .wait ∧ (withNode nd0).resident 0 = true ∧ nd0.bad = none ∧ LHdr.kind nd0.hdr = 0 ∧ LHdr.argn nd0.hdr = 0 ∧ LHdr.indir nd0.hdr = false ∧
    LHdr.argn arg.hdr = 1 ∧ ((withNode arg).agentRead 0 0 (LHdr.argp arg.hdr) 0 8).toOption.isSome = true ∧
    (withNode empty).reap.node? 0 = some empty ∧ (withNode empty).reap.nodeFinished empty = true ∧ (withNode nd0).reap.nodeFinished nd0 = false ∧
    LHdr.kind conv.hdr = 2 ∧ LHdr.kind seam.hdr = 1 ∧ (tget [] (withNode conv).conv (withNode conv).shortestEngine).length < convRoom ∧
    ((withNode conv).agentRead 0 ((withNode conv).shortestEngine / 20) (LHdr.entry conv.hdr) 0 128).toOption.isSome = true ∧
    ((withNode seam).agentRead 0 0 (LHdr.entry seam.hdr) 0 128).toOption.isSome = true ∧
    (let u : State := { withNode conv with ctxs := tset qdev.ctxs 0 { qdev.ctx 0 with ttroot := 0x300000 } };
      (u.agentRead 0 0 (LHdr.entry conv.hdr) 0 128).toOption.isNone = true ∧ u.resident 0 = true) := by decide +kernel
def ndRun : Node := { nd0 with st := .run }
theorem witness_PlacementAndActiveSet :
    let t := withNode ndRun
    (setupHeader 0).pod ≤ 16 ∧ t.reap.node? 0 = some ndRun ∧ t.reap.placing = [(0, ndRun)] ∧ ndRun.st ≠ .ready ∧ ndRun.next < ndRun.nblk ∧
    [0].length = LHdr.cgs ndRun.hdr ∧ LHdr.phased ndRun.hdr = false ∧ (∀ g ∈ State.groupsOf (LHdr.cgs ndRun.hdr) [0], State.oneCluster g = true) ∧
    t.reap.unreserved 0 0 = true ∧ t.reap.firstInTurn 0 ndRun = true ∧ t.reap.savedOf 0 = [] ∧ (t.reap.placeAll 0 ndRun 0 [0]).isSome = true ∧
    (t.reap.placeAll 0 ndRun 0 [1280]).isNone = true ∧ t.coreFits 0 ndRun.hdr 0 = true := by decide +kernel
theorem witness_PlacementAndActiveSet_reserve :
    let n : Node := { ndRun with hdr := ndRun.hdr ||| 0x7F#1024 <<< 40, passedAt := some 0 }
    let t : State := { withNode n with cycle := 100000 }
    let u : State := (run wa).modCtx 0 fun c => { c with svpool := 0x1000000010 }
    (t.placing.find? fun p => p.1 = 0) = some (0, n) ∧ t.canPlace 0 n = false ∧ (withNode ndRun).canPlace 0 ndRun = true ∧ 0 + 100000 ≤ t.cycle ∧ t.unreserved 0 0 = true ∧
    t.victim (t.ctx 0).prio = none ∧ (u.victim 1).isSome = true ∧ u.victim 0 = none := by decide +kernel
theorem witness_PlacementAndActiveSet_displace :
    let out : Warp := { wa with slot := 8, st := .out }
    let t : State := { (List.range 8).foldl (fun (s : State) i => s.putWarp { wa with slot := i }) one with cycle := 256 }
    let u := t.putWarp out
    u.warp? (warpKey 0 8) = some out ∧ 8 ≤ ((u.warps.map (·.2)).filter fun x => x.core = 0 && !x.foreman && x.st = .act).length ∧ out.waitSince + 256 ≤ u.cycle ∧
    out.foreman = false := by decide +kernel

/-! ## Commands, phases, mailboxes -/

def did : State.Attempt → Bool
  | .did _ _ => true
  | _ => false
def waits : State.Attempt → Bool
  | .wait => true
  | _ => false
/-- The warp of `run` beside queue 0 of context 0. -/
def sQueue : State := { run wa with mem := (run wa).mem.writeBytes 0x30000 (leBytes 24 (0x31000 + 2 ^ 56 + 2 ^ 63 + 2 ^ 64)), ctxs := qdev.ctxs }
theorem witness_CommandForms :
    let f := fm (.scl 5) (.scl 4) (s 9)
    let os : List Warp.Operand := [(⟨f.addr, 0, f.fa⟩, 1), (f.data, 1)]
    let va := sQueue.queueVa 0 0
    let d := QDesc.ofNat (leNat (((run wa).mem.writeBytes 0x30000 (leBytes 24 (0x31000 + 2 ^ 56 + 2 ^ 63 + 2 ^ 64))).readBytes 0x30000 24))
    let many : State := { run wa with tasks := (List.range 256).map fun i => (i, { ctx := 0, rec1 := 0 }) }
    let held := fun (ok : Bool) => ({ wa with log := [{ ent wa with acc := .command, pc := wa.pc, parts := [{ slot := 0, lane := 96, addr := 0x10000, ok := ok }] }] } : Warp)
    (run (held true)).curWarp = some (held true) ∧ (held true).heldCommand = some (ent (held true)) ∧ (∀ p ∈ (ent (held true)).parts, p.ok = true) ∧
    (run (held false)).curWarp = some (held false) ∧ (held false).heldCommand = some (ent (held false)) ∧ (∃ p ∈ (ent (held false)).parts, p.ok = false) ∧ wa.heldCommand = none ∧
    sQueue.curWarp = some wa ∧ wa.anyPrivate (os.map (·.1)) = false ∧ wa.Clear f.h (wa.needs os ++ wa.needsDst 1 f.dst) false false ∧
    (wa.ea f.addr f.off 0 0).toNat % 128 = 0 ∧ (wa.ea f.addr 64 0 0).toNat % 128 ≠ 0 ∧ releaseBusy sQueue wa true = false ∧ wa.freeEntry ≠ none ∧
    did (sQueue.attempt wa wa.sup 0x180 0 0x10000 0) = true ∧ waits (many.attempt wa wa.sup 0x18B 0 0x10000 0) = true ∧ (sQueue.ctx 0).qmax < 2 ∧
    (sQueue.pageLocate 0 va 0 24 .read false).toOption.isSome = true ∧ (sQueue.pageLocate 0 va 0 16 .write false).toOption.isSome = true ∧ d.valid = true ∧
    d.wr - d.rd ≠ 2 ^ d.size ∧ (sQueue.cmdRead wa false 0 0x10000 128).isRight = true ∧ (sQueue.pageLocate 0 (d.place d.wr) 0 128 .write false).toOption.isSome = true ∧
    256 ≤ many.seamQueue ∧ (run wa).seamQueue < 256 ∧ wa.Clear yes (wa.needs [(s 3, 1)]) false false := by
  unfold Warp.Clear; decide +kernel
/-- `seamgo` of two members, each at its own record. -/
theorem witness_CommandForms_members :
    let f := fm noDst (.scl 130) nil
    let w2 := (wp.sput 0 130 0x10000).sput 1 130 0x10080
    let os : List Warp.Operand := [(⟨f.addr, 0, f.fa⟩, 1)]
    (run w2).curWarp = some w2 ∧ w2.heldCommand = none ∧ w2.anyPrivate (os.map (·.1)) = true ∧ w2.active = [0, 1] ∧
    w2.Clear f.h (w2.needs os ++ w2.needsDst 1 (.imm 0)) false false ∧ (∀ m ∈ w2.active, (w2.ea f.addr f.off m 0).toNat % 128 = 0) ∧
    releaseBusy (run w2) w2 true = false ∧ w2.freeEntry ≠ none ∧ (w2.ea f.addr 64 0 0).toNat % 128 ≠ 0 ∧
    (w2.active.foldlM (fun (x : State × List (Nat × Word)) m =>
      match x.1.attempt w2 w2.sup 0x18B m (w2.ea f.addr f.off m 0) 0 with
      | .did t r => some (t, x.2 ++ [(m, r)])
      | _ => none) (run w2, [])).isSome = true := by
  unfold Warp.Clear; decide +kernel
/-- A foreman's view, and a warp's: phases, decision queue and mailbox, empty, with one entry, and full. -/
def fore : State := dev.setupBlock true
theorem witness_PhasesAndMailboxes :
    let bl := blk0 (run wa)
    let one' : Warp := { wa with rdv := some .advance }
    let ph := (run wa).putWarp one'
    let fw := fore.curWarp.getD {}
    let q := fore.modBlock 0 fun b => { b with dq := List.replicate 64 (0, 0), mbox := List.replicate 16 0 }
    (run wa).curWarp = some wa ∧ wa.tx = none ∧ releaseBusy (run wa) wa true = false ∧ wa.info.phased = false ∧ (run wa).block? wa.blk = some bl ∧ bl.savedWarps = [] ∧
    ph.advancing 0 = [one'] ∧ ph.phaseMay 0 = true ∧ (run wa).phaseMay 0 = false ∧ wa.Clear yes (wa.needsDst 1 (.scl 5)) false false ∧
    fw.foreman = true ∧ fore.curWarp = some fw ∧ fw.tx = none ∧ (fw.scl 0 (s 3)).toNat < (blk0 fore).wpb ∧ fore.warpLives 0 0 = true ∧
    fw.Clear yes (fw.needs [(s 4, 1), (s 3, 1)]) false false ∧ releaseBusy fore fw false = false ∧ (blk0 fore).dq.length + 1 ≤ 64 ∧ 64 < (blk0 q).dq.length + 1 ∧
    16 < (blk0 q).mbox.length + 1 ∧ q.curWarp = some fw ∧ (blk0 q).dq.findIdx? (fun e => e.2 = wa.info.pos) = some 0 ∧ bl.dq = [] ∧ (run wa).foremanLives 0 = false ∧
    fore.foremanLives 0 = true ∧ bl.mbox = [] ∧ fw.Clear yes (fw.needsDst 1 (.scl 5)) false false ∧ fw.log = [] ∧ fore.replicas = [] ∧
    wa.Clear yes (wa.needs [(s 3, 1)]) false false := by
  unfold Warp.Clear; decide +kernel

/-! ## Traps, requests, system registers, saves -/

/-- A handler at 0x8000, and none; a warp in it, after a trap of the whole warp, a software trap and a lane's fault. -/
def handled : State := (run wa).modCtx 0 fun c => { c with trapvec := 0x8000 }
def sup (r : Word) : Warp := { wa with sup := true, record := r :: 0x400000 :: List.replicate 14 0, recMm := 1 }
theorem witness_TrapEntryAndForms :
    let e : LogEntry := { ent wa with parts := [{ slot := 0, lane := 5, addr := 0x10000, fault := some (18, 1, 0x10000) }] }
    let w : Warp := { wa with log := [e] }
    handled.curWarp = some wa ∧ wa.tx = none ∧ wa.foreman = false ∧ (handled.ctx 0).trapvec &&& 0x00FFFFFFFFFFFFFC ≠ 0 ∧ wa.sup = false ∧
    ((run wa).ctx 0).trapvec &&& 0x00FFFFFFFFFFFFFC = 0 ∧ (run (sup 0)).curWarp = some (sup 0) ∧ (sup 0).sup = true ∧ wa.Clear yes (wa.needs [(s 4, 1)]) false false ∧
    wa.Clear yes (wa.needsDst 1 (.scl 5)) false false ∧ (sup 0).recEntry = none ∧ (sup 0).loopTrap = false ∧ ((sup 0).record.getD 0 0).extractLsb' 0 8 ≠ 22#8 ∧
    ((sup 22).record.getD 0 0).extractLsb' 0 8 = 22#8 ∧ ({ sup 18 with recEntry := some 0 } : Warp).recEntry = some 0 ∧ e.sup = false ∧
    (run w).warp? (warpKey 0 0) = some w ∧ (w.pendingFaults.filter fun p => !p.2.inRec && !p.2.retry && (p.1.sup || !w.sup)).length = 1 ∧ w.st = .act ∧
    wa.log = [] ∧ handled.mxOf wa = [] ∧ (run w).settled w = true ∧
    (let x : Warp := { wa with trapDue := some ({ cls := 1 }, wa.pc, false) }; (run x).boundary x = none ∧ (run x).settled x = true) ∧
    (let x : Warp := { curW sLoad with trapDue := some ({ cls := 1 }, wa.pc, false) }; sLoad.boundary x = none ∧ sLoad.settled x = false) ∧
    (let y : Warp := { sup 0 with log := [{ ent wa with acc := .scales 3, pc := 0x400000, seq := 0, parts := [{ slot := 0, lane := 96, addr := 0x10000, fault := some (18, 1, 0x10000), inRec := true }] }],
                                  recEntry := some 0 }
     (run y).curWarp = some y ∧ y.Clear yes [] false false ∧ ((y.trapReturn 1 0).log.all fun e => e.seq != 0) = true) := by
  unfold Warp.Clear; decide +kernel
/-- A command held for its result stays when its part is abandoned; an abort leaves no register empty; a fence of user mode does not reach a handler. -/
theorem witness_TrapEntryAndForms_command :
    let e : LogEntry := { ent wa with acc := .command, dst := 5, pc := 0x400000, seq := 0, parts := [{ slot := 0, lane := 96, addr := 0x10000, fault := some (18, 1, 0x10000), inRec := true }] }
    let w : Warp := { wa with sup := true, log := [e], recEntry := some 0, record := [18, 0x400000, 0, 0x400000] ++ List.replicate 12 0 }
    w.recEntry = some e.seq ∧ e.acc = .command ∧ e.dst < 256 ∧ e.pc = w.record.getD 3 0 ∧ ((w.trapReturn 1 0).heldCommand.map (·.seq)) = some 0 := by decide +kernel
theorem test_abort_refills :
    let w := ({ wTx with log := [{ ent wa with acc := .load 4 false, dst := 9, tx := true, parts := [{ slot := 0, lane := 0, addr := 0, fault := some (18, 1, 0) }] }] } : Warp).setEmpty 0 true (.v 9)
    w.isEmpty 0 (.v 9) = true ∧ (w.dropTx 3 0 0).isEmpty 0 (.v 9) = false ∧ (w.dropTx 3 0 0).log = [] := by decide +kernel
theorem test_fence_handler : wFence.heldByFence true = true ∧ ({ wFence with sup := true } : Warp).heldByFence true = false := by decide +kernel
/-- A request pending or not; a monitor armed on a line, written, past its limit and within it. -/
theorem witness_RequestsAndMonitor :
    let asked := (run wa).modBlock 0 fun b => { b with preq := 1, deadline := 7 }
    let f := fm noDst (.scl 4) nil
    let armed : Warp := { wa with mon := { armed := true, line := 0x10000, pline := 0x10000 } }
    let late : Warp := { armed with st := .wait, waitOn := some .monitor, mon := { armed.mon with deadline := some 0 } }
    let t : State := { run late with dieTime := List.replicate 8 10 }
    (run wa).curWarp = some wa ∧ (∃ b, asked.block? 0 = some b ∧ b.preq.getLsbD 0 = true) ∧ ((run wa).block? 0).any (fun b => b.preq.getLsbD 0) = false ∧
    wa.Clear f.h (wa.needs [(⟨f.addr, 0, f.fa⟩, 1)]) false false ∧ wa.freeEntry = some 0 ∧ ((run wa).locateByte wa (newEntry wa 0 0 { acc := .monitor, size := 1 } false [] 0)
      { slot := 0, lane := 0, addr := 0x10000 } 0).toOption.isSome = true ∧ wa.Clear yes (wa.needs [(s 3, 1)]) false false ∧ (∀ e ∈ wa.log, e.acc ≠ .monitor) ∧
    wa.heldByFence false = false ∧ (∀ e ∈ wa.log, e.acc ≠ .monitor) ∧
    (let x : Warp := { wa with fences := [{ pos := 0 }] }; (run x).curWarp = some x ∧ x.heldByFence false = true ∧ x.Clear f.h (x.needs [(⟨f.addr, 0, f.fa⟩, 1)]) false false) ∧
    (run armed).curWarp = some armed ∧ armed.mon.armed = true ∧ armed.mon.written = false ∧ armed.restored = false ∧ wa.mon.armed = false ∧
    t.warp? (warpKey 0 0) = some late ∧ 0 < t.coreCycle 0 := by
  unfold Warp.Clear
  refine ⟨by decide +kernel, ⟨{ blk0 (run wa) with preq := 1, deadline := 7 }, by decide +kernel, by decide +kernel⟩, ?_⟩; decide +kernel
theorem witness_SystemRegisters :
    (run wa).curWarp = some wa ∧ wa.Clear yes (wa.needsDst 1 (.scl 5)) false false ∧ wa.Clear yes (wa.needs [(s 3, 1)]) false false ∧ sysReads 8 wa.sup = false ∧
    sysReads 7 wa.sup = true ∧ sysWrites 8 wa.sup = false ∧ sysWrites 2 wa.sup = true ∧ sysWrites 31 (sup 0).sup = true ∧ sysWrites 32 (sup 0).sup = false ∧
    wa.active ≠ [] ∧ ((State.sysWrite ((run (sup 0)).putWarp (sup 0)) (sup 0).key (sup 0) 8 0x100000).warp? (sup 0).key).isSome = true ∧
    (run wa).warp? wa.key = some wa ∧ (run (sup 0)).curWarp = some (sup 0) := by
  unfold Warp.Clear; decide +kernel
/-- A save pool of 16 units, a request past its deadline; a block of which every warp is saved, on its core and off it. -/
def sSave : State := { ((run wa).modCtx 0 fun c => { c with svpool := 0x1000000010 }).modBlock 0 fun b => { b with preq := 1, deadline := 0 } with dieTime := List.replicate 8 10 }
def sSaved : State := { sSave.modBlock 0 fun b => { b with savedWarps := [{ pos := 0, warp := wa }], frames := [(0, 1)] } with warps := [] }
def sOff : State := sSaved.modBlock 0 fun b => { b with st := .saved, bunit := 3 }
theorem witness_SavesAndRestores :
    let going : Warp := { wa with saving := some false, st := .save }
    let t := sSave.putWarp going
    let ring : Warp := { wa with canCount := 1024 }
    sSave.warp? 0 = some wa ∧ wa.key = 0 ∧ wa.saving = none ∧ ((sSave.block? wa.blk).any fun b => b.preq.getLsbD 0 && decide (b.deadline < sSave.coreCycle 0)) = true ∧ wa.ended = false ∧
    t.warp? 0 = some going ∧ t.quiet going = true ∧ t.pairLevel going = true ∧ (t.block? 0).isSome = true ∧ (t.unitFor (blk0 t) 2).isSome = true ∧ wa.trapDue = none ∧ wa.loopDue = false ∧ wa.canCount < 1024 ∧ wa.txQuiet = true ∧ wa.tail = none ∧ wa.tx = none ∧
    (let x : Warp := { curW sLoad with tx := wTx.tx, log := (curW sLoad).log.map fun e => { e with tx := true } }; x.txQuiet = false) ∧
    (let x := curW sLoad; sLoad.quiet x = false) ∧ (run ring).warp? (warpKey 0 0) = some ring ∧ 1024 ≤ ring.canCount ∧
    (blk0 sSaved).st = .resident ∧ (blk0 sSaved).aborted = false ∧ (blk0 sSaved).savedWarps ≠ [] ∧ (∀ p ∈ sSaved.warps, p.2.blk = 0 → sSaved.warpOver p.2 = true) ∧
    (sSaved.unitFor (blk0 sSaved) (1 + (blk0 sSaved).fscr)).isSome = true ∧ tget [] sSaved.conv (clusterOf (blk0 sSaved).core) = [] := by decide +kernel
theorem witness_SavesAndRestores_back :
    let b := blk0 sOff.reap
    let nd := (sOff.reap.node? b.node).getD nd0
    sOff.reap.block? 0 = some b ∧ sOff.reap.node? b.node = some nd ∧ b.st = .saved ∧ b.aborted = false ∧ sOff.reap.resident b.ctx = true ∧ b.fscr = 0 ∧
    sOff.reap.restoreFits b.node nd b 3 = true ∧ sOff.reap.restoreFits b.node nd b 1280 = false ∧ sOff.reap.firstInTurn b.node nd = true ∧
    (sOff.reap.savedOf b.node).all (fun p => decide (b.b ≤ p.2.b)) = true ∧ sOff.reap.replicas = [] := by decide +kernel

/-! ## Collectives, ports, reliability -/

/-- An all-reduce (operation 0) of one FP64 element from 0x10000 to 0x20000, and a group of the fabric ranks 0 and 1 in entry 0 (R428, R430). -/
def img2 : BitVec 1536 := 3#1536 ||| 1#1536 <<< 1039 ||| 7#1536 <<< 1056 ||| 1#1536 <<< 1088
def grp : Group := { valid := true, img := img2, own := 0 }
def sGrp : State := (run wa).modCtx 0 fun c => { c with groups := [(0, grp)] }
def coll0 : Coll := { ctx := 0, core := 0, g := 0, seq := 0, blk := 0x10000, group := grp,
                      params := 1#768 <<< 64 ||| 0x10000#768 <<< 128 ||| 0x20000#768 <<< 192 }
def withColl (c : Coll) : State := { sGrp with colls := [(0, c)] }
theorem witness_CollectiveForms :
    let f := fm (.scl 5) (.scl 4) (s 9)
    let os : List Warp.Operand := [(⟨f.addr, 0, f.fa⟩, 1), (f.data, 1)]
    let full : State := { run wa with colls := (List.range 64).map fun i => (i, { coll0 with engine := i / 32 }) }
    let asks : Warp := { wa with slot := 1, st := .wait, waitOn := some .queue }
    let asked : State := { sGrp.putWarp asks with collAsk := [1] }
    let held : Warp := { wa with log := [{ ent wa with acc := .command, pc := wa.pc, parts := [{ slot := 0, lane := 96, addr := 0x10000, ok := true }] }] }
    (run held).curWarp = some held ∧ held.heldCommand = some (ent held) ∧ (∀ p ∈ (ent held).parts, p.ok = true) ∧ wa.heldCommand = none ∧
    sGrp.collTurn wa = true ∧ asked.asksColl 1 = true ∧ asked.warp? 1 = some asks ∧ asked.collTurn wa = false ∧ asked.collTurn asks = true ∧ waits (asked.attempt wa false 0x198 0 0x10000 0) = true ∧
    sGrp.curWarp = some wa ∧ wa.Clear f.h (wa.needs os ++ wa.needsDst 1 f.dst) false false ∧ (wa.ea f.addr f.off 0 0).toNat % 128 = 0 ∧
    (wa.ea f.addr 32 0 0).toNat % 64 ≠ 0 ∧ releaseBusy sGrp wa true = false ∧ wa.freeEntry ≠ none ∧ did (sGrp.attempt wa false 0x198 0 0x10000 0) = true ∧
    waits (full.attempt wa false 0x198 0 0x10000 0) = true ∧ (sGrp.cmdRead wa false 0 0x10000 96).isRight = true ∧ sGrp.freeEngine 0 = some 0 ∧
    full.freeEngine 0 = none ∧ (tget {} ((run wa).ctx 0).groups 0).valid = false ∧ (tget {} (sGrp.ctx 0).groups 0).valid = true ∧ collInvalid 0 grp = false ∧ collInvalid (BitVec.allOnes 768) grp = true ∧
    (withColl coll0).colls.any (fun p => decide (p.2.ctx = 0 ∧ p.2.g = 0)) = true ∧ img2.extractLsb' 1040 16 = 0 ∧ img2.extractLsb' 1104 432 = 0 ∧
    img2.getLsbD 1039 = true ∧ (∀ k ∈ groupRanks img2, k < 16384) ∧ (run wa).rank ∈ groupRanks img2 ∧ groupRanks img2 = [0, 1] ∧
    ({ run wa with rank := 2 } : State).rank ∉ groupRanks img2 ∧ (img2 ||| 0x3FFF#1536 <<< 1024).getLsbD 1039 = true ∧
    groupRanks (img2 ||| 0x3FFF#1536 <<< 1024) = [16383, 16384] := by
  unfold Warp.Clear; decide +kernel
theorem witness_CollectivesRun :
    let own : Chunk := { src := 0 }
    let k1 : Chunk := { src := 1, digest := grp.digest, data := List.replicate 8 0 }
    let later : Coll := { coll0 with seq := 1 }
    let two : State := { sGrp with colls := [(0, coll0), (1, later)] }
    let sent : Coll := { coll0 with sent := true, own := own }
    let both : Coll := { sent with chunks := [k1] }
    tfind (withColl coll0).colls 0 = some coll0 ∧ coll0.done = false ∧ coll0.sent = false ∧ coll0.op = 0 ∧ coll0.awaited = [1] ∧ ((withColl coll0).collInput coll0).toOption.isSome = true ∧
    ((withColl coll0).colls.all fun p => p.2.chunks.isEmpty) = true ∧ sent.sent = true ∧ (∀ u ∈ sent.steps, sent.counter u ≠ 0) ∧ sent.due = none ∧
    both.due = some (0, 0) ∧ both.counter (0, 0) = 0 ∧ ((withColl both).writeOuts 0 both (State.stepOuts both (0, 0))).toOption.isSome = true ∧ 0 < both.count ∧ 0 = 0 / both.perChunk ∧ tfind two.colls 1 = some later ∧ (∃ p ∈ two.colls, p.2.seq < later.seq ∧ p.2.sent = false ∧ p.2.done = false) ∧
    (∀ p ∈ (withColl coll0).colls, ¬p.2.seq < coll0.seq) ∧ 0 < coll0.chunkCount (coll0.wireElems 0) ∧ coll0.esz ≤ 2 ^ 20 ∧ 1 ∈ coll0.awaited ∧
    k1.data.length = coll0.chunkElems (coll0.wireElems 1) 0 * coll0.wireSize ∧ 0 < coll0.chunkCount (coll0.wireElems 1) ∧ ¬5 < coll0.chunkCount (coll0.wireElems 1) ∧ (∀ k ∈ both.chunks, k.cancel = none ∧ k.ok = true) ∧
    ({ k1 with cancel := some true } : Chunk).cancel = some true ∧ (coll0.group.img.extractLsb' 1088 16).toNat = 1 ∧
    coll0.last + 1 * 1500000 ≤ ({ withColl coll0 with cycle := 1500000 } : State).cycle ∧ 1 ∈ groupRanks coll0.group.img ∧ (withColl coll0).unreachable 1 = true ∧
    (withColl coll0).replicas = [] ∧ grp.n = 2 ∧ 1 ≠ grp.own ∧ grp.seq.toNat ≤ 0 ∧ sGrp.colls = [] ∧ sGrp.early = [] ∧
    (withColl sent).colls.find? (fun p => p.2.ctx = 0 && p.2.g = 0 && p.2.seq = 0) = some (0, sent) ∧ sent.chunks = [] := by decide +kernel
/-- A port of eight lanes: intact and failing flits up to the sixteenth, retraining done and not, a lane at each boundary of R424. -/
theorem witness_PortsAndReductionValues :
    let l : PortLane := { margin := 400 }
    let p : Port := { width := 8, lanes := List.replicate 8 l }
    let t : State := { run wa with ports := [(0, p)] }
    let r : Port := { p with retraining := some 0, replays := 16, lanes := lset p.lanes 0 { l with st := 2 } }
    tfind t.ports 0 = some p ∧ tfind t.ports 1 = none ∧ p.width ≠ 0 ∧ p.retraining = none ∧ p.replays < 16 ∧ 16 ≤ r.replays ∧ r.lanes[0]? = some { l with st := 2 } ∧
    p.lanes[1]? = some l ∧ r.retraining = some 0 ∧ p.fitWidth = 8 ∧ r.fitWidth = 4 ∧ (∃ i < 8, ∃ l ∈ p.lanes[i]?, l.st ≠ 3) ∧ (∀ i < 8, ∀ l ∈ ({} : Port).lanes[i]?, l.st = 3) ∧ wa.Clear yes (wa.needsDst 1 (.scl 5)) false false ∧
    wa.Clear yes (wa.needs [(s 9, 1)] ++ wa.needsDst 1 (.scl 5)) false ((Spec.scl 5).num < 128 && wa.anyPrivate [s 9]) ∧
    (∀ n ∈ [9, 255, 257], ∀ k < 9, n ≠ 2 ^ k) ∧ 1024 = 2 ^ 10 ∧ 2 ^ 64 - 1 < 2 ^ 64 ∧
    ({ coll0 with params := 3#768 <<< 384 } : Coll).rop = 3 := by
  unfold Warp.Clear; decide +kernel
/-- A leader with its tailing warp, whose outputs are compared; wires that fail one by one. -/
theorem witness_ReliabilityForms :
    (wa.ended = false ∧ wa.st ≠ .free ∧ wa.st ≠ .save ∧ wa.foreman = false ∧ wa.xa.length = 8 ∧ wa.banks.length = wa.p ∧ State.isHost 0 = false ∧ (95 : Nat) < 96 ∧ (7 : Nat) < 8) ∧
    (let e : PairEntry := { n := 3, pc := 0x400000 }
    let lead : Warp := { wa with tail := some 1, outq := [e] }
    let tail : Warp := { wa with slot := 1, lead := some 0, outq := [e] }
    let t := (run lead).putWarp tail
    let worn : State := { run wa with wires := [(0, 4)] }
    let slow : State := { worn with roofst := [(0, 1 + 4096 * 2)] }
    let gone : State := { worn with roofst := [(0, 2)] }
    (run wa).curWarp = some wa ∧ wa.tx = none ∧ wa.Clear yes [] false false ∧ (run wa).warp? 0 = some wa ∧ wa.key = 0 ∧ wa.tail = none ∧ wa.lead = none ∧
    (1 &&& (wa.bank 0).live) ≠ 0 ∧ (0 &&& (wa.bank 0).live) = 0 ∧ 0 < wa.banks.length ∧ wa.Clear yes (wa.needsDst 1 (.scl 0x85)) false ((Spec.scl 0x85).num < 128) ∧
    t.curWarp = some lead ∧ t.warp? (warpKey 0 0) = some lead ∧ t.warp? (warpKey 0 1) = some tail ∧ t.pairLevel lead = true ∧ lead.outq ≠ [] ∧
    (∀ x ∈ lead.log, x.seq = e.seq → x.shared = false) ∧ wa.sup = false ∧ (sup 0).sup = true ∧ wa.Clear yes (wa.needs [(s 3, 1)]) false false ∧
    (sup 0).Clear yes ((sup 0).needs [(s 3, 1)]) false false ∧ (tget 0 (run wa).roofst 0).toNat % 4 = 0 ∧ tget 0 (run wa).wires (0 * 32 + 0) < 4 ∧
    4 ≤ tget 0 worn.wires (0 * 32 + 0) ∧ (tget 0 slow.roofst 0).toNat % 4 = 1 ∧ roofGroup (tget 0 slow.roofst 0) = 2 ∧ (tget 0 gone.roofst 0).toNat % 4 = 2 ∧
    tget 0 gone.spares 0 < 4 ∧ 4 ≤ tget 0 ({ gone with spares := [(0, 4)] } : State).spares 0 ∧ ((2 + 128 * 95 : Word).toNat / 128 % 128 = 95)) := by
  refine ⟨by decide +kernel, ?_⟩
  unfold Warp.Clear; decide +kernel

/-! ## Seam cores -/

/-- A running instance of a task with the region 0x500000–0x5FFFFF. -/
def seamOne : State := dev.setupSeam
def inst0 : SeamInst := ((tfind seamOne.insts 0).getD { task := 0, idx := 0, core := 0, ctx := 0 })
def task0 : SeamTask := (seamOne.task? 0).getD { ctx := 0, rec1 := 0 }
def op (d a b k : Nat) (f : Nat) (imm : Nat := 0) : SeamOp := ⟨BitVec.ofNat 5 d, BitVec.ofNat 5 a, BitVec.ofNat 5 b, BitVec.ofNat 3 k, BitVec.ofNat 6 f, BitVec.ofNat 32 imm⟩
theorem seam_runs : seamOne.SeamRuns 0 inst0 task0 := by unfold State.SeamRuns; decide +kernel
theorem witness_SeamScalarForms : seamOne.SeamRuns 0 inst0 task0 ∧ inst0.xget 0 = 0 ∧ (inst0.xget 5).toNat % 8 = 0 ∧ (inst0.xput 5 4).xget 5 = 4 ∧
    seamOne.seamQuiet inst0 = true ∧ (let i : SeamInst := { inst0 with writes := [{ group := 0, pa := 0, leaf := 0, data := [0] }] }; seamOne.seamQuiet i = false) ∧
    (inst0.xget 5).toNat ≤ seamOne.timeline 0 0 ∧ seamOne.timeline 0 0 < ((inst0.xput 5 4).xget 5).toNat ∧ task0.mode 0 ≠ 0 ∧ task0.base 0 % 4096 = 0 ∧
    task0.base 0 + task0.size 0 < 2 ^ 56 ∧ (0 : Nat) < task0.base 0 + task0.size 0 ∧ 0xBFFFFFFFFF < hbmTop ∧
    (let p := hbmPlace 0xBFFFFFFFFF; p.stack = 7 ∧ p.channel = 191 ∧ p.seam = p.channel / 8 ∧ p.row = p.off / 512 ∧ p.off = 2 ^ 29 - 1) := by
  refine ⟨seam_runs, ?_⟩; decide +kernel
theorem witness_SeamVectorForms : seamOne.SeamRuns 0 inst0 task0 ∧ (op 1 2 3 0 0x20).f.getLsbD 5 = true ∧ (op 1 2 3 0 0).f.getLsbD 5 = false ∧ (op 1 2 0 0 5).f.toNat ≤ 5 ∧
    (op 1 2 0 0 7).f = 7 ∧ (op 1 2 0 0 9).f = 9 ∧ ((List.range 16).filter fun l => (inst0.kget 0).getLsbD l) ≠ [] ∧
    ((List.range 16).filter fun l => (inst0.kget 1).getLsbD l) = [] := by
  refine ⟨seam_runs, ?_⟩; decide +kernel
def got : State.SeamRead → Nat
  | .got _ _ => 0
  | .wait => 1
  | .fault _ => 2
/-- A read and a write in the region, and a misaligned one; a write on its way. -/
theorem witness_SeamMemoryForms :
    let w : SeamWrite := { group := 0, pa := 0x500000, leaf := 0x2F, data := [1, 2, 3, 4] }
    let i : SeamInst := { inst0 with writes := [w] }
    let t : State := { seamOne with insts := [(0, i)] }
    seamOne.SeamRuns 0 inst0 task0 ∧ got (seamOne.seamRead inst0 task0 [(0x500000, 4)] 4) = 0 ∧ got (seamOne.seamRead inst0 task0 [(0x500002, 4)] 4) = 2 ∧
    (seamOne.seamWrite inst0 task0 [(0x500000, [1, 2, 3, 4])] 4 none).toOption.isSome = true ∧ (seamOne.seamWrite inst0 task0 [(0x500002, [1])] 4 none).toOption.isSome = false ∧
    (op 0 1 2 0 6).f = 6 ∧ (op 0 1 2 0 5).f ≠ 6 ∧ (t.insts.find? fun p => p.2.core = 0 && p.2.writes != []) = some (0, i) ∧ i.writes = [w] ∧
    t.hostReady w.pa w.data.length (Leaf.ca w.leaf) = true ∧ w.red = none ∧
    (let r : SeamInst := { inst0 with writes := [{ w with red := some 1 }, { w with red := some 1 }, { w with pa := 0x500004, red := some 1 }] }
     let u : State := { seamOne with insts := [(0, r)] }
     (u.insts.find? fun p => p.2.core = 0 && p.2.writes != []) = some (0, r) ∧
     ((r.writes.drop 1).filter fun v => v.group = w.group && v.pa = w.pa).length = 1) ∧ (∀ p ∈ seamOne.insts, p.2.core ≠ 0 ∨ p.2.writes = []) := by
  refine ⟨seam_runs, ?_⟩; decide +kernel
theorem witness_SeamTasks :
    let queued : State := { seamOne with tasks := [(0, { task0 with st := .queued })], insts := [] }
    let probe : SeamTask := { task0 with st := .probe }
    let pt : State := { seamOne with tasks := [(0, probe)] }
    let waiting : SeamInst := { inst0 with st := .queued, fresh := true }
    let wt : State := { seamOne with insts := [(0, waiting)] }
    let over' : State := { seamOne with insts := [(0, { inst0 with st := .ended })] }
    let long : SeamInst := { inst0 with waitFrom := some 0 }
    seamOne.task? 0 = some task0 ∧ seamOne.task? 1 = none ∧ seamOne.runningOn 0 = some (0, inst0) ∧ seamOne.runningOn 1 = none ∧
    queued.task? 0 = some { task0 with st := .queued } ∧ queued.firstTask 0 = true ∧ queued.taskFits { task0 with st := .queued } = true ∧ task0.invalid = false ∧
    pt.task? 0 = some probe ∧ (pt.probe probe).toOption.isSome = true ∧ (probe.invalid = false) ∧ ({ probe with rec1 := 0 } : SeamTask).invalid = true ∧
    wt.runningOn 0 = none ∧ wt.nextInst 0 = some (0, waiting) ∧ over'.task? 0 = some task0 ∧ (∀ p ∈ over'.insts, p.2.st = .ended ∧ over'.seamQuiet p.2 = true) ∧
    task0.node = none ∧ task0.st = .run ∧ long.waitFrom = some 0 ∧ 0 + 65536 ≤ ({ seamOne with cycle := 65536 } : State).cycle ∧
    (let u := seamOne.modCtx 0 fun c => { c with res := false }; u.resident 0 = false) ∧ seamOne.seamQuiet inst0 = true := by decide +kernel

/-! ## The host port, contexts, starting and power -/

def ready : State := { dev with devState := 1 }
theorem witness_HostPort :
    let held := ready.modCtx 0 fun c => { c with gload := [5] }
    hbmTop - 8 + 8 ≤ hbmTop ∧ 2 ^ 41 - 8 + 8 ≤ 2 ^ 41 ∧ (∀ i < 8, ready.deviceOnly (0x10000 + i) = false) ∧ State.isHost 0x10000 = false ∧ State.isHost hostLo = true ∧
    (let m : State := { ready with mscSize := 1 }; m.deviceOnly (hbmTop - 1) = true ∧ (∀ j < 0, m.deviceOnly (hbmTop - 1 + j) = false)) ∧ ready.devState = 1 ∧ ready.powered = true ∧
    (ready.ctx 0).held = true ∧ (ready.ctx 1).held = false ∧ (ready.ctx 1).res = false ∧ (ready.ctx 1).busy = false ∧ (0x38 : Nat) % 8 = 0 ∧
    ready.resident 0 = true ∧ (ready.ctx 0).gload.contains 255 = false ∧ (held.ctx 0).gload.contains 5 = true ∧ held.colls = [] ∧ State.barAligned 0x402001 8 = false ∧
    dev.devState = 0 := by decide +kernel

/-! ## What the host holds: both sides of each premise about R468 -/

/-- The host holds the lines of `n` bytes at a physical address. -/
def hostHolds (s : State) (pa n : Nat) : State := { s with hostHeld := State.lineSpan pa n }
/-- The place of a virtual address in context 0. -/
def placeOf (s : State) (va : Word) (n : Nat) : Nat :=
  match s.agentLocate 0 va 0 n .write with
  | .ok (p :: _) => p.2.2.pa
  | _ => 0
theorem witness_BatchAndTimelineForms_host :
    (run wa).counterReady 0 2 = true ∧ (hostHolds (run wa) ((run wa).timelineAt 0 2) 8).counterReady 0 2 = false ∧
    ready.counterReady 0 0 = true ∧ (hostHolds ready (ready.timelineAt 0 0) 8).counterReady 0 0 = false ∧
    seamOne.counterReady 0 0 = true ∧ (hostHolds seamOne (seamOne.timelineAt 0 0) 8).counterReady 0 0 = false := by decide +kernel
theorem witness_AccessesPerformed_host :
    one.hostReady 0x10000 1 false = true ∧ (hostHolds one 0x10000 1).hostReady 0x10000 1 false = false ∧
    ((run wTx).hostReady 0x10000 8 true = true ∧ (hostHolds (run wTx) 0x10000 8).hostReady 0x10000 8 true = false) := by decide +kernel
theorem witness_QueueSlots_host :
    let s1 := qfetch.agentTouch 0 0 (qfetch.queueVa 0 0) 0 24
    let va := s1.queueVa 0 0 + 16#64
    s1.agentReady 0 va 8 = true ∧ (hostHolds s1 (placeOf s1 va 8) 8).agentReady 0 va 8 = false := by decide +kernel
theorem witness_NodeLifecycle_host :
    let cep : Node := { nd0 with hdr := nd0.hdr ||| 0x10000#1024 <<< 768, st := .ready, nblk := 0, counted := true }
    let t := withNode cep
    LHdr.cep cep.hdr ≠ 0 ∧ t.reap.agentReady 0 (LHdr.cep cep.hdr) 32 = true ∧
    (let u := hostHolds t (placeOf t (LHdr.cep cep.hdr) 32) 32; u.reap.agentReady 0 (LHdr.cep cep.hdr) 32 = false ∧ u.reap.nodeFinished cep = true) := by decide +kernel
theorem witness_CommandForms_host :
    let d := QDesc.ofNat (leNat (sQueue.mem.readBytes 0x30000 24))
    let va := sQueue.queueVa 0 0
    sQueue.agentReady 0 (d.place d.wr) 128 = true ∧ sQueue.agentReady 0 (va + 8#64) 8 = true ∧
    (hostHolds sQueue (placeOf sQueue (va + 8#64) 8) 8).agentReady 0 (va + 8#64) 8 = false := by decide +kernel
theorem witness_CollectivesRun_host :
    let own : Chunk := { src := 0 }
    let k1 : Chunk := { src := 1, digest := grp.digest, data := List.replicate 8 0 }
    let both : Coll := { coll0 with sent := true, own := own, chunks := [k1] }
    let t := withColl both
    let va : Word := coll0.blk + 96#64
    let outs := State.stepOuts both (0, 0)
    t.outsReady both outs = true ∧ t.agentReady 0 va 32 = true ∧ (hostHolds t (placeOf t va 32) 32).agentReady 0 va 32 = false ∧
    (outs.any fun o => !((hostHolds t (placeOf t o.addr 1) 1).outsReady both outs)) = true := by decide +kernel
/-- A reduction of exact sums: two cells on the wire, at 64 and 128 bytes. -/
theorem witness_CollectivesRun_windows :
    let c : Coll := { coll0 with params := coll0.params ||| 3#768 <<< 384 }
    let big : Exact := { v := (5#4352 <<< 640) ||| 7#4352, st := 0x20000 }
    let cells := (Exact.toCell {}) ++ big.toCell
    c.windowed = true ∧ coll0.windowed = false ∧ (c.pack 2 cells).length = 128 ∧ c.unpack 2 (c.pack 2 cells) = some cells ∧
    c.unpack 2 (List.replicate 576 0xFF) = none := by decide +kernel
theorem witness_ConvolutionForms_host :
    let j : ConvJob := { ctx := 0, core := 0, blk := some 0, place := 0, fields := convRec, started := true }
    let k : ConvJob := { j with outs := [(0x10000, [0, 0])] }
    one.convReady j = true ∧ one.convReady k = true ∧ (hostHolds one (placeOf one 0x10000 2) 2).convReady k = false := by decide +kernel
theorem witness_SeamTasks_host :
    let va := BitVec.ofNat 64 (task0.save + 2368 * inst0.idx)
    seamOne.agentReady 0 va 2368 = true ∧ (seamOne.agentReady 0 0x10000 32 = true) ∧
    (hostHolds seamOne (placeOf seamOne 0x10000 32) 32).agentReady 0 0x10000 32 = false := by decide +kernel

/-- A slot with a new descriptor, a good one and a bad one; one that holds a context; one that is resident. -/
def newCtx : State := ready.modCtx 1 fun c => { c with fresh := true, desc := 0x100000#512 ||| 0x60000#512 <<< 128 ||| 0x30000#512 <<< 192 }
theorem witness_ContextChanges :
    let bad := ready.modCtx 1 fun c => { c with fresh := true, desc := BitVec.allOnes 512 }
    let back := ready.modCtx 1 fun c => { c with held := true }
    let busy := ready.modCtx 1 fun c => { c with busy := true }
    newCtx.devState = 1 ∧ (newCtx.ctx 1).res = false ∧ (newCtx.ctx 1).busy = false ∧ (newCtx.ctx 1).fresh = true ∧ newCtx.descBad (newCtx.ctx 1).desc = false ∧
    bad.descBad (bad.ctx 1).desc = true ∧ (back.ctx 1).fresh = false ∧ (back.ctx 1).held = true ∧ (ready.ctx 1).held = false ∧ (ready.ctx 0).res = true ∧
    (ready.ctx 0).busy = false ∧ (busy.reap.ctx 1).busy = true ∧ busy.reap.hasLeft 1 = true ∧
    (let b : State := { busy with blocks := [(0, { node := 0, ctx := 1, b := 0, core := 0, jobs := 1 })] }; b.reap.hasLeft 1 = false ∧ (b.reap.ctx 1).busy = true) ∧
    (let j : ConvJob := { ctx := 0, core := 0, blk := none, place := 0, fields := 0 }
     let q := ready.modCtx 0 fun c => { c with jobs := [j] }
     q.resident 0 = true ∧ q.poolUnits 0 = 0 ∧ (q.ctx 0).jobs = [j] ∧ (tget [] q.conv (clusterOf j.core)).length < 16 ∧
       16 ≤ (tget [] ({ q with conv := [(0, List.replicate 16 j)] } : State).conv (clusterOf j.core)).length) := by
  decide +kernel
/-- The machine in boot step 5, in step 7, and in a step that has failed twice; a failure counted before is not clean. -/
theorem witness_DeviceStart :
    let at' := fun (n : Nat) (f : List Nat) => ({ State.reset with devStep := n, boot := { seq := 1, step := n, pend := true, fail := f } } : State)
    let z := List.replicate 7 0
    (at' 5 z).devState = 0 ∧ (at' 5 z).boot.pend = true ∧ (at' 5 z).boot.fail.length = 7 ∧ (at' 5 z).devStep = 5 ∧ (at' 5 z).boot.fail.getD 4 0 = 0 ∧
    (at' 5 z).boot.fail.getD 5 0 = 0 ∧ (at' 7 z).boot.fail.getD 6 0 = 0 ∧ (at' 3 [0, 0, 2, 0, 0, 0, 0]).boot.fail.getD 2 0 = 2 ∧ (at' 3 z).boot.fail.getD 0 0 ≤ 1 ∧
    State.reset.devState = 0 ∧ State.reset.devStep = 0 ∧ State.reset.powered = true ∧ State.reset.boot.pend = false ∧ ready.devState ≠ 0 ∧
    ({ ready with powered := false } : State).powered = false ∧ ({} : BootRec).fail.length = 7 := by decide +kernel
/-- The check value of the CRC-32 of IEEE 802.3, over the ASCII digits 1 to 9. -/
theorem test_crc32 : crc32 ((List.range 9).map fun i => BitVec.ofNat 8 (0x31 + i)) = 0xCBF43926#32 := by decide +kernel
/-- Each outcome of a capping window, at its boundary: above by one, inside by a tenth, in between; THR at 48. -/
theorem witness_PowerControl :
    let v : Word := 300#64
    let t : State := { State.reset with pcap := [(0, BitVec.ofNat 64 (300 + 2 ^ 16 * 100 + 2 ^ 28 * 100 + 2 ^ 40 + 2 ^ 42 * 48))] }
    State.reset.powered = true ∧ tget 0 State.reset.pcap 0 = v ∧ v.toNat < 2 ^ 48 ∧ (tget 0 t.pcap 0).toNat < 2 ^ 48 ∧ (tget 0 t.pcap 0).toNat / 2 ^ 42 % 64 = 48 ∧
    (tget 0 t.pcap 0).toNat / 2 ^ 40 % 4 = 1 ∧ (tget 0 t.pcap 0).toNat % 2 ^ 16 < 301 ∧ 270 * 10 ≤ 300 * 9 ∧ 90 * 10 ≤ 100 * 9 ∧ 100 * 11 ≤ 110 * 10 ∧
    ¬(300 < 271 ∨ 100 < 90 ∨ 110 < 100) ∧ 49 * 2 < 100 ∧ 100 ≤ 50 * 2 := by decide +kernel

/-! ## The machine as a whole -/

theorem witness_EncodingRoundTrip : illegal (.sadd good) = none ∧ encode (.sadd good) = .jarja (packR 0x047 good) ∧ illegal (.seamNop (op 0 0 0 0 0)) = none ∧
    (match encode (.seamNop (op 0 0 0 0 0)) with | .seam w => (match decodeSeam w with | .ok _ => true | .error _ => false) | _ => false) = true ∧
    (match decodeJarja (packR 0x047 good) with | .ok _ => true | .error _ => false) = true := by decide +kernel
noncomputable def placed : State := (run wa).pokeAll ((List.range 12).map (0x400000 + ·)) (leBytes 12 (packR 0x047 good).toNat)
noncomputable def seamPlaced : State := seamOne.pokeAll ((List.range 8).map (0x400000 + ·)) (encodeBytes (.seamNop (op 0 0 0 0 0)))
def word? : Front → Option (BitVec 96)
  | .word x => some x
  | _ => none
theorem witness_StepRunsDecoded :
    let s0 := (placed.tickOn.settleFences wa.key).dropStale wa.key
    let line := 0x400000
    let kept : State := { placed with code := [(placed.codeKey wa, [(line, List.replicate 128 7)])] }
    placed.agenda = [] ∧ placed.curWarp = some wa ∧ s0.warp? wa.key = some wa ∧ wa.tail = none ∧ wa.lead = none ∧ s0.boundary wa = none ∧ State.boundaryWait wa = false ∧ wa.st = .act ∧
    (∀ e ∈ wa.log, e.full = false) ∧ wa.fences = [] ∧ (∀ e ∈ wa.log, e.acc ≠ .command) ∧ tfind wa.loopBuf wa.pc.toNat = none ∧
    tfind (tget [] placed.code (placed.codeKey wa)) line = none ∧ tfind (tget [] kept.code (kept.codeKey wa)) line = some (List.replicate 128 7) ∧
    (∀ i < 12, placed.codePoisoned (placed.codeKey wa) (0x400000 + i) = false) ∧ ({ placed with poison := [line] } : State).codePoisoned (placed.codeKey wa) 0x400000 = true ∧
    ((List.range 12).map fun i => placed.codeByte (placed.codeKey wa) (0x400000 + i)) = encodeBytes (.sadd good) ∧ placed.oldCode (placed.codeKey wa) line = none ∧
    word? (s0.fetch wa) = some (packR 0x047 good) ∧ wa.pc.toNat % 4 = 0 ∧ wa.outerLoop = none ∧ placeOk wa.foreman (.sadd good) = true ∧ placeOk false (.fmend good) = false ∧
    (placed.fetchAddrs wa.core wa.ctx (dieOf wa.core) wa.pc wa.sup 12).toOption = some ((List.range 12).map (0x400000 + ·)) ∧ placed.poison = [] := by decide +kernel
theorem witness_StepRunsDecoded_seam :
    seamPlaced.agenda = [] ∧ seamPlaced.cur = some (.seam 0) ∧ seamPlaced.runningOn 0 = some (0, inst0) ∧ seamPlaced.tickOn.mustLeave inst0 = false ∧
    seamPlaced.tickOn.waitedLong inst0 = false ∧ seamPlaced.poison = [] ∧ inst0.pc.toNat % 8 = 0 ∧
    (seamPlaced.tickOn.fetchAddrs State.noWarp 0 (seamDie 0) inst0.pc false 8).toOption = some ((List.range 8).map (0x400000 + ·)) ∧
    (((List.range 8).map (0x400000 + ·)).map fun a => seamPlaced.mem.read (seamPlaced.home a)) = encodeBytes (.seamNop (op 0 0 0 0 0)) := by decide +kernel
/-- Addresses beside the carve-out of the memory-side cache, and an armed monitor on the line written. -/
theorem witness_PhysicalMemory : (run wa).Canonical ∧ (run wa).mscSize ≤ 4 ∧ ¬((run wa).carveLo ≤ 0x10000 ∧ 0x10000 < hbmTop) ∧
    ¬((run wa).carveLo ≤ (run wa).carveLo - 1 ∧ (run wa).carveLo - 1 < hbmTop) ∧ (run wa).warp? 0 = some wa ∧ 0 ≠ State.noWarp ∧
    (0x10000 ∈ State.lineSpan 0x10000 128) ∧
    (let w : Warp := { wTx with mon := { armed := true, pline := 0x10000 } }; (run w).warp? 0 = some w ∧ w.mon.armed = true ∧ (w.tx.bind (·.pending)) = none) := by
  refine ⟨witness_canonical, ?_⟩; decide +kernel
theorem witness_StepKeepsInvariants : (run wa).Canonical ∧ (run wa).Keyed ∧ (run wa).curWarp = some wa ∧ State.reset.Canonical ∧ State.reset.Keyed := by
  refine ⟨witness_canonical, ?_⟩; unfold State.Keyed State.Canonical; decide +kernel
/-- Members 0 and 1 of a pod of two, lane 95, the last mask register, and a warp that has not ended. -/
theorem witness_ResultAndRetireFrames : wp.banks.length = wp.p ∧ 1 < wp.p ∧ 1 ∈ wp.active ∧ wp.commonV 8 = false ∧ wp.commonV 7 = true ∧ wp.ended = false ∧
    (wp.part yes 1).getLsbD 95 = true := by decide +kernel
/-- Instructions of the frame that answer a next state: one that retires, one that traps. -/
theorem witness_OwnWarpFrame : (Instr.sadd good).ownWarp = true ∧ (Instr.trap (fi noDst nil 1)).ownWarp = true ∧
    (match exec (.sadd good) (run wa), exec (.trap (fi noDst nil 1)) handled with | .next _, .next _ => true | _, _ => false) = true := by decide +kernel

/-! ## Single steps whose result the spec gives -/

/-- The value of a common scalar register after an instruction on the warp `w`. -/
noncomputable def sOf (i : Instr) (w : Warp) (n : Nat) : Word := (curW (after i (run w))).sget 0 n
/-- A lane of a vector register of member 0 after it. -/
noncomputable def vOf (i : Instr) (w : Warp) (n l : Nat) : Lane32 := (curW (after i (run w))).vget 0 n l
/-- The lanes of v8 hold their own numbers. -/
def wLanes : Warp := wa.vput 0 8 allL ((List.range 96).map fun l => BitVec.ofNat 32 l)

/-- Chapter 5: `sbfe.s s9, s8, 4, 8`, of 0xF00 and of 0xF0. -/
theorem test_sbfe : sOf (.sbfe (fr (.scl 9) (s 8) nil 0x2204)) (wa.sput 0 8 0xF00) 9 = 0xFFFFFFFFFFFFFFF0 ∧
    sOf (.sbfe (fr (.scl 9) (s 8) nil 0x2204)) (wa.sput 0 8 0xF0) 9 = 0xF := by decide +kernel
/-- R147: the quotient by 0 is all ones, −2⁶³ over −1 is −2⁶³ with remainder 0. -/
theorem test_sdiv : sOf (.sdiv (fr (.scl 9) (s 4) (s 10))) wa 9 = 0xFFFFFFFFFFFFFFFF ∧
    sOf (.sdiv (fr (.scl 9) (s 8) (s 10))) ((wa.sput 0 8 (1 <<< 63)).sput 0 10 (~~~0)) 9 = 1 <<< 63 ∧
    sOf (.srem (fr (.scl 9) (s 8) (s 10))) ((wa.sput 0 8 (1 <<< 63)).sput 0 10 (~~~0)) 9 = 0 := by decide +kernel
/-- Chapter 5: `smovi s130, 0x12_3456_789A`, a per-member destination. -/
theorem test_smovi : sOf (.smovi (fi (.scl 130) nil 0x123456789A)) wa 130 = 0x123456789A := by decide +kernel
/-- Chapter 2: a rotation by 5 within 32 lanes: lane 40 reads lane 45, lane 60 reads lane 33. Chapter 7: `.bc8.3`: lane 13 reads lane 11. -/
theorem test_modifier : vOf (.vmov (fr (.vec 10) ⟨.vec 8, 0x0B1, false⟩ nil)) wLanes 10 40 = 45 ∧ vOf (.vmov (fr (.vec 10) ⟨.vec 8, 0x0B1, false⟩ nil)) wLanes 10 60 = 33 ∧
    vOf (.vmov (fr (.vec 10) ⟨.vec 8, 0x06B, false⟩ nil)) wLanes 10 13 = 11 := by decide +kernel
/-- R163: 2²⁴ + 1 ties to 2²⁴, 2²⁴ + 2 is exact (chapter 10's sums). -/
theorem test_fadd : fpAdd Fmt.f32 {} 0x4B800000 0x3F800000 = 0x4B800000 ∧ fpAdd Fmt.f32 {} 0x4B800000 0x40000000 = 0x4B800001 := by decide +kernel
/-- Chapter 6: FP32 1 + 2⁻⁹ to BF16, rounded stochastically: up from r = 0xC0_0000 on. -/
theorem test_cvt_stochastic : convert (cvtFormat 1) (cvtFormat 3) { mode := 4, rand := 0xC00000 } 0x3F804000 = 0x3F81 ∧
    convert (cvtFormat 1) (cvtFormat 3) { mode := 4, rand := 0xBFFFFF } 0x3F804000 = 0x3F80 := by decide +kernel
/-- R160: infinities of opposite signs give the default NaN. -/
theorem test_fadd_nan : fpAdd Fmt.f32 {} 0x7F800000 0xFF800000 = 0x7FC00000 ∧ fpAdd Fmt.f64 {} (0x7FF <<< 52) (0xFFF <<< 52) = 0x7FF8000000000000 := by decide +kernel
/-- Chapter 10: the ordered sum of 2²⁴, 1 and 1 is 2²⁴ whatever the order of arrival, and the status counts 3. -/
theorem test_ordrel : State.ordRelease { dbl := false, node := 0, entries := [⟨[1, 0, 0, 0], 0x3F800000, 1⟩, ⟨[0, 1, 0, 0], 0x3F800000, 0⟩, ⟨[0, 0, 0, 0], 0x4B800000, 0⟩] } 0 =
    (0x4B800000, 3) := by decide +kernel
/-- Chapter 10: 2²⁴ last, unordered: 2²⁴ + 2. -/
theorem test_atom_add : State.atomNew .fadd 4 (State.atomNew .fadd 4 0x3F800000 0x3F800000) 0x4B800000 = 0x4B800001 := by decide +kernel
/-- R194: 1.0 adds 2²¹⁵² to V and one to COUNT. -/
theorem test_exadd : (({} : Exact).addTerm (Fmt.f64.decode 0x3FF0000000000000)) = { v := 1 <<< 2152, st := 0x10000 } := by decide +kernel
/-- R84: `bra` five instructions on; `jmp` to an odd address traps with class 1, unhandled: the block is aborted (R399). -/
theorem test_bra : (curW (after (.bra (fc nil 0 5)) (run wa))).pc = wa.pc + 60 ∧ ((after (.jmp (fc (s 2))) (run wa)).block? 0).map (·.aborted) = some true := by decide +kernel
/-- R400: a handled trap goes to TRAPVEC + 128 × class in supervisor mode, with its pc in the record. -/
theorem test_trap : (let w := curW (after (.trap (fi noDst nil 0x155)) handled); (w.pc, w.sup, w.record.getD 1 0, w.record.getD 2 0)) = (0x8000 + 128 * 22, true, wa.pc, 0x155) ∧
    (let w := curW (after (.tret (fr noDst nil nil)) handled); (w.pc, w.sup)) = (0x8000 + 128 * 23, true) := by decide +kernel
/-- R403: `tret` from a trap of class 18 goes back to the trap pc in user mode. -/
theorem test_tret : (let w := curW (after (.tret (fr noDst nil nil)) (run (sup 18))); (w.pc, w.sup)) = (0x400000, false) := by decide +kernel
/-- R100: a write of `mm` keeps the bits of slots that exist. -/
theorem test_mmwr : (curW (after (.mmwr (fr noDst (s 8) nil)) (run (wp.sput 0 8 0xFFFE)))).mm = 2 := by decide +kernel
/-- R152: a loop of count 0 goes past its body; one of count 3 makes lc0 active. -/
theorem test_loop : (curW (after (.loop (fc (s 9) 0 3)) (run wa))).pc = wa.pc + 36 ∧
    (let w := curW (after (.loop (fc (s 3) 0 3)) (run wa)); ((w.lc.getD 0 {}).active, (w.lc.getD 0 {}).count, w.pc)) = (true, 3, wa.pc + 12) := by decide +kernel
/-- R282: an arrival at a barrier of one completes it: the phase inverts and ARR is INIT again. -/
theorem test_barrier : ((⟨0, 1, 1, false, false⟩ : Barrier).step 0 true) = ⟨0, 1, 1, false, true⟩ := by decide +kernel
/-- R455, R458: `kill` of every lane ends the path; a load of four bytes takes operand-log entry 0 with a part for every lane. -/
theorem test_kill : ((after (.kill (fr noDst nil nil)) (run wa)).warp? 0).map (fun w => ((w.bank 0).dead, w.ended)) = some (allL, true) ∧
    ((ent (curW sLoad)).idx, (ent (curW sLoad)).parts.length) = (0, 96) := by decide +kernel
/-- R382: x0 discards what is written to it; `li x5, −1`; `alu` 13 compares as signed. -/
theorem test_seam : (((tfind (after (.seamLi (op 0 0 0 0 0 7)) seamOne).insts 0).map fun i => (i.xget 0, i.pc)) = some (0, inst0.pc + 8)) ∧
    (((tfind (after (.seamLi (op 5 0 0 0 0 0xFFFFFFFF)) seamOne).insts 0).map fun i => i.xget 5) = some (~~~0)) := by decide +kernel
/-- R474: the first start begins at step 1, recorded as pending. Chapter 19: a step that was pending when power was lost counts as a failure. -/
theorem test_start : (let t := after (.deviceStart false) State.reset; (t.devState, t.devStep, t.boot.step, t.boot.pend)) = (0, 1, 1, true) ∧
    (let t := after (.deviceStart false) { State.reset with boot := { seq := 5, step := 3, pend := true } }; t.boot.fail) = [0, 0, 1, 0, 0, 0, 0] := by decide +kernel
/-- R470: a read of BAR0 that names no register returns ones. -/
theorem test_bar_invalid : (after (.barInvalidAccess 0x300000 4 true) ready).hostOut = [.data [0xFF, 0xFF, 0xFF, 0xFF] false] := by decide +kernel
/-- R24–R44: `step` fetches and runs the word at the pc. -/
theorem test_step : (match step placed with | .next t => (curW t).sget 0 5 | _ => 0) = 0x10003 := by decide +kernel

end Sys2Proof.Tests
end

/-!
The instructions that act on their warp alone (R11): each is a meaning of the current warp, and the end of such a meaning changes nothing
beside the warp but what a kill, a trap, a wait or the warp's end changes.
-/

namespace Sys2Proof.Machine

/-- An instruction that acts on its warp alone is a meaning of the current warp. -/
theorem exec_ownWarp {i : Instr} (s : State) (hi : i.ownWarp = true) : ∃ f, exec i s = warpOp s f := by
  cases i <;> cases hi <;> exact ⟨_, rfl⟩

theorem beside_warpOp {s t : State} {f : Warp → WRes} (h : warpOp s f = .next t) : s.Beside t := by
  unfold warpOp at h
  split at h
  · cases h
  · cases h; exact State.beside_finish ..

/-- Settles O60: a step of such an instruction is the end of a meaning of the current warp. -/
theorem ownWarpFrame : Obligations.OwnWarpFrame := by
  intro i s t hi he
  obtain ⟨f, hf⟩ := exec_ownWarp s hi
  exact beside_warpOp (hf ▸ he)

end Sys2Proof.Machine

/-!
What a step runs (R25, R44, R46, R141, R385): the decoded word of a warp or of a Seam core, the next turn of the agenda, and the code a fetch finds.
-/

namespace Sys2Proof.Machine

/-! ## The bytes of a word (R5) -/

theorem leNat_leBytes (n v : Nat) : leNat (leBytes n v) = v % 256 ^ n := by
  induction n generalizing v with
  | zero => simp [leBytes, leNat, Nat.mod_one]
  | succ n ih => rw [leBytes, leNat, ih, Nat.pow_succ']; exact Nat.mod_mul.symm

theorem leNat_encodeBytes_jarja {i : Instr} {x : BitVec 96} (h : encode i = .jarja x) : BitVec.ofNat 96 (leNat (encodeBytes i)) = x := by
  simp only [encodeBytes, h, leNat_leBytes]
  rw [Nat.mod_eq_of_lt (Nat.lt_of_lt_of_eq x.isLt (by decide : 2 ^ 96 = 256 ^ 12)), BitVec.ofNat_toNat, BitVec.setWidth_eq]

theorem leNat_encodeBytes_seam {i : Instr} {x : BitVec 64} (h : encode i = .seam x) : BitVec.ofNat 64 (leNat (encodeBytes i)) = x := by
  simp only [encodeBytes, h, leNat_leBytes]
  rw [Nat.mod_eq_of_lt (Nat.lt_of_lt_of_eq x.isLt (by decide : 2 ^ 64 = 256 ^ 8)), BitVec.ofNat_toNat, BitVec.setWidth_eq]

/-! ## The turn of a warp by itself -/

theorem agent_of_curWarp {s : State} {w : Warp} (h : s.curWarp = some w) : ∃ a k, s.cur = some a ∧ agentKey a = some k := by
  unfold State.curWarp at h
  cases hc : s.cur with
  | none => simp [hc] at h
  | some a =>
    cases hk : agentKey a with
    | none => simp [hc, hk] at h
    | some k => exact ⟨a, k, rfl, hk⟩

theorem step_cur {s : State} {a : Agent} (hag : s.agenda = []) (hc : s.cur = some a) : step s = s.tickOn.turn a := by
  have h1 : s.tickOn.agenda = [] := hag
  have h2 : s.tickOn.cur = some a := hc
  unfold step
  simp only [h1, h2]

/-- A warp that is no part of a pair does on its turn what its front end gives. -/
theorem turn_alone {s s0 s1 : State} {a : Agent} {k : Nat} {w0 w : Warp} {r : Option Instr} (ha : agentKey a = some k) (hc : s.curWarp = some w0)
    (hs : s0 = (s.settleFences w0.key).dropStale w0.key) (hw : w = (s0.warp? w0.key).getD w0) (ht : w.tail = none) (hl : w.lead = none)
    (hf : s0.frontWarp w = (s1, r)) : s.turn a = r.elim (.next s1) (exec · s1) := by
  subst hs hw
  cases a with
  | seam c => simp [agentKey] at ha
  | warp c j => simp only [State.turn, hc, ht, hl, hf, Option.isSome_none, Option.bind_none]; cases r <;> rfl
  | foreman c => simp only [State.turn, hc, ht, hl, hf, Option.isSome_none, Option.bind_none]; cases r <;> rfl

section
variable {s : State} {w : Warp} {x : BitVec 96} (hb : s.boundary w = none) (hbw : State.boundaryWait w = false) (hact : w.st = .act)
  (hlog : ∀ e ∈ w.log, e.full = false) (hf : s.fetch w = .word x)
include hb hbw hact hlog hf

/-- The front end of an active warp with no boundary event due runs the instruction that the word it fetches decodes to. -/
theorem frontWarp_runs {i : Instr} (hd : decodeJarja x = .ok i) (hp : placeOk w.foreman i = true) : s.frontWarp w = (s.fetched w x, some i) := by
  have hfull : w.log.any (·.full) = false := by simpa using hlog
  simp [State.frontWarp, hb, hbw, hact, hfull, hf, hd, hp]

/-- It raises the illegal-instruction trap for a word that decodes to no instruction of its kind of core. -/
theorem frontWarp_illegal (hd : ∀ i, decodeJarja x = .ok i → placeOk w.foreman i = false) :
    s.frontWarp w = ((s.fetched w x).takeTrap (((s.fetched w x).warp? w.key).getD w) { cls := 0 } w.pc, none) := by
  have hfull : w.log.any (·.full) = false := by simpa using hlog
  cases h : decodeJarja x with
  | error e => simp [State.frontWarp, hb, hbw, hact, hfull, hf, h]
  | ok i => simp [State.frontWarp, hb, hbw, hact, hfull, hf, h, hd i h]

end

/-- R25, R44: the step of an active warp is its decoded instruction, or the illegal-instruction trap. -/
theorem step_decoded {s s0 : State} {w0 w : Warp} (hs : s0 = (s.tickOn.settleFences w0.key).dropStale w0.key) (hag : s.agenda = [])
    (hc : s.curWarp = some w0) (hw : w = (s0.warp? w0.key).getD w0) (ht : w.tail = none) (hl : w.lead = none) {s1 : State} {r : Option Instr}
    (hf : s0.frontWarp w = (s1, r)) : step s = r.elim (.next s1) (exec · s1) := by
  obtain ⟨a, k, ha, hk⟩ := agent_of_curWarp hc
  rw [step_cur hag ha]
  exact turn_alone hk hc hs hw ht hl hf

theorem settleFences_nil {s : State} {k : Nat} {w : Warp} (hw : s.warp? k = some w) (h : w.fences = []) : s.settleFences k = s := by
  simp [State.settleFences, hw, h]

theorem dropStale_of_no_command {s : State} {k : Nat} {w : Warp} (hw : s.warp? k = some w) (h : ∀ e ∈ w.log, e.acc ≠ .command) : s.dropStale k = s := by
  simp only [State.dropStale, hw]
  rw [if_neg]
  simp only [List.any_eq_true, Bool.and_eq_true, decide_eq_true_eq, not_exists, not_and]
  exact fun e he hcmd => absurd hcmd.1 (h e he)

/-! ## Fetching -/

section
variable {s : State} {w : Warp} {as : List Nat} {i : Instr} {x : BitVec 96} (hpc : w.pc.toNat % 4 = 0) (hlp : w.outerLoop = none)
  (has : s.fetchAddrs w.core w.ctx (dieOf w.core) w.pc w.sup 12 = .ok as)
include hpc hlp has

theorem fetch_word (hx : encode i = .jarja x) (hp : ∀ a ∈ as, s.codePoisoned (s.codeKey w) a = false)
    (hb : (as.map fun a => s.codeByte (s.codeKey w) a) = encodeBytes i) : s.fetch w = .word x := by
  have hany : (as.any fun a => s.codePoisoned (s.codeKey w) a) = false := by simpa using hp
  simp [State.fetch, hpc, hlp, has, hany, hb, leNat_encodeBytes_jarja hx]

theorem fetch_poisoned (hp : ∃ a ∈ as, s.codePoisoned (s.codeKey w) a = true) : s.fetch w = .poisoned := by
  have hany : (as.any fun a => s.codePoisoned (s.codeKey w) a) = true := by simpa using hp
  simp [State.fetch, hpc, hlp, has, hany]

end

/-- What filling a translation cache may change: what other agents see of the walk's reads, and the caches themselves. -/
def State.WalkFrame (s t : State) : Prop := t = { s with warps := t.warps, dirty := t.dirty, tlb := t.tlb, walks := t.walks }

namespace State

theorem WalkFrame.refl (s : State) : WalkFrame s s := rfl

theorem WalkFrame.trans {a b c : State} (h : WalkFrame a b) (k : WalkFrame b c) : WalkFrame a c := by
  unfold WalkFrame at *
  rw [k, h]

theorem WalkFrame.foldl {β : Type} {f : State → β → State} (h : ∀ s b, WalkFrame s (f s b)) (l : List β) (s : State) : WalkFrame s (l.foldl f s) := by
  induction l generalizing s with
  | nil => exact refl s
  | cons b t ih => exact (h s b).trans (ih _)

theorem walkFrame_readBy (s : State) (who a n : Nat) : WalkFrame s (s.readBy who a n) :=
  WalkFrame.trans (b := s.callBack (who / 32) a n) rfl (.foldl (f := fun s l => s.conflicts who l false) (fun _ _ => rfl) _ _)

theorem walkFrame_fillTlb (s : State) (core x : Nat) (ea : Word) (midx : BitVec 16) : WalkFrame s (s.fillTlb core x ea midx) := by
  unfold fillTlb fillVa
  have walked := WalkFrame.foldl (f := fun s (e : Nat × Nat × Nat) => s.readBy noWarp e.2.1 8) (fun s e => walkFrame_readBy s noWarp e.2.1 8)
    (s.walkSteps core x (s.offsetVa x ea midx).toNat) s
  split
  · exact .refl s
  · dsimp only
    split
    · exact walked
    · exact walked.trans rfl

theorem WalkFrame.mem {s t : State} (h : WalkFrame s t) : t.mem = s.mem := by rw [h]
theorem WalkFrame.home {s t : State} (h : WalkFrame s t) (a : Nat) : t.home a = s.home a := by rw [h]; rfl
theorem WalkFrame.poisoned {s t : State} (h : WalkFrame s t) (a n : Nat) : t.poisoned a n = s.poisoned a n := by rw [h]; rfl
theorem WalkFrame.copies {s t : State} (h : WalkFrame s t) : t.copies = s.copies := by rw [h]
theorem WalkFrame.ctxs {s t : State} (h : WalkFrame s t) : t.ctxs = s.ctxs := by rw [h]
theorem WalkFrame.code {s t : State} (h : WalkFrame s t) : t.code = s.code := by rw [h]

end State

/-- Writing one entry after another leaves at a key what is written there. -/
theorem tfind_foldl {α : Type} {f : Tab α → Nat → Tab α} {l : Nat} {v : α} (hf : ∀ t k, tfind (f t k) l = if k = l then some v else tfind t l)
    (ls : List Nat) (t : Tab α) : tfind (ls.foldl f t) l = if l ∈ ls then some v else tfind t l := by
  induction ls generalizing t with
  | nil => rfl
  | cons k ks ih =>
    rw [List.foldl_cons, ih, hf]
    by_cases hk : k = l <;> by_cases hl : l ∈ ks <;> simp [hk, hl, Ne.symm]

/-- R46: the copy a core keeps of a line of code that it took from memory. -/
theorem code_keepCode {s : State} {key core x : Nat} {pc : Word} {as : List Nat} {a : Nat} (ha : a ∈ as) (h : s.oldCode key (a / 128 * 128) = none) :
    tfind (tget [] (s.keepCode key core x pc as).code key) (a / 128 * 128) = some (s.physRead (a / 128 * 128) 128) := by
  unfold State.keepCode
  rw [(State.WalkFrame.foldl (fun s i => State.walkFrame_fillTlb s core x (pc + BitVec.ofNat 64 i) 0) [0, 11] _).code]
  rw [tget_tset_same, tfind_foldl (v := s.physRead (a / 128 * 128) 128)]
  · rw [if_pos]
    simpa using ⟨a, ha, rfl⟩
  · intro t k
    split <;> split <;> simp_all [tfind_tset_ne]


theorem State.WalkFrame.modWarp {s t : State} (h : s.WalkFrame t) (k : Nat) (f : Warp → Warp) : s.WalkFrame (t.modWarp k f) := by
  unfold State.modWarp
  split
  · exact h.trans rfl
  · exact h

/-- What a fetch from memory outside the loop buffer leaves: the kept lines of code, and the word in the loop buffer. -/
theorem fetched_of_memory {s : State} {w : Warp} {as : List Nat} (x : BitVec 96)
    (has : s.fetchAddrs w.core w.ctx (dieOf w.core) w.pc w.sup 12 = .ok as) (hl : tfind w.loopBuf w.pc.toNat = none) :
    s.fetched w x = (s.keepCode (s.codeKey w) w.core w.ctx w.pc as).modWarp w.key fun w => w.keepWord x := by
  simp [State.fetched, has, hl]

theorem State.walkFrame_keepCode (s : State) (key core x : Nat) (pc : Word) (as : List Nat) :
    State.WalkFrame { s with code := (s.keepCode key core x pc as).code } (s.keepCode key core x pc as) := by
  unfold State.keepCode
  have filled := fun t => State.WalkFrame.foldl (fun s i => State.walkFrame_fillTlb s core x (pc + BitVec.ofNat 64 i) 0) [0, 11] t
  rw [(filled _).code]
  exact filled _

/-- R46: a byte of code that the core has no line of is memory's. -/
theorem codeByte_of_none {s : State} {key a : Nat} (h : tfind (tget [] s.code key) (a / 128 * 128) = none) :
    s.codeByte key a = s.mem.read (s.home a) ∧ s.codePoisoned key a = s.poisoned a 1 := by
  have hold : s.oldCode key (a / 128 * 128) = none := by simp [State.oldCode, h]
  simp [State.codeByte, State.codePoisoned, hold]

/-- R46: otherwise it is the kept line's or memory's. -/
theorem codeByte_of_some {s : State} {key a : Nat} {l : List Byte} (h : tfind (tget [] s.code key) (a / 128 * 128) = some l) :
    s.codeByte key a = l.getD (a % 128) 0 ∨ s.codeByte key a = s.mem.read (s.home a) := by
  cases hf : Config.codeFresh s.tick (a / 128 * 128) with
  | true => exact .inr (by simp [State.codeByte, State.oldCode, h, hf])
  | false => exact .inl (by simp [State.codeByte, State.oldCode, h, hf])

/-! ## A turn of a Seam core, and of the agenda -/

theorem frontSeam_runs {s : State} {c id : Nat} {k : SeamInst} {as : List Nat} {i : Instr} {x : BitVec 64} (hr : s.runningOn c = some (id, k))
    (hm : s.mustLeave k = false) (hl : s.waitedLong k = false) (hpc : k.pc.toNat % 8 = 0)
    (has : s.fetchAddrs State.noWarp k.ctx (seamDie c) k.pc false 8 = .ok as) (hp : ∀ a ∈ as, s.poisoned a 1 = false) (hx : encode i = .seam x)
    (hb : (as.map fun a => s.mem.read (s.home a)) = encodeBytes i) (hd : decodeSeam x = .ok i) :
    s.frontSeam c = ([0, 7].foldl (fun s j => s.fillTlb State.noWarp k.ctx (k.pc + BitVec.ofNat 64 j) 0) s, some i) := by
  have filled := State.WalkFrame.foldl (fun s j => State.walkFrame_fillTlb s State.noWarp k.ctx (k.pc + BitVec.ofNat 64 j) 0) [0, 7] s
  unfold State.frontSeam
  simp only [hr, hm, hl, hpc, has]
  generalize [0, 7].foldl (fun s j => s.fillTlb State.noWarp k.ctx (k.pc + BitVec.ofNat 64 j) 0) s = t at filled ⊢
  have hany : (as.any fun a => t.poisoned a 1) = false := by simpa [filled.poisoned] using hp
  have hword : BitVec.ofNat 64 (leNat (as.map fun a => t.mem.read (t.home a))) = x := by
    simp only [filled.mem, filled.home, hb, leNat_encodeBytes_seam hx]
  simp [hany, hword, hd]

theorem pairSync_of_no_tail {s0 s1 : State} (h : ∀ p ∈ s1.warps, p.2.tail = none) : State.pairSync s0 s1 = s1 := by
  have hnone : (s1.warps.filter fun p => p.2.tail.isSome) = [] := by
    rw [List.filter_eq_nil_iff]
    intro p hp
    simp [h p hp]
  rw [State.pairSync, hnone, List.foldl_nil]

theorem getD_dieTime_tickOn (s : State) {d : Nat} (hd : d < 8) :
    s.tickOn.dieTime.getD d 0 = s.dieTime.getD d 0 + (s.tickOn.cycle - s.cycle) * (10 - (tget 0 s.pcap d).toNat / 2 ^ 40 % 4) := by
  have hc : s.tickOn.cycle - s.cycle = Config.cyclesAt s.tick := Nat.add_sub_cancel_left ..
  rw [hc]
  simp [State.tickOn, State.dieRate, hd, BitVec.extractLsb'_toNat, Nat.shiftRight_eq_div_pow]

/-- Settles O54: each clause by the lemma on its part of a step. -/
theorem stepRunsDecoded : Obligations.StepRunsDecoded := by
  refine ⟨?_, ?_, ?_, ?_, ?_, ?_, ?_, ?_, ?_, ?_⟩
  · intro s w0 w x s0 hag hc hw ht hl hb hbw hact hlog hf s1 w1
    refine ⟨fun i hd hp => ?_, fun i hd hp => ?_, fun e hd => ?_⟩
    · exact step_decoded rfl hag hc hw ht hl (frontWarp_runs hb hbw hact hlog hf hd hp)
    · exact step_decoded rfl hag hc hw ht hl (frontWarp_illegal hb hbw hact hlog hf fun j hj => by simp_all)
    · exact step_decoded rfl hag hc hw ht hl (frontWarp_illegal hb hbw hact hlog hf fun j hj => by simp_all)
  · exact fun s k w hw => ⟨settleFences_nil hw, dropStale_of_no_command hw⟩
  · exact fun s w as i x hpc hlp has hx => ⟨fun hp hb => fetch_word hpc hlp has hx hp hb, fetch_poisoned hpc hlp has⟩
  · intro s w x as has hl
    have kept := (s.walkFrame_keepCode (s.codeKey w) w.core w.ctx w.pc as).modWarp w.key fun w => w.keepWord x
    rw [fetched_of_memory x has hl]
    refine ⟨kept.mem, kept.copies, kept.ctxs, fun a ha hold => ?_⟩
    rw [kept.code]
    exact code_keepCode ha hold
  · exact fun s key a => ⟨codeByte_of_none, fun l => codeByte_of_some⟩
  · intro s c id k as i x s0 hag hc hr hm hl hpc has hp hx hb hd
    rw [step_cur hag hc]
    simp only [State.turn, frontSeam_runs (s := s.tickOn) hr hm hl hpc has hp hx hb hd]
    rfl
  · intro s a rest h
    have h' : s.tickOn.agenda = .run a :: rest := h
    simp only [step, h']
  · intro s e rest h
    have h' : s.tickOn.agenda = .event e :: rest := h
    simp only [step, h']
  · intro s u rest h hnt
    have h' : s.tickOn.agenda = .upset u :: rest := h
    simp only [step, h', State.disturb, State.followed, pairSync_of_no_tail hnt]
  · exact fun s => ⟨rfl, Nat.le_add_right .., rfl, fun d hd => getD_dieTime_tickOn s hd⟩

end Sys2Proof.Machine

section

-- Each proof here unfolds functions of the model; elaborated side by side they would hold a thread each.
set_option Elab.async false

/-!
What every step keeps (R5, R318, R357; log entry 1): the relation, and what traps, kills and the end of an instruction do to it.
-/

namespace Sys2Proof.Machine

/-! ## The invariants, and what keeps both -/

/-- `t` is in the canonical form if `s` is, and holds every warp under its own key if `s` does. -/
def State.Keeps (s t : State) : Prop := (s.Canonical → t.Canonical) ∧ (s.Keyed → t.Keyed)

/-- Every next state a step answers has the property. -/
def Answers (P : State → Prop) (r : Res) : Prop := ∀ t, r = .next t → P t

theorem answers_next {P : State → Prop} {t : State} (h : P t) : Answers P (.next t) := by
  intro t' e
  cases e
  exact h

theorem answers_ite {P : State → Prop} {c : Prop} [Decidable c] {x y : Res} (h : Answers P x) (k : Answers P y) : Answers P (if c then x else y) := by
  split <;> assumption

theorem answers_refused {P : State → Prop} {r : Refusal} : Answers P (.refused r) := nofun

theorem mem_tset {α : Type} {t : Tab α} {n : Nat} {v : α} {p : Nat × α} (h : p ∈ tset t n v) : p = (n, v) ∨ p ∈ t := by
  induction t with
  | nil => exact .inl (by simpa [tset] using h)
  | cons q t ih =>
    obtain ⟨k, w⟩ := q
    by_cases hk : k = n
    · simp only [tset, hk, if_true, List.mem_cons] at h
      exact h.imp_right (List.mem_cons_of_mem _)
    · simp only [tset, hk, if_false, List.mem_cons] at h
      rcases h with h | h
      · exact .inr (by simp [h])
      · exact (ih h).imp_right (List.mem_cons_of_mem _)

/-- The memories of a block are in their canonical form. -/
def Block.Tidy (b : Block) : Prop := b.near.wf = true ∧ b.scales.wf = true

namespace State

theorem Keyed.map {s t : State} {f : Nat × Warp → Nat × Warp} (h : s.Keyed) (hf : ∀ p, (f p).1 = p.1 ∧ (f p).2.key = p.2.key)
    (ht : t.warps = s.warps.map f) : t.Keyed := by
  intro p hp
  rw [ht] at hp
  obtain ⟨q, hq, rfl⟩ := List.mem_map.1 hp
  rw [(hf q).1, (hf q).2]
  exact h q hq

namespace Keeps
variable {a s t : State}

theorem refl (s : State) : s.Keeps s := ⟨id, id⟩
theorem trans (h : a.Keeps s) (k : s.Keeps t) : a.Keeps t := ⟨k.1 ∘ h.1, k.2 ∘ h.2⟩

theorem ite {c : Prop} [Decidable c] (h : a.Keeps s) (k : a.Keeps t) : a.Keeps (if c then s else t) := by split <;> assumption

theorem fst_ite {α : Type} {c : Prop} [Decidable c] {x y : State × α} (h : a.Keeps x.1) (k : a.Keeps y.1) : a.Keeps (if c then x else y).1 := by
  split <;> assumption

theorem foldl {β : Type} {f : State → β → State} (h : a.Keeps s) (l : List β) (hf : ∀ s b, a.Keeps s → a.Keeps (f s b)) : a.Keeps (l.foldl f s) := by
  induction l generalizing s with
  | nil => exact h
  | cons b l ih => exact ih (hf s b h)

/-- A change beside memory, blocks and warps. -/
theorem same (h : a.Keeps s) (hm : t.mem = s.mem := by rfl) (hb : t.blocks = s.blocks := by rfl) (hw : t.warps = s.warps := by rfl) : a.Keeps t :=
  ⟨fun c => ⟨hm ▸ (h.1 c).1, hb ▸ (h.1 c).2⟩, fun k p hp => h.2 k p (hw ▸ hp)⟩

/-! ### The changes of one part of the machine -/

/-- A change of warps that keeps each under its key. -/
theorem warps (h : a.Keeps s) (hm : t.mem = s.mem) (hb : t.blocks = s.blocks) (hw : s.Keyed → t.Keyed) : a.Keeps t :=
  ⟨fun c => canonical_of_blocks (h.1 c) (hm ▸ (h.1 c).1) hb, hw ∘ h.2⟩

/-- A change of memory that keeps its canonical form. -/
theorem memory (h : a.Keeps s) (hm : s.mem.wf = true → t.mem.wf = true) (hb : t.blocks = s.blocks) (hw : t.warps = s.warps) : a.Keeps t :=
  ⟨fun c => canonical_of_blocks (h.1 c) (hm (h.1 c).1) hb, fun k p hp => h.2 k p (hw ▸ hp)⟩

/-- A change of blocks that leaves their memories in the canonical form. -/
theorem ofBlocks (h : a.Keeps s) (hm : t.mem = s.mem) (hb : (∀ p ∈ s.blocks, p.2.Tidy) → ∀ p ∈ t.blocks, p.2.Tidy) (hw : t.warps = s.warps) : a.Keeps t :=
  ⟨fun c => ⟨hm ▸ (h.1 c).1, hb (h.1 c).2⟩, fun k p hp => h.2 k p (hw ▸ hp)⟩

theorem putWarp (h : a.Keeps s) (w : Warp) : a.Keeps (s.putWarp w) := h.warps rfl rfl fun k p hp => by
  rcases mem_tset hp with rfl | hp
  · rfl
  · exact k p hp

theorem modWarp (h : a.Keeps s) (k : Nat) (f : Warp → Warp) : a.Keeps (s.modWarp k f) := by
  unfold State.modWarp
  split
  · exact h.putWarp _
  · exact h

theorem modBlock (h : a.Keeps s) (b : Nat) (f : Block → Block) (hf : ∀ x, x.Tidy → (f x).Tidy) : a.Keeps (s.modBlock b f) :=
  h.ofBlocks rfl (fun c p hp => by
    obtain ⟨q, hq, rfl⟩ := List.mem_map.1 hp
    split
    · exact hf _ (c q hq)
    · exact c q hq) rfl

theorem modCtx (h : a.Keeps s) (x : Nat) (f : Context → Context) : a.Keeps (s.modCtx x f) := h
theorem modNode (h : a.Keeps s) (n : Nat) (f : Node → Node) : a.Keeps (s.modNode n f) := h
theorem count (h : a.Keeps s) (n core k : Nat) : a.Keeps (s.count n core k) := h
theorem logDevice (h : a.Keeps s) (e : ErrRec) : a.Keeps (s.logDevice e) := ite h h

/-! ### Errors, kills, traps and the end of an instruction -/

theorem blockError (h : a.Keeps s) (b c d u x : Nat) : a.Keeps (s.blockError b c d u x) := by
  unfold State.blockError
  split <;> exact h

theorem killLanes (h : a.Keeps s) (k m : Nat) (mask : LaneMask) (c x : Nat) : a.Keeps (s.killLanes k m mask c x) := by
  unfold State.killLanes
  split
  · exact h
  · rename_i w _
    dsimp only
    split
    · exact h
    · have tailed : ∀ {s0 : State}, a.Keeps s0 → a.Keeps (match w.tail with
          | some t => s0.modWarp (warpKey w.core t) fun x => x.killBank m (mask &&& (w.bank m).live) c
          | none => match w.lead with
            | some l => s0.modWarp (warpKey w.core l) fun x => x.killBank m (mask &&& (w.bank m).live) c
            | none => s0) := by
        intro s0 h0
        split
        · exact h0.modWarp _ _
        · split
          · exact h0.modWarp _ _
          · exact h0
      split
      · exact ite (((tailed (h.putWarp _)).count ..).count ..) ((tailed (h.putWarp _)).count ..)
      · exact (ite (((tailed (h.putWarp _)).count ..).count ..) ((tailed (h.putWarp _)).count ..)).modNode _ _

theorem dropMx (h : a.Keeps s) (w : Warp) : a.Keeps (s.dropMx w) := ite h h

theorem finishWarp (h : a.Keeps s) (k : Nat) : a.Keeps (s.finishWarp k) := by
  unfold State.finishWarp
  split
  · exact h
  · exact ite (ite ((h.dropMx _).putWarp _) (((h.dropMx _).putWarp _).modBlock _ _ fun _ => id)) h

theorem abortBlock (h : a.Keeps s) (b : Nat) : a.Keeps (s.abortBlock b) := by
  unfold State.abortBlock
  refine modBlock ?_ _ _ fun _ => id
  refine (h.foldl (s.blockWarps b) fun _ _ k => k.dropMx _).warps rfl rfl fun k => k.map (fun p => ?_) rfl
  split
  · exact ⟨rfl, (Warp.onlyRegs_eachSlot p.2 _).key⟩
  · exact ⟨rfl, rfl⟩

theorem trapUnhandled (h : a.Keeps s) (w : Warp) (c : Nat) (pc : Word) : a.Keeps (s.trapUnhandled w c pc) := (h.blockError ..).abortBlock _

theorem enterHandler (h : a.Keeps s) (w : Warp) (t : TrapReq) (pc : Word) (l : Bool) : a.Keeps (s.enterHandler w t pc l) := h.putWarp _

theorem takeTrap (h : a.Keeps s) (w : Warp) (t : TrapReq) (pc : Word) (l : Bool := false) : a.Keeps (s.takeTrap w t pc l) :=
  ite ((h.putWarp _).trapUnhandled ..) (ite (h.enterHandler ..) (h.putWarp _))

theorem takeLaneFault (h : a.Keeps s) (w : Warp) (e : LogEntry) (p : Part) : a.Keeps (s.takeLaneFault w e p) := by
  unfold State.takeLaneFault
  split
  · exact h
  · exact ite (h.trapUnhandled ..) (h.putWarp _)

theorem waits (h : a.Keeps s) (w : Warp) (r : Wait) : a.Keeps (s.waits w r) := h.putWarp _

theorem retire (h : a.Keeps s) (w0 w : Warp) : a.Keeps (s.retire w0 w) := (h.putWarp _).finishWarp _

theorem finish (h : a.Keeps s) (w : Warp) (r : WRes) : a.Keeps (s.finish w r) := by
  unfold State.finish
  cases r with
  | fall w1 => exact ite (h.waits ..) (h.retire ..)
  | jump w1 => exact (h.putWarp _).finishWarp _
  | switch w1 => exact ite (h.waits ..) ((h.putWarp _).finishWarp _)
  | trap w1 t => exact h.takeTrap ..
  | done w1 => exact h.putWarp _
  | wait r => exact h.waits ..
  | abort c d x => exact h.putWarp _
  | kill w1 ks c go =>
    exact (((ite (h.retire ..) (h.putWarp _)).foldl ks fun _ _ k => k.killLanes ..).modWarp _ _).finishWarp _

end Keeps
end State

/-! ## Meanings of the current warp -/

/-- A meaning of the current warp keeps what its change of the machine keeps. -/
theorem keeps_machineOp {s : State} {f : State → Warp → State × WRes} (hf : ∀ w, s.Keeps (f s w).1) : Answers s.Keeps (machineOp s f) := by
  unfold machineOp
  split
  · exact answers_refused
  · exact answers_next ((hf _).finish ..)

theorem keeps_warpOp (s : State) (f : Warp → WRes) : Answers s.Keeps (warpOp s f) := by
  unfold warpOp
  split
  · exact answers_refused
  · exact answers_next ((State.Keeps.refl s).finish ..)

theorem keeps_machineOpNT {s : State} {f : State → Warp → State × WRes} (hf : ∀ w, s.Keeps (f s w).1) : Answers s.Keeps (machineOpNT s f) :=
  keeps_machineOp fun w => by
    split
    · exact .refl s
    · exact hf w

theorem keeps_accessOpNT (s : State) (f : State → Warp → WRes) : Answers s.Keeps (accessOpNT s f) := keeps_machineOpNT fun _ => .refl s

end Sys2Proof.Machine

/-!
Memory, the caches and the accesses of warps keep both invariants.
-/

namespace Sys2Proof.Machine.State.Keeps
variable {a s t : State}

/-! ### Memory and what a performed access does to others -/

theorem addPoison (h : a.Keeps s) (ls : List Nat) : a.Keeps (s.addPoison ls) := h

theorem physWrite (h : a.Keeps s) (x : Nat) (bs : List Byte) : a.Keeps (s.physWrite x bs) := by
  have dirtied : ∀ l : List Nat, (l.foldl State.dirtySector s).warps = s.warps := by
    intro l
    exact foldl_keep (·.warps) State.dirtySector (fun s x => by unfold State.dirtySector; split <;> rfl) l s
  exact h.memory (wf_physWrite x bs) (blocks_physWrite s x bs) (dirtied _)

theorem callBack (h : a.Keeps s) (core pa n : Nat) : a.Keeps (s.callBack core pa n) := h
theorem ownLines (h : a.Keeps s) (core pa n : Nat) : a.Keeps (s.ownLines core pa n) := h
theorem cleanWays (h : a.Keeps s) (core : Nat) : a.Keeps (s.cleanWays core) := h

theorem conflicts (h : a.Keeps s) (who line : Nat) (write : Bool) : a.Keeps (s.conflicts who line write) :=
  h.warps rfl rfl fun k => k.map (fun p => by
    split
    · exact ⟨rfl, rfl⟩
    · split
      · exact ⟨rfl, rfl⟩
      · split <;> exact ⟨rfl, rfl⟩) rfl

theorem wakeMonitors (h : a.Keeps s) (who line : Nat) : a.Keeps (s.wakeMonitors who line) :=
  h.warps rfl rfl fun k => k.map (fun p => by split <;> exact ⟨rfl, rfl⟩) rfl

theorem perform (h : a.Keeps s) (who x : Nat) (bs : List Byte) : a.Keeps (s.perform who x bs) :=
  ((h.physWrite x bs).callBack ..).foldl _ fun _ _ k => (k.conflicts ..).wakeMonitors ..

theorem readBy (h : a.Keeps s) (who x n : Nat) : a.Keeps (s.readBy who x n) := (h.callBack ..).foldl _ fun _ _ k => k.conflicts ..

theorem fillVa (h : a.Keeps s) (core x va : Nat) : a.Keeps (s.fillVa core x va) := by
  have walked := h.foldl (s.walkSteps core x va) fun s e k => k.readBy noWarp e.2.1 8
  unfold State.fillVa
  split
  · exact h
  · dsimp only
    split <;> exact walked

theorem fillTlb (h : a.Keeps s) (core x : Nat) (ea : Word) (midx : BitVec 16) : a.Keeps (s.fillTlb core x ea midx) := h.fillVa ..

theorem toReplicas (h : a.Keeps s) (who pa stride : Nat) (bs : List Byte) : a.Keeps (s.toReplicas who pa stride bs) := h
theorem l1Drop (h : a.Keeps s) (core pa : Nat) : a.Keeps (s.l1Drop core pa) := h
theorem l1Fill (h : a.Keeps s) (core pa : Nat) : a.Keeps (s.l1Fill core pa) := h

theorem l1Update (h : a.Keeps s) (core pa : Nat) (bs : List Byte) : a.Keeps (s.l1Update core pa bs) :=
  h.foldl _ fun _ _ k => by split <;> exact k

theorem l1DropSpan (h : a.Keeps s) (core pa n : Nat) : a.Keeps (s.l1DropSpan core pa n) := h.foldl _ fun _ _ k => k
theorem l1Clear (h : a.Keeps s) (core : Nat) : a.Keeps (s.l1Clear core) := ite h h
theorem acquire (h : a.Keeps s) (core scope : Nat) : a.Keeps (s.acquire core scope) := ite (h.l1Clear _) h

/-! ### The memory-side cache -/

theorem moveSector (h : a.Keeps s) (src dst : Nat) (errs : Bool) : a.Keeps (s.moveSector src dst errs) := by
  unfold State.moveSector
  generalize s.mem.readBytes src 2048 = bs
  exact h.memory (Memory.wf_writeBytes _ _) rfl rfl

theorem sectorLoss (h : a.Keeps s) (sec : Nat) : a.Keeps (s.sectorLoss sec) := by
  unfold State.sectorLoss
  exact h.same.logDevice _

theorem mscServe (h : a.Keeps s) (line : Nat) (write mscb bypass : Bool) : a.Keeps (s.mscServe line write mscb bypass) := by
  unfold State.mscServe
  refine ite h ?_
  split
  rename_i sec tag _
  extract_lets s1 m s2 s3
  have lossy : a.Keeps s1 := ite (h.sectorLoss _) h
  have saved : a.Keeps s2 := ite (lossy.moveSector ..) lossy
  have filled : a.Keeps s3 := saved.moveSector ..
  clear_value s3
  exact ite (ite lossy.same lossy) (ite lossy filled.same)

theorem uncached (h : a.Keeps s) (ph : Phys) (n : Nat) (read write : Bool) : a.Keeps (s.uncached ph n read write) :=
  ite h (h.foldl _ fun _ _ k => ite ((ite (k.mscServe ..) k).mscServe ..) (ite (k.mscServe ..) k))

/-! ### Agents other than warps -/

theorem agentFill (h : a.Keeps s) (x : Nat) (va : Word) (midx : BitVec 16) (n core : Nat) : a.Keeps (s.agentFill x va midx n core) :=
  h.foldl _ fun _ _ k => k.fillTlb ..

theorem agentTouch (h : a.Keeps s) (x die : Nat) (va : Word) (midx : BitVec 16) (n : Nat) (sup : Bool) (core : Nat) :
    a.Keeps (s.agentTouch x die va midx n sup core) := by
  unfold State.agentTouch
  split
  · exact h
  · exact (h.agentFill ..).foldl _ fun _ _ k => (k.uncached ..).readBy ..

theorem agentWrite (h : a.Keeps s) {who x : Nat} {va : Word} {midx : BitVec 16} {bs : List Byte} {sup : Bool} {core : Nat}
    (e : s.agentWrite who x va midx bs sup core = .ok t) : a.Keeps t := by
  unfold State.agentWrite at e
  split at e
  · cases e
  · cases e
    exact (h.agentFill ..).foldl _ fun _ _ k => ite (((k.uncached ..).perform ..).toReplicas ..) ((k.uncached ..).perform ..)

theorem agentStore (h : a.Keeps s) (x : Nat) (va : Word) (bs : List Byte) : a.Keeps (s.agentStore x va bs) := by
  unfold State.agentStore
  split
  · exact h.agentWrite ‹_›
  · exact h

theorem writeEntry (h : a.Keeps s) (x : Nat) (va : Word) (e : ErrRec) : a.Keeps (s.writeEntry x va e) := by
  unfold State.writeEntry
  split
  · exact h.agentWrite ‹_›
  · exact h.logDevice _

theorem advance (h : a.Keeps s) (x c : Nat) (v : Word) : a.Keeps (s.advance x c v) := ite (h.perform ..) h
theorem postAdvance (h : a.Keeps s) (x c : Nat) (v : Word) (o : Option Nat := none) : a.Keeps (s.postAdvance x c v o) := h
theorem signal (h : a.Keeps s) (x c : Nat) (v : Word) : a.Keeps (s.signal x c v) := ite (h.advance ..) (h.postAdvance ..)

/-! ### Accesses of warps -/

theorem acquireBy (h : a.Keeps s) (k core scope : Nat) : a.Keeps (s.acquireBy k core scope) := (h.acquire ..).modWarp _ _

theorem dropStale (h : a.Keeps s) (k : Nat) : a.Keeps (s.dropStale k) := by
  unfold State.dropStale
  split
  · exact h
  · exact ite (h.putWarp _) h

theorem settleFences (h : a.Keeps s) (k : Nat) : a.Keeps (s.settleFences k) := by
  unfold State.settleFences
  split
  · exact h
  · refine h.foldl _ fun _ _ hk => ?_
    split
    · exact hk
    · exact ite hk (ite ((hk.putWarp _).acquireBy ..) (hk.putWarp _))

theorem trackLine (h : a.Keeps s) (k line : Nat) (vline : Word) (write : Bool) : a.Keeps (s.trackLine k line vline write) := by
  unfold State.trackLine
  split
  · exact h
  · split
    · exact h
    · exact ite h (ite (h.putWarp _) ((h.conflicts ..).putWarp _))

theorem warpRead (h : a.Keeps s) (w : Warp) (e : LogEntry) (ph : Phys) (pa n : Nat) (hit : Bool) : a.Keeps (s.warpRead w e ph pa n hit).2 := by
  unfold State.warpRead
  split
  · exact h
  · exact ite (h.readBy ..) (ite ((h.readBy ..).l1DropSpan ..) ((h.readBy ..).foldl _ fun _ _ k => k.l1Fill ..))

theorem warpWrite (h : a.Keeps s) (w : Warp) (e : LogEntry) (p : Part) (i : Nat) (ph : Phys) (bs : List Byte) :
    a.Keeps (s.warpWrite w e p i ph bs) := by
  unfold State.warpWrite
  refine ite ((toReplicas ?_ ..).l1DropSpan ..) (ite (l1DropSpan ?_ ..) (l1Update ?_ ..))
  all_goals exact ite (h.perform ..).same (ite ((h.perform ..).ownLines ..) (h.perform ..))

theorem fillFor (h : a.Keeps s) (w : Warp) (p : Part) (ps : List (Nat × Nat × Phys)) : a.Keeps (s.fillFor w p ps) :=
  ite h (h.foldl _ fun _ _ k => k.fillTlb ..)

theorem trackPart (h : a.Keeps s) (w : Warp) (p : Part) (ps : List (Nat × Nat × Phys)) (write : Bool) : a.Keeps (s.trackPart w p ps write) :=
  h.foldl _ fun _ _ k => k.foldl _ fun _ _ k => k.trackLine ..

theorem readPart (h : a.Keeps s) (w : Warp) (e : LogEntry) (p : Part) (ps : List (Nat × Nat × Phys)) (hit : Bool) :
    a.Keeps (s.readPart w e p ps hit).2.2 := by
  have read : ∀ (l : List (Nat × Nat × Phys)) (acc : List Byte × State), a.Keeps acc.2 →
      a.Keeps (l.foldl (fun (acc : List Byte × State) q =>
        (acc.1 ++ (acc.2.warpRead w e q.2.2 (s.readAddr w p q.1 q.2.2) q.2.1 hit).1,
          (acc.2.warpRead w e q.2.2 (s.readAddr w p q.1 q.2.2) q.2.1 hit).2)) acc).2 := by
    intro l
    induction l with
    | nil => exact fun _ k => k
    | cons q l ih => exact fun acc k => ih _ (k.warpRead ..)
  unfold State.readPart
  dsimp only
  split
  · exact h.trackPart ..
  · exact read ps ([], s) h

theorem writePart (h : a.Keeps s) (w : Warp) (e : LogEntry) (p : Part) (ps : List (Nat × Nat × Phys)) (bs : List Byte) :
    a.Keeps (s.writePart w e p ps bs) := by
  unfold State.writePart
  split
  · split
    · exact h
    · exact (h.trackPart ..).modWarp _ _
  · exact h.foldl _ fun _ _ k => k.warpWrite ..

theorem completePart (h : a.Keeps s) (k q : Nat) (p : Part) (d : BitVec 128) : a.Keeps (s.completePart k q p d) := h.modWarp _ _

theorem consumePoison (h : a.Keeps s) (w : Warp) (e : LogEntry) (p : Part) (line : Nat) : a.Keeps (s.consumePoison w e p line) :=
  ite (h.killLanes ..) (ite (h.killLanes ..) (h.killLanes ..))

theorem afterKill (h : a.Keeps s) (s0 : State) (k : Nat) : a.Keeps (s.afterKill s0 k) := by
  unfold State.afterKill
  split
  · exact (h.modWarp _ _).finishWarp _
  · exact h

theorem nearWrite (h : a.Keeps s) (blk x : Nat) (bs : List Byte) : a.Keeps (s.nearWrite blk x bs) :=
  h.modBlock _ _ fun _ k => ⟨Memory.wf_writeBytes _ _ k.1, k.2⟩

end Sys2Proof.Machine.State.Keeps

/-!
The memory family as it issues and the commands keep both invariants.
-/

namespace Sys2Proof.Machine

/-! ### The memory family as it issues -/

theorem State.Keeps.resizeBank {a s : State} (h : a.Keeps s) (core n : Nat) : a.Keeps (s.resizeBank core n) :=
  h.memory (Memory.wf_clear _ _) rfl rfl

theorem keeps_execPf (f : FormM) (s : State) : Answers s.Keeps (execPf f s) := keeps_machineOpNT fun w => by
  dsimp only
  split
  · refine .ite (.foldl (.refl s) _ fun _ _ k => ?_) (.refl s)
    split
    · exact .ite ((k.fillTlb ..).l1Fill ..) (k.fillTlb ..)
    · exact k
  · exact .refl s

theorem keeps_execCwb (f : FormM) (s : State) : Answers s.Keeps (execCwb f s) := keeps_machineOpNT fun w => by
  dsimp only
  split
  · refine .foldl (.refl s) _ fun _ _ k => ?_
    split
    · exact (k.fillTlb ..).callBack ..
    · exact k
  · exact .refl s

theorem keeps_execRooffl (f : FormR) (s : State) : Answers s.Keeps (execRooffl f s) := keeps_machineOpNT fun _ =>
  .fst_ite (.refl s) (.fst_ite (.refl s) ((State.Keeps.ite (.resizeBank (.refl s) ..) (.refl s)).cleanWays _))

/-! ### Commands -/

/-- What an attempt at a command does keeps both invariants. -/
def State.Attempt.Keeps (a : State) : State.Attempt → Prop
  | .did t _ => a.Keeps t
  | _ => True

namespace State
variable {a s : State}

theorem Attempt.keeps_ite {c : Prop} [Decidable c] {x y : Attempt} (h : x.Keeps a) (k : y.Keeps a) : (if c then x else y).Keeps a := by
  split <;> assumption

/-- A record that cannot be read is a fault or poison. -/
theorem keeps_of_cmdRead_inl {w : Warp} {sup : Bool} {m n : Nat} {ea : Word} {r : Attempt} (e : s.cmdRead w sup m ea n = .inl r) : r.Keeps a := by
  unfold cmdRead at e
  dsimp only at e
  split at e
  · cases e; trivial
  · split at e
    · cases e; trivial
    · cases e

namespace Keeps

theorem doorbell (h : a.Keeps s) (x q : Nat) : a.Keeps (s.doorbell x q) := ite h h
theorem addTask (h : a.Keeps s) (x : Nat) (node : Option Nat) (bs : List Byte) : a.Keeps (s.addTask x node bs) := h

theorem pushRecord (h : a.Keeps s) (w : Warp) (sup : Bool) (m : Nat) (ea : Word) (q : Nat) : (s.pushRecord w sup m ea q).Keeps a := by
  unfold State.pushRecord
  refine Attempt.keeps_ite h ?_
  split
  · trivial
  · trivial
  · refine Attempt.keeps_ite h ?_
    split
    · exact keeps_of_cmdRead_inl ‹_›
    · split
      · trivial
      · exact Attempt.keeps_ite trivial ((((h.agentTouch ..).agentStore ..).agentStore ..).doorbell ..)

theorem submitSeam (h : a.Keeps s) (w : Warp) (sup : Bool) (m : Nat) (ea : Word) : (s.submitSeam w sup m ea).Keeps a := by
  unfold State.submitSeam
  refine Attempt.keeps_ite trivial ?_
  split
  · exact keeps_of_cmdRead_inl ‹_›
  · exact (h.agentTouch ..).addTask ..

theorem sendCancels (h : a.Keeps s) (g : Group) (seq : Nat) (fault : Bool) : a.Keeps (s.sendCancels g seq fault) := h

theorem acceptColl (h : a.Keeps s) (x core : Nat) (va : Word) (p : BitVec 768) : (s.acceptColl x core va p).Keeps a := by
  unfold State.acceptColl
  split
  · trivial
  · exact Attempt.keeps_ite (Attempt.keeps_ite trivial ((h.writeEntry ..).postAdvance ..)) (ite (sendCancels h.same ..) h.same)

theorem askColl (h : a.Keeps s) (k : Nat) : a.Keeps (s.askColl k) := ite h h

theorem submitColl (h : a.Keeps s) (w : Warp) (sup : Bool) (m : Nat) (ea : Word) : (s.submitColl w sup m ea).Keeps a := by
  unfold State.submitColl
  split
  · exact keeps_of_cmdRead_inl ‹_›
  · exact Attempt.keeps_ite trivial (acceptColl (agentTouch h.same ..) ..)

theorem loadGroup (h : a.Keeps s) (x g : Nat) (img : BitVec 1536) : a.Keeps (s.loadGroup x g img).1 := by
  unfold State.loadGroup
  have put : ∀ c : Bool, a.Keeps (if c then s else { s with early := s.early.filter fun c => !(c.1 = x && c.2.1 = g) }) := fun c => ite h h
  refine fst_ite h (fst_ite (put _) (fst_ite h ?_))
  split
  · exact h
  · exact fst_ite h (put _)

theorem submitGroup (h : a.Keeps s) (w : Warp) (sup : Bool) (m : Nat) (ea : Word) (g : Nat) : (s.submitGroup w sup m ea g).Keeps a := by
  unfold State.submitGroup
  refine Attempt.keeps_ite h (Attempt.keeps_ite trivial ?_)
  split
  · exact keeps_of_cmdRead_inl ‹_›
  · exact (h.agentTouch ..).loadGroup ..

theorem attempt (h : a.Keeps s) (w : Warp) (sup : Bool) (opc : BitVec 9) (m : Nat) (ea : Word) (arg : Nat) :
    (s.attempt w sup opc m ea arg).Keeps a :=
  Attempt.keeps_ite (h.pushRecord ..) (Attempt.keeps_ite (h.submitSeam ..) (Attempt.keeps_ite (h.submitGroup ..) (h.submitColl ..)))

theorem of_attempt {t : State} {r : Word} (h : a.Keeps s) {w : Warp} {sup : Bool} {opc : BitVec 9} {m : Nat} {ea : Word} {arg : Nat}
    (e : s.attempt w sup opc m ea arg = .did t r) : a.Keeps t := by
  have := h.attempt w sup opc m ea arg
  rwa [e] at this

theorem commandPart (h : a.Keeps s) (k q : Nat) (p : Part) : a.Keeps (s.commandPart k q p) := by
  unfold State.commandPart
  split
  · exact h
  · split
    · exact h
    · refine ite h ?_
      split
      · have done := h.of_attempt ‹_›
        exact (ite done (done.modWarp _ _)).completePart ..
      · exact ite (h.askColl _) h
      · exact (h.modWarp _ _).consumePoison ..
      · exact h

end Keeps
end State

theorem keeps_endHeld {s : State} (w : Warp) {f : Warp → State × WRes} (hf : s.Keeps (f w).1) : s.Keeps (endHeld s w f).1 := by
  unfold endHeld
  split
  · exact .refl s
  · exact hf

theorem keeps_commandOp_go {a s : State} (h : a.Keeps s) {w : Warp} {opc : BitVec 9} {addr : Nat → Word} {arg : Nat → Nat} {ps : List Part}
    {bad : Bool} {ms : List Nat} {r : State × List Part × Bool} (e : commandOp.go w opc addr arg s ps bad ms = some r) : a.Keeps r.1 := by
  induction ms generalizing s ps bad with
  | nil => cases e; exact h
  | cons m ms ih =>
    rw [commandOp.go] at e
    dsimp only at e
    split at e
    · exact ih (h.of_attempt ‹_›) e
    · cases e
    · exact ih h e
    · exact ih (h.killLanes ..) e

theorem keeps_commandOp {a s : State} (h : a.Keeps s) (w : Warp) (word : BitVec 96) (opc : BitVec 9) (dst : Spec) (priv : Bool) (addr : Nat → Word)
    (arg : Nat → Nat) : a.Keeps (commandOp s w word opc dst priv addr arg).1 := by
  unfold commandOp
  split
  · exact .ite (h.askColl _) h
  · have done := keeps_commandOp_go h ‹_›
    refine .fst_ite done ?_
    split
    · exact h
    · exact .fst_ite done done

end Sys2Proof.Machine

/-!
Accesses as they are performed keep both invariants.
-/

namespace Sys2Proof.Machine

namespace State.Keeps
variable {a s t : State}

/-! ### Copies and Seam cores as they reach memory -/

theorem rowFill (h : a.Keeps s) (c : Copy) (r : Row) : a.Keeps (s.rowFill c r) :=
  ite h (ite (ite h (h.agentFill ..)) (agentFill (ite h (h.agentFill ..)) ..))

theorem seamFill (h : a.Keeps s) (x : Nat) (as : List SeamRange) : a.Keeps (s.seamFill x as) := h.foldl _ fun _ _ k => k.agentFill ..

theorem seamRead (h : a.Keeps s) {i : SeamInst} {t : SeamTask} {as : List SeamRange} {align : Nat} {s1 : State} {vals : List (List Byte)}
    (e : s.seamRead i t as align = .got s1 vals) : a.Keeps s1 := by
  unfold State.seamRead at e
  split at e
  · cases e
  · dsimp only at e
    split at e
    · cases e
    · split at e
      · cases e
      · cases e
        exact (h.seamFill ..).foldl _ fun _ _ k => k.foldl _ fun _ _ k => (k.uncached ..).readBy ..

theorem seamWrite (h : a.Keeps s) {i : SeamInst} {t : SeamTask} {es : List (Word × List Byte)} {align : Nat} {red : Option Nat} {r : State × SeamInst}
    (e : s.seamWrite i t es align red = .ok r) : a.Keeps r.1 := by
  unfold State.seamWrite at e
  dsimp only at e
  split at e
  · cases e
  · cases e
    exact h.seamFill ..

theorem seamApply (h : a.Keeps s) (core : Nat) (w : SeamWrite) : a.Keeps (s.seamApply core w) :=
  ite (h.uncached ..) (ite (((h.uncached ..).perform ..).toReplicas ..) ((h.uncached ..).perform ..))

theorem seamPerform (h : a.Keeps s) (core k : Nat) : a.Keeps (s.seamPerform core k) := by
  unfold State.seamPerform
  split
  · exact h
  · split
    · exact h
    · exact ite h (foldl h _ fun _ _ k => k.seamApply ..).same

/-! ### Accesses as they are performed -/

theorem modEntry (h : a.Keeps s) (k q : Nat) (f : LogEntry → LogEntry) : a.Keeps (s.modEntry k q f) := h.modWarp _ _

theorem fetchPart (h : a.Keeps s) {w : Warp} {e : LogEntry} {p : Part} {hit : Bool} {r : List Byte × Bool × State}
    (eq : s.fetchPart w e p hit = some r) : a.Keeps r.2.2 := by
  unfold State.fetchPart at eq
  dsimp only at eq
  split at eq
  · cases eq; exact h
  · split at eq
    · cases eq
    · cases eq
      exact ((h.fillFor ..).foldl _ fun _ _ k => k.uncached ..).readPart ..

theorem takeData (h : a.Keeps s) (k : Nat) (w : Warp) (e : LogEntry) (p : Part) (bs : List Byte) (bad : Bool) (line : Nat) :
    a.Keeps (s.takeData k w e p bs bad line) := by
  unfold State.takeData
  extract_lets s1
  have scaled : a.Keeps s1 := by
    unfold s1
    split
    · refine h.modBlock _ _ fun b c => ⟨c.1, ?_⟩
      dsimp only
      split
      · exact c.2
      · exact Memory.wf_writeBytes _ _ c.2
    · exact h
  clear_value s1
  refine ite ((scaled.completePart ..).consumePoison ..) ?_
  split
  · exact scaled.modEntry ..
  · exact scaled.modEntry ..
  · exact scaled.completePart ..
  · exact (scaled.modWarp _ _).completePart ..

theorem loadParts (h : a.Keeps s) (k i : Nat) (hit : Bool) (ps : List Part) : a.Keeps (s.loadParts k i hit ps) := by
  unfold State.loadParts
  split
  · exact h
  · refine ite h ?_
    extract_lets got s1 s2
    have fetched : a.Keeps s1 := foldl h _ fun s g k => by
      cases hf : s.fetchPart _ _ g.1 hit with
      | none => exact k
      | some r => exact k.fetchPart hf
    have taken : a.Keeps s2 := fetched.foldl _ fun _ _ k => k.takeData ..
    exact ite (taken.acquireBy ..) taken

theorem loadPart (h : a.Keeps s) (k i : Nat) (hit : Bool) (p : Part) : a.Keeps (s.loadPart k i hit p) := h.loadParts ..

/-- The translations of an access are kept, and its pieces make their requests below their home slices. -/
theorem requests (h : a.Keeps s) (w : Warp) (p : Part) (ps : List (Nat × Nat × Phys)) (tx read write : Bool) :
    a.Keeps (ps.foldl (fun s q => if tx then s else s.uncached q.2.2 q.2.1 read write) (s.fillFor w p ps)) :=
  (h.fillFor ..).foldl _ fun _ _ k => ite k (k.uncached ..)

theorem storePart (h : a.Keeps s) (k i : Nat) (p : Part) : a.Keeps (s.storePart k i p) := by
  unfold State.storePart
  split
  · exact h
  · refine ite h (ite ((h.nearWrite ..).completePart ..) ?_)
    split
    · exact h
    · exact ((h.requests ..).writePart ..).completePart ..

theorem poisonParts (h : a.Keeps s) (k : Nat) (w : Warp) (e : LogEntry) (ps : List Part) (line : Nat) : a.Keeps (s.poisonParts k w e ps line) :=
  h.foldl _ fun _ _ k => (k.completePart ..).consumePoison ..

/-- What an atomic request reads, in the open transaction or as memory stands. -/
theorem viewed (h : a.Keeps s) (k : Nat) (w : Warp) (tx : Bool) (p : Part) (q : List (Nat × Nat × Phys)) :
    a.Keeps (if tx then s.trackPart w p q false else q.foldl (fun s x => s.readBy k x.2.2.pa x.2.1) s) :=
  ite (h.trackPart ..) (h.foldl _ fun _ _ k => k.readBy ..)

theorem atomicApply (h : a.Keeps s) (k i m : Nat) (addr : Word) : a.Keeps (s.atomicApply k i m addr) := by
  unfold State.atomicApply
  split
  · exact h
  · split
    · dsimp only
      split
      · exact h
      · refine ite h ?_
        split
        · exact h
        · refine ite ((h.requests ..).poisonParts ..) ?_
          refine foldl ?_ _ fun _ _ k => (ite k (k.modWarp _ _)).completePart ..
          exact ite ((((h.requests ..).viewed ..).writePart ..).acquireBy ..) (((h.requests ..).viewed ..).writePart ..)
    · exact h

theorem contribute (h : a.Keeps s) (k i m : Nat) (addr : Word) : a.Keeps (s.contribute k i m addr) := by
  unfold State.contribute
  split
  · exact h
  · split
    · dsimp only
      split
      · exact h
      · split
        · exact h.foldl _ fun _ _ k => k.completePart ..
        · refine ite (h.foldl _ fun _ _ k => k.completePart ..) (ite h (ite (h.modWarp _ _) ?_))
          exact (modWarp (same (h.fillFor ..)) _ _).foldl _ fun _ _ k => k.completePart ..
    · exact h

theorem releasePart (h : a.Keeps s) (k i : Nat) (p : Part) : a.Keeps (s.releasePart k i p) := by
  unfold State.releasePart
  split
  · exact h
  · refine ite h ?_
    dsimp only
    split
    · exact h
    · refine ite (h.poisonParts ..) ?_
      refine foldl (acquireBy (same (ite (h.fillFor ..) ((h.fillFor ..).writePart ..))) ..) _ fun _ _ k => (k.modWarp _ _).completePart ..

theorem exactApply (h : a.Keeps s) (k i m : Nat) (addr : Word) : a.Keeps (s.exactApply k i m addr) := by
  unfold State.exactApply
  split
  · exact h
  · refine ite h ?_
    dsimp only
    split
    · exact h
    · split
      · exact h.foldl _ fun _ _ k => k.completePart ..
      · refine ite h ?_
        exact ite (((h.requests ..).poisonParts ..).foldl _ fun _ _ k => k.completePart ..)
          ((((h.requests ..).viewed ..).writePart ..).foldl _ fun _ _ k => k.completePart ..)

theorem armMonitor (h : a.Keeps s) (k core : Nat) (ea : Word) (pa rpa : Nat) (midx : BitVec 16) : a.Keeps (s.armMonitor k core ea pa rpa midx) :=
  (h.l1Drop ..).modWarp _ _

theorem monitorPart (h : a.Keeps s) (k i : Nat) (p : Part) : a.Keeps (s.monitorPart k i p) := by
  unfold State.monitorPart
  split
  · exact h
  · refine ite h ?_
    split
    · exact h
    · exact ((h.fillFor ..).armMonitor ..).completePart ..

theorem dropForm (h : a.Keeps s) (k q : Nat) : a.Keeps (s.dropForm k q) := h.modWarp _ _
theorem fillFault (h : a.Keeps s) (w : Warp) (e : LogEntry) (p : Part) : a.Keeps (s.fillFault w e p) := ite h (h.fillTlb ..)

theorem faultPart (h : a.Keeps s) (k i m l : Nat) : a.Keeps (s.faultPart k i m l) := by
  unfold State.faultPart
  split
  · exact h
  · split
    · exact h
    · refine ite h (ite (((h.fillFault ..).modWarp _ _).dropForm ..) ?_)
      split
      · exact h
      · exact (h.fillFault ..).modWarp _ _

end State.Keeps

/-! ### The events of an agent's accesses -/

theorem keeps_agentEvent {s : State} {ag : Agent} {f : Nat → State} (hf : ∀ k, s.Keeps (f k)) : Answers s.Keeps (agentEvent ag s f) := by
  unfold agentEvent
  split
  · exact answers_next (.refl s)
  · exact answers_next (((hf _).afterKill ..).settleFences _)

theorem keeps_execLoadReturn (ag : Agent) (e m : Nat) (lanes : LaneMask) (hit : Bool) (s : State) :
    Answers s.Keeps (execLoadReturn ag e m lanes hit s) := keeps_agentEvent fun _ => by
  split
  · exact .refl s
  · exact (State.Keeps.loadParts (.refl s) ..).foldl _ fun _ _ k => (k.monitorPart ..).commandPart ..

theorem keeps_execAtomicRequest (ag : Agent) (e m : Nat) (addr : Word) (s : State) : Answers s.Keeps (execAtomicRequest ag e m addr s) :=
  keeps_agentEvent fun _ => .atomicApply (.refl s) ..

theorem keeps_execOrderedContribution (ag : Agent) (e m : Nat) (addr : Word) (s : State) :
    Answers s.Keeps (execOrderedContribution ag e m addr s) := keeps_agentEvent fun _ => .contribute (.refl s) ..

theorem keeps_execExactCellRequest (ag : Agent) (e m : Nat) (addr : Word) (s : State) : Answers s.Keeps (execExactCellRequest ag e m addr s) :=
  keeps_agentEvent fun _ => .exactApply (.refl s) ..

theorem keeps_execLaneFault (ag : Agent) (e m l : Nat) (s : State) : Answers s.Keeps (execLaneFault ag e m l s) :=
  keeps_agentEvent fun _ => .faultPart (.refl s) ..

theorem keeps_execWritePerformed (ag : Agent) (e m : Nat) (lanes : LaneMask) (s : State) :
    Answers s.Keeps (execWritePerformed ag e m lanes s) := by
  unfold execWritePerformed
  split
  · exact answers_next (.seamPerform (.refl s) ..)
  · refine keeps_agentEvent fun _ => ?_
    split
    · exact .refl s
    · exact State.Keeps.foldl (.refl s) _ fun _ _ k => (k.storePart ..).releasePart ..

theorem keeps_execReplicaUpdate (die idx : Nat) (s : State) : Answers s.Keeps (execReplicaUpdate die idx s) := by
  unfold execReplicaUpdate
  split
  · exact answers_next (.refl s)
  · refine answers_ite (answers_next (.refl s)) (answers_next ?_)
    have written := fun x b => State.Keeps.physWrite (.refl s) x b
    split
    · exact .ite (State.Keeps.l1DropSpan (written _ _).same ..) (written _ _).same
    · exact (written _ _).same

theorem keeps_execWalk (x : Walker) (va : Word) (s : State) : Answers s.Keeps (execWalk x va s) := answers_next (.fillVa (.refl s) ..)

end Sys2Proof.Machine

/-!
Copies, barriers, timelines and frames keep both invariants.
-/

namespace Sys2Proof.Machine

namespace State.Keeps
variable {a s t : State}

/-! ### Barriers, batches and copies -/

theorem putBarrier (h : a.Keeps s) (blk off : Nat) (b : Barrier) : a.Keeps (s.putBarrier blk off b) := h.nearWrite ..
theorem stepBarrier (h : a.Keeps s) (blk off : Nat) (d : Int) (r : Bool) : a.Keeps (s.stepBarrier blk off d r) := h.putBarrier ..

theorem settleBatches (h : a.Keeps s) (k : Nat) : a.Keeps (s.settleBatches k) := by
  unfold State.settleBatches
  split
  · exact h
  · split
    exact (h.putWarp _).foldl _ fun _ _ k => k.postAdvance ..

theorem finishCopy (h : a.Keeps s) (id : Nat) (c : Copy) : a.Keeps (s.finishCopy id c) := by
  unfold State.finishCopy
  extract_lets s1 s2 drop s3
  have signalled : a.Keeps s1 := by
    unfold s1
    split
    · exact h.stepBarrier ..
    · exact h
  clear_value s1
  exact ((modWarp (s := s2) signalled.same _ _).settleBatches _).finishWarp _

theorem putBytes (h : a.Keeps s) (id : Nat) (c : Copy) (l : List Mv) : a.Keeps (s.putBytes id c l) := by
  have written := h.foldl (joinBytes (l.map fun m => (m.dst, m.val))) fun s q k =>
    ite (c := nearBase ≤ q.1) (k.nearWrite c.blk (q.1 - nearBase) q.2) (k.perform (copyAgent id) q.1 q.2)
  unfold State.putBytes
  exact ite (written.addPoison _) ((written.addPoison _).modBlock _ _ fun _ k => k)

theorem rowEffects (h : a.Keeps s) (id : Nat) (c : Copy) (r : Row) : a.Keeps (s.rowEffects id c r) := by
  unfold State.rowEffects
  extract_lets s0 s1
  have filled : a.Keeps s0 := h.rowFill ..
  have read : a.Keeps s1 := by
    refine ite filled ?_
    split
    · refine filled.foldl _ fun _ _ k => ite ((k.uncached ..).readBy ..) (ite (((k.uncached ..).readBy ..).l1DropSpan ..) ?_)
      exact ((k.uncached ..).readBy ..).foldl _ fun _ _ k => k.l1Fill ..
    · exact filled
  clear_value s1
  refine ite read ?_
  split
  · refine read.foldl _ fun s _ k => ?_
    extract_lets s3 s2
    have owned : a.Keeps s2 := ite ((k.uncached ..).ownLines ..) (k.uncached ..)
    exact ite ((owned.toReplicas ..).l1DropSpan ..) (ite (owned.l1DropSpan ..) (owned.l1Update ..))
  · exact read

theorem movePieces (h : a.Keeps s) (id : Nat) (c : Copy) (rs : List Row) : a.Keeps (s.movePieces id c rs) :=
  (h.putBytes ..).foldl _ fun _ _ k => k.rowEffects ..

theorem lanesDone (h : a.Keeps s) (c : Copy) : a.Keeps (s.lanesDone c) := h.modWarp _ _

theorem copyStep (h : a.Keeps s) (id : Nat) : a.Keeps (s.copyStep id) := by
  unfold State.copyStep
  split
  · exact h
  · split
    · exact h
    · refine ite h (ite h ?_)
      extract_lets todo go c1 s1 s2
      have moved : a.Keeps s1 := h.movePieces ..
      clear_value s1
      have done : a.Keeps s2 := lanesDone moved.same _
      exact ite done (done.finishCopy ..)

theorem launchCopies (h : a.Keeps s) (w : Warp) (word : BitVec 96) (cs : List Copy) : a.Keeps (launchCopies s w word cs).1 := by
  unfold Machine.launchCopies
  refine fst_ite h (fst_ite h ?_)
  split
  · exact h
  · exact foldl (h.putWarp _).same _ fun _ _ k => k.finishCopy ..

theorem acquired (h : a.Keeps s) (w : Warp) (scope : Nat) (k : Warp → Warp) : a.Keeps (acquired s w scope k).1 := h.acquireBy ..

/-! ### Frames -/

theorem writePieces (h : a.Keeps s) (x u : Nat) (ps : List Piece) : a.Keeps (s.writePieces x u ps) := h.foldl _ fun _ _ k => k.physWrite ..

/-- Warps leave, the others stay under their keys. -/
theorem filterWarps (h : a.Keeps s) (p : Nat × Warp → Bool) (hm : t.mem = s.mem) (hb : t.blocks = s.blocks)
    (hw : t.warps = s.warps.filter p) : a.Keeps t :=
  h.warps hm hb fun k q hq => k q (List.mem_filter.1 (hw ▸ hq)).1

theorem endSaveOne (h : a.Keeps s) (k : Nat) : a.Keeps (s.endSaveOne k) := by
  unfold State.endSaveOne
  split
  · exact h
  · split
    · refine ite h ?_
      extract_lets held w0 w1 keep latch s1
      have left : a.Keeps s1 := h.filterWarps _ rfl rfl rfl
      clear_value s1
      refine ite (left.modBlock _ _ fun _ => id) ?_
      split
      · exact h
      · exact ((left.writePieces ..).modCtx _ _).modBlock _ _ fun _ => id
    · exact h

theorem beginSave (h : a.Keeps s) (k : Nat) (f : Bool) : a.Keeps (s.beginSave k f) := h.modWarp _ _

theorem endSave (h : a.Keeps s) (k : Nat) : a.Keeps (s.endSave k) := by
  unfold State.endSave
  dsimp only
  split
  · split
    · exact ((h.endSaveOne _).beginSave ..).endSaveOne _
    · exact h.endSaveOne _
  · exact h.endSaveOne _

theorem saveWaiting (h : a.Keeps s) (b : Nat) : a.Keeps (s.saveWaiting b) := h.foldl _ fun _ _ k => (k.beginSave ..).endSave _

theorem raiseReq (h : a.Keeps s) (b c : Nat) : a.Keeps (s.raiseReq b c) := by
  unfold State.raiseReq
  split
  · exact h
  · refine ite h ?_
    split
    · exact h
    · refine saveWaiting ?_ _
      exact h.modBlock _ _ fun _ => id

end State.Keeps

theorem keeps_execCopyComplete (id : Nat) (s : State) : Answers s.Keeps (execCopyComplete id s) := answers_next (.copyStep (.refl s) _)

theorem keeps_copyForm (s : State) (w : Warp) (word : BitVec 96) (f : FormR) (recd : Nat → List (Nat × Nat))
    (build : Block → Nat → Copy × List Check) : s.Keeps (copyForm s w word f recd build).1 := by
  unfold copyForm
  dsimp only
  split
  · refine .fst_ite (.refl s) (.fst_ite (.refl s) (.fst_ite (.refl s) ?_))
    split
    · exact .refl s
    · exact .launchCopies (.refl s) ..
  · exact .refl s

theorem keeps_execCpy (f : FormR) (s : State) : Answers s.Keeps (execCpy f s) := keeps_machineOpNT fun _ => keeps_copyForm ..
theorem keeps_execCpyf (f : FormR) (s : State) : Answers s.Keeps (execCpyf f s) := keeps_machineOpNT fun _ => keeps_copyForm ..
theorem keeps_execCpyt (f : FormR) (s : State) : Answers s.Keeps (execCpyt f s) := keeps_machineOpNT fun _ => keeps_copyForm ..

theorem keeps_execCpyg (f : FormM) (s : State) : Answers s.Keeps (execCpyg f s) := keeps_machineOpNT fun _ => by
  dsimp only
  split
  · split
    · exact .refl s
    · exact .launchCopies (.refl s) ..
  · exact .refl s

theorem keeps_execHalo (f : FormR) (s : State) : Answers s.Keeps (execHalo f s) := keeps_machineOpNT fun _ => by
  dsimp only
  split
  · refine .fst_ite (.refl s) (.fst_ite (.refl s) (.fst_ite (.refl s) ?_))
    split
    · exact .refl s
    · exact .fst_ite (.refl s) (.fst_ite (.refl s) (.launchCopies (.refl s) ..))
  · exact .refl s

theorem keeps_batchForm (tl : Option Nat) (f : FormR) (s : State) : Answers s.Keeps (batchForm tl f s) := keeps_machineOpNT fun _ => by
  dsimp only
  split
  · refine .fst_ite (.refl s) (.fst_ite (.refl s) (.fst_ite (.refl s) (.fst_ite (.refl s) ?_)))
    exact (State.Keeps.putWarp (.refl s) _).settleBatches _
  · exact .refl s

theorem keeps_execBwait (f : FormR) (s : State) : Answers s.Keeps (execBwait f s) := keeps_machineOpNT fun _ => by
  dsimp only
  split
  · exact .fst_ite (.refl s) (.fst_ite (.refl s) (.acquireBy (.refl s) ..))
  · exact .refl s

theorem keeps_barForm {s : State} (f : FormM) (b : Bool) (dst : List Spec) {run : State → Warp → List (Nat × Nat × Word) → State × WRes}
    (hr : ∀ w ops, s.Keeps (run s w ops).1) : Answers s.Keeps (barForm s f b dst run) := keeps_machineOpNT fun _ => by
  dsimp only
  split
  · refine .fst_ite (.refl s) ?_
    split
    · exact .refl s
    · exact .fst_ite (.refl s) (.fst_ite (.refl s) (hr _ _))
  · exact .refl s

theorem keeps_execBbini (f : FormM) (s : State) : Answers s.Keeps (execBbini f s) :=
  keeps_barForm _ _ _ fun _ _ => .foldl (.refl s) _ fun _ _ k => k.putBarrier ..

theorem keeps_execBbexp (f : FormM) (s : State) : Answers s.Keeps (execBbexp f s) :=
  keeps_barForm _ _ _ fun _ _ => .fst_ite (.refl s) (.foldl (.refl s) _ fun _ _ k => k.stepBarrier ..)

theorem keeps_execBbarr (f : FormM) (s : State) : Answers s.Keeps (execBbarr f s) :=
  keeps_barForm _ _ _ fun _ _ => .fst_ite (.refl s) (.foldl (.refl s) _ fun _ _ k => k.stepBarrier ..)

theorem keeps_execBbwt (f : FormM) (s : State) : Answers s.Keeps (execBbwt f s) :=
  keeps_barForm _ _ _ fun _ _ => .fst_ite (.acquired (.refl s) ..) (.refl s)

theorem keeps_execBbtst (f : FormM) (s : State) : Answers s.Keeps (execBbtst f s) :=
  keeps_barForm _ _ _ fun _ _ => .fst_ite (.acquired (.refl s) ..) (.refl s)

theorem keeps_execTlwait (f : FormR) (s : State) : Answers s.Keeps (execTlwait f s) := keeps_machineOpNT fun _ => by
  dsimp only
  split
  · exact .fst_ite (.refl s) (.fst_ite (.refl s) (.fst_ite (.refl s) (.acquired (.refl s) ..)))
  · exact .refl s

theorem keeps_execTlsig (f : FormR) (s : State) : Answers s.Keeps (execTlsig f s) := keeps_machineOpNT fun _ => by
  dsimp only
  split
  · exact .fst_ite (.refl s) (.fst_ite (.refl s) (.fst_ite (.refl s) (.foldl (.refl s) _ fun _ _ k => k.same)))
  · exact .refl s

theorem keeps_execTlrd (f : FormR) (s : State) : Answers s.Keeps (execTlrd f s) := keeps_machineOpNT fun _ => by
  split
  · exact .fst_ite (.refl s) (.fst_ite (.refl s) (.fst_ite (.refl s) (.acquireBy (.refl s) ..)))
  · exact .refl s

theorem keeps_execTimelineAdvance (x c : Nat) (s : State) : Answers s.Keeps (execTimelineAdvance x c s) := answers_next <| by
  split
  · exact .refl s
  · exact .ite (.refl s) (.advance (.modCtx (.refl s) _ _) ..)

theorem keeps_execForcedSave (ag : Agent) (s : State) : Answers s.Keeps (execForcedSave ag s) := by
  unfold execForcedSave
  split
  · exact answers_next (.refl s)
  · refine answers_next ?_
    split
    · exact .refl s
    · exact .ite (.endSave (.refl s) _) (.ite (.endSave (.beginSave (.refl s) ..) _) (.refl s))

end Sys2Proof.Machine

/-!
Members, the engines, queues and nodes keep both invariants.
-/

namespace Sys2Proof.Machine

namespace State.Keeps
variable {a s t : State}

/-! ### Members, the matrix engine and the convolution engine -/

theorem regroupCrew (h : a.Keeps s) (w : Warp) : a.Keeps (s.regroupCrew w) := h.foldl _ fun s _ k => by
  dsimp only
  split
  · exact ((k.putWarp _).acquireBy ..).modWarp _ _
  · exact (k.putWarp _).acquireBy ..

theorem mxComplete (h : a.Keeps s) (c : Nat) : a.Keeps (s.mxComplete c) := by
  unfold State.mxComplete
  split
  · exact h
  · split
    · exact h
    · exact (h.putWarp _).same

theorem convTouch (h : a.Keeps s) (j : ConvJob) : a.Keeps (s.convTouch j) := h.foldl _ fun _ _ k => k.agentTouch ..

theorem convStart (h : a.Keeps s) (cl : Nat) : a.Keeps (s.convStart cl) := by
  unfold State.convStart
  split
  · exact h
  · exact ite h (h.convTouch _).same

theorem convRecord (h : a.Keeps s) (j : ConvJob) : a.Keeps (s.convRecord j) := by
  unfold State.convRecord
  dsimp only
  split
  · generalize leBytes 4 (if j.bad then 0 else j.outCount) = cnt, j.err.bytes = err
    refine h.modBlock _ _ fun _ k => ⟨?_, k.2⟩
    exact Memory.wf_writeBytes _ _ (Memory.wf_writeBytes _ _ k.1)
  · split
    · exact (h.agentWrite ‹_›).writeEntry ..
    · exact h.logDevice _

theorem convEnd (h : a.Keeps s) (cl : Nat) : a.Keeps (s.convEnd cl) := by
  unfold State.convEnd
  split
  · exact h
  · refine ite h ?_
    extract_lets s1 s2 s3 s4
    have recorded : a.Keeps s2 := (h.foldl _ fun _ _ k => k.agentStore ..).convRecord _
    clear_value s2
    have advanced : a.Keeps s4 := ite recorded.same recorded.same
    clear_value s4
    split
    · exact advanced.modNode _ _
    · exact advanced

/-! ### Queues, nodes and blocks that have ended -/

theorem freeSlot (h : a.Keeps s) (n : Nat) : a.Keeps (s.freeSlot n) := h

theorem queueError (h : a.Keeps s) (n x q : Nat) (e : AgentErr) : a.Keeps (s.queueError n x q e) := ite h ((h.writeEntry ..).freeSlot _)

theorem deliver (h : a.Keeps s) (x q : Nat) (r : LHdr) : a.Keeps (s.deliver x q r) := by
  unfold State.deliver
  extract_lets invalid
  split
  exact same (ite (h.agentTouch ..) h)

theorem slotStep (h : a.Keeps s) (n : Nat) : a.Keeps (s.slotStep n) := by
  unfold State.slotStep
  extract_lets t s1
  have looked : a.Keeps s1 := ite (h.agentTouch ..) h
  clear_value s1
  refine ite looked ?_
  split
  · exact looked.queueError ..
  · refine ite (looked.freeSlot _) (ite looked.same ?_)
    split
    · exact looked.queueError ..
    · refine ite looked ?_
      split
      · exact looked.queueError ..
      · exact ((looked.agentTouch ..).agentWrite ‹_›).deliver ..

theorem nodeFails (h : a.Keeps s) (n : Nat) (e : AgentErr) : a.Keeps (s.nodeFails n e) := h

theorem readCount (h : a.Keeps s) (n : Nat) (nd : Node) : a.Keeps (s.readCount n nd) := by
  unfold State.readCount
  dsimp only
  split
  · exact h
  · exact ite ((h.agentTouch ..).nodeFails ..) ((h.agentTouch ..).modNode _ _)

theorem readArgs (h : a.Keeps s) (n : Nat) (nd : Node) : a.Keeps (s.readArgs n nd) := by
  unfold State.readArgs
  refine ite h ?_
  split
  · exact h
  · exact (h.agentTouch ..).modNode _ _

theorem reap (h : a.Keeps s) : a.Keeps s.reap := h.foldl _ fun s p k => by
  have left : a.Keeps { s with blocks := tdel s.blocks p.1, warps := s.warps.filter fun q => q.2.blk != p.1 } :=
    (k.ofBlocks (t := { s with blocks := tdel s.blocks p.1 }) rfl (fun c q hq => c q (List.mem_filter.1 hq).1) rfl).filterWarps _ rfl rfl rfl
  exact (left.modNode _ _).modCtx _ _

theorem completeNode (h : a.Keeps s) (n : Nat) (nd : Node) : a.Keeps (s.completeNode n nd) := by
  have entered : ∀ e : ErrRec, a.Keeps (if LHdr.cep nd.hdr = 0 then s else s.writeEntry nd.ctx (LHdr.cep nd.hdr) e) := fun e => ite h (h.writeEntry ..)
  exact same (ite ((entered _).signal ..) (entered _))

end State.Keeps

theorem keeps_execRegrp (f : FormR) (s : State) : Answers s.Keeps (execRegrp f s) := keeps_machineOpNT fun _ => by
  refine .fst_ite (.refl s) ?_
  split
  · refine .fst_ite (.refl s) (.fst_ite (.refl s) (.fst_ite ?_ (.waits (.refl s) ..)))
    have regrouped := fun w => State.Keeps.regroupCrew (.putWarp (.refl s) w)
    dsimp only
    split <;> exact regrouped _ _
  · exact .refl s

theorem keeps_execRegroupDone (c k : Nat) (s : State) : Answers s.Keeps (execRegroupDone c k s) := answers_next <| by
  split
  · exact .ite (.regroupCrew (.refl s) _) (.refl s)
  · exact .refl s

theorem keeps_execMmaMemberComplete (c : Nat) (s : State) : Answers s.Keeps (execMmaMemberComplete c s) := answers_next (.mxComplete (.refl s) _)

theorem keeps_mxForm (opc : BitVec 9) (f : FormR) (s : State) : Answers s.Keeps (mxForm opc f s) := keeps_machineOp fun w => by
  unfold mxIssue
  dsimp only
  split
  · exact .refl s
  · refine .fst_ite (.refl s) (.fst_ite (.refl s) ?_)
    split
    · split
      · split <;> exact .refl s
      · refine .fst_ite (.refl s) (.fst_ite (.refl s) (.fst_ite (.refl s) (.fst_ite (.refl s) (.fst_ite (.refl s) (.fst_ite (.refl s)
          (.fst_ite (.refl s) ?_))))))
        exact .ite (.refl s) (.refl s)
    · exact .refl s

theorem keeps_execMmclr (f : FormR) (s : State) : Answers s.Keeps (execMmclr f s) := keeps_machineOp fun _ => by
  dsimp only
  split
  · exact .fst_ite (.refl s) (.ite (.refl s) (.refl s))
  · exact .refl s

theorem keeps_execScld (f : FormM) (s : State) : Answers s.Keeps (execScld f s) := keeps_machineOpNT fun _ => by
  dsimp only
  split
  · refine .fst_ite (.refl s) ?_
    split
    · exact .refl s
    · refine .fst_ite (.refl s) (.fst_ite (.refl s) (.fst_ite (.refl s) (.fst_ite (.refl s) ?_)))
      split
      · exact .refl s
      · exact .modBlock (.refl s) _ _ fun _ => id
  · exact .refl s

theorem keeps_execConvJobStart (cl : Nat) (s : State) : Answers s.Keeps (execConvJobStart cl s) := answers_next (.convStart (.refl s) _)

theorem keeps_execCvgo (f : FormR) (s : State) : Answers s.Keeps (execCvgo f s) := keeps_machineOpNT fun _ => by
  dsimp only
  split
  · refine .fst_ite (.refl s) ?_
    split
    · exact .refl s
    · refine .fst_ite (.refl s) (.fst_ite (.refl s) (.fst_ite (.refl s) (.fst_ite (.refl s) ?_)))
      exact State.Keeps.modBlock (State.Keeps.same (.refl s)) _ _ fun _ => id
  · exact .refl s

theorem keeps_execDoorbell (x q : Nat) (s : State) : Answers s.Keeps (execDoorbell x q s) := answers_next (.doorbell (.refl s) ..)

theorem keeps_execSlotMap (n : Nat) (s : State) : Answers s.Keeps (execSlotMap n s) := answers_next <| .ite (.refl s) <| by
  split <;> exact .refl s

theorem keeps_execSlotFetch (n : Nat) (s : State) : Answers s.Keeps (execSlotFetch n s) := answers_next (.slotStep (.refl s) _)
theorem keeps_execQuantumExpire (n : Nat) (s : State) : Answers s.Keeps (execQuantumExpire n s) := answers_next (.ite (.refl s) (.refl s))
theorem keeps_execSlotUnstall (n : Nat) (s : State) : Answers s.Keeps (execSlotUnstall n s) := answers_next (.ite (.refl s) (.refl s))

theorem keeps_execNodeReady (id : Nat) (s : State) : Answers s.Keeps (execNodeReady id s) := answers_next <| by
  split
  · exact .refl s
  · refine .ite (.refl s) ?_
    extract_lets s0 s1 s2 s3
    have marked : s.Keeps s1 := .refl s
    clear_value s1
    have argued : s.Keeps s2 := marked.readArgs ..
    clear_value s2
    have counted : s.Keeps s3 := .ite (argued.readCount ..) argued
    clear_value s3
    exact .ite marked (counted.modNode _ _)

theorem keeps_execNodeDone (id : Nat) (s : State) : Answers s.Keeps (execNodeDone id s) := answers_next <| by
  have reaped : s.Keeps s.reap := .reap (.refl s)
  dsimp only
  split
  · exact reaped
  · exact .ite (reaped.completeNode ..) reaped

theorem keeps_execConvNodeDispatch (id : Nat) (s : State) : Answers s.Keeps (execConvNodeDispatch id s) := answers_next <| by
  split
  · exact .refl s
  · refine .ite (.refl s) ?_
    split
    · exact .refl s
    · exact State.Keeps.modNode (State.Keeps.agentTouch (.refl s) ..).same _ _

theorem keeps_execSeamNodeDispatch (id : Nat) (s : State) : Answers s.Keeps (execSeamNodeDispatch id s) := answers_next <| by
  split
  · exact .refl s
  · refine .ite (.refl s) ?_
    split
    · exact .refl s
    · exact ((State.Keeps.agentTouch (.refl s) ..).addTask ..).modNode _ _

end Sys2Proof.Machine

/-!
Register blocks, placement, restored blocks, streams and the launch family keep both invariants.
-/

namespace Sys2Proof.Machine

theorem mem_of_tfind {α : Type} {l : Tab α} {n : Nat} {v : α} (h : tfind l n = some v) : (n, v) ∈ l := by
  induction l with
  | nil => cases h
  | cons p l ih =>
    obtain ⟨k, w⟩ := p
    unfold tfind at h
    split at h
    · rename_i hk
      cases h
      exact hk ▸ List.mem_cons_self
    · exact List.mem_cons_of_mem _ (ih h)

theorem Block.Tidy.of_same {b c : Block} (h : b.Tidy) (hn : c.near = b.near := by rfl) (hs : c.scales = b.scales := by rfl) : c.Tidy :=
  ⟨hn ▸ h.1, hs ▸ h.2⟩

namespace State.Keeps
variable {a s t : State}

theorem foldl_fst {β γ : Type} {f : State × γ → β → State × γ} (l : List β) {p : State × γ} (h : a.Keeps p.1)
    (hf : ∀ p b, a.Keeps p.1 → a.Keeps (f p b).1) : a.Keeps (l.foldl f p).1 := by
  induction l generalizing p with
  | nil => exact h
  | cons b l ih => exact ih (hf p b h)

theorem tidy_of_block? (h : a.Keeps s) {k : Nat} {b : Block} (e : s.block? k = some b) (c : a.Canonical) : b.Tidy := (h.1 c).2 _ (mem_of_tfind e)

/-- A block takes the place of one of its number. -/
theorem putBlock (h : a.Keeps s) {k : Nat} {b : Block} (hb : a.Canonical → b.Tidy) (hm : t.mem = s.mem) (ht : t.blocks = tset s.blocks k b)
    (hw : t.warps = s.warps) : a.Keeps t :=
  ⟨fun c => ⟨hm ▸ (h.1 c).1, fun p hp => by
    rcases mem_tset (ht ▸ hp) with rfl | hp
    · exact hb c
    · exact (h.1 c).2 p hp⟩, fun k p hp => h.2 k p (hw ▸ hp)⟩

theorem setBlock (h : a.Keeps s) (k : Nat) {b : Block} (hb : a.Canonical → b.Tidy) : a.Keeps (s.modBlock k fun _ => b) :=
  ⟨fun c => ((h.modBlock k _ fun _ _ => hb c).1 c), h.2⟩

/-! ### Registers, placement, saving and restoring -/

theorem grantRegs (h : a.Keeps s) {w : Warp} (e : s.grantRegs w = some t) : a.Keeps t := by
  unfold State.grantRegs at e
  split at e
  · cases e
  · dsimp only at e
    split at e
    · cases e
    · cases e
      exact h.foldl _ fun _ _ k => ite (putWarp k.same _) (putWarp k.same _)

theorem readyCore (h : a.Keeps s) (x : Nat) (fuse : Bool) (near core : Nat) : a.Keeps (s.readyCore x fuse near core) := by
  unfold State.readyCore
  extract_lets cl idle s1 s2
  have fused : a.Keeps s1 := ite h.same h
  clear_value s1
  have sized : a.Keeps s2 := ite (fused.resizeBank ..) fused
  clear_value s2
  exact ite sized sized.same

theorem placeBlock (h : a.Keeps s) (n : Nat) (nd : Node) (b core : Nat) : a.Keeps (s.placeBlock n nd b core) := by
  unfold State.placeBlock
  extract_lets hd s1 k foff info blk free slotOf lead tails fore s2
  have ready : a.Keeps s1 := (h.readyCore ..).l1Clear _
  clear_value s1
  have placed : a.Keeps s2 := ready.ofBlocks rfl (fun c p hp => by
    rcases List.mem_append.1 hp with hp | hp
    · exact c p hp
    · rw [List.mem_singleton.1 hp]
      exact ⟨rfl, rfl⟩) rfl
  clear_value s2
  exact (placed.foldl _ fun _ _ k => k.putWarp _).modNode _ _

theorem placeAll {n : Nat} {nd : Node} {b : Nat} {l : List Nat} (h : a.Keeps s) (e : s.placeAll n nd b l = some t) : a.Keeps t := by
  induction l generalizing s b with
  | nil => cases e; exact h
  | cons c l ih =>
    rw [State.placeAll] at e
    split at e
    · exact ih (h.placeBlock ..) e
    · cases e

theorem passOver (h : a.Keeps s) (n : Nat) (nd : Node) : a.Keeps (s.passOver n nd) := h.foldl _ fun _ _ k => k.modNode _ _
theorem drainIfPlaced (h : a.Keeps s) (n : Nat) : a.Keeps (s.drainIfPlaced n) := h.modNode _ _

theorem requeueJobs (h : a.Keeps s) (x : Nat) : a.Keeps (s.requeueJobs x) := by
  unfold State.requeueJobs
  extract_lets all js home r s1
  have requeued : a.Keeps r.1 := foldl_fst js (p := (s, [])) h fun _ _ k => fst_ite k.same k
  clear_value r
  refine ite h (ite (requeued.modCtx _ _) ((requeued.modCtx _ _).writePieces ..))

theorem saveBlock (h : a.Keeps s) (k : Nat) : a.Keeps (s.saveBlock k) := by
  unfold State.saveBlock
  split
  · exact h
  · rename_i b hb
    extract_lets cl q mine ready
    split
    · extract_lets b1 s1 s2 s3
      have saved : a.Keeps s1 :=
        (h.putBlock (t := { s with blocks := tset s.blocks k b1 }) (fun c => (h.tidy_of_block? hb c).of_same) rfl rfl rfl).filterWarps _ rfl rfl rfl
      clear_value s1
      exact (((saved.modCtx _ _).writePieces ..).writePieces ..).modNode _ _
    · exact h

theorem restoreWarp (h : a.Keeps s) (core slot : Nat) (slotOf : Nat → Option Nat) (v : SavedWarp) : a.Keeps (s.restoreWarp core slot slotOf v) := by
  unfold State.restoreWarp
  extract_lets s0 w0 id0 ids re copies w key cs p s1
  have put : a.Keeps s1 := (putWarp (s := s0) h.same w).same
  clear_value s1
  refine ite put ?_
  split
  · exact put.modWarp _ _
  · exact put

theorem reissueAll (h : a.Keeps s) (k : Nat) : a.Keeps (s.reissueAll k) := h.modWarp _ _

/-! ### Phases -/

theorem phaseUp (h : a.Keeps s) (k : Nat) : a.Keeps (s.phaseUp k) := by
  unfold State.phaseUp
  refine foldl ?_ _ fun _ _ k => (k.putWarp _).acquireBy ..
  exact h.modBlock _ _ fun _ => id

end State.Keeps

theorem Block.Tidy.readBlock {b : Block} (h : b.Tidy) (s : State) : (s.readBlock b).Tidy :=
  ⟨Memory.wf_writeBytes _ _ h.1, Memory.wf_writeBytes _ _ h.2⟩

/-! ### Loops, streams and register blocks -/

theorem keeps_execMeld (f : FormC) (s : State) : Answers s.Keeps (execMeld f s) := keeps_machineOpNT fun _ => by
  refine .fst_ite (.refl s) (.fst_ite (.refl s) (.fst_ite (.refl s) ?_))
  dsimp only
  split
  · exact .refl s
  · exact .fst_ite (.refl s) (.refl s)

theorem keeps_execCanaryDemote (c k : Nat) (s : State) : Answers s.Keeps (execCanaryDemote c k s) := answers_next (.modWarp (.refl s) _ _)

theorem keeps_execLoopBack (c k : Nat) (s : State) : Answers s.Keeps (execLoopBack c k s) := answers_next <| by
  split
  · exact .refl s
  · refine .ite (.refl s) ?_
    split
    · exact .takeTrap (.refl s) _ _ _ _
    · exact .putWarp (.refl s) _

theorem keeps_execSmov (f : FormR) (s : State) : Answers s.Keeps (execSmov f s) :=
  answers_ite (keeps_accessOpNT _ _) (answers_ite (keeps_accessOpNT _ _) (keeps_warpOp _ _))

theorem keeps_execStreamElementArrive (c k st : Nat) (s : State) : Answers s.Keeps (execStreamElementArrive c k st s) := answers_next <| by
  split
  · exact .refl s
  · split
    · exact (State.Keeps.foldl (.refl s) _ fun _ _ k => k.loadPart ..).afterKill ..
    · refine .ite ?_ (.refl s)
      dsimp only
      split
      · exact .refl s
      · refine .ite (.refl s) ?_
        exact ((State.Keeps.agentFill (.refl s) ..).modWarp _ _).foldl _ fun _ _ k =>
          .ite (((k.uncached ..).readBy ..).foldl _ fun _ _ k => k.l1Fill ..) ((k.uncached ..).readBy ..)

theorem keeps_askRegs (h : Hdr) (n : Nat) (s : State) : Answers s.Keeps (askRegs h n s) := keeps_machineOp fun w => by
  refine .fst_ite (.refl s) (.fst_ite (.refl s) (.fst_ite (.refl s) ?_))
  extract_lets fresh w1 p s1
  have asked : s.Keeps s1 := (State.Keeps.putWarp (.refl s) w1).same
  clear_value s1
  split
  · have granted := asked.grantRegs ‹_›
    split <;> exact granted
  · exact asked.waits ..

theorem keeps_execRegacqGrant (c : Nat) (s : State) : Answers s.Keeps (execRegacqGrant c s) := answers_next <| by
  split
  · cases hg : s.grantRegs _ with
    | none => exact .refl s
    | some t => exact State.Keeps.grantRegs (.refl s) hg
  · exact .refl s

/-! ### Placement -/

theorem keeps_execBlockPlace (id : Nat) (cores : List Nat) (s : State) : Answers s.Keeps (execBlockPlace id cores s) := answers_next <| by
  extract_lets s1
  have reaped : s.Keeps s1 := .reap (.refl s)
  clear_value s1
  split
  · exact reaped
  · refine .ite reaped (.ite ((reaped.readCount ..).modNode _ _) (.ite reaped ?_))
    split
    · exact reaped
    · exact (((reaped.placeAll ‹_›).passOver ..).modNode _ _).drainIfPlaced _

theorem keeps_execPlacementReserve (id : Nat) (cores : List Nat) (s : State) : Answers s.Keeps (execPlacementReserve id cores s) := answers_next <| by
  split
  · exact .refl s
  · refine .ite (.refl s) ?_
    split
    · exact .modNode (.refl s) _ _
    · exact .ite (.refl s) (.modNode (.refl s) _ _)

theorem keeps_execPreqRaise (id : Nat) (s : State) : Answers s.Keeps (execPreqRaise id s) := answers_next <| by
  split
  · exact .refl s
  · refine .ite (.refl s) ?_
    split
    · exact .refl s
    · exact .foldl (.refl s) _ fun _ _ k => k.raiseReq ..

theorem keeps_execBlockSave (blk : Nat) (s : State) : Answers s.Keeps (execBlockSave blk s) := answers_next (.saveBlock (.refl s) _)

theorem keeps_execConvJobEnd (cl : Nat) (s : State) : Answers s.Keeps (execConvJobEnd cl s) :=
  answers_next ((State.Keeps.convEnd (.refl s) _).foldl _ fun _ _ k => k.requeueJobs _)

theorem keeps_execBlockRestore (blk core : Nat) (s : State) : Answers s.Keeps (execBlockRestore blk core s) := answers_next <| by
  extract_lets r
  have reaped : s.Keeps r := .reap (.refl s)
  clear_value r
  split
  · exact reaped
  · rename_i b hb
    split
    · exact reaped
    · rename_i nd _
      extract_lets hd lost s1 s2 earlier moved b' s1' far gone s2' free ps slotOf b1 s3 s4 s5
      refine .ite reaped (.ite ?_ (.ite reaped ?_))
      · have failed : s.Keeps s1 := (reaped.blockError ..).abortBlock _
        clear_value s1
        have aborted : s.Keeps s2 := by
          refine .requeueJobs ?_ _
          exact failed.modBlock _ _ fun _ => id
        exact aborted.reap.drainIfPlaced _
      · have ready : s.Keeps s1' := ((reaped.passOver ..).readyCore ..).l1Clear _
        have read : s.Keeps far := .ite ready (ready.physWrite ..)
        clear_value far
        have freed : s.Keeps s2' := read.modCtx _ _
        clear_value s2'
        have tidy : s.Canonical → b'.Tidy := fun c => (reaped.tidy_of_block? hb c).readBlock r
        clear_value b'
        have back : s.Keeps s3 := by
          refine .requeueJobs ?_ _
          exact freed.putBlock (b := b1) (fun c => (tidy c).of_same) rfl rfl rfl
        clear_value s3
        exact ((back.foldl _ fun _ _ k => k.restoreWarp ..).foldl _ fun _ _ k => k.reissueAll _).drainIfPlaced _

/-! ### The launch family -/

theorem keeps_execActiveSetDisplace (c k : Nat) (s : State) : Answers s.Keeps (execActiveSetDisplace c k s) := answers_next <| by
  split
  · exact .refl s
  · dsimp only
    split
    · exact .ite (.refl s) ((State.Keeps.putWarp (.refl s) _).putWarp _)
    · exact .refl s

theorem keeps_execWarpWake (c k : Nat) (s : State) : Answers s.Keeps (execWarpWake c k s) := answers_next (.modWarp (.refl s) _ _)

theorem keeps_recordForm (opc : BitVec 9) (dst : Spec) (b : Bool) (f : FormM) (s : State) : Answers s.Keeps (recordForm opc dst b f s) :=
  keeps_machineOpNT fun w => keeps_endHeld w <| by
    dsimp only
    split
    · refine .fst_ite (.refl s) ?_
      split
      · exact .refl s
      · exact .fst_ite (.refl s) (keeps_commandOp (.refl s) ..)
    · exact .refl s

theorem keeps_execQdoor (f : FormR) (s : State) : Answers s.Keeps (execQdoor f s) := keeps_machineOpNT fun _ => by
  dsimp only
  split
  · exact .fst_ite (.refl s) (.fst_ite (.refl s) (.foldl (.refl s) _ fun _ _ k => .ite (k.doorbell ..) k))
  · exact .refl s

theorem keeps_execAdvance (f : FormR) (s : State) : Answers s.Keeps (execAdvance f s) := keeps_machineOpNT fun _ => by
  refine .fst_ite (.refl s) (.fst_ite (.refl s) (.fst_ite (.modBlock (.refl s) _ _ fun _ => id) ?_))
  exact .fst_ite (.phaseUp (.putWarp (.refl s) _) _) (.waits (.refl s) ..)

theorem keeps_execPhaseRise (blk : Nat) (s : State) : Answers s.Keeps (execPhaseRise blk s) := answers_next (.ite (.phaseUp (.refl s) _) (.refl s))

theorem tidy_foldl_queue {step : Block → Nat → Except WRes (Block × Word)}
    (hs : ∀ {b m c v}, b.Tidy → step b m = .ok (c, v) → c.Tidy) {ms : List Nat} {b c : Block} {u v : Word} (h : b.Tidy)
    (e : ms.foldl (fun acc m => match acc with
      | .error e => .error e
      | .ok (b, _) => step b m) (Except.ok (ε := WRes) (b, u)) = .ok (c, v)) : c.Tidy := by
  induction ms generalizing b u with
  | nil => cases e; exact h
  | cons m ms ih =>
    rw [List.foldl_cons] at e
    dsimp only at e
    cases hstep : step b m with
    | ok r => exact ih (hs h hstep) (hstep ▸ e)
    | error x =>
      rw [hstep] at e
      clear ih
      induction ms with
      | nil => cases e
      | cons m ms ih => exact ih e

/-- A queue form whose steps leave near scratch and the scale records of the block as they are. -/
theorem keeps_queueForm {s : State} (w : Warp) (h : Hdr) (dst : Spec) (os : List Warp.Operand) (r : Bool)
    {step : Block → Nat → Except WRes (Block × Word)} (hs : ∀ {b m c v}, b.Tidy → step b m = .ok (c, v) → c.Tidy) :
    s.Keeps (queueForm s w h dst os r step).1 := by
  unfold queueForm
  split
  · refine .fst_ite (.refl s) (.fst_ite (.refl s) ?_)
    extract_lets ms b0 res
    have hres : ms.foldl _ _ = res := rfl
    clear_value res
    cases res with
    | error e => exact .refl s
    | ok r =>
      refine .setBlock (.refl s) _ fun c => tidy_foldl_queue hs ?_ hres
      unfold b0
      cases hb : s.block? w.blk with
      | none => exact ⟨rfl, rfl⟩
      | some b => exact State.Keeps.tidy_of_block? (.refl s) hb c
  · exact .refl s

theorem keeps_takeAcquire {a : State} {k : State × WRes} (h : a.Keeps k.1) (w : Warp) : a.Keeps (takeAcquire k w).1 := by
  unfold takeAcquire
  split
  · exact (h.putWarp _).acquireBy ..
  · exact h

end Sys2Proof.Machine

/-!
The decision queue, the fabric, starts, collectives, fences and transactions keep both invariants.
-/

namespace Sys2Proof.Machine

/-! ### The decision queue and the mailbox -/

theorem keeps_execDqpush (f : FormR) (s : State) : Answers s.Keeps (execDqpush f s) := keeps_machineOpNT fun w =>
  keeps_queueForm w _ _ _ _ fun h e => by
    split at e
    · cases e; exact h
    · split at e
      · cases e
      · cases e; exact h.of_same

theorem keeps_execDqpop (f : FormR) (s : State) : Answers s.Keeps (execDqpop f s) := keeps_machineOpNT fun w => by
  refine .fst_ite ?popped (keeps_takeAcquire ?popped w)
  refine keeps_queueForm w _ _ _ _ fun h e => ?_
  split at e
  · cases e; exact h.of_same
  · split at e <;> cases e

theorem keeps_execDqstat (f : FormR) (s : State) : Answers s.Keeps (execDqstat f s) := keeps_machineOpNT fun w =>
  keeps_queueForm w _ _ _ _ fun h e => by cases e; exact h

theorem keeps_execFmpost (f : FormR) (s : State) : Answers s.Keeps (execFmpost f s) := keeps_machineOpNT fun w =>
  keeps_queueForm w _ _ _ _ fun h e => by
    split at e
    · cases e
    · cases e; exact h.of_same

theorem keeps_execFmrecv (f : FormR) (s : State) : Answers s.Keeps (execFmrecv f s) := keeps_machineOpNT fun w => by
  refine .fst_ite ?popped (keeps_takeAcquire ?popped w)
  refine keeps_queueForm w _ _ _ _ fun h e => ?_
  split at e
  · cases e; exact h.of_same
  · split at e <;> cases e

/-! ### Fabric ports, groups and outputs of a pair -/

theorem keeps_execLaneInterval (port : Nat) (ms ss : List Nat) (hi : BitVec 8) (s : State) : Answers s.Keeps (execLaneInterval port ms ss hi s) :=
  answers_next <| by
    split
    · exact .refl s
    · exact State.Keeps.foldl (State.Keeps.same (.refl s)) _ fun _ _ k => k.logDevice _

theorem keeps_execPortRetrainDone (port : Nat) (s : State) : Answers s.Keeps (execPortRetrainDone port s) := answers_next <| by
  split
  · exact .refl s
  · split
    · exact .ite (.refl s) (.refl s)
    · exact .refl s

theorem keeps_execLaneRetrain (port lane : Nat) (g : Bool) (s : State) : Answers s.Keeps (execLaneRetrain port lane g s) := answers_next <| by
  split
  · exact .refl s
  · split
    · exact .refl s
    · exact .ite (.refl s) (.refl s)

theorem keeps_execFlitReceive (port : Nat) (ok : Bool) (s : State) : Answers s.Keeps (execFlitReceive port ok s) := answers_next <| by
  split
  · exact .refl s
  · exact .ite (.refl s) (.ite (.refl s) (.ite (.refl s) (.refl s)))

theorem keeps_fabricForm (opc : BitVec 9) (f : FormM) (b : Bool) (al : Nat) (pre : Warp → Option TrapReq) (rel : Bool) (s : State) :
    Answers s.Keeps (fabricForm opc f b al pre rel s) :=
  keeps_machineOpNT fun w => keeps_endHeld w <| by
    dsimp only
    split
    · refine .fst_ite (.refl s) ?_
      split
      · exact .refl s
      · exact .fst_ite (.refl s) (.fst_ite (.refl s) (keeps_commandOp (.refl s) ..))
    · exact .refl s

theorem keeps_execOutputCompare (c k : Nat) (s : State) : Answers s.Keeps (execOutputCompare c k s) := by
  unfold execOutputCompare
  dsimp only
  split
  · exact answers_next (.refl s)
  · split
    · exact answers_next (.refl s)
    · split
      · refine answers_ite (answers_next (.refl s)) (answers_next ?_)
        exact ((((State.Keeps.putWarp (.refl s) _).modWarp _ _).foldl _ fun _ _ k => k.killLanes ..).afterKill ..).afterKill ..
      · exact answers_next (.refl s)

namespace State.Keeps
variable {a s t : State}

/-! ### The boot-step record, shaft repair, starting and stopping -/

theorem writeBoot (h : a.Keeps s) (f : BootRec → BootRec) : a.Keeps (s.writeBoot f) := h
theorem roofLoss (h : a.Keeps s) (core : Nat) : a.Keeps (s.roofLoss core) := h.foldl _ fun _ _ k => k.modNode _ _
theorem logRoof (h : a.Keeps s) (core : Nat) : a.Keeps (s.logRoof core) := h.logDevice _

theorem retireBank (h : a.Keeps s) (core : Nat) (ls : List Nat) : a.Keeps (s.retireBank core ls) := by
  unfold State.retireBank
  extract_lets v s1 n s2 s3
  have swapped : a.Keeps s2 := ite (addPoison h.same _) h.same
  clear_value s2
  exact ((swapped.writeBoot _).roofLoss _).logRoof _

theorem wireFails (h : a.Keeps s) (core g : Nat) (ls : List Nat) : a.Keeps (s.wireFails core g ls) :=
  ite h (ite h.same (ite (logRoof h.same _) (ite h (h.retireBank ..))))

/-- The machine as a reset leaves it keeps both whatever came before. -/
theorem ofReset (hm : t.mem = {}) (hb : t.blocks = []) (hw : t.warps = []) : a.Keeps t :=
  ⟨fun _ => ⟨hm ▸ rfl, fun p hp => by rw [hb] at hp; cases hp⟩, fun _ p hp => by rw [hw] at hp; cases hp⟩

theorem stepEffect (h : a.Keeps s) (n f : Nat) : a.Keeps (s.stepEffect n f) := by
  unfold State.stepEffect
  split <;> exact h.same

theorem beginStep (h : a.Keeps s) (l : List Nat) : a.Keeps (s.beginStep l) := by
  induction l generalizing s with
  | nil => exact h
  | cons n l ih =>
    rw [State.beginStep]
    exact ite h (ite (ih h.same) (ite h.same h.same))

theorem startUp : a.Keeps s.startUp := by
  refine beginStep ?_ _
  exact ite (ofReset rfl rfl rfl) (ofReset rfl rfl rfl)

theorem stepOk (h : a.Keeps s) : a.Keeps s.stepOk := (stepEffect h.same _ _).beginStep _

theorem stepFail (h : a.Keeps s) : a.Keeps s.stepFail := ite h startUp

theorem powerDown : a.Keeps s.powerDown := ofReset rfl rfl rfl

/-! ### Collectives -/

theorem modColl (h : a.Keeps s) (n : Nat) (f : Coll → Coll) : a.Keeps (s.modColl n f) := h
theorem faultColl (h : a.Keeps s) (n : Nat) (c : Coll) (e : AgentErr) : a.Keeps (s.faultColl n c e) := h

theorem poisonOut (h : a.Keeps s) (c : Coll) (o : Coll.Out) : a.Keeps (s.poisonOut c o) := by
  unfold State.poisonOut
  split <;> exact h

theorem writeOuts (h : a.Keeps s) {n : Nat} {c : Coll} {os : List Coll.Out} (e : s.writeOuts n c os = .ok t) : a.Keeps t := by
  have written := (h.foldl os fun s o k => k.agentStore c.ctx o.addr o.data).foldl (os.filter fun o => o.bad) fun s o k => k.poisonOut c o
  unfold State.writeOuts at e
  split at e
  · cases e
  · dsimp only at e
    split at e <;> (cases e; exact written)

theorem collSend (h : a.Keeps s) (n : Nat) (c : Coll) : a.Keeps (s.collSend n c) := by
  unfold State.collSend
  split
  · exact h.faultColl ..
  · extract_lets bad c1 s1 placing outs
    have read : a.Keeps s1 := foldl (h.modColl ..) _ fun _ _ k => k.agentTouch ..
    clear_value s1
    refine ite h ?_
    split
    · exact read.faultColl ..
    · exact (read.writeOuts ‹_›).same

theorem collStep (h : a.Keeps s) (n : Nat) (c : Coll) : a.Keeps (s.collStep n c) := by
  unfold State.collStep
  refine ite (h.collSend ..) ?_
  split
  · exact h
  · refine ite h ?_
    split
    · exact h.faultColl ..
    · exact (h.writeOuts ‹_›).modColl ..

theorem collRefused (h : a.Keeps s) {n : Nat} {c : Coll} (e : s.collRefused n c = some t) : a.Keeps t := by
  unfold State.collRefused at e
  split at e
  · cases e
  · cases e
    exact ite h h

theorem arrive (h : a.Keeps s) (x g q : Nat) (k : Chunk) : a.Keeps (s.arrive x g q k) := by
  unfold State.arrive
  refine ite h ?_
  split
  · refine ite h ?_
    dsimp only
    cases e : State.collRefused _ _ _ with
    | none => exact h.modColl ..
    | some t => exact collRefused (h.modColl ..) e
  · exact ite h h

end State.Keeps

theorem keeps_execShaftWireFail (core g : Nat) (ls : List Nat) (s : State) : Answers s.Keeps (execShaftWireFail core g ls s) :=
  answers_next (.ite (.wireFails (.refl s) ..) (.refl s))

theorem keeps_execDeviceStart (hot : Bool) (s : State) : Answers s.Keeps (execDeviceStart hot s) := answers_next (.ite .startUp (.refl s))

theorem keeps_execBootStepDone (ok : Bool) (s : State) : Answers s.Keeps (execBootStepDone ok s) :=
  answers_next (.ite (.ite (.stepOk (.refl s)) (.stepFail (.refl s))) (.refl s))

theorem keeps_execBootclr (v : BitVec 64) (s : State) : Answers s.Keeps (execBootclr v s) := answers_next (.ite (.refl s) (.refl s))
theorem keeps_execPowerLoss (s : State) : Answers s.Keeps (execPowerLoss s) := answers_next .powerDown

theorem keeps_execTelemetrySample (rail : Nat) (mv ca temp : BitVec 16) (s : State) : Answers s.Keeps (execTelemetrySample rail mv ca temp s) :=
  answers_next (.ite (.refl s) (.refl s))

theorem keeps_execInputShutdown (s : State) : Answers s.Keeps (execInputShutdown s) := answers_next .powerDown

theorem keeps_execCapWindow (die p fl m : Nat) (s : State) : Answers s.Keeps (execCapWindow die p fl m s) := answers_next (.ite (.refl s) (.refl s))

theorem keeps_execMarginEmergency (die m : Nat) (s : State) : Answers s.Keeps (execMarginEmergency die m s) :=
  answers_next (.ite (.refl s) (.ite (.refl s) (.refl s)))

theorem keeps_execSpdmMessage (code : BitVec 8) (body : List Byte) (s : State) : Answers s.Keeps (execSpdmMessage code body s) :=
  answers_next (.ite (.refl s) (.refl s))

/-! ### The events of collectives -/

theorem keeps_execCombineDispatch (id : Nat) (s : State) : Answers s.Keeps (execCombineDispatch id s) := answers_next <| by
  split
  · exact .refl s
  · refine .ite (.refl s) ?_
    split
    · exact State.Keeps.collRefused (.refl s) ‹_›
    · exact .collStep (.refl s) ..

theorem keeps_execChunkReceive (x g q src : Nat) (tag : ChunkTag) (p : List Nat) (d : List Byte) (s : State) :
    Answers s.Keeps (execChunkReceive x g q src tag p d s) := answers_next (.arrive (.refl s) ..)

theorem keeps_execCollCancelReceive (x g q src : Nat) (b : Bool) (s : State) : Answers s.Keeps (execCollCancelReceive x g q src b s) :=
  answers_next (.arrive (.refl s) ..)

theorem keeps_execCollTimeout (id : Nat) (s : State) : Answers s.Keeps (execCollTimeout id s) := answers_next <| by
  split
  · exact .refl s
  · dsimp only
    split
    · exact .refl s
    · exact .ite (.refl s) (.refl s)

theorem keeps_execCollPeerUnreachable (id r : Nat) (s : State) : Answers s.Keeps (execCollPeerUnreachable id r s) := answers_next <| by
  split
  · exact .refl s
  · exact .ite (.refl s) (.refl s)

theorem keeps_execCollComplete (id : Nat) (s : State) : Answers s.Keeps (execCollComplete id s) := answers_next <| by
  split
  · exact .refl s
  · exact .ite (.refl s) ((State.Keeps.writeEntry (.refl s) ..).signal ..).same

/-! ### Fences and transactions -/

theorem keeps_fenceForm (acq rel sc : Bool) (f : FormR) (s : State) : Answers s.Keeps (fenceForm acq rel sc f s) := keeps_machineOp fun _ =>
  .fst_ite (.refl s) ((State.Keeps.putWarp (.refl s) _).settleFences _)

theorem keeps_execTxend (f : FormC) (s : State) : Answers s.Keeps (execTxend f s) := keeps_machineOp fun _ => by
  refine .fst_ite (.refl s) ?_
  split
  · exact .refl s
  · refine .fst_ite (.refl s) (.fst_ite (.refl s) ?_)
    exact ((State.Keeps.foldl (.refl s) _ fun _ _ k => (k.perform ..).l1Update ..).putWarp _).acquired ..

theorem keeps_execTxConflict (c k line : Nat) (s : State) : Answers s.Keeps (execTxConflict c k line s) := answers_next (.modWarp (.refl s) _ _)

end Sys2Proof.Machine

/-!
Seam cores, system registers and the host port keep both invariants.
-/

namespace Sys2Proof.Machine

namespace State.Keeps
variable {a s t : State}

/-! ### Seam tasks and instances -/

theorem putInst (h : a.Keeps s) (n : Nat) (i : SeamInst) : a.Keeps (s.putInst n i) := h
theorem endByFault (h : a.Keeps s) (n : Nat) (i : SeamInst) (f : SeamFault) : a.Keeps (s.endByFault n i f) := h

theorem finishSeam (h : a.Keeps s) (n : Nat) (i : SeamInst) (r : SRes) : a.Keeps (s.finishSeam n i r) := by
  cases r <;> exact h

theorem runInst (h : a.Keeps s) (n : Nat) (i : SeamInst) (t : SeamTask) : a.Keeps (s.runInst n i t) := by
  unfold State.runInst
  refine ite h ?_
  split
  · exact h
  · exact (h.agentTouch ..).putInst ..

theorem saveInst (h : a.Keeps s) (n : Nat) (i : SeamInst) (t : SeamTask) (st : InstState) : a.Keeps (s.saveInst n i t st) := by
  unfold State.saveInst
  refine ite h ?_
  split
  · exact h
  · exact (h.agentWrite ‹_›).same

theorem probeDone (h : a.Keeps s) (n : Nat) (t : SeamTask) : a.Keeps (s.probeDone n t) := by
  unfold State.probeDone
  refine ite h ?_
  split <;> exact h.same

theorem taskDone (h : a.Keeps s) (n : Nat) (t : SeamTask) : a.Keeps (s.taskDone n t) := by
  unfold State.taskDone
  extract_lets mine ended e s1 s2
  refine ite h ?_
  split
  · exact h.same
  · have entered : a.Keeps s2 := ite h.same (writeEntry h.same ..)
    exact ite (entered.signal ..) entered

/-! ### System registers -/

theorem sysWrite (h : a.Keeps s) (k : Nat) (w : Warp) (n : Nat) (v : Word) : a.Keeps (s.sysWrite k w n v) :=
  ite (h.modWarp _ _) (ite (h.modWarp _ _) (ite h.same (ite h.same (ite h.same (ite h.same (ite h.same h))))))

theorem readSegs (h : a.Keeps s) (x : Nat) : a.Keeps (s.readSegs x) := h
theorem tlbDrop (h : a.Keeps s) (x : Nat) (b : Bool) (va : Nat) : a.Keeps (s.tlbDrop x b va) := h

theorem freeze (h : a.Keeps s) (x : Nat) : a.Keeps (s.freeze x) :=
  h.warps rfl rfl fun k => k.map (fun p => by split <;> exact ⟨rfl, rfl⟩) rfl

/-! ### The host port and contexts -/

theorem logRefused (h : a.Keeps s) (b : Bool) (x : Nat) : a.Keeps (s.logRefused b x) := h.logDevice _
theorem bypassLines (h : a.Keeps s) (x n : Nat) (b : Bool) : a.Keeps (s.bypassLines x n b) := h.foldl _ fun _ _ k => k.mscServe ..
theorem toHost (h : a.Keeps s) (bs : List Byte) (b : Bool := false) : a.Keeps (s.toHost bs b) := h
theorem hostTakes (h : a.Keeps s) (x n : Nat) : a.Keeps (s.hostTakes x n) := h

theorem discard (h : a.Keeps s) (x : Nat) : a.Keeps (s.discard x) := by
  unfold State.discard
  extract_lets bs s1 tasks
  have aborted : a.Keeps s1 := h.foldl _ fun _ _ k => k.abortBlock _
  clear_value s1
  exact filterWarps (t := { s1 with blocks := _, warps := _, nodes := _, copies := _, insts := _, tasks := _, conv := _, early := _, tlb := _, walks := _ })
    (aborted.ofBlocks (t := { s1 with blocks := s1.blocks.filter fun p => p.2.ctx != x }) rfl (fun c p hp => c p (List.mem_filter.1 hp).1) rfl)
    _ rfl rfl rfl

theorem createCtx (h : a.Keeps s) (x : Nat) : a.Keeps (s.createCtx x) := by
  unfold State.createCtx
  extract_lets d s1 q c s2
  have discarded : a.Keeps s1 := h.discard _
  clear_value s1
  have made : a.Keeps s2 := discarded.same
  clear_value s2
  exact ite discarded.same ((made.perform ..).readSegs _)

theorem returnCtx (h : a.Keeps s) (x : Nat) : a.Keeps (s.returnCtx x) := by
  unfold State.returnCtx
  refine ite h (requeueJobs ?_ _)
  exact h.same

theorem raiseAll (h : a.Keeps s) (x : Nat) : a.Keeps (s.raiseAll x) := h.foldl _ fun _ _ k => k.raiseReq ..

theorem leaveCtx (h : a.Keeps s) (x : Nat) : a.Keeps (s.leaveCtx x) := by
  unfold State.leaveCtx
  extract_lets mine pool out js s1 s2 s3
  have withdrawn : a.Keeps s2 := h.same
  clear_value s2
  exact (ite (withdrawn.writePieces ..) withdrawn).raiseAll _

theorem hostAdvance (h : a.Keeps s) (x c : Nat) (v : Word) : a.Keeps (s.hostAdvance x c v) := ite (h.advance ..) (h.postAdvance ..)
theorem writeDesc (h : a.Keeps s) (x o n : Nat) (v : Word) : a.Keeps (s.writeDesc x o n v) := ite h h

theorem writeCtl (h : a.Keeps s) (x : Nat) (v : Word) : a.Keeps (s.writeCtl x v) :=
  ite h (ite (ite h (ite (h.createCtx _) (h.returnCtx _))) (ite (h.leaveCtx _) h))

theorem startGroupLoad (h : a.Keeps s) (x g : Nat) : a.Keeps (s.startGroupLoad x g) := ite h h

theorem writeGroup (h : a.Keeps s) (x i n : Nat) (v : Word) : a.Keeps (s.writeGroup x i n v) :=
  ite h (ite h.same (ite (h.startGroupLoad ..) h))

theorem writeCtxWindow (h : a.Keeps s) (x i n : Nat) (v : Word) : a.Keeps (s.writeCtxWindow x i n v) :=
  ite (h.writeDesc ..) (ite (ite (h.writeCtl ..) h) (ite (ite h.same h) (ite (ite h.same h) (ite (ite h.same h) (ite (ite h.same h) h)))))

theorem barWrite (h : a.Keeps s) (o n : Nat) (v : Word) : a.Keeps (s.barWrite o n v) := by
  unfold State.barWrite
  refine ite h (ite h.same (ite h ?_))
  split
  · exact ite (h.doorbell ..) h
  · split
    · exact h.writeCtxWindow ..
    · split
      · exact ite (h.hostAdvance ..) h
      · split
        · exact h.writeGroup ..
        · exact ite h.same (ite h.same h)

end State.Keeps

/-! ### The events of Seam tasks -/

theorem keeps_seamOpM {s : State} {f : State → SeamInst → SeamTask → State × SRes} (hf : ∀ i t, s.Keeps (f s i t).1) :
    Answers s.Keeps (seamOpM s f) := by
  unfold seamOpM
  split
  · exact answers_refused
  · split
    · exact answers_refused
    · exact answers_next ((hf _ _).finishSeam ..)

theorem keeps_seamOp (s : State) (f : SeamInst → SeamTask → SRes) : Answers s.Keeps (seamOp s f) := keeps_seamOpM fun _ _ => .refl s

theorem keeps_execSeamTaskStart (id : Nat) (s : State) : Answers s.Keeps (execSeamTaskStart id s) := answers_next <| by
  split
  · exact .refl s
  · exact .ite (.refl s) (.refl s)

theorem keeps_execSeamProbeDone (id : Nat) (s : State) : Answers s.Keeps (execSeamProbeDone id s) := answers_next <| by
  split
  · exact .refl s
  · exact .ite (.probeDone (.refl s) ..) (.refl s)

theorem keeps_execSeamInstanceRun (core : Nat) (s : State) : Answers s.Keeps (execSeamInstanceRun core s) := answers_next <| by
  split
  · split
    · exact .runInst (.refl s) ..
    · exact .refl s
  · exact .refl s

theorem keeps_execSeamInstancePreempt (core : Nat) (s : State) : Answers s.Keeps (execSeamInstancePreempt core s) := answers_next <| by
  split
  · exact .refl s
  · split
    · exact .refl s
    · exact .ite (.saveInst (.refl s) ..) (.refl s)

theorem keeps_execSeamLongWait (core : Nat) (s : State) : Answers s.Keeps (execSeamLongWait core s) := answers_next <| by
  split
  · exact .refl s
  · split
    · exact .refl s
    · exact .ite (.saveInst (.refl s) ..) (.refl s)

theorem keeps_execSeamTaskDone (id : Nat) (s : State) : Answers s.Keeps (execSeamTaskDone id s) := answers_next <| by
  split
  · exact .refl s
  · exact .taskDone (.refl s) ..

/-! ### The Seam instruction set -/

theorem keeps_seamLoad (s : State) (al : Nat) (as : SeamInst → List SeamRange) (f : SeamInst → List (List Byte) → SeamInst) :
    Answers s.Keeps (seamLoad s al as f) := keeps_seamOpM fun _ _ => by
  split
  · exact .refl s
  · exact .refl s
  · exact State.Keeps.seamRead (.refl s) ‹_›

theorem keeps_seamStore (s : State) (al : Nat) (red : Option Nat) (es : SeamInst → List (Word × List Byte)) (f : SeamInst → SeamInst) :
    Answers s.Keeps (seamStore s al red es f) := keeps_seamOpM fun _ _ => by
  split
  · exact .refl s
  · rename_i e
    exact State.Keeps.seamWrite (.refl s) e

theorem keeps_execPown (o : SeamOp) (s : State) : Answers s.Keeps (execPown o s) := keeps_seamOpM fun _ _ => .seamFill (.refl s) ..

theorem keeps_execTladv (o : SeamOp) (s : State) : Answers s.Keeps (execTladv o s) := keeps_seamOpM fun _ _ =>
  .fst_ite (.refl s) (.advance (.refl s) ..)

theorem keeps_execVred (o : SeamOp) (s : State) : Answers s.Keeps (execVred o s) := answers_ite (keeps_seamStore _ _ _ _ _) (keeps_seamStore _ _ _ _ _)

/-! ### Traps, pre-emption, the monitor and the system registers -/

theorem keeps_execTrapDeliver (c k : Nat) (s : State) : Answers s.Keeps (execTrapDeliver c k s) := answers_next <| by
  split
  · exact .refl s
  · split
    · exact .refl s
    · exact .ite (.refl s) (.takeLaneFault (.refl s) ..)

theorem keeps_tretForm (m : Nat) (f : FormR) (s : State) : Answers s.Keeps (tretForm m f s) := keeps_machineOpNT fun _ => by
  dsimp only
  split
  · refine .fst_ite (.refl s) (.fst_ite (.refl s) (.ite (.refl s) ?_))
    exact .modBlock (.refl s) _ _ fun _ => id
  · exact .refl s

theorem keeps_execYield (f : FormR) (s : State) : Answers s.Keeps (execYield f s) := by
  unfold execYield
  split
  · exact answers_refused
  · refine answers_ite (answers_next (.finish (.refl s) ..)) (answers_ite (answers_next (.finish (.refl s) ..)) (answers_next ?_))
    exact ((State.Keeps.retire (.refl s) ..).beginSave ..).endSave _

theorem keeps_execMon (f : FormM) (s : State) : Answers s.Keeps (execMon f s) := keeps_machineOpNT fun _ => by
  dsimp only
  split
  · refine .fst_ite (.refl s) (.fst_ite (.refl s) ?_)
    split
    · exact .refl s
    · split
      · exact .refl s
      · exact ((State.Keeps.putWarp (.refl s) _).fillFor ..).armMonitor ..
  · exact .refl s

theorem keeps_execMwait (f : FormR) (s : State) : Answers s.Keeps (execMwait f s) := keeps_machineOpNT fun _ => by
  dsimp only
  split
  · refine .fst_ite (.refl s) (.fst_ite (.refl s) (.fst_ite (.refl s) (.fst_ite (.l1Drop (.refl s) ..) (.fst_ite (.refl s) ?_))))
    exact .waits (.refl s) ..
  · exact .refl s

theorem keeps_execMonitorWrite (c k : Nat) (s : State) : Answers s.Keeps (execMonitorWrite c k s) := answers_next (.modWarp (.refl s) _ _)

theorem keeps_execMwaitTimeout (c k : Nat) (s : State) : Answers s.Keeps (execMwaitTimeout c k s) := answers_next <| by
  split
  · exact .refl s
  · exact .ite (.takeTrap (.refl s) _ _ _ _) (.refl s)

theorem keeps_sysWriteForm (f : FormR) {s : State} (n : Nat) {act : State → Warp → Word → State}
    (hact : ∀ {t} w v, s.Keeps t → s.Keeps (act t w v)) : Answers s.Keeps (sysWriteForm f s n act) := keeps_machineOpNT fun _ => by
  dsimp only
  split
  · exact .fst_ite (.refl s) (.fst_ite (.refl s) (hact _ _ (.putWarp (.refl s) _)))
  · exact .refl s

theorem keeps_execSysrd (f : FormR) (s : State) : Answers s.Keeps (execSysrd f s) := keeps_machineOpNT fun _ => by
  dsimp only
  split <;> exact .refl s

theorem keeps_execSyswr (f : FormR) (s : State) : Answers s.Keeps (execSyswr f s) := by
  unfold execSyswr
  exact keeps_sysWriteForm f _ fun w v k => k.sysWrite w.key w _ v

theorem keeps_execTtrootWrite (f : FormR) (s : State) : Answers s.Keeps (execTtrootWrite f s) :=
  keeps_sysWriteForm _ _ fun _ _ k => ((k.freeze _).modCtx _ _).tlbDrop ..

theorem keeps_execSegtabWrite (f : FormR) (s : State) : Answers s.Keeps (execSegtabWrite f s) :=
  keeps_sysWriteForm _ _ fun _ _ k => ((k.freeze _).modCtx _ _).readSegs _

theorem keeps_execTlbinv (f : FormR) (s : State) : Answers s.Keeps (execTlbinv f s) :=
  keeps_sysWriteForm _ _ fun _ _ k => (k.freeze _).tlbDrop ..

/-! ### The host port -/

theorem keeps_execCxlMemRead (r : Bool) (off n : Nat) (s : State) : Answers s.Keeps (execCxlMemRead r off n s) := answers_next <| by
  split
  · exact .refl s
  · split
    · exact .toHost (.logRefused (.refl s) ..) _ _
    · exact .toHost (.hostTakes (.readBy (.bypassLines (.refl s) ..) ..) ..) _ _

theorem keeps_execCxlMemWrite (r : Bool) (off : Nat) (d : List Byte) (s : State) : Answers s.Keeps (execCxlMemWrite r off d s) := answers_next <| by
  split
  · exact .refl s
  · split
    · exact .logRefused (.refl s) ..
    · exact .hostTakes (.perform (.bypassLines (.refl s) ..) ..) ..

theorem keeps_execHostSnoop (l : Nat) (s : State) : Answers s.Keeps (execHostSnoop l s) := answers_next (.ite (.refl s) (.refl s))
theorem keeps_execCxlOwnershipGrant (l : Nat) (s : State) : Answers s.Keeps (execCxlOwnershipGrant l s) := answers_next (.ite (.refl s) (.refl s))
theorem keeps_execBackInvalidateResponse (l : Nat) (s : State) : Answers s.Keeps (execBackInvalidateResponse l s) := answers_next (.refl s)
theorem keeps_execContextCreate (x : Nat) (s : State) : Answers s.Keeps (execContextCreate x s) := answers_next (.ite (.refl s) (.createCtx (.refl s) _))
theorem keeps_execContextReturn (x : Nat) (s : State) : Answers s.Keeps (execContextReturn x s) := answers_next (.ite (.refl s) (.returnCtx (.refl s) _))

theorem keeps_execContextMakeNonresident (x : Nat) (s : State) : Answers s.Keeps (execContextMakeNonresident x s) :=
  answers_next (.ite (.refl s) (.leaveCtx (.refl s) _))

theorem keeps_execResidencyChangeDone (x : Nat) (s : State) : Answers s.Keeps (execResidencyChangeDone x s) := by
  have reaped : s.Keeps s.reap := .reap (.refl s)
  exact answers_next (.ite reaped (.ite (reaped.modCtx _ _) (reaped.raiseAll _)))

theorem keeps_execBarInvalidAccess (off n : Nat) (r : Bool) (s : State) : Answers s.Keeps (execBarInvalidAccess off n r s) :=
  answers_next (.ite (.refl s) (.refl s))

theorem keeps_execHostDoorbellWrite (x : Nat) (q : BitVec 32) (s : State) : Answers s.Keeps (execHostDoorbellWrite x q s) :=
  answers_next (.ite (.doorbell (.refl s) ..) (.refl s))

theorem keeps_execTimelineWindowRead (x c : Nat) (s : State) : Answers s.Keeps (execTimelineWindowRead x c s) :=
  answers_next (.ite (.refl s) (.refl s))

theorem keeps_execTimelineWindowWrite (x c : Nat) (v : BitVec 64) (s : State) : Answers s.Keeps (execTimelineWindowWrite x c v s) :=
  answers_next (.ite (.hostAdvance (.refl s) ..) (.refl s))

theorem keeps_execDescriptorWrite (x off n : Nat) (v : BitVec 64) (s : State) : Answers s.Keeps (execDescriptorWrite x off n v s) :=
  answers_next (.ite (.writeDesc (.refl s) ..) (.refl s))

theorem keeps_execGroupWindowLoad (x g : Nat) (s : State) : Answers s.Keeps (execGroupWindowLoad x g s) :=
  answers_next (.ite (.startGroupLoad (.refl s) ..) (.refl s))

theorem keeps_execGroupLoadDecided (x g : Nat) (s : State) : Answers s.Keeps (execGroupLoadDecided x g s) := answers_next <| by
  refine .ite (.refl s) ?_
  exact (State.Keeps.loadGroup (.refl s) ..).modCtx _ _

theorem keeps_execBarRegisterWrite (off n : Nat) (v : BitVec 64) (s : State) : Answers s.Keeps (execBarRegisterWrite off n v s) :=
  answers_next (.barWrite (.refl s) ..)

end Sys2Proof.Machine

/-!
Every instruction and every event keeps both invariants.
-/

namespace Sys2Proof.Machine

/-! ### Forms that leave the rest of the machine to a later event -/

theorem keeps_storeNear (opc : BitVec 9) (n : Nat) (f : FormM) (s : State) : Answers s.Keeps (storeNear opc n f s) := keeps_accessOpNT s _
theorem keeps_orderedForm (opc : BitVec 9) (b : Bool) (f : FormM) (s : State) : Answers s.Keeps (orderedForm opc b f s) := keeps_accessOpNT s _
theorem keeps_execPtld (f : FormM) (s : State) : Answers s.Keeps (execPtld f s) := keeps_accessOpNT s _
theorem keeps_execPtst (f : FormM) (s : State) : Answers s.Keeps (execPtst f s) := keeps_accessOpNT s _
theorem keeps_execStbind (f : FormM) (s : State) : Answers s.Keeps (execStbind f s) := keeps_accessOpNT s _
theorem keeps_execStrdV (f : FormR) (s : State) : Answers s.Keeps (execStrdV f s) := keeps_accessOpNT s _
theorem keeps_execStwrV (f : FormR) (s : State) : Answers s.Keeps (execStwrV f s) := keeps_accessOpNT s _
theorem keeps_execOrdrel (f : FormM) (s : State) : Answers s.Keeps (execOrdrel f s) := keeps_accessOpNT s _

/-! ### Forms that read the machine for a result of their warp -/

theorem keeps_execLhrd (f : FormR) (s : State) : Answers s.Keeps (execLhrd f s) := keeps_machineOpNT fun _ => .refl s
theorem keeps_execPhrd (f : FormR) (s : State) : Answers s.Keeps (execPhrd f s) := keeps_machineOpNT fun _ => .refl s
theorem keeps_execFmend (f : FormR) (s : State) : Answers s.Keeps (execFmend f s) := keeps_machineOpNT fun _ => .refl s
theorem keeps_execBrpq (f : FormC) (s : State) : Answers s.Keeps (execBrpq f s) := keeps_machineOpNT fun _ => .refl s
theorem keeps_execCycrd (f : FormR) (s : State) : Answers s.Keeps (execCycrd f s) := keeps_machineOpNT fun _ => .refl s
theorem keeps_execYdlrd (f : FormR) (s : State) : Answers s.Keeps (execYdlrd f s) := keeps_machineOpNT fun _ => .refl s
theorem keeps_execGrprd (f : FormR) (s : State) : Answers s.Keeps (execGrprd f s) := keeps_machineOpNT fun _ => .refl s
theorem keeps_execFhrd (f : FormR) (s : State) : Answers s.Keeps (execFhrd f s) := keeps_machineOpNT fun _ => .refl s
theorem keeps_execShwait (f : FormR) (s : State) : Answers s.Keeps (execShwait f s) := keeps_machineOpNT fun _ => .refl s
theorem keeps_execSeamSrd (o : SeamOp) (s : State) : Answers s.Keeps (execSeamSrd o s) := keeps_seamOpM fun _ _ => .refl s
theorem keeps_execRgnext (o : SeamOp) (s : State) : Answers s.Keeps (execRgnext o s) := keeps_seamOpM fun _ _ => .refl s
theorem keeps_execSfence (o : SeamOp) (s : State) : Answers s.Keeps (execSfence o s) := keeps_seamOpM fun _ _ => .refl s
theorem keeps_execTlwt (o : SeamOp) (s : State) : Answers s.Keeps (execTlwt o s) := keeps_seamOpM fun _ _ => .refl s
theorem keeps_execSeamDone (o : SeamOp) (s : State) : Answers s.Keeps (execSeamDone o s) := keeps_seamOpM fun _ _ => .refl s

/-! ### Every instruction and event -/

theorem keeps_ownWarp {i : Instr} (hi : i.ownWarp = true) (s : State) : Answers s.Keeps (exec i s) := by
  obtain ⟨f, hf⟩ := exec_ownWarp s hi
  exact hf ▸ keeps_warpOp s f

theorem keeps_exec (i : Instr) (s : State) : Answers s.Keeps (exec i s) := by
  by_cases hi : i.ownWarp = true
  · exact keeps_ownWarp hi s
  cases i with
  | stnU32 _ | stnU64 _ | stnU128 _ => exact keeps_storeNear _ _ _ s
  | atomAddOrdF32 _ | atomAddOrdF64 _ => exact keeps_orderedForm _ _ _ s
  | regacq _ | regrel _ => exact keeps_askRegs _ _ s
  | mmaBf16 _ | mmaF16 _ | mmaE4m3E4m3 _ | mmaE4m3E5m2 _ | mmaE5m2E4m3 _ | mmaE5m2E5m2 _ | mmaE2m1 _ | mmaInt8Ss _ | mmaInt8Su _ | mmaInt8Us _
  | mmaInt8Uu _ | mmaF64 _ | mmasE4m3E4m3 _ | mmasE4m3E5m2 _ | mmasE5m2E4m3 _ | mmasE5m2E5m2 _ | mmasE2m1 _ =>
    exact keeps_mxForm _ _ s
  | batch _ | batchTl _ => exact keeps_batchForm _ _ s
  | fenceAcq _ | fenceRel _ | fenceAr _ | fenceSc _ => exact keeps_fenceForm _ _ _ _ s
  | mscRequest _ _ _ _ | uncachedLineAccess _ _ => exact answers_next (.mscServe (.refl s) ..)
  | qpush _ | seamgo _ => exact keeps_recordForm _ _ _ _ s
  | tret _ | tretSkip _ | tretTo _ => exact keeps_tretForm _ _ s
  | coll f => exact keeps_fabricForm 0x198 f false 128 (fun _ => none) true s
  | grpld _ => exact keeps_fabricForm _ _ _ _ _ _ s
  | seamLd _ | vld _ | vgth _ => exact keeps_seamLoad s _ _ _
  | seamSt _ | vst _ | vsct _ | vcst _ | vredx _ => exact keeps_seamStore s _ _ _ _
  | seamLi _ | seamLih _ | seamAlu _ | seamAluImm _ | seamBranch _ | seamJal _ | seamJr _ | seamNop _ | seamKlogic _ | kmov _ | kget _ | vfArith _
  | vfArithX _ | vfma _ | vfUnary _ | viArith _ | viArithX _ | vcmp _ | seamVsel _ | vcvt _ | vbc _ | seamVext _ | seamVins _ | vrdl _ | vperm _
  | vsrt _ | vlane _ | seamVmov _ =>
    exact keeps_seamOp s _
  | meld f => exact keeps_execMeld f s
  | canaryDemote c k => exact keeps_execCanaryDemote c k s
  | regrp f => exact keeps_execRegrp f s
  | regroupDone c k => exact keeps_execRegroupDone c k s
  | smov f => exact keeps_execSmov f s
  | loopBack c k => exact keeps_execLoopBack c k s
  | streamElementArrive c k st => exact keeps_execStreamElementArrive c k st s
  | regacqGrant c => exact keeps_execRegacqGrant c s
  | exactCellRequest ag e m addr => exact keeps_execExactCellRequest ag e m addr s
  | mmclr f => exact keeps_execMmclr f s
  | mmaMemberComplete c => exact keeps_execMmaMemberComplete c s
  | scld f => exact keeps_execScld f s
  | cvgo f => exact keeps_execCvgo f s
  | convJobStart cl => exact keeps_execConvJobStart cl s
  | convJobEnd cl => exact keeps_execConvJobEnd cl s
  | pf f => exact keeps_execPf f s
  | cwb f => exact keeps_execCwb f s
  | rooffl f => exact keeps_execRooffl f s
  | atomicRequest ag e m addr => exact keeps_execAtomicRequest ag e m addr s
  | orderedContribution ag e m addr => exact keeps_execOrderedContribution ag e m addr s
  | loadReturn ag e m ls hit => exact keeps_execLoadReturn ag e m ls hit s
  | cpy f => exact keeps_execCpy f s
  | cpyf f => exact keeps_execCpyf f s
  | cpyt f => exact keeps_execCpyt f s
  | cpyg f => exact keeps_execCpyg f s
  | halo f => exact keeps_execHalo f s
  | copyComplete id => exact keeps_execCopyComplete id s
  | bwait f => exact keeps_execBwait f s
  | bbini f => exact keeps_execBbini f s
  | bbexp f => exact keeps_execBbexp f s
  | bbarr f => exact keeps_execBbarr f s
  | bbwt f => exact keeps_execBbwt f s
  | bbtst f => exact keeps_execBbtst f s
  | tlwait f => exact keeps_execTlwait f s
  | tlsig f => exact keeps_execTlsig f s
  | tlrd f => exact keeps_execTlrd f s
  | timelineAdvance x c => exact keeps_execTimelineAdvance x c s
  | txend f => exact keeps_execTxend f s
  | txConflict c k line => exact keeps_execTxConflict c k line s
  | replicaUpdate die idx => exact keeps_execReplicaUpdate die idx s
  | walk x va => exact keeps_execWalk x va s
  | ttrootWrite f => exact keeps_execTtrootWrite f s
  | segtabWrite f => exact keeps_execSegtabWrite f s
  | tlbinv f => exact keeps_execTlbinv f s
  | doorbell x q => exact keeps_execDoorbell x q s
  | slotMap n => exact keeps_execSlotMap n s
  | slotFetch n => exact keeps_execSlotFetch n s
  | quantumExpire n => exact keeps_execQuantumExpire n s
  | slotUnstall n => exact keeps_execSlotUnstall n s
  | nodeReady id => exact keeps_execNodeReady id s
  | blockPlace id cores => exact keeps_execBlockPlace id cores s
  | placementReserve id cores => exact keeps_execPlacementReserve id cores s
  | preqRaise id => exact keeps_execPreqRaise id s
  | nodeDone id => exact keeps_execNodeDone id s
  | convNodeDispatch id => exact keeps_execConvNodeDispatch id s
  | seamNodeDispatch id => exact keeps_execSeamNodeDispatch id s
  | activeSetDisplace c k => exact keeps_execActiveSetDisplace c k s
  | warpWake c k => exact keeps_execWarpWake c k s
  | qdoor f => exact keeps_execQdoor f s
  | advance f => exact keeps_execAdvance f s
  | phaseRise blk => exact keeps_execPhaseRise blk s
  | dqpush f => exact keeps_execDqpush f s
  | dqpop f => exact keeps_execDqpop f s
  | dqstat f => exact keeps_execDqstat f s
  | fmpost f => exact keeps_execFmpost f s
  | fmrecv f => exact keeps_execFmrecv f s
  | seamTaskStart id => exact keeps_execSeamTaskStart id s
  | seamProbeDone id => exact keeps_execSeamProbeDone id s
  | seamInstanceRun core => exact keeps_execSeamInstanceRun core s
  | seamInstancePreempt core => exact keeps_execSeamInstancePreempt core s
  | seamLongWait core => exact keeps_execSeamLongWait core s
  | seamTaskDone id => exact keeps_execSeamTaskDone id s
  | pown o => exact keeps_execPown o s
  | tladv o => exact keeps_execTladv o s
  | vred o => exact keeps_execVred o s
  | yield f => exact keeps_execYield f s
  | mon f => exact keeps_execMon f s
  | mwait f => exact keeps_execMwait f s
  | monitorWrite c k => exact keeps_execMonitorWrite c k s
  | mwaitTimeout c k => exact keeps_execMwaitTimeout c k s
  | sysrd f => exact keeps_execSysrd f s
  | syswr f => exact keeps_execSyswr f s
  | trapDeliver c k => exact keeps_execTrapDeliver c k s
  | laneFault ag e m l => exact keeps_execLaneFault ag e m l s
  | forcedSave ag => exact keeps_execForcedSave ag s
  | blockSave blk => exact keeps_execBlockSave blk s
  | blockRestore blk core => exact keeps_execBlockRestore blk core s
  | flitReceive port crcOk => exact keeps_execFlitReceive port crcOk s
  | chunkReceive x g sq src tag poison data => exact keeps_execChunkReceive x g sq src tag poison data s
  | combineDispatch id => exact keeps_execCombineDispatch id s
  | collCancelReceive x g sq src fault => exact keeps_execCollCancelReceive x g sq src fault s
  | collTimeout id => exact keeps_execCollTimeout id s
  | collPeerUnreachable id rank => exact keeps_execCollPeerUnreachable id rank s
  | collComplete id => exact keeps_execCollComplete id s
  | laneInterval port margins serrs highRate => exact keeps_execLaneInterval port margins serrs highRate s
  | portRetrainDone port => exact keeps_execPortRetrainDone port s
  | laneRetrain port lane meetsGood => exact keeps_execLaneRetrain port lane meetsGood s
  | outputCompare c k => exact keeps_execOutputCompare c k s
  | shaftWireFail core group dirty => exact keeps_execShaftWireFail core group dirty s
  | cxlMemRead range off len => exact keeps_execCxlMemRead range off len s
  | cxlMemWrite range off data => exact keeps_execCxlMemWrite range off data s
  | hostSnoop line => exact keeps_execHostSnoop line s
  | cxlOwnershipGrant line => exact keeps_execCxlOwnershipGrant line s
  | barInvalidAccess off n read => exact keeps_execBarInvalidAccess off n read s
  | hostDoorbellWrite x q => exact keeps_execHostDoorbellWrite x q s
  | timelineWindowRead x c => exact keeps_execTimelineWindowRead x c s
  | timelineWindowWrite x c v => exact keeps_execTimelineWindowWrite x c v s
  | descriptorWrite x off n v => exact keeps_execDescriptorWrite x off n v s
  | contextCreate x => exact keeps_execContextCreate x s
  | contextReturn x => exact keeps_execContextReturn x s
  | contextMakeNonresident x => exact keeps_execContextMakeNonresident x s
  | residencyChangeDone x => exact keeps_execResidencyChangeDone x s
  | groupWindowLoad x g => exact keeps_execGroupWindowLoad x g s
  | groupLoadDecided x g => exact keeps_execGroupLoadDecided x g s
  | barRegisterWrite off n v => exact keeps_execBarRegisterWrite off n v s
  | bootclr v => exact keeps_execBootclr v s
  | deviceStart hot => exact keeps_execDeviceStart hot s
  | bootStepDone ok => exact keeps_execBootStepDone ok s
  | powerLoss => exact keeps_execPowerLoss s
  | telemetrySample rail mv ca temp => exact keeps_execTelemetrySample rail mv ca temp s
  | inputShutdown => exact keeps_execInputShutdown s
  | capWindow die power flux margin => exact keeps_execCapWindow die power flux margin s
  | marginEmergency die margin => exact keeps_execMarginEmergency die margin s
  | spdmMessage code body => exact keeps_execSpdmMessage code body s
  | backInvalidateResponse line => exact keeps_execBackInvalidateResponse line s
  | writePerformed ag e m ls => exact keeps_execWritePerformed ag e m ls s
  | ptld f => exact keeps_execPtld f s
  | ptst f => exact keeps_execPtst f s
  | stbind f => exact keeps_execStbind f s
  | strdV f => exact keeps_execStrdV f s
  | stwrV f => exact keeps_execStwrV f s
  | ordrel f => exact keeps_execOrdrel f s
  | lhrd f => exact keeps_execLhrd f s
  | phrd f => exact keeps_execPhrd f s
  | fmend f => exact keeps_execFmend f s
  | seamSrd o => exact keeps_execSeamSrd o s
  | rgnext o => exact keeps_execRgnext o s
  | sfence o => exact keeps_execSfence o s
  | tlwt o => exact keeps_execTlwt o s
  | seamDone o => exact keeps_execSeamDone o s
  | brpq f => exact keeps_execBrpq f s
  | cycrd f => exact keeps_execCycrd f s
  | ydlrd f => exact keeps_execYdlrd f s
  | grprd f => exact keeps_execGrprd f s
  | fhrd f => exact keeps_execFhrd f s
  | shwait f => exact keeps_execShwait f s
  | _ => exact absurd rfl hi

end Sys2Proof.Machine

/-!
Pairs, storage errors, the front of an agent and a whole step keep both invariants.
-/

namespace Sys2Proof.Machine

/-- What an answer keeps of the machine it began from, it keeps of an earlier machine that this one keeps. -/
theorem answers_trans {a s : State} {r : Res} (h : a.Keeps s) (k : Answers s.Keeps r) : Answers a.Keeps r := fun t e => h.trans (k t e)

namespace State.Keeps
variable {a s t : State}

/-! ### Pairs -/

theorem killPair (h : a.Keeps s) (k t : Nat) (ks : List (Nat × LaneMask)) (c : Nat) (pc : Word) : a.Keeps (s.killPair k t ks c pc) :=
  ((h.foldl _ fun _ _ k => k.killLanes ..).afterKill ..).afterKill ..

theorem bothRun (h : a.Keeps t) (s : State) (i : Instr) (w y w1 : Warp) : a.Keeps (s.bothRun i w y t w1) := by
  unfold State.bothRun
  split
  · split
    · exact h
    · exact ite h ((h.putWarp _).killPair ..)
  · exact h

theorem pairSync (h : a.Keeps s) (s0 : State) : a.Keeps (s0.pairSync s) := h.foldl _ fun _ _ k => by
  dsimp only
  split
  · exact (k.putWarp _).putWarp _
  · exact k

/-! ### Storage errors -/

theorem modHeld (h : a.Keeps s) (k : Nat) (f : Warp → Warp) : a.Keeps (s.modHeld k f) := h.modWarp _ _

theorem scalarError (h : a.Keeps s) (k : Nat) (m : Option Nat) : a.Keeps (s.scalarError k m) := by
  unfold State.scalarError
  split
  · exact h
  · exact ite h ((h.foldl _ fun _ _ k => k.killLanes ..).afterKill ..)

theorem upset (h : a.Keeps s) (u : Upset) : a.Keeps (s.upset u) := by
  unfold State.upset
  split
  · exact ite (h.count ..) h
  · exact h.modHeld _ _
  · exact h.modHeld _ _
  · exact h.scalarError ..
  · exact h.modHeld _ _
  · exact (h.l1Drop ..).count ..
  · exact (h.modHeld _ _).count ..
  · exact h.same
  · exact h.modBlock _ _ fun _ k => k
  · exact ite h (h.addPoison _)

/-! ### The front of a warp and of a Seam core -/

theorem keepCode (h : a.Keeps s) (key core x : Nat) (pc : Word) (as : List Nat) : a.Keeps (s.keepCode key core x pc as) :=
  foldl h.same _ fun _ _ k => k.fillTlb ..

theorem fetched (h : a.Keeps s) (w : Warp) (x : BitVec 96) : a.Keeps (s.fetched w x) := by
  refine modWarp ?_ _ _
  split
  · exact h.keepCode ..
  · exact h

theorem joinActive (h : a.Keeps s) (w : Warp) : a.Keeps (s.joinActive w) := ite h (h.putWarp _)

theorem frontWarp (h : a.Keeps s) (w : Warp) : a.Keeps (s.frontWarp w).1 := by
  unfold State.frontWarp
  split
  · exact h
  · refine fst_ite (fst_ite h ?_) (fst_ite h (fst_ite (h.joinActive _) ?_))
    · split
      · exact h.enterHandler ..
      · exact fst_ite h h
    · split
      · exact h.takeTrap _ _ _ _
      · exact ((h.foldl _ fun _ _ k => k.killLanes ..).modWarp _ _).finishWarp _
      · dsimp only
        split
        · exact (h.fetched ..).takeTrap _ _ _ _
        · exact fst_ite (h.fetched ..) ((h.fetched ..).takeTrap _ _ _ _)

theorem of_front {r : State × Option Instr} {o : Option Instr} (e : r = (t, o)) (h : a.Keeps r.1) : a.Keeps t := by
  rw [e] at h
  exact h

theorem frontSeam (h : a.Keeps s) (core : Nat) : a.Keeps (s.frontSeam core).1 := by
  unfold State.frontSeam
  split
  · exact h
  · refine fst_ite h (fst_ite h (fst_ite (h.endByFault ..) ?_))
    split
    · exact h.endByFault ..
    · refine fst_ite (endByFault (h.foldl _ fun _ _ k => k.fillTlb ..) ..) ?_
      split
      · exact endByFault (h.foldl _ fun _ _ k => k.fillTlb ..) ..
      · exact h.foldl _ fun _ _ k => k.fillTlb ..

end State.Keeps

/-! ### Turns -/

theorem keeps_leaderRun (s : State) (i : Instr) (x : BitVec 96) (w y : Warp) : Answers s.Keeps (s.leaderRun i x w y) := by
  have stay : Answers s.Keeps (.next (s.waits w .pair)) := answers_next (.waits (.refl s) ..)
  unfold State.leaderRun
  dsimp only
  refine answers_ite stay (answers_ite stay (answers_ite ?_ ?_))
  · exact answers_next (((State.Keeps.modWarp (.refl s) _ _).modWarp _ _).killPair ..)
  · split
    · have ran := keeps_exec i s _ ‹_›
      split
      · refine answers_ite (answers_ite (answers_next (ran.putWarp _)) stay) (answers_ite (answers_ite (answers_next (ran.bothRun ..)) stay)
          (answers_ite (answers_next ran) ?_))
        split
        · exact answers_next ran
        · exact answers_next ran
        · exact answers_ite stay (answers_next (ran.putWarp _))
        · exact answers_ite stay (answers_next (ran.putWarp _))
        · exact answers_ite stay (answers_next (ran.putWarp _))
        · exact answers_next (ran.putWarp _)
      · exact answers_next ran
    · exact keeps_exec i s

theorem keeps_tailRun (s : State) (i : Instr) (x : BitVec 96) (w y : Warp) : Answers s.Keeps (s.tailRun i x w y) := by
  unfold State.tailRun
  extract_lets kind
  clear_value kind
  split
  · split
    · exact answers_next (.refl s)
    · exact answers_next ((State.Keeps.putWarp (.refl s) _).putWarp _)
  · exact answers_next (.putWarp (.refl s) _)
  · rename_i theirs start _ _ _
    have started : s.Keeps start := by
      unfold start
      cases theirs with
      | some e => exact .putWarp (.refl s) _
      | none => exact .refl s
    clear_value start theirs
    split
    · have ran := started.trans (keeps_exec i start _ ‹_›)
      split
      · exact answers_next ran
      · refine answers_ite (answers_next (.killPair (.refl s) ..)) (answers_ite (answers_next ran) ?_)
        split
        · exact answers_next ran
        · exact answers_ite (answers_next (((ran.modWarp _ _).putWarp _).killPair ..)) (answers_next (ran.putWarp _))
    · exact answers_trans started (keeps_exec i start)

theorem keeps_pairExec (s : State) (i : Instr) (x : BitVec 96) : Answers s.Keeps (s.pairExec i x) := by
  unfold State.pairExec
  split
  · exact keeps_exec i s
  · split
    · split
      · exact keeps_leaderRun _ _ _ _ _
      · exact keeps_exec i s
    · split
      · exact keeps_tailRun _ _ _ _ _
      · exact keeps_exec i s
    · exact keeps_exec i s

theorem keeps_followed {a : State} (s : State) {r : Res} (h : Answers a.Keeps r) : Answers a.Keeps (s.followed r) := by
  unfold State.followed
  split
  · exact answers_next ((h _ rfl).pairSync _)
  · exact h

theorem keeps_turnLeader (s : State) (w : Warp) : Answers s.Keeps (s.turnLeader w) := by
  have front : s.Keeps (s.frontWarp w).1 := .frontWarp (.refl s) _
  unfold State.turnLeader
  refine answers_ite (answers_next (.refl s)) ?_
  generalize s.frontWarp w = r, s.fetch w = f at front
  obtain ⟨s1, o⟩ := r
  have ran := fun i => answers_trans front (keeps_exec i s1)
  cases o with
  | some i =>
    refine answers_ite (keeps_followed s (ran i)) (answers_ite (ran i) ?_)
    split
    · exact answers_trans front (keeps_pairExec _ _ _)
    · exact answers_next front
  | none =>
    cases f with
    | word x => exact answers_next (.ite (front.pairSync _) front)
    | trap t => exact answers_ite (answers_next (.refl s)) (answers_next (front.pairSync _))
    | poisoned => exact answers_ite (answers_next (.refl s)) (answers_next (front.pairSync _))

theorem keeps_turnTail (s : State) (w y : Warp) : Answers s.Keeps (s.turnTail w y) := by
  unfold State.turnTail
  refine answers_ite (keeps_exec _ s) (answers_ite (answers_next (.ite (.putWarp (.refl s) _) (.refl s))) (answers_ite (answers_next (.refl s))
    (answers_ite (answers_next (.joinActive (.refl s) _)) ?_)))
  split
  · split
    · exact answers_trans (.fetched (.refl s) ..) (keeps_pairExec _ _ _)
    · exact answers_next (.refl s)
  · exact answers_next (.refl s)

theorem keeps_turn (s : State) (ag : Agent) : Answers s.Keeps (s.turn ag) := by
  unfold State.turn
  split
  · have front := fun c => State.Keeps.frontSeam (.refl s) c
    split
    · exact answers_trans (.of_front ‹_› (front _)) (keeps_exec _ _)
    · exact answers_next (.of_front ‹_› (front _))
  · split
    · exact answers_next (.refl s)
    · extract_lets s1 w
      have settled : s.Keeps s1 := (State.Keeps.settleFences (.refl s) _).dropStale _
      clear_value s1
      split
      · exact answers_trans settled (keeps_turnLeader _ _)
      · exact answers_trans settled (keeps_turnTail _ _ _)
      · have front := settled.frontWarp w
        split
        · exact answers_trans (.of_front ‹_› front) (keeps_exec _ _)
        · exact answers_next (.of_front ‹_› front)

theorem keeps_step (s : State) : Answers s.Keeps (step s) := by
  have ticked : s.Keeps s.tickOn := .refl s
  unfold step
  dsimp only
  split
  · exact keeps_followed _ (answers_trans ticked.same (keeps_exec _ _))
  · exact keeps_followed _ (answers_next (ticked.same.upset _))
  · exact answers_trans ticked.same (keeps_turn _ _)
  · split
    · exact answers_next ticked
    · exact answers_trans ticked (keeps_turn _ _)

theorem State.Keyed.warp? {s : State} (h : s.Keyed) {w : Warp} (e : s.curWarp = some w) : s.warp? w.key = some w := by
  unfold State.curWarp at e
  split at e
  · split at e
    · split at e
      · rename_i k _ v hv
        split at e
        · cases e
        · cases e
          rw [h _ (mem_of_tfind hv)]
          exact hv
      · cases e
    · cases e
  · cases e

/-- Settles O57: every instruction and event, and what a turn does around it, keeps the canonical form and every warp under its key. -/
theorem stepKeepsInvariants : Obligations.StepKeepsInvariants :=
  ⟨fun s t hs h => (keeps_step s t h).1 hs, fun s t hs h => (keeps_step s t h).2 hs, fun _ _ hs h => hs.warp? h⟩

end Sys2Proof.Machine

end

/-!
The system registers (R418, R419): who may read and write each, what a read gives and a write keeps, and what the writes of TTROOT, SEGTAB and
TLBINV do to the translations in use (R324, R327, R330).
-/

namespace Sys2Proof.Machine

/-! ## Meanings that an open transaction does not admit -/

theorem machineOpNT_cur {s : State} {w : Warp} (f : State → Warp → State × WRes) (hc : s.curWarp = some w) (ht : w.tx = none) :
    machineOpNT s f = .next ((f s w).1.finish w (f s w).2) := by
  rw [machineOpNT, machineOp_cur _ hc]
  simp [ht]

/-! ## Privileges -/

theorem sysReads_iff (n : Nat) (sup : Bool) : sysReads n sup = true ↔ sup = true ∨ (n ≠ 8 ∧ n ≠ 9 ∧ n ≠ 10 ∧ n ≠ 12) := by
  simp [sysReads, and_assoc]

theorem inRange_iff (lo hi n : Nat) : inRange lo hi n = true ↔ lo ≤ n ∧ n ≤ hi := by simp [inRange]

theorem sysWrites_iff (n : Nat) (sup : Bool) : sysWrites n sup = true ↔
    n = 1 ∨ n = 2 ∨ (sup = true ∧ (n = 4 ∨ n = 5 ∨ n = 6 ∨ n = 8 ∨ n = 9 ∨ n = 10 ∨ n = 12 ∨ (16 ≤ n ∧ n ≤ 31))) := by
  have h4 : 4 ≤ n ∧ n ≤ 6 ↔ n = 4 ∨ n = 5 ∨ n = 6 := by omega
  have h8 : 8 ≤ n ∧ n ≤ 10 ↔ n = 8 ∨ n = 9 ∨ n = 10 := by omega
  simp [sysWrites, inRange_iff, h4, h8, or_assoc]

/-! ## Reading -/

/-- `sysrd`: its checks clear, it ends as a read, or with the privilege trap. -/
theorem exec_sysrd {f : FormR} {s : State} {w : Warp} (hc : s.curWarp = some w) (ht : w.tx = none)
    (cl : w.Clear f.h (w.needsDst 1 f.dst) false false) :
    exec (.sysrd f) s = .next (s.finish w
      (if Warp.never f.h || sysReads (f.x.extractLsb' 0 8).toNat w.sup
        then .fall (w.sclResult f.h f.dst fun _ => s.sysRead w (f.x.extractLsb' 0 8).toNat) else .trap w { cls := 23 })) := by
  have read := Warp.sclOp_clear (os := []) (priv := false) (val := fun _ => s.sysRead w (f.x.extractLsb' 0 8).toNat)
    (by simpa [Warp.needs, Warp.anyPrivate] using cl)
  change execSysrd f s = _
  rw [execSysrd, machineOpNT_cur _ hc ht]
  simp only [read]

theorem sclRuleNT_sysrd (f : FormR) : SclRuleNT (.sysrd f) f.h f.dst
    (fun _ w => Warp.never f.h = true ∨ sysReads (f.x.extractLsb' 0 8).toNat w.sup = true)
    fun s w _ => s.sysRead w (f.x.extractLsb' 0 8).toNat := by
  intro s w hc ht may cl
  refine retires_of_fall hc ?_ (Warp.onlyRegs_sclResult ..)
  rw [exec_sysrd hc ht cl, if_pos (by simpa using may)]

theorem traps_sysrd {f : FormR} {s : State} {w : Warp} (hc : s.curWarp = some w) (ht : w.tx = none)
    (cl : w.Clear f.h (w.needsDst 1 f.dst) false false) (hn : Warp.never f.h = false) (hr : sysReads (f.x.extractLsb' 0 8).toNat w.sup = false) :
    Traps (.sysrd f) s w { cls := 23 } := by
  rw [Traps, exec_sysrd hc ht cl, hn, hr]
  rfl

theorem sysRead_counter (s : State) (w : Warp) {n : Nat} (lo : 16 ≤ n) (hi : n ≤ 31) : s.sysRead w n = tget 0 s.counters (counterKey n w.core) := by
  have hr : inRange 16 31 n = true := (inRange_iff ..).2 ⟨lo, hi⟩
  have small : ∀ k < 16, n ≠ k := by omega
  simp [State.sysRead, hr, small]

theorem sysRead_preq {s : State} {w : Warp} {b : Block} (hb : s.block? w.blk = some b) : s.sysRead w 3 = b.preq := by
  simp [State.sysRead, hb]

/-! ## Writing -/

/-- A write that neither R40 nor a check of R264 stops: it ends with the privilege trap, or with what the write has done. -/
theorem sysWriteForm_cur {f : FormR} {s : State} {w : Warp} {n : Nat} (act : State → Warp → Word → State) (hc : s.curWarp = some w) (ht : w.tx = none)
    (hn : Warp.never f.h = false) (ha : w.active ≠ [] ∨ w.common? f.a.spec = true) (cl : w.Clear f.h (w.needs [(f.a, 1)]) false false) :
    sysWriteForm f s n act =
      if sysWrites n w.sup then
        let s1 := act (s.putWarp w) w (w.scl (w.active.headD 0) f.a)
        .next (s1.finish w (.fall ((s1.warp? w.key).getD w)))
      else .next (s.takeTrap w { cls := 23 } w.pc) := by
  have some_view : ¬(w.active = [] ∧ w.common? f.a.spec = false) := by
    rintro ⟨h1, h2⟩
    rcases ha with h | h
    · exact h h1
    · simp [h2] at h
  rw [sysWriteForm, machineOpNT_cur _ hc ht, Warp.checked_clear cl]
  cases sysWrites n w.sup with
  | false => simp [hn, some_view, State.finish]
  | true => simp [hn, some_view]

/-- The rule of the forms of `syswr`, each with its register and with what it does. -/
theorem sysWriteForm_rule {mk : FormR → Instr} {n : FormR → Nat} {act : State → Warp → Nat → Word → State}
    (e : ∀ f s, exec (mk f) s = sysWriteForm f s (n f) fun s w v => act s w (n f) v) (f : FormR) (s : State) (w : Warp)
    (hc : s.curWarp = some w) (ht : w.tx = none) (hn : Warp.never f.h = false) (ha : w.active ≠ [] ∨ w.common? f.a.spec = true)
    (cl : w.Clear f.h (w.needs [(f.a, 1)]) false false) :
    (sysWrites (n f) w.sup = false → Traps (mk f) s w { cls := 23 }) ∧
    (sysWrites (n f) w.sup = true → ∀ w1, (act (s.putWarp w) w (n f) (w.scl (w.active.headD 0) f.a)).warp? w.key = some w1 →
      exec (mk f) s = .next ((act (s.putWarp w) w (n f) (w.scl (w.active.headD 0) f.a)).finish w (.fall w1))) := by
  have ends := (e f s).trans (sysWriteForm_cur _ hc ht hn ha cl)
  constructor
  · intro hw
    rw [Traps, ends, if_neg (by simp [hw])]
  · intro hw w1 h1
    rw [ends, if_pos hw]
    simp only [h1, Option.getD_some]

/-- What a write of TTROOT does (R324). -/
def State.ttrootWrite (s : State) (w : Warp) (v : Word) : State :=
  ((s.freeze w.ctx).modCtx w.ctx fun c => { c with ttroot := State.rootOf v }).tlbDrop w.ctx true 0

/-- What a write of SEGTAB does (R327). -/
def State.segtabWrite (s : State) (w : Warp) (v : Word) : State :=
  ((s.freeze w.ctx).modCtx w.ctx fun c => { c with segtab := State.segTabOf v }).readSegs w.ctx

/-- What a write of TLBINV does (R330). -/
def State.tlbInvalidate (s : State) (w : Warp) (v : Word) : State :=
  (s.freeze w.ctx).tlbDrop w.ctx (v.getLsbD 0) ((v.extractLsb' 16 40).toNat * 65536)

theorem modWarp_own {s : State} {w : Warp} (hw : s.warp? w.key = some w) {f : Warp → Warp} (hk : (f w).key = w.key) :
    (s.modWarp w.key f).warp? w.key = some (f w) := by
  rw [State.modWarp, hw, ← hk]
  exact State.warp?_putWarp_same ..

theorem sysRead_sysWrite_counter (s : State) (w : Warp) (k : Nat) (v : Word) {n : Nat} (lo : 16 ≤ n) (hi : n ≤ 31) :
    (s.sysWrite k w n v).sysRead w n = v &&& 0xFFFFFFFFFFFF#64 := by
  have hr : inRange 16 31 n = true := (inRange_iff ..).2 ⟨lo, hi⟩
  have small : ∀ k < 16, n ≠ k := by omega
  rw [sysRead_counter _ _ lo hi]
  simp [State.sysWrite, hr, small]

theorem roofCfg_eq (v : Word) : State.roofCfg v = BitVec.ofNat 64 (min 16 (v.toNat % 32)) := by
  simp [State.roofCfg, BitVec.extractLsb'_toNat]

/-! ## Cached translations (R324, R330) and those given to accesses in flight (log entry 84) -/

theorem mem_tlb_tlbDrop (s : State) (x va : Nat) (all : Bool) (l : Leaf) : l ∈ (s.tlbDrop x all va).tlb ↔
    l ∈ s.tlb ∧ (l.ctx ≠ x ∨ (all = false ∧ (va < l.va ∨ l.va + l.size ≤ va))) := by
  simp only [State.tlbDrop, List.mem_filter, Bool.not_eq_true', Bool.and_eq_false_iff, Bool.or_eq_false_iff, decide_eq_false_iff_not, Nat.not_le, Nat.not_lt]

theorem mem_walks_tlbDrop (s : State) (x va : Nat) (all : Bool) (p : Pointer) : p ∈ (s.tlbDrop x all va).walks ↔ p ∈ s.walks ∧ p.ctx ≠ x := by
  simp [State.tlbDrop]

/-- A copy in flight keeps all but the translations it was given, and is given those of now only where it had none. -/
theorem copies_freeze {s : State} {x : Nat} {c : Nat × Copy} (hc : c ∈ (s.freeze x).copies) :
    ∃ d ∈ s.copies, c.1 = d.1 ∧ c.2 = { d.2 with was := c.2.was } ∧
      (c.2.was = d.2.was ∨ (d.2.ctx = x ∧ d.2.was = none ∧ c.2.was = some (s.viewNow (d.2.owner / 32) x))) := by
  obtain ⟨d, hd, rfl⟩ := List.mem_map.1 hc
  refine ⟨d, hd, ?_⟩
  by_cases hx : d.2.ctx = x
  · cases d.2.was with
    | none => cases Config.translated s.tick (2 ^ 40 + d.1) <;> simp [hx]
    | some v => simp [hx]
  · simp [hx]

/-- Settles O38: privileges, reads and writes by the lemma on each, the forms of `syswr` by their common rule. -/
theorem systemRegisters : Obligations.SystemRegisters := by
  refine ⟨sysReads_iff, sysWrites_iff, sclRuleNT_sysrd, ?_, ?_, ⟨?_, ?_, ?_, ?_⟩, ?_, mem_tlb_tlbDrop, mem_walks_tlbDrop, ?_⟩
  · exact fun f s w hc ht cl hn hr => traps_sysrd hc ht cl hn hr
  · exact fun s w => ⟨rfl, rfl, rfl, fun b hb => sysRead_preq hb, rfl, rfl, rfl, rfl, rfl, rfl, rfl, rfl, fun n lo hi => sysRead_counter s w lo hi⟩
  · exact sysWriteForm_rule (act := fun s w n v => s.sysWrite w.key w n v) fun _ _ => rfl
  · exact sysWriteForm_rule (n := fun _ => 8) (act := fun s w _ v => s.ttrootWrite w v) fun _ _ => rfl
  · exact sysWriteForm_rule (n := fun _ => 9) (act := fun s w _ v => s.segtabWrite w v) fun _ _ => rfl
  · exact sysWriteForm_rule (n := fun _ => 10) (act := fun s w _ v => s.tlbInvalidate w v) fun _ _ => rfl
  · intro s w v hw
    have kept := s.ctx_modCtx_same w.ctx
    refine ⟨modWarp_own hw rfl, modWarp_own hw rfl, ?_, ?_, ?_, ?_, fun n lo hi => sysRead_sysWrite_counter s w w.key v lo hi⟩
    · exact congrArg Context.ydl (kept fun c => { c with ydl := State.ydlOf v })
    · exact congrArg Context.trapvec (kept fun c => { c with trapvec := State.trapVec v })
    · exact (congrArg Context.ways (kept fun c => { c with ways := State.roofCfg v })).trans (roofCfg_eq v)
    · exact congrArg Context.svpool (kept fun c => { c with svpool := State.poolOf v })
  · exact fun s x c hc => copies_freeze hc

end Sys2Proof.Machine

/-!
The scalar forms of a Seam core (R382, R383, R387, R388, R394): its scalar registers, what each form answers, and where a byte of HBM4E lies (R22).
-/

namespace Sys2Proof.Machine

/-! ## Scalar registers (R382) -/

namespace SeamInst

@[simp] theorem xget_zero (i : SeamInst) : i.xget 0 = 0 := rfl
@[simp] theorem xput_zero (i : SeamInst) (v : Word) : i.xput 0 v = i := rfl

theorem xget_xput_same (i : SeamInst) {r : BitVec 5} (v : Word) (h : r ≠ 0) : (i.xput r v).xget r = v := by
  rw [xget, xput, if_neg h, if_neg h]
  exact tget_tset_same ..

theorem xget_xput_ne (i : SeamInst) {q r : BitVec 5} (v : Word) (h : q ≠ r) : (i.xput r v).xget q = i.xget q := by
  have hn : r.toNat ≠ q.toNat := fun e => h (BitVec.eq_of_toNat_eq e.symm)
  unfold xget xput
  split
  · rfl
  · split
    · rfl
    · exact tget_tset_ne _ _ _ hn

@[simp] theorem pc_xput (i : SeamInst) (r : BitVec 5) (v : Word) : (i.xput r v).pc = i.pc := by
  unfold xput
  split <;> rfl

end SeamInst

/-! ## A form of the running instance -/

theorem seamOpM_runs {s : State} {id : Nat} {i : SeamInst} {t : SeamTask} (f : State → SeamInst → SeamTask → State × SRes) (h : s.SeamRuns id i t) :
    seamOpM s f = .next ((f s i t).1.finishSeam id i (f s i t).2) := by
  obtain ⟨hi, ht⟩ := h
  simp only [seamOpM, hi, ht]

theorem seamOp_runs {s : State} {id : Nat} {i : SeamInst} {t : SeamTask} (f : SeamInst → SeamTask → SRes) (h : s.SeamRuns id i t) :
    seamOp s f = .next (s.finishSeam id i (f i t)) := seamOpM_runs _ h

/-- A form that answers a value in D. -/
theorem seamScalar_of {mk : SeamOp → Instr} {val : SeamOp → State → SeamInst → SeamTask → Word}
    (e : ∀ o s, exec (mk o) s = seamOpM s fun s i t => (s, .next (i.xput o.d (val o s i t)))) : SeamScalar mk val := by
  intro o s id i t h
  rw [e, seamOpM_runs _ h]
  simp only [State.finishSeam, SeamInst.pc_xput]
  rfl

/-! ## Integer operations (R387) -/

theorem shiftLeft_eq_ofNat {n : Nat} (a : BitVec n) (sh : Nat) : a <<< sh = BitVec.ofNat n (a.toNat * 2 ^ sh) :=
  BitVec.eq_of_toNat_eq (by simp [Nat.shiftLeft_eq])

theorem ushiftRight_eq_ofNat {n : Nat} (a : BitVec n) (sh : Nat) : a >>> sh = BitVec.ofNat n (a.toNat / 2 ^ sh) :=
  BitVec.eq_of_toNat_eq (by
    rw [BitVec.toNat_ushiftRight, Nat.shiftRight_eq_div_pow, BitVec.toNat_ofNat]
    exact (Nat.mod_eq_of_lt (Nat.lt_of_le_of_lt (Nat.div_le_self ..) a.isLt)).symm)

theorem sshiftRight_eq_ofInt {n : Nat} (a : BitVec n) (sh : Nat) : a.sshiftRight sh = BitVec.ofInt n (a.toInt / 2 ^ sh) := by
  rw [BitVec.sshiftRight, Int.shiftRight_eq_div_pow]
  norm_cast

theorem seamArith_eq {n : Nat} (op : Nat) (a b : BitVec n) (sh : Nat) : seamArith op a b sh = seamInteger op a b sh := by
  match op with
  | 0 | 1 | 2 | 3 | 4 | 5 => rfl
  | 6 => exact shiftLeft_eq_ofNat a sh
  | 7 => exact ushiftRight_eq_ofNat a sh
  | 8 => exact sshiftRight_eq_ofInt a sh
  | 9 | 10 => simp [seamArith, seamInteger, BitVec.slt]
  | 11 | 12 => simp [seamArith, seamInteger, BitVec.ult]
  | 13 => simp [seamArith, seamInteger, BitVec.slt, apply_ite (BitVec.ofNat n)]
  | k + 14 => simp [seamArith, seamInteger, BitVec.ult, apply_ite (BitVec.ofNat n)]

theorem low6_eq {n : Nat} (x : BitVec n) : (x.extractLsb' 0 6).toNat = x.toNat % 64 := by simp [BitVec.extractLsb'_toNat]

/-- The value of `srd` by its selector. -/
theorem srdValue_eq (s : State) (i : SeamInst) (t : SeamTask) (n : Nat) : srdValue s i t n =
    BitVec.ofNat 64 (if n = 0 then i.core else if n = 1 then i.idx else if n = 2 then t.places.length else if n = 3 then t.argp else if n = 4 then s.cycle
      else if n % 2 = 1 then t.base ((n - 5) / 2) else t.base ((n - 5) / 2) + t.size ((n - 5) / 2)) := by
  match n with
  | 0 | 1 | 2 | 3 | 4 => rfl
  | k + 5 =>
    have parity : (k + 5) % 2 = 1 ↔ k % 2 = 0 := by omega
    simp [srdValue, parity]

theorem append_low_eq (hi : BitVec 32) (x : Word) : hi ++ x.extractLsb' 0 32 = BitVec.ofNat 64 (x.toNat % 2 ^ 32 + 2 ^ 32 * hi.toNat) := by
  apply BitVec.eq_of_toNat_eq
  have := hi.isLt
  rw [BitVec.toNat_append, ← Nat.shiftLeft_add_eq_or_of_lt (by simp [BitVec.extractLsb'_toNat]; omega)]
  simp [BitVec.extractLsb'_toNat, Nat.shiftLeft_eq]
  omega

/-! ## HBM4E's interleaving (R22) -/

theorem hbmPlace_bounds {a : Nat} (h : a < hbmTop) : (hbmPlace a).row < 2 ^ 20 ∧ (hbmPlace a).channel < 192 ∧ (hbmPlace a).off < 2 ^ 29 := by
  simp only [hbmPlace, hbmTop] at *
  omega

/-- The digits of an offset within a pseudo-channel. -/
theorem off_digits {q l : Nat} (r : Nat) (hq : q < 2) (hl : l < 256) :
    (r * 512 + q * 256 + l) / 512 = r ∧ (r * 512 + q * 256 + l) / 256 % 2 = q ∧ (r * 512 + q * 256 + l) % 256 = l := by omega

/-- The digits of a pseudo-channel's number. -/
theorem channel_digits {u : Nat} (k : Nat) (hu : u < 8) : (8 * k + u) / 8 = k ∧ (8 * k + u) % 8 = u := by omega

/-- The digits of an address: granule, unit of 256 bytes, byte. -/
theorem addr_digits {u l : Nat} (g : Nat) (hu : u < 16) (hl : l < 256) :
    (g * 4096 + u * 256 + l) / 4096 = g ∧ (g * 4096 + u * 256 + l) / 256 % 16 = u ∧ (g * 4096 + u * 256 + l) % 256 = l := by omega

/-- The digits of a granule's number: row, Seam core, stack. -/
theorem granule_digits {k st : Nat} (row : Nat) (hk : k < 24) (hs : st < 8) :
    ((row * 24 + k) * 8 + st) % 8 = st ∧ ((row * 24 + k) * 8 + st) / 8 % 24 = k ∧ ((row * 24 + k) * 8 + st) / 192 = row := by omega

theorem addr_hbmPlace (a : Nat) : (hbmPlace a).addr = a := by
  obtain ⟨hrow, hhalf, hbyte⟩ := off_digits (q := a / 256 % 16 / 8) (l := a % 256) (a / 4096 / 192) (by omega) (by omega)
  obtain ⟨hseam, hunit⟩ := channel_digits (u := a / 256 % 16 % 8) (a / 4096 / 8 % 24) (by omega)
  simp only [hbmPlace, HbmPlace.addr, hrow, hhalf, hbyte, hseam, hunit]
  omega

theorem addr_lt_hbmTop {p : HbmPlace} (hs : p.stack < 8) (hc : p.channel < 192) (ho : p.off < 2 ^ 29) : p.addr < hbmTop := by
  simp only [HbmPlace.addr, hbmTop]
  omega

theorem hbmPlace_addr {p : HbmPlace} (hs : p.stack < 8) (hc : p.channel < 192) (hm : p.seam = p.channel / 8) (hr : p.row = p.off / 512) :
    hbmPlace p.addr = p := by
  obtain ⟨st, seam, row, ch, off⟩ := p
  dsimp only at hs hc hm hr
  obtain ⟨hg, hu, hl⟩ := addr_digits (u := ch % 8 + 8 * (off / 256 % 2)) (l := off % 256) ((off / 512 * 24 + ch / 8) * 8 + st) (by omega) (by omega)
  obtain ⟨hst, hk, hrow⟩ := granule_digits (k := ch / 8) (off / 512) (by omega) hs
  simp only [hbmPlace, HbmPlace.addr, hg, hu, hl, hst, hk, hrow, HbmPlace.mk.injEq]
  exact ⟨trivial, hm.symm, hr.symm, by omega, by omega⟩

/-! ## The granules of a region that belong to a Seam core (R388) -/

/-- R388: what `rgnext` answers is the region's end or a granule of this core, and no granule of this core lies before it. -/
theorem regionNext_spec (s : State) (i : SeamInst) (t : SeamTask) (j : Nat) (a : Word) (hm : t.mode j ≠ 0) (hb : t.base j % 4096 = 0)
    (ht : t.base j + t.size j < 2 ^ 56) (ha : a.toNat < t.base j + t.size j) :
    let r := (s.regionNext i t j a).toNat
    let mine := fun (v : Nat) => s.seamOwns i (BitVec.ofNat 64 v) = some true
    (r = t.base j + t.size j ∨ (max (t.base j) a.toNat ≤ r ∧ r + 4096 ≤ t.base j + t.size j ∧ r % 4096 = 0 ∧ mine r)) ∧
    ∀ v, max (t.base j) a.toNat ≤ v → v < r → v + 4096 ≤ t.base j + t.size j → v % 4096 = 0 → ¬mine v := by
  intro r mine
  -- `lo` is the granule the search starts at, the least of the region from the address on.
  generalize hlo : max (t.base j) ((a.toNat + 4095) / 4096 * 4096) = lo
  generalize htop : t.base j + t.size j = top at *
  have lo_granule : lo % 4096 = 0 := by omega
  have from_lo : max (t.base j) a.toNat ≤ lo := by omega
  have lo_least : ∀ v, max (t.base j) a.toNat ≤ v → v % 4096 = 0 → lo ≤ v := by omega
  have hr : r = (s.regionNext i t j a).toNat := rfl
  simp only [State.regionNext, if_neg hm, hlo, htop] at hr
  have index : ∀ v, max (t.base j) a.toNat ≤ v → v + 4096 ≤ top → v % 4096 = 0 → ∃ n, n < (top - lo) / 4096 ∧ lo + 4096 * n = v := by
    intro v h1 h2 h3
    have := lo_least v h1 h3
    exact ⟨(v - lo) / 4096, by omega, by omega⟩
  cases hf : (List.range ((top - lo) / 4096)).find? fun n => s.seamOwns i (BitVec.ofNat 64 (lo + 4096 * n)) = some true with
  | none =>
    simp only [hf] at hr
    rw [BitVec.toNat_ofNat, Nat.mod_eq_of_lt (by omega)] at hr
    refine ⟨.inl hr, fun v h1 _ h2 h3 hv => ?_⟩
    obtain ⟨n, hn, rfl⟩ := index v h1 h2 h3
    exact List.find?_eq_none.1 hf n (List.mem_range.2 hn) (decide_eq_true hv)
  | some n =>
    obtain ⟨hown, hlt, hfirst⟩ := List.find?_range_eq_some.1 hf
    have hn := List.mem_range.1 hlt
    simp only [hf] at hr
    rw [BitVec.toNat_ofNat, Nat.mod_eq_of_lt (by omega)] at hr
    refine ⟨.inr ⟨by omega, by omega, by omega, ?_⟩, fun v h1 h2 h3 h4 hv => ?_⟩
    · rw [hr]
      simpa using hown
    · obtain ⟨k, hk, rfl⟩ := index v h1 h3 h4
      exact absurd hv (by simpa using hfirst k (by omega))

/-! ## Branches and synchronisation (R387, R394) -/

/-- The condition of a branch on numbers. -/
def seamTaken (f : BitVec 6) (a b : Word) : Prop :=
  if f = 0 then a.toNat = b.toNat else if f = 1 then a.toNat ≠ b.toNat else if f = 2 then a.toInt < b.toInt
  else if f = 3 then b.toInt ≤ a.toInt else if f = 4 then a.toNat < b.toNat else b.toNat ≤ a.toNat

theorem seamCond_iff (f : BitVec 6) (a b : Word) : seamCond f.toNat a b = true ↔ seamTaken f a b := by
  simp only [seamTaken, BitVec.toNat_eq (x := f), BitVec.reduceToNat]
  match f.toNat with
  | 0 | 1 => simp [seamCond, BitVec.toNat_eq]
  | 2 => simp [seamCond, BitVec.slt]
  | 3 => simp [seamCond, BitVec.sle]
  | 4 => simp [seamCond, BitVec.ult]
  | n + 5 => simp [seamCond, BitVec.ule]

section
variable {s : State} {id : Nat} {i : SeamInst} {t : SeamTask} (h : s.SeamRuns id i t) (o : SeamOp)
include h

theorem exec_seamBranch_taken (c : seamTaken o.f (i.xget o.a) (i.xget o.b)) :
    exec (.seamBranch o) s = .next (s.putInst id { i with pc := i.pc + 8#64 * o.imm.signExtend 64, waitFrom := none }) := by
  refine (seamOp_runs _ h).trans ?_
  rw [if_pos ((seamCond_iff ..).2 c)]
  rfl

theorem exec_seamBranch_passed (c : ¬seamTaken o.f (i.xget o.a) (i.xget o.b)) :
    exec (.seamBranch o) s = .next (s.putInst id { i with pc := i.pc + 8#64, waitFrom := none }) := by
  refine (seamOp_runs _ h).trans ?_
  rw [if_neg (mt (seamCond_iff ..).1 c)]
  rfl

theorem exec_seamJr_aligned (c : (i.xget o.a).toNat % 8 = 0) :
    exec (.seamJr o) s = .next (s.putInst id { i with pc := i.xget o.a, waitFrom := none }) := by
  refine (seamOp_runs _ h).trans ?_
  simp only [c]
  rfl

theorem exec_seamJr_misaligned (c : (i.xget o.a).toNat % 8 ≠ 0) :
    exec (.seamJr o) s = .next (s.endByFault id i (6, 11, (i.xget o.a).toNat)) := by
  refine (seamOp_runs _ h).trans ?_
  dsimp only
  rw [if_pos (by simpa using c)]
  rfl

theorem exec_pown : exec (.pown o) s = .next ((s.seamFill i.ctx [(i.xget o.a, 1)]).putInst id
    { i.xput o.d (match s.seamOwns i (i.xget o.a) with | none => ~~~0#64 | some true => 1 | some false => 0) with
      pc := i.pc + 8#64, waitFrom := none }) := by
  change execPown o s = _
  rw [execPown, seamOpM_runs _ h]
  rcases s.seamOwns i (i.xget o.a) with _ | _ | _ <;> simp [State.finishSeam]

theorem exec_sfence_waits (release : o.f.getLsbD 1 = true) (busy : s.seamQuiet i = false) : exec (.sfence o) s = .next (s.putInst id i) := by
  change execSfence o s = _
  rw [execSfence, seamOpM_runs _ h]
  simp only [release, busy]
  rfl

theorem exec_sfence_goes (c : o.f.getLsbD 1 = false ∨ s.seamQuiet i = true) :
    exec (.sfence o) s = .next (s.putInst id { i with pc := i.pc + 8#64, waitFrom := none }) := by
  change execSfence o s = _
  rw [execSfence, seamOpM_runs _ h]
  have passes : ¬(o.f.getLsbD 1 && !s.seamQuiet i) = true := by
    rcases c with c | c <;> rw [c] <;> simp
  dsimp only
  rw [if_neg passes]
  rfl

theorem exec_tladv_waits (c : s.seamQuiet i = false ∨ s.counterReady i.ctx o.imm.toNat = false) : exec (.tladv o) s = .next (s.putInst id i) := by
  change execTladv o s = _
  rw [execTladv, seamOpM_runs _ h, if_pos (by rcases c with c | c <;> simp [c])]
  rfl

theorem exec_tladv_goes (quiet : s.seamQuiet i = true) (ready : s.counterReady i.ctx o.imm.toNat = true) :
    exec (.tladv o) s = .next ((s.advance i.ctx o.imm.toNat (i.xget o.b)).putInst id { i with pc := i.pc + 8#64, waitFrom := none }) := by
  change execTladv o s = _
  rw [execTladv, seamOpM_runs _ h, if_neg (by simp [quiet, ready])]
  rfl

theorem exec_seamDone_waits (busy : s.seamQuiet i = false) : exec (.seamDone o) s = .next (s.putInst id i) := by
  change execSeamDone o s = _
  rw [execSeamDone, seamOpM_runs _ h]
  simp only [busy]
  rfl

theorem exec_seamDone_ends (quiet : s.seamQuiet i = true) :
    exec (.seamDone o) s = .next (s.putInst id { i with st := .ended, waitFrom := none }) := by
  change execSeamDone o s = _
  rw [execSeamDone, seamOpM_runs _ h]
  simp only [quiet]
  rfl

theorem exec_tlwt_reached (c : (i.xget o.b).toNat ≤ s.timeline i.ctx o.imm.toNat) :
    exec (.tlwt o) s = .next (s.putInst id { i with pc := i.pc + 8#64, waitFrom := none }) := by
  change execTlwt o s = _
  rw [execTlwt, seamOpM_runs _ h]
  dsimp only
  rw [if_pos c]
  rfl

theorem exec_tlwt_waits (c : s.timeline i.ctx o.imm.toNat < (i.xget o.b).toNat) :
    exec (.tlwt o) s = .next (s.putInst id { i with waitFrom := some (i.waitFrom.getD s.cycle) }) := by
  change execTlwt o s = _
  rw [execTlwt, seamOpM_runs _ h]
  dsimp only
  rw [if_neg (Nat.not_le.2 c)]
  rfl

end

/-- Settles O44: the value forms by the rule of a scalar result, the others by the lemma on each case; HBM4E digit by digit of the address. -/
theorem seamScalarForms : Obligations.SeamScalarForms := by
  refine ⟨?_, seamScalar_of fun _ _ => rfl, seamScalar_of fun o s => ?_, seamScalar_of fun o s => ?_, seamScalar_of fun o s => ?_,
    seamScalar_of fun o s => ?_, seamScalar_of fun _ _ => rfl, regionNext_spec, ?_, ?_, ?_⟩
  · exact fun i r v => ⟨i.xget_zero, i.xput_zero v, i.xget_xput_same v, fun q hq => i.xget_xput_ne v hq⟩
  · simp only [← append_low_eq]
    rfl
  · simp only [← seamArith_eq, ← low6_eq]
    rfl
  · simp only [← seamArith_eq, ← low6_eq]
    rfl
  · simp only [← srdValue_eq]
    rfl
  · intro a ha
    obtain ⟨hrow, hchannel, hoff⟩ := hbmPlace_bounds ha
    exact ⟨rfl, rfl, rfl, rfl, rfl, addr_hbmPlace a, hrow, hchannel, hoff, if_pos ha⟩
  · exact fun p hs hc ho hm hr => ⟨addr_lt_hbmTop hs hc ho, hbmPlace_addr hs hc hm hr⟩
  · intro o s id i t h
    exact ⟨exec_seamBranch_taken h o, exec_seamBranch_passed h o, seamOp_runs _ h, exec_seamJr_aligned h o, exec_seamJr_misaligned h o,
      exec_pown h o, exec_sfence_waits h o, exec_sfence_goes h o, fun busy => ⟨exec_tladv_waits h o (.inl busy), exec_seamDone_waits h o busy⟩,
      fun held => exec_tladv_waits h o (.inr held), exec_tladv_goes h o, exec_seamDone_ends h o, exec_tlwt_reached h o, exec_tlwt_waits h o,
      seamOp_runs _ h⟩

end Sys2Proof.Machine

/-!
The members family (R100, R109–R113): member masks, the identity of a bank, selection among members and their reductions.
-/

namespace Sys2Proof.Machine

/-! ## What a member result changes, and when its checks are clear -/

theorem Warp.onlyRegs_memberWrite (w : Warp) (d k : Nat) (lanes : Nat → LaneMask) (f : Nat → Nat → List Lane32) :
    w.OnlyRegs (memberWrite w d k lanes f) := by
  unfold memberWrite
  split
  · exact .foldl (fun _ _ => onlyRegs_vput ..) _ _
  · exact .foldl (fun _ _ => .foldl (fun _ _ => onlyRegs_vput ..) _ _) _ _

/-- A form that asks for no alignment is clear where one that asks for it is. -/
theorem Warp.Clear.of_aligned {w : Warp} {h : Hdr} {ns : List Need} {mf mf' cw : Bool} (c : w.Clear h ns mf cw) (hm : mf = false → mf' = false) :
    w.Clear h ns mf' cw := by
  obtain ⟨range, aligned, rest⟩ := c
  exact ⟨range, hm aligned, rest⟩

/-! ## Rules of forms, by what they do once their checks are clear -/

/-- A form with its checks and then an effect on the registers; `mf` is the alignment it asks for. -/
theorem warpRule_of {i : Instr} {h : Hdr} {os : List Warp.Operand} {k : Nat} {dst : Spec} {mf cw : Warp → Bool} {side : State → Warp → Prop}
    {eff : Warp → Warp} (hm : ∀ w, (w.misfits os || w.misfit k dst) = false → mf w = false) (regs : ∀ w : Warp, w.OnlyRegs (eff w))
    (e : ∀ s, exec i s = warpOp s fun w => w.checked h (w.needs os ++ w.needsDst k dst) (mf w) (cw w) (.fall (eff w))) :
    WarpRule i h os k dst cw side fun _ => eff := by
  intro s w hc _ cl
  refine retires_of_fall hc ?_ (regs w)
  rw [e, warpOp_cur _ hc, Warp.checked_clear (cl.of_aligned (hm w))]

/-- A uniform form whose effect does not end the warp. -/
theorem uniRule_of {i : Instr} {h : Hdr} {os : List Warp.Operand} {k : Nat} {dst : Spec} {side : State → Warp → Prop} {eff : Warp → Warp}
    (lasts : ∀ w, (eff w).ended = w.ended)
    (e : ∀ s w, s.curWarp = some w → w.Clear h (w.needs os ++ w.needsDst k dst) false false →
      exec i s = .next (s.finish w (.fall (if Warp.never h then w else eff w)))) : UniRule i h os k dst side fun _ => eff := by
  intro s w hc _ cl
  have kept : (if Warp.never h then w else eff w).ended = w.ended := by
    split
    · rfl
    · exact lasts w
  rw [Retires, e s w hc cl, finish_fall (kept.trans (ended_of_cur hc))]

/-! ## Member masks and the identity of a bank (R100, R109, R110) -/

theorem and_slotBits (w : Warp) (v : Word) : v.extractLsb' 0 16 &&& w.slotBits = BitVec.ofNat 16 (v.toNat &&& (2 ^ w.p - 1)) := by
  rw [BitVec.ofNat_and, Warp.slotBits, ← BitVec.setWidth_eq_extractLsb' (by decide), BitVec.ofNat_toNat]

theorem uniRule_mmwr (f : FormR) : UniRule (.mmwr f) f.h [(f.a, 1)] 0 noDst (fun _ _ => True) fun _ w =>
    w.mmput (BitVec.ofNat 16 ((w.scl 0 f.a).toNat &&& (2 ^ w.p - 1))) := by
  refine uniRule_of (fun _ => rfl) fun s w hc cl => ?_
  change execMmwr f s = _
  rw [execMmwr, warpOp_cur _ hc, Warp.checked_clear (by simpa [Warp.needsDst, noDst] using cl), unlessNever, and_slotBits]
  split <;> rfl

theorem uniRule_mmtrim (f : FormR) : UniRule (.mmtrim f) f.h [] 0 noDst (fun _ _ => True) fun _ w =>
    w.mmput (w.active.foldl (fun mm m => if (w.bank m).em &&& (w.bank m).live = 0 then mm &&& ~~~(1#16 <<< m) else mm) w.mm) := by
  refine uniRule_of (fun _ => rfl) fun s w hc _ => ?_
  change execMmtrim f s = _
  rw [execMmtrim, warpOp_cur _ hc]
  simp only [beq_iff_eq]
  split <;> rfl

theorem sclRule_mbid (f : FormR) : SclRule (.mbid f) f.h f.dst [] (fun _ => true) fun _ w m =>
    if f.x.toNat = 0 then BitVec.ofNat 64 m else if f.x.toNat = 1 then (w.bank m).midx.setWidth 64
    else if f.x.toNat = 2 then BitVec.ofNat 64 (w.bank m).num else (w.bank m).key.setWidth 64 := by
  refine sclRule_of fun s => ?_
  change execMbid f s = _
  unfold execMbid
  generalize f.x.toNat = n
  match n with
  | 0 | 1 | 2 => rfl
  | n + 3 => simp

/-! ## Member selection (R111) -/

theorem warpRule_mselV (f : FormR) :
    WarpRule (.mselV f) f.h [(f.a, 1), (f.b, 1)] 1 f.dst (fun w => w.commonV (w.xlat f.dst.num) && !w.common? f.b.spec) (fun _ _ => True) fun _ w =>
      let gone := fun (m l : Nat) => match selSlot w (w.scl m f.b) with
        | some k => (w.bank k).dead.getLsbD l || (w.bank k).dead.getLsbD (Warp.modLane f.a.mod l)
        | none => false
      (memberWrite w (w.xlat f.dst.num) 1 (w.part f.h) fun m l =>
        match selSlot w (w.scl m f.b) with
        | none => [0]
        | some k => if gone m l then [0] else [w.vget k (w.xlat f.a.spec.num) (Warp.modLane f.a.mod l)]).dsrc
        (w.laneTest f.h (w.commonV (w.xlat f.dst.num) || w.common? f.b.spec) gone) := by
  refine warpRule_of (mf := fun _ => false) (fun _ _ => rfl) (fun w => (w.onlyRegs_memberWrite ..).trans (Warp.onlyRegs_dsrc ..)) fun s => ?_
  change execMselV f s = _
  simp only [execMselV, Bool.not_not] <;> rfl

theorem warpRule_mselS (f : FormR) :
    WarpRule (.mselS f) f.h [(f.a, 1), (f.b, 1)] 1 f.dst (fun w => f.dst.num < 128 && !w.common? f.b.spec) (fun _ _ => True) fun _ w =>
      if Warp.never f.h ∨ (w.active = [] ∧ (128 ≤ f.dst.num ∨ w.common? f.a.spec = false)) then w
      else w.sclWrite f.dst.num fun m => match selSlot w (w.scl m f.b) with
        | none => 0
        | some k => w.scl k f.a := by
  refine warpRule_of (mf := fun _ => false) (fun _ _ => rfl) (fun w => ?_) fun s => ?_
  · split
    · exact .refl w
    · exact w.onlyRegs_sclWrite ..
  · change execMselS f s = _
    simp only [execMselS, Bool.or_eq_true, Bool.and_eq_true, decide_eq_true_eq, Bool.not_eq_true'] <;> rfl

/-! ## Reductions and votes (R112, R113) -/

/-- A member reduction: every member gets, in the lanes in which it takes part, what `combine` makes of the members in which the lane does. -/
theorem warpRule_memberReduce {i : Instr} {f : FormR} {k : Nat} {combine : Warp → List Nat → Nat → List Lane32}
    (e : ∀ s, exec i s = warpOp s fun w => memberReduce w f k (combine w)) :
    WarpRule i f.h [(f.a, k)] k f.dst (fun _ => false) (fun _ _ => True) fun _ w =>
      ((memberWrite w (w.xlat f.dst.num) k (w.part f.h) fun _ l => combine w (contributors w f.h l) l).dsrc
        (w.active.any fun m => (w.bank m).dead.toList.any fun l => contributors w f.h l != [])).noteDead f.h [(f.a, k)] :=
  warpRule_of (mf := fun w => w.misfits [(f.a, k)] || w.misfit k f.dst) (fun _ => id)
    (fun w => ((w.onlyRegs_memberWrite ..).trans (Warp.onlyRegs_dsrc ..)).trans (Warp.onlyRegs_noteDead ..)) e

theorem exec_mredXF64 (f : FormR) (s : State) : exec (.mredXF64 f) s = warpOp s fun w => memberReduce w f 2 fun c l =>
    lanesOf Fmt.f64 (fpSum Fmt.f64 { mode := f.x.toNat } (c.map fun m => Fmt.f64.decode (w.flt Fmt.f64 m f.a l 0))) := rfl

theorem exec_mredXF32 (f : FormR) (s : State) : exec (.mredXF32 f) s = warpOp s fun w => memberReduce w f 1 fun c l =>
    [BitVec.ofNat 32 (fpSum Fmt.f32 { mode := f.x.toNat } (c.map fun m => Fmt.f32.decode (w.flt Fmt.f32 m f.a l 0)))] := rfl

theorem exec_mredMinmax (f : FormR) (s : State) : exec (.mredMinmax f) s = warpOp s fun w =>
    memberReduce w f (if f.x.getLsbD 1 then 2 else 1) fun c l =>
      let fmt := if f.x.getLsbD 1 then Fmt.f64 else Fmt.f32
      lanesOf fmt (fpExtreme fmt (f.x.getLsbD 0) (c.map fun m => w.flt fmt m f.a l 0)) := by
  change execMredMinmax f s = _
  unfold execMredMinmax
  cases f.x.getLsbD 1 <;> rfl

theorem intCombine_eq (op : Nat) : intCombine op = fun x y =>
    if op = 0 then x + y else if op = 1 then (if x.toInt ≤ y.toInt then x else y) else if op = 2 then (if y.toInt ≤ x.toInt then x else y)
    else if op = 3 then (if x.toNat ≤ y.toNat then x else y) else if op = 4 then (if y.toNat ≤ x.toNat then x else y)
    else if op = 5 then x &&& y else if op = 6 then x ||| y else x ^^^ y := by
  funext x y
  match op with
  | 0 | 5 | 6 => rfl
  | 1 | 2 => simp [intCombine, BitVec.sle_eq_decide]
  | 3 | 4 => simp [intCombine, BitVec.ule_eq_decide]
  | n + 7 => simp [intCombine]

theorem exec_mredInt (f : FormR) (s : State) : exec (.mredInt f) s = warpOp s fun w => memberReduce w f 1 fun c l =>
    match c.map fun m => w.int32 m f.a l with
    | [] => [0]
    | a :: t => [t.foldl (fun x y =>
        if f.x.toNat = 0 then x + y else if f.x.toNat = 1 then (if x.toInt ≤ y.toInt then x else y) else if f.x.toNat = 2 then (if y.toInt ≤ x.toInt then x else y)
        else if f.x.toNat = 3 then (if x.toNat ≤ y.toNat then x else y) else if f.x.toNat = 4 then (if y.toNat ≤ x.toNat then x else y)
        else if f.x.toNat = 5 then x &&& y else if f.x.toNat = 6 then x ||| y else x ^^^ y) a] := by
  rw [← intCombine_eq]
  rfl

theorem memberVote_iff (all : Bool) (t q : LaneMask) : memberVote all t q = true ↔ if all then t ≠ 0 ∧ q = t else q ≠ 0 := by
  cases all <;> simp [memberVote]

theorem sclRule_mvote (f : FormR) : SclRule (.mvote f) f.h f.dst [] (fun _ => false) fun _ w _ =>
    w.active.foldl (fun v m =>
      let t := w.part f.h m
      let q := t &&& w.gmask m f.a.spec.num
      if (if f.x.getLsbD 0 then t ≠ 0 ∧ q = t else q ≠ 0) then v ||| (1#64 <<< m) else v) 0 := by
  refine sclRule_of fun s => ?_
  change execMvote f s = _
  simp only [execMvote, memberVote_iff]

/-- Settles O14: each form by the rule of its kind. -/
theorem memberForms : Obligations.MemberForms := by
  refine ⟨⟨fun f => sclRule_of fun _ => rfl, uniRule_mmwr, fun _ _ => rfl, uniRule_mmtrim, sclRule_mbid⟩, warpRule_mselV, warpRule_mselS,
    fun f => (warpRule_memberReduce (exec_mredXF64 f) :), fun f => (warpRule_memberReduce (exec_mredXF32 f) :),
    fun f => (warpRule_memberReduce (exec_mredMinmax f) :), fun f => (warpRule_memberReduce (exec_mredInt f) :), sclRule_mvote⟩

end Sys2Proof.Machine

/-!
Regrouping (R114–R117): what `regrp` waits for, and that the rewrite of the member maps loses no warp.
-/

namespace Sys2Proof.Machine

namespace State

/-! ## No warp is lost -/

/-- Every warp and foreman that `s` holds, `t` holds too. -/
def HoldsWarps (s t : State) : Prop := ∀ k, (s.warp? k).isSome = true → (t.warp? k).isSome = true

namespace HoldsWarps
variable {a s t : State}

theorem refl (s : State) : s.HoldsWarps s := fun _ => id

theorem ite {c : Prop} [Decidable c] (h : a.HoldsWarps s) (k : a.HoldsWarps t) : a.HoldsWarps (if c then s else t) := by split <;> assumption

theorem foldl {β : Type} {f : State → β → State} (h : a.HoldsWarps s) (l : List β) (hf : ∀ s b, a.HoldsWarps s → a.HoldsWarps (f s b)) :
    a.HoldsWarps (l.foldl f s) := by
  induction l generalizing s with
  | nil => exact h
  | cons b l ih => exact ih (hf s b h)

theorem putWarp (h : a.HoldsWarps s) (w : Warp) : a.HoldsWarps (s.putWarp w) := by
  intro k hk
  by_cases e : k = w.key
  · simp [e]
  · rw [warp?_putWarp_ne s e]
    exact h k hk

theorem modWarp (h : a.HoldsWarps s) (k : Nat) (f : Warp → Warp) : a.HoldsWarps (s.modWarp k f) := by
  unfold State.modWarp
  split
  · exact h.putWarp _
  · exact h

theorem l1Clear (h : a.HoldsWarps s) (core : Nat) : a.HoldsWarps (s.l1Clear core) := ite h h

theorem acquireBy (h : a.HoldsWarps s) (k core scope : Nat) : a.HoldsWarps (s.acquireBy k core scope) :=
  modWarp (ite (h.l1Clear core) h) k _

theorem regroupCrew (h : a.HoldsWarps s) (w : Warp) : a.HoldsWarps (s.regroupCrew w) := by
  refine h.foldl _ fun s x hs => ?_
  dsimp only
  split
  · exact ((hs.putWarp _).acquireBy _ _ _).modWarp _ _
  · exact (hs.putWarp _).acquireBy _ _ _

end HoldsWarps
end State

/-! ## Waits outside a transaction -/

/-- With no open transaction there is nothing to abort. -/
theorem Warp.abortTx_of_no_tx {w : Warp} (h : w.tx = none) (c k : Nat) (a : Word) : w.abortTx c k a = w := by
  simp [abortTx, dropTx, pendAbort, h]

/-- A warp that waits is still there. -/
theorem warp?_waits (s : State) {w : Warp} (h : w.tx = none) (r : Wait) : ∃ x, (s.waits w r).warp? w.key = some x := by
  unfold State.waits
  dsimp only
  rw [Warp.abortTx_of_no_tx (by exact h)]
  split <;> exact ⟨_, State.warp?_putWarp_same ..⟩

/-! ## `regrp` (R115, R116) -/

theorem releaseBusy_narrow (s : State) (w : Warp) : releaseBusy s w false = true ↔ ∃ e ∈ w.log, e.async = false := by
  simp [releaseBusy]

/-- The warp at its `regrp`: it offers the keys of its members, and waits for its crew. -/
def Warp.atRegrp (w : Warp) (a : Src) : Warp :=
  { w with rdv := some (.regrp (w.slots.map fun m => (w.scl m a).extractLsb' 0 32)), st := .wait, waitOn := some .rendezvous }

section
variable {f : FormR} {s : State} {w : Warp} (hc : s.curWarp = some w) (ht : w.tx = none) (hn : Warp.never f.h = false)
  (cl : w.Clear f.h (w.needs [(f.a, 1)]) false false)
include hc ht hn cl

/-- Outside a transaction, with its checks clear: the waits in their order, then the rewrite or the wait for the crew. -/
theorem exec_regrp_cur : exec (.regrp f) s = .next (
    let w1 := w.atRegrp f.a
    let regrouped := (s.putWarp w1).regroupCrew w1
    let waiting := s.waits { w with rdv := w1.rdv } .rendezvous
    if releaseBusy s w false then s.waits w .log
    else if s.mxOf w ≠ [] then s.waits w .engine
    else if (s.putWarp w1).rendezvous w1 fun x => isRegrp x.rdv then
      (regrouped.warp? w.key).elim (regrouped.finish w (.fall w)) regrouped.putWarp
    else waiting.putWarp ((waiting.warp? w.key).getD w1)) := by
  change execRegrp f s = _
  dsimp only [Warp.atRegrp]
  rw [execRegrp, machineOpNT_cur _ hc ht]
  simp only [hn, Warp.checked_clear cl, Bool.false_eq_true, if_false, bne_iff_ne]
  split
  · rfl
  · split
    · rfl
    · split
      · split <;> rename_i hx <;> simp only [hx] <;> rfl
      · rfl

theorem exec_regrp_last (hb : releaseBusy s w false = false) (hm : s.mxOf w = [])
    (hr : (s.putWarp (w.atRegrp f.a)).rendezvous (w.atRegrp f.a) (fun x => isRegrp x.rdv) = true) :
    ∃ x, ((s.putWarp (w.atRegrp f.a)).regroupCrew (w.atRegrp f.a)).warp? w.key = some x ∧
      exec (.regrp f) s = .next (((s.putWarp (w.atRegrp f.a)).regroupCrew (w.atRegrp f.a)).putWarp x) := by
  have here : ((s.putWarp (w.atRegrp f.a)).warp? w.key).isSome = true := by
    rw [show (s.putWarp (w.atRegrp f.a)).warp? w.key = _ from State.warp?_putWarp_same ..]
    rfl
  obtain ⟨x, hx⟩ := Option.isSome_iff_exists.1 ((State.HoldsWarps.refl _).regroupCrew (w.atRegrp f.a) w.key here)
  refine ⟨x, hx, ?_⟩
  simp only [exec_regrp_cur hc ht hn cl, hb, hm, hr, hx]
  rfl

theorem exec_regrp_early (hb : releaseBusy s w false = false) (hm : s.mxOf w = [])
    (hr : (s.putWarp (w.atRegrp f.a)).rendezvous (w.atRegrp f.a) (fun x => isRegrp x.rdv) = false) :
    ∃ x, (s.waits { w with rdv := (w.atRegrp f.a).rdv } .rendezvous).warp? w.key = some x ∧
      exec (.regrp f) s = .next ((s.waits { w with rdv := (w.atRegrp f.a).rdv } .rendezvous).putWarp x) := by
  obtain ⟨x, hx⟩ : ∃ x, (s.waits { w with rdv := (w.atRegrp f.a).rdv } .rendezvous).warp? w.key = some x :=
    warp?_waits s (w := { w with rdv := (w.atRegrp f.a).rdv }) ht .rendezvous
  refine ⟨x, hx, ?_⟩
  simp only [exec_regrp_cur hc ht hn cl, hb, hm, hr, hx]
  rfl

end

/-- Settles O15: the two waits, the rewrite by the last arrival, and the wait for the others. -/
theorem regroupForm : Obligations.RegroupForm := by
  intro f s w hc ht hn cl w1 s1 busy
  have idle : ¬busy → releaseBusy s w false = false := fun h => Bool.eq_false_iff.2 (mt (releaseBusy_narrow s w).1 h)
  have cur := exec_regrp_cur hc ht hn cl
  refine ⟨fun h => ?_, fun h hm => ?_, fun h => exec_regrp_last hc ht hn cl (idle h), fun h => exec_regrp_early hc ht hn cl (idle h)⟩
  · rw [Waits, cur, if_pos ((releaseBusy_narrow s w).2 h)]
  · rw [Waits, cur, if_neg (by simp [idle h]), if_pos hm]

end Sys2Proof.Machine

/-!
Placing blocks and choosing warps (R99, R119, R346, R353, R354, R357, R359): the start of a warp, the steps of the block scheduler, and the
active set of a core.
-/

namespace Sys2Proof.Machine

/-! ## The start of a warp (R99, R119, R346) -/

theorem tget_map_of_mem {α : Type} (d : α) (g : Nat → α) {l : List Nat} {i : Nat} (h : i ∈ l) : tget d (l.map fun k => (k, g k)) i = g i := by
  induction l with
  | nil => simp at h
  | cons a l ih =>
    by_cases ha : a = i
    · simp [tget, ha]
    · simp only [List.map_cons, tget, ha, if_false]
      exact ih ((List.mem_cons.1 h).resolve_left (Ne.symm ha))

theorem tget_map_of_not_mem {α : Type} (d : α) (g : Nat → α) {l : List Nat} {i : Nat} (h : i ∉ l) : tget d (l.map fun k => (k, g k)) i = d := by
  induction l with
  | nil => rfl
  | cons a l ih =>
    rw [List.mem_cons, not_or] at h
    simp only [List.map_cons, tget, Ne.symm h.1, if_false]
    exact ih h.2

/-- The launch arguments fill the common scalar registers from s0 on, and the others start at 0. -/
theorem tget_startWarp_s (h : LHdr) (x core slot blk pos : Nat) (info : LaunchInfo) (args : List Word) (now i : Nat) :
    tget 0 (startWarp h x core slot blk pos info args now).s i = args.getD i 0 := by
  change tget 0 ((List.range args.length).map fun k => (k, args.getD k 0)) i = args.getD i 0
  by_cases hi : i < args.length
  · exact tget_map_of_mem 0 (fun k => args.getD k 0) (List.mem_range.2 hi)
  · rw [tget_map_of_not_mem 0 (fun k => args.getD k 0) (mt List.mem_range.1 hi), List.getD_eq_getElem?_getD, List.getElem?_eq_none (Nat.le_of_not_lt hi)]
    rfl

theorem bank_startWarp (h : LHdr) (x core slot blk pos : Nat) (info : LaunchInfo) (args : List Word) (now : Nat) {m : Nat} (hm : m < h.pod) :
    (startWarp h x core slot blk pos info args now).bank m = startBank h pos m := by
  change ((List.range h.pod).map (startBank h pos)).getD m {} = _
  simp [hm]

/-- Every lane of a bank is on at warp start. -/
theorem em_startBank (h : LHdr) (pos m : Nat) : (startBank h pos m).em = ~~~0#96 := by
  simp [startBank, Bank.setEm, Bank.setEmWord, Bank.em, tset, tget]

/-! ## Where a block fits, and placing one after another (R353) -/

theorem coreFits_bounds {s : State} {x core : Nat} {h : LHdr} (fits : s.coreFits x h core = true) :
    core < 1280 ∧ h.slots ≤ (s.freeSlots core).length ∧ (s.held core).foldl (fun n p => n + p.2.ns) h.near ≤ 491520 ∧
      (s.held core).foldl (fun n p => n + p.2.srec) h.srec ≤ 32 := by
  simp only [State.coreFits, Bool.and_eq_true, decide_eq_true_eq] at fits
  obtain ⟨⟨⟨⟨⟨⟨⟨hcore, hslots⟩, -⟩, hnear⟩, hsrec⟩, -⟩, -⟩, -⟩ := fits
  exact ⟨hcore, hslots, hnear, hsrec⟩

/-- The cores that may be kept for a node that has been passed over since cycle `t`. -/
def State.mayReserve (s : State) (id : Nat) (nd : Node) (t : Nat) (cores : List Nat) : Prop :=
  t + 100000 ≤ s.cycle ∧ cores ≠ [] ∧ (∀ c ∈ cores, c < 1280 ∧ s.unreserved id c = true) ∧
    ∀ g ∈ State.groupsOf (LHdr.cgs nd.hdr) cores, State.oneCluster g = true

/-- The blocks that have been asked to yield and have not left yet. -/
def State.asked (s : State) : List Nat := (s.blocks.filter fun p => p.2.preq.getLsbD 0 && p.2.st = .resident).map (·.1)

section
variable {id : Nat} {cores : List Nat} {s : State} {nd : Node}

theorem exec_blockPlace_idle (hnd : s.reap.node? id = some nd) (h : ¬∃ p ∈ s.reap.placing, p.1 = id) :
    exec (.blockPlace id cores) s = .next s.reap := by
  have none_here : (s.reap.placing.any fun p => p.1 = id) = false := by
    simpa using fun a b hp (e : a = id) => h ⟨(a, b), hp, e⟩
  change execBlockPlace id cores s = _
  simp only [execBlockPlace, hnd, none_here]
  rfl

/-- Where every condition of R353 and R354 holds, the step is what placing the blocks one after another gives. -/
theorem exec_blockPlace_turn (hnd : s.reap.node? id = some nd) (h : ∃ p ∈ s.reap.placing, p.1 = id) (hst : nd.st ≠ .ready)
    (hnext : nd.next < nd.nblk) (hlen : cores.length = State.placeStep nd) (hgroups : ∀ g ∈ State.groupsOf (LHdr.cgs nd.hdr) cores, State.oneCluster g = true)
    (hfree : ∀ c ∈ cores, s.reap.unreserved id c = true) (hturn : s.reap.firstInTurn id nd = true)
    (hsaved : ∀ p ∈ s.reap.savedOf id, ∀ c < 1280, s.reap.restoreFits id nd p.2 c = false) :
    exec (.blockPlace id cores) s = .next (match s.reap.placeAll id nd nd.next cores with
      | none => s.reap
      | some s1 => ((s1.passOver id nd).modNode id fun n => { n with next := n.next + cores.length }).drainIfPlaced id) := by
  have here : (s.reap.placing.any fun p => p.1 = id) = true := by simpa using h
  have groups : (State.groupsOf (LHdr.cgs nd.hdr) cores).all State.oneCluster = true := List.all_eq_true.2 hgroups
  have free : (cores.all fun c => s.reap.unreserved id c) = true := List.all_eq_true.2 hfree
  have saved : ((s.reap.savedOf id).all fun p => (List.range 1280).all fun c => !(s.reap.restoreFits id nd p.2 c)) = true := by
    simpa [List.all_eq_true] using hsaved
  change execBlockPlace id cores s = _
  simp only [execBlockPlace, hnd, here, if_neg hst, groups, free, saved, hturn, decide_eq_true hnext, decide_eq_true hlen]
  rfl

/-! ## Reservation, and asking blocks to yield (R354) -/

theorem exec_placementReserve_absent (h : s.placing.find? (fun p => p.1 = id) = none) : exec (.placementReserve id cores) s = .next s := by
  change execPlacementReserve id cores s = _
  simp only [execPlacementReserve, h]

theorem exec_preqRaise_absent (h : s.placing.find? (fun p => p.1 = id) = none) : exec (.preqRaise id) s = .next s := by
  change execPreqRaise id s = _
  simp only [execPreqRaise, h]

section
variable (h : s.placing.find? (fun p => p.1 = id) = some (id, nd))
include h

theorem exec_placementReserve_fits (hp : s.canPlace id nd = true) : exec (.placementReserve id cores) s = .next s := by
  change execPlacementReserve id cores s = _
  simp only [execPlacementReserve, h, hp, if_true]

theorem exec_placementReserve_first (hp : s.canPlace id nd = false) (ht : nd.passedAt = none) :
    exec (.placementReserve id cores) s = .next (s.modNode id fun n => { n with passedAt := some s.cycle }) := by
  change execPlacementReserve id cores s = _
  simp only [execPlacementReserve, h, hp, ht]
  rfl

theorem exec_placementReserve_keeps {t : Nat} (hp : s.canPlace id nd = false) (ht : nd.passedAt = some t) (may : s.mayReserve id nd t cores) :
    exec (.placementReserve id cores) s = .next (s.modNode id fun n => { n with reserved := cores }) := by
  change execPlacementReserve id cores s = _
  simp only [execPlacementReserve, h, hp, ht]
  rw [if_neg Bool.false_ne_true, if_neg]
  simpa [State.mayReserve, and_assoc] using may

theorem exec_placementReserve_waits {t : Nat} (hp : s.canPlace id nd = false) (ht : nd.passedAt = some t) (may : ¬s.mayReserve id nd t cores) :
    exec (.placementReserve id cores) s = .next s := by
  change execPlacementReserve id cores s = _
  simp only [execPlacementReserve, h, hp, ht]
  rw [if_neg Bool.false_ne_true, if_pos]
  exact Decidable.byContradiction fun refused => may (by simpa [State.mayReserve, and_assoc] using refused)

theorem exec_preqRaise_enough (hp : (s.without s.asked).canPlace id nd = true) : exec (.preqRaise id) s = .next s := by
  unfold State.asked at hp
  change execPreqRaise id s = _
  simp only [execPreqRaise, h, hp, if_true]

theorem exec_preqRaise_none (hp : (s.without s.asked).canPlace id nd = false) (hv : s.victim (s.ctx nd.ctx).prio = none) :
    exec (.preqRaise id) s = .next s := by
  unfold State.asked at hp
  change execPreqRaise id s = _
  simp only [execPreqRaise, h, hp, hv]
  rfl

theorem exec_preqRaise_asks {k : Nat} {b : Block} (hp : (s.without s.asked).canPlace id nd = false)
    (hv : s.victim (s.ctx nd.ctx).prio = some (k, b)) :
    exec (.preqRaise id) s = .next ((s.together k b).foldl (fun s k => s.raiseReq k 1) s) := by
  unfold State.asked at hp
  change execPreqRaise id s = _
  simp only [execPreqRaise, h, hp, hv]
  rfl

end
end

/-! ## The head of a list in order -/

section
variable {α : Type} {le : α → α → Bool}

theorem mem_insertKey {a b : α} {l : List α} : b ∈ insertKey le a l ↔ b = a ∨ b ∈ l := by
  induction l with
  | nil => simp [insertKey]
  | cons c l ih =>
    rw [insertKey]
    split
    · simp
    · simp only [List.mem_cons, ih]
      exact or_left_comm

theorem mem_sortKey {b : α} {l : List α} : b ∈ sortKey le l ↔ b ∈ l := by
  induction l with
  | nil => rfl
  | cons a l ih => rw [sortKey, mem_insertKey, ih, List.mem_cons]

theorem mem_of_head?_sortKey {y : α} {l : List α} (h : (sortKey le l).head? = some y) : y ∈ l := mem_sortKey.1 (List.mem_of_head? h)

theorem exists_head?_sortKey {l : List α} (h : l ≠ []) : ∃ y, (sortKey le l).head? = some y := by
  obtain ⟨b, hb⟩ := List.exists_mem_of_ne_nil l h
  exact ⟨_, List.head?_eq_some_head (List.ne_nil_of_mem (mem_sortKey.2 hb))⟩

theorem head?_insertKey (a : α) (l : List α) :
    (insertKey le a l).head? = match l.head? with
      | none => some a
      | some b => if le a b then some a else some b := by
  cases l with
  | nil => rfl
  | cons b l =>
    rw [insertKey]
    split
    · rename_i h; simp [h]
    · rename_i h; simp [h]

/-- The head of a sorted list comes before every element. -/
theorem head?_sortKey_le (total : ∀ a b, le a b = true ∨ le b a = true) (trans : ∀ a b c, le a b = true → le b c = true → le a c = true)
    {y : α} {l : List α} (h : (sortKey le l).head? = some y) : ∀ z ∈ l, le y z = true := by
  have refl : ∀ a, le a a = true := fun a => (total a a).elim id id
  induction l generalizing y with
  | nil => simp
  | cons a l ih =>
    rw [sortKey, head?_insertKey] at h
    cases hl : (sortKey le l).head? with
    | none =>
      have empty : l = [] := List.eq_nil_iff_forall_not_mem.2 fun b hb => by
        have held : b ∈ sortKey le l := mem_sortKey.2 hb
        rw [List.head?_eq_none_iff.1 hl] at held
        exact List.not_mem_nil held
      subst empty
      simp only [hl] at h
      cases h
      exact fun z hz => List.mem_singleton.1 hz ▸ refl _
    | some b =>
      have least := ih hl
      simp only [hl] at h
      split at h
      · rename_i hab
        cases h
        exact fun z hz => (List.mem_cons.1 hz).elim (fun e => e ▸ refl _) fun hz => trans _ _ _ hab (least z hz)
      · rename_i hab
        cases h
        exact fun z hz => (List.mem_cons.1 hz).elim (fun e => e ▸ (total ..).resolve_left hab) (least z)

end

/-- A block asked to yield is resident, of lower priority, and has not been asked (R354). -/
theorem victim_spec {s : State} {p k : Nat} {b : Block} (h : s.victim p = some (k, b)) :
    (k, b) ∈ s.blocks ∧ b.st = .resident ∧ (s.ctx b.ctx).prio < p ∧ b.preq.getLsbD 0 = false := by
  have found := mem_of_head?_sortKey h
  simp only [List.mem_filter, Bool.and_eq_true, decide_eq_true_eq, Bool.not_eq_true'] at found
  obtain ⟨mem, ⟨⟨⟨⟨res, preq⟩, -⟩, -⟩, prio⟩, -⟩ := found
  exact ⟨mem, res, prio, preq⟩

/-! ## The active set (R357, R359) -/

/-- The warps in the active set of a core. -/
def State.activeSet (s : State) (c : Nat) : List Warp := (s.warps.map (·.2)).filter fun x => x.core = c && !x.foreman && x.st = .act

/-- A warp has been in the active set longer than another, ties going to the lower slot. -/
def Warp.longer (a b : Warp) : Bool := a.waitSince < b.waitSince || (a.waitSince = b.waitSince && a.slot ≤ b.slot)

/-- A warp out of a full active set has waited 256 cycles. -/
def Warp.mayDisplace (w : Warp) (s : State) (c : Nat) : Prop :=
  w.foreman = false ∧ w.st = .out ∧ 8 ≤ (s.activeSet c).length ∧ w.waitSince + 256 ≤ s.coreCycle c

theorem Warp.longer_iff (a b : Warp) : a.longer b = true ↔ a.waitSince < b.waitSince ∨ (a.waitSince = b.waitSince ∧ a.slot ≤ b.slot) := by
  simp [longer]

theorem Warp.longer_total (a b : Warp) : a.longer b = true ∨ b.longer a = true := by
  simp only [longer_iff]
  omega

theorem Warp.longer_trans (a b c : Warp) (h : a.longer b = true) (k : b.longer c = true) : a.longer c = true := by
  simp only [longer_iff] at *
  omega

section
variable {c k : Nat} {s : State}

theorem exec_warpWake {w : Warp} (hw : s.warp? (warpKey c k) = some w) : exec (.warpWake c k) s =
    .next (if w.st = .wait then s.putWarp { w.awake with waitSince := s.coreCycle w.core } else s.putWarp w) := by
  change execWarpWake c k s = _
  simp only [execWarpWake, State.modWarp, hw]
  split <;> rfl

theorem exec_warpWake_absent (hw : s.warp? (warpKey c k) = none) : exec (.warpWake c k) s = .next s := by
  change execWarpWake c k s = _
  simp only [execWarpWake, State.modWarp, hw]

theorem exec_activeSetDisplace_absent (hw : s.warp? (warpKey c k) = none) : exec (.activeSetDisplace c k) s = .next s := by
  change execActiveSetDisplace c k s = _
  simp only [execActiveSetDisplace, hw]

theorem exec_activeSetDisplace_stays {w : Warp} (hw : s.warp? (warpKey c k) = some w) (may : ¬w.mayDisplace s c) :
    exec (.activeSetDisplace c k) s = .next s := by
  change execActiveSetDisplace c k s = _
  simp only [execActiveSetDisplace, hw]
  split
  · rw [if_pos]
    exact Decidable.byContradiction fun goes => may (by simpa [Warp.mayDisplace, State.activeSet, and_assoc] using goes)
  · rfl

theorem exec_activeSetDisplace_enters {w : Warp} (hw : s.warp? (warpKey c k) = some w) (may : w.mayDisplace s c) :
    ∃ y ∈ s.activeSet c, (∀ z ∈ s.activeSet c, y.waitSince < z.waitSince ∨ (y.waitSince = z.waitSince ∧ y.slot ≤ z.slot)) ∧
      exec (.activeSetDisplace c k) s =
        .next ((s.putWarp { y with st := .out, waitSince := s.coreCycle c }).putWarp { w with st := .act, waitSince := s.coreCycle c }) := by
  have full : 0 < (s.activeSet c).length := by
    obtain ⟨-, -, full, -⟩ := may
    omega
  obtain ⟨y, hy⟩ := exists_head?_sortKey (le := Warp.longer) (List.ne_nil_of_length_pos full)
  refine ⟨y, mem_of_head?_sortKey hy,
    fun z hz => (Warp.longer_iff y z).1 (head?_sortKey_le Warp.longer_total Warp.longer_trans hy z hz), ?_⟩
  change execActiveSetDisplace c k s = _
  unfold State.activeSet Warp.longer at hy
  simp only [execActiveSetDisplace, hw, hy]
  rw [if_neg]
  simpa [Warp.mayDisplace, State.activeSet, and_assoc] using may

end

/-- Settles O33: the start of a warp field by field, and each step of the scheduler and of the active set by the lemma on its case. -/
theorem placementAndActiveSet : Obligations.PlacementAndActiveSet := by
  refine ⟨?_, ?_, fun _ _ _ _ _ _ => rfl, fun s x h core => coreFits_bounds, ?_, ?_, fun s p k b => victim_spec, fun c k s w => exec_warpWake, ?_, ?_⟩
  · intro h x core slot blk pos info args now _
    refine ⟨rfl, rfl, rfl, rfl, rfl, rfl, rfl, rfl, rfl, by simp [startWarp], fun m hm => ?_, tget_startWarp_s h x core slot blk pos info args now⟩
    rw [bank_startWarp h x core slot blk pos info args now hm]
    exact ⟨em_startBank h pos m, rfl, rfl, rfl, rfl⟩
  · intro id cores s nd hnd
    refine ⟨exec_blockPlace_idle hnd, fun here hst hnext hlen hgroups hfree hturn hsaved => ?_⟩
    have turn := exec_blockPlace_turn hnd here hst hnext hlen hgroups hfree hturn hsaved
    exact ⟨fun hp => by rw [turn, hp], fun s1 hp => by rw [turn, hp]⟩
  · intro id cores s h
    have absent : s.placing.find? (fun p => p.1 = id) = none := by simpa using h
    exact ⟨exec_placementReserve_absent absent, exec_preqRaise_absent absent⟩
  · intro id cores s nd h
    exact ⟨exec_placementReserve_fits h, exec_placementReserve_first h, fun t hp ht => ⟨exec_placementReserve_keeps h hp ht, exec_placementReserve_waits h hp ht⟩,
      exec_preqRaise_enough h, exec_preqRaise_none h, fun k b => exec_preqRaise_asks h⟩
  · exact fun c k s hw => ⟨exec_warpWake_absent hw, exec_activeSetDisplace_absent hw⟩
  · exact fun c k s w hw => ⟨exec_activeSetDisplace_stays hw, exec_activeSetDisplace_enters hw⟩

end Sys2Proof.Machine

/-!
Comparisons, classes, packed and dot forms and lane reductions of the vector family (R157, R173, R182–R187): each form by the rule of its kind.
-/

namespace Sys2Proof.Machine

/-! ## Forms with one rule (R173, R182, R186, R187) -/

theorem packTwo_of {fmt : Fmt} {mk : FormR → Instr} {val : FormR → Nat → Nat → Nat} (e : ∀ f s, exec (mk f) s = packBin fmt f (val f) s) :
    PackTwo fmt mk val := fun f => softRule_of (e f)

theorem packThree_of {fmt : Fmt} {mk : FormR → Instr} {val : FormR → Nat → Nat → Nat → Nat} (e : ∀ f s, exec (mk f) s = packTri fmt f (val f) s) :
    PackThree fmt mk val := fun f => softRule_of (e f)

theorem dotForm_of {fmt : Fmt} {n : Nat} {mk : FormR → Instr} (e : ∀ f s, exec (mk f) s = fltDot fmt n f s) : DotForm fmt n mk :=
  fun f => softRule_of (e f)

/-- A form that compares two floating-point sources (R184). -/
theorem fltCompare_of {fmt : Fmt} {mk : FormR → Instr} {k : Nat}
    (e : ∀ f s, exec (mk f) s = warpOp s fun w => w.soften f.h f.dst (w.predOp f.h f.dst [(f.a, k), (f.b, k)] fun m l =>
      fpCmp fmt (roundingOf f).ftz (f.x.extractLsb' 15 3).toNat (w.flt fmt m f.a l 0) (w.flt fmt m f.b l 0))) (f : FormR) :
    PredRule true (mk f) f.h f.dst [(f.a, k), (f.b, k)] fun w m l =>
      fpCmp fmt (roundingOf f).ftz (f.x.extractLsb' 15 3).toNat (w.flt fmt m f.a l 0) (w.flt fmt m f.b l 0) := softPred_of (e f)

/-- `fltReduce` writes in each lane what the tree makes of the lanes of its segment. -/
theorem fltReduce_of {fmt : Fmt} {mk : FormR → Instr} (e : ∀ f s, exec (mk f) s = fltReduce fmt f s) (f : FormR) :
    VecRule true (mk f) f.h f.dst (fltRegs fmt) [(f.a, fltRegs fmt)] (fun _ => false) fun w m l =>
      lanesOf fmt (floatTree fmt f (reduceLanes w f.h f.a m) (fun i => w.flt fmt m f.a i 0) l) := softRule_of (e f)

/-- Settles O4: comparisons and classes by the rule of a checked form, `fred` by the rule of `fltReduce`. That a minimum or maximum of
infinities of both signs is no NaN is the model's choice (log entry 50). -/
theorem floatTestsAndReductions : Obligations.FloatTestsAndReductions :=
  ⟨fltCompare_of fun _ _ => rfl, fltCompare_of fun _ _ => rfl, fun _ => softRule_of fun _ => rfl, fun _ => softRule_of fun _ => rfl,
    fltReduce_of (fmt := Fmt.f32) fun _ _ => rfl, fltReduce_of (fmt := Fmt.f64) fun _ _ => rfl, fun _ => softRule_of fun _ => rfl⟩

/-- Settles O5: the packed forms act by `packBin` and `packTri`, the dot forms by `fltDot`. The sign of a dot's zero sum in mode rd is the model's
choice (log entry 31). -/
theorem packedAndDotForms : Obligations.PackedAndDotForms :=
  ⟨⟨packTwo_of fun _ _ => rfl, packTwo_of fun _ _ => rfl, packTwo_of fun _ _ => rfl, packTwo_of fun _ _ => rfl, packTwo_of fun _ _ => rfl,
      packTwo_of fun _ _ => rfl, packThree_of fun _ _ => rfl, packThree_of fun _ _ => rfl, packTwo_of fun _ _ => rfl, packTwo_of fun _ _ => rfl,
      packTwo_of fun _ _ => rfl, packTwo_of fun _ _ => rfl⟩,
    dotForm_of fun _ _ => rfl, dotForm_of fun _ _ => rfl, dotForm_of fun _ _ => rfl, dotForm_of fun _ _ => rfl⟩

end Sys2Proof.Machine

/-!
The arithmetic of R160–R166: rounding of a magnitude to a neighbour, its encoding, overflow, and the special values of sums and products.
-/

namespace Sys2Proof.Machine

/-! ## Rounding a magnitude (R163, R165) -/

/-- The exponent of the last place to which `m * 2^e` is rounded: that of its precision, or of the subnormals (R163). -/
def Fmt.lastPlace (f : Fmt) (m : Nat) (e : Int) : Int := max (e + (bitLen m : Int) - ((f.fw : Int) + 1)) f.emin

section
variable {fmt : Fmt} {mode rand : Nat} {neg : Bool} {m : Nat} {e : Int}

theorem roundMag_of_le (h : fmt.lastPlace m e ≤ e) :
    roundMag fmt mode rand neg m e false = (m * 2 ^ (e - fmt.lastPlace m e).toNat, fmt.lastPlace m e) := if_pos h

theorem roundMag_of_lt (h : e < fmt.lastPlace m e) : roundMag fmt mode rand neg m e false =
    (let sh := (fmt.lastPlace m e - e).toNat
     if roundUp mode rand neg (m / 2 ^ sh % 2 = 1) (m % 2 ^ sh) sh false then m / 2 ^ sh + 1 else m / 2 ^ sh, fmt.lastPlace m e) :=
  if_neg (Int.not_le.2 h)

@[simp] theorem roundMag_snd : (roundMag fmt mode rand neg m e false).2 = fmt.lastPlace m e := by
  by_cases h : fmt.lastPlace m e ≤ e
  · rw [roundMag_of_le h]
  · rw [roundMag_of_lt (Int.not_le.1 h)]

end

section
variable {mode rand rem sh : Nat} {neg odd : Bool}

theorem roundUp_zero : roundUp mode rand neg odd 0 sh false = false := by
  match mode with
  | 0 => simp [roundUp, Nat.ne_of_lt (Nat.two_pow_pos sh)]
  | 1 | 2 | 3 | _ + 4 => rfl

theorem roundUp_nearest : roundUp 0 rand neg odd rem sh false = true ↔ 2 ^ sh < 2 * rem ∨ (2 * rem = 2 ^ sh ∧ odd = true) := by simp [roundUp]

theorem roundUp_up (h : rem ≠ 0) : roundUp 2 rand neg odd rem sh false = !neg := by simp [roundUp, h]

theorem roundUp_down (h : rem ≠ 0) : roundUp 3 rand neg odd rem sh false = neg := by simp [roundUp, h]

theorem roundUp_stochastic (h : rem ≠ 0) : roundUp 4 rand neg odd rem sh false = decide (2 ^ 24 ≤ rem * 2 ^ 24 / 2 ^ sh + rand) := by
  simp [roundUp, h]

end

/-- What is no multiple of `u` lies strictly between the multiples next to it. -/
theorem lt_of_mod_ne_zero {m u : Nat} (hu : 0 < u) (h : m % u ≠ 0) :
    (m / u * u < m ∧ m < m / u * u + u) ∧ m < (m / u + 1) * u ∧ (m / u + 1) * u < m + u := by
  have split := Nat.div_add_mod' m u
  have below := Nat.mod_lt m hu
  rw [Nat.add_mul]
  omega

section
variable {fmt : Fmt} {mode rand : Nat} {neg : Bool} {m : Nat} {e : Int}

theorem roundMag_exact (h : fmt.lastPlace m e ≤ e) :
    ((roundMag fmt mode rand neg m e false).1 : Int) = m * 2 ^ (e - fmt.lastPlace m e).toNat := by
  rw [roundMag_of_le h]
  push_cast
  rfl

variable (h : e < fmt.lastPlace m e)
include h

theorem roundMag_multiple (hm : m % 2 ^ (fmt.lastPlace m e - e).toNat = 0) :
    (roundMag fmt mode rand neg m e false).1 * 2 ^ (fmt.lastPlace m e - e).toNat = m := by
  simp only [roundMag_of_lt h, hm, roundUp_zero]
  exact Nat.div_mul_cancel (Nat.dvd_of_mod_eq_zero hm)

variable (hm : m % 2 ^ (fmt.lastPlace m e - e).toNat ≠ 0)
include hm

/-- The tie in mode `rne` goes to the even neighbour. -/
theorem roundMag_nearest :
    let k := (roundMag fmt 0 rand neg m e false).1
    let u := 2 ^ (fmt.lastPlace m e - e).toNat
    2 * (k * u) ≤ 2 * m + u ∧ 2 * m ≤ 2 * (k * u) + u ∧ ((2 * m = 2 * (k * u) + u ∨ 2 * m + u = 2 * (k * u)) → k % 2 = 0) := by
  simp only [roundMag_of_lt h, roundUp_nearest, decide_eq_true_eq]
  have split := Nat.div_add_mod' m (2 ^ (fmt.lastPlace m e - e).toNat)
  have next := lt_of_mod_ne_zero (Nat.two_pow_pos _) hm
  generalize 2 ^ (fmt.lastPlace m e - e).toNat = u at *
  rw [Nat.add_mul] at next
  split
  · rw [Nat.add_mul]
    omega
  · omega

/-- A mode that does not round up takes the multiple next below. -/
theorem roundMag_below (hup : ∀ odd rem sh, rem ≠ 0 → roundUp mode rand neg odd rem sh false = false) :
    let k := (roundMag fmt mode rand neg m e false).1
    let u := 2 ^ (fmt.lastPlace m e - e).toNat
    k * u < m ∧ m < k * u + u := by
  simp only [roundMag_of_lt h, hup _ _ _ hm]
  exact (lt_of_mod_ne_zero (Nat.two_pow_pos _) hm).1

/-- A mode that rounds up takes the multiple next above. -/
theorem roundMag_above (hup : ∀ odd rem sh, rem ≠ 0 → roundUp mode rand neg odd rem sh false = true) :
    let k := (roundMag fmt mode rand neg m e false).1
    let u := 2 ^ (fmt.lastPlace m e - e).toNat
    m < k * u ∧ k * u < m + u := by
  simp only [roundMag_of_lt h, hup _ _ _ hm, if_true]
  exact (lt_of_mod_ne_zero (Nat.two_pow_pos _) hm).2

theorem roundMag_stochastic :
    let u := 2 ^ (fmt.lastPlace m e - e).toNat
    (roundMag fmt 4 rand neg m e false).1 = if 2 ^ 24 ≤ m % u * 2 ^ 24 / u + rand then m / u + 1 else m / u := by
  simp only [roundMag_of_lt h, roundUp_stochastic hm, decide_eq_true_eq]

end

/-- R163, for every mode but the stochastic one. -/
theorem roundMag_spec (fmt : Fmt) (mode rand : Nat) (neg : Bool) (m : Nat) (e : Int) :
    let r := roundMag fmt mode rand neg m e false
    (r.2 ≤ e → (r.1 : Int) = m * 2 ^ (e - r.2).toNat) ∧
    (e < r.2 →
      let u := 2 ^ (r.2 - e).toNat
      (m % u = 0 → r.1 * u = m) ∧
      (m % u ≠ 0 →
        (mode = 0 → 2 * (r.1 * u) ≤ 2 * m + u ∧ 2 * m ≤ 2 * (r.1 * u) + u ∧
          ((2 * m = 2 * (r.1 * u) + u ∨ 2 * m + u = 2 * (r.1 * u)) → r.1 % 2 = 0)) ∧
        (mode = 1 → r.1 * u < m ∧ m < r.1 * u + u) ∧
        (mode = 2 → if neg then r.1 * u < m ∧ m < r.1 * u + u else m < r.1 * u ∧ r.1 * u < m + u) ∧
        (mode = 3 → if neg then m < r.1 * u ∧ r.1 * u < m + u else r.1 * u < m ∧ m < r.1 * u + u))) := by
  simp only [roundMag_snd]
  refine ⟨roundMag_exact, fun h => ⟨roundMag_multiple h, fun hm => ⟨?_, ?_, ?_, ?_⟩⟩⟩
  · rintro rfl
    exact roundMag_nearest h hm
  · rintro rfl
    exact roundMag_below h hm fun _ _ _ _ => rfl
  · rintro rfl
    cases neg
    · exact roundMag_above h hm fun _ _ _ => roundUp_up
    · exact roundMag_below h hm fun _ _ _ => roundUp_up
  · rintro rfl
    cases neg
    · exact roundMag_below h hm fun _ _ _ => roundUp_down
    · exact roundMag_above h hm fun _ _ _ => roundUp_down

/-- A step of the generator of R165. -/
theorem toNat_mix (z : Word) (sh c : Nat) : ((z ^^^ z >>> sh) * BitVec.ofNat 64 c).toNat = (z.toNat ^^^ z.toNat / 2 ^ sh) * c % 2 ^ 64 := by
  rw [BitVec.toNat_mul, BitVec.toNat_ofNat, Nat.mul_mod_mod, BitVec.toNat_xor, BitVec.toNat_ushiftRight, Nat.shiftRight_eq_div_pow]

/-- The generator's start from a seed `a`. -/
theorem toNat_add_mul (a : Word) (c n : Nat) : (a + BitVec.ofNat 64 c * BitVec.ofNat 64 n).toNat = (a.toNat + c * n) % 2 ^ 64 := by
  rw [← BitVec.ofNat_mul, BitVec.toNat_add, BitVec.toNat_ofNat, Nat.add_mod_mod]

/-- The generator of R165 in natural numbers. -/
theorem stochastic_eq (seed : Word) (midx lane elem : Nat) :
    let z0 := (seed.toNat + 0x9E3779B97F4A7C15 * ((midx * 96 + lane) * 8 + elem + 1)) % 2 ^ 64
    let z1 := (z0 ^^^ z0 / 2 ^ 30) * 0xBF58476D1CE4E5B9 % 2 ^ 64
    let z2 := (z1 ^^^ z1 / 2 ^ 27) * 0x94D049BB133111EB % 2 ^ 64
    stochastic seed midx lane elem = (z2 ^^^ z2 / 2 ^ 31) / 2 ^ 40 := by
  simp only [stochastic, BitVec.toNat_ushiftRight, BitVec.toNat_xor, toNat_mix, toNat_add_mul, Nat.shiftRight_eq_div_pow]

/-! ## Finite encodings in the order of their values (R158)

An encoding without its sign, `b`, is `expOf b * 2^fw + sigOf b`, and its value is `magOf b` units of the smallest subnormal. -/

/-- The exponent of a magnitude's encoding, counted from that of the subnormals. -/
def Fmt.expOf (f : Fmt) (b : Nat) : Nat := b / 2 ^ f.fw - 1

/-- The significand of a magnitude's encoding. -/
def Fmt.sigOf (f : Fmt) (b : Nat) : Nat := b - f.expOf b * 2 ^ f.fw

/-- The value of a magnitude's encoding in units of `2^emin`. -/
def Fmt.magOf (f : Fmt) (b : Nat) : Nat := f.sigOf b * 2 ^ f.expOf b

section
variable {fmt : Fmt} {b k m : Nat}

theorem sigOf_mul_pow (fmt : Fmt) (b : Nat) : fmt.sigOf b * 2 ^ fmt.expOf b = fmt.magOf b := rfl

theorem expOf_add_sigOf (fmt : Fmt) (b : Nat) : fmt.expOf b * 2 ^ fmt.fw + fmt.sigOf b = b := by
  have : fmt.expOf b * 2 ^ fmt.fw ≤ b := Nat.le_trans (Nat.mul_le_mul_right _ (Nat.sub_le ..)) (Nat.div_mul_le_self ..)
  unfold Fmt.sigOf
  omega

theorem sigOf_of_subnormal (h : b < 2 ^ fmt.fw) : fmt.expOf b = 0 ∧ fmt.sigOf b = b := by simp [Fmt.sigOf, Fmt.expOf, Nat.div_eq_of_lt h]

theorem sigOf_of_normal (h : 2 ^ fmt.fw ≤ b) : fmt.expOf b + 1 = b / 2 ^ fmt.fw ∧ fmt.sigOf b = 2 ^ fmt.fw + b % 2 ^ fmt.fw := by
  have digits := Nat.div_add_mod' b (2 ^ fmt.fw)
  have whole := expOf_add_sigOf fmt b
  have one : fmt.expOf b + 1 = b / 2 ^ fmt.fw := Nat.sub_add_cancel (Nat.div_pos h (Nat.two_pow_pos _))
  rw [← one, Nat.add_mul] at digits
  omega

/-- An exponent and a significand in its range are those of their encoding. -/
theorem of_expOf_add (h : 2 ^ fmt.fw ≤ m ∨ k = 0) (hm : m < 2 * 2 ^ fmt.fw) :
    fmt.expOf (k * 2 ^ fmt.fw + m) = k ∧ fmt.sigOf (k * 2 ^ fmt.fw + m) = m := by
  have : fmt.expOf (k * 2 ^ fmt.fw + m) = k := by
    rw [Fmt.expOf, Nat.mul_comm, Nat.mul_add_div (Nat.two_pow_pos _)]
    rcases h with h | rfl
    · rw [Nat.div_eq_of_lt_le (by omega : 1 * 2 ^ fmt.fw ≤ m) (by omega)]
      rfl
    · have : m / 2 ^ fmt.fw < 2 := Nat.div_lt_of_lt_mul (by omega)
      omega
  exact ⟨this, by rw [Fmt.sigOf, this]; omega⟩

/-- A significand that has carried into the next place counts as well: both readings of its encoding have one value. -/
theorem magOf_add (h : 2 ^ fmt.fw ≤ m ∨ k = 0) (hm : m ≤ 2 ^ (fmt.fw + 1)) : fmt.magOf (k * 2 ^ fmt.fw + m) = m * 2 ^ k := by
  rw [Nat.pow_succ'] at hm
  rcases Nat.lt_or_eq_of_le hm with hm | rfl
  · obtain ⟨hk, hs⟩ := of_expOf_add h hm
    rw [Fmt.magOf, hk, hs]
  · have carry : k * 2 ^ fmt.fw + 2 * 2 ^ fmt.fw = (k + 1) * 2 ^ fmt.fw + 2 ^ fmt.fw := by rw [Nat.add_mul]; omega
    obtain ⟨hk, hs⟩ := of_expOf_add (fmt := fmt) (k := k + 1) (.inl (Nat.le_refl _)) (by have := Nat.two_pow_pos fmt.fw; omega)
    rw [carry, Fmt.magOf, hk, hs, Nat.pow_succ', Nat.mul_left_comm, Nat.mul_assoc]

theorem magOf_lt_succ (fmt : Fmt) (b : Nat) : fmt.magOf b < fmt.magOf (b + 1) := by
  have range : (2 ^ fmt.fw ≤ fmt.sigOf b ∨ fmt.expOf b = 0) ∧ fmt.sigOf b < 2 * 2 ^ fmt.fw := by
    rcases Nat.lt_or_ge b (2 ^ fmt.fw) with h | h
    · obtain ⟨hk, hs⟩ := sigOf_of_subnormal h
      omega
    · obtain ⟨-, hs⟩ := sigOf_of_normal h
      have := Nat.mod_lt b (Nat.two_pow_pos fmt.fw)
      omega
  obtain ⟨normal, hs⟩ := range
  have next : b + 1 = fmt.expOf b * 2 ^ fmt.fw + (fmt.sigOf b + 1) := by rw [← Nat.add_assoc, expOf_add_sigOf]
  rw [next, magOf_add (by omega) (by rw [Nat.pow_succ']; omega)]
  exact Nat.mul_lt_mul_of_pos_right (Nat.lt_succ_self _) (Nat.two_pow_pos _)

theorem magOf_le_magOf (h : b ≤ m) : fmt.magOf b ≤ fmt.magOf m := by
  induction h with
  | refl => exact Nat.le_refl _
  | step _ ih => exact Nat.le_trans ih (Nat.le_of_lt (magOf_lt_succ fmt _))

theorem magOf_lt_magOf (h : b < m) : fmt.magOf b < fmt.magOf m := Nat.lt_of_lt_of_le (magOf_lt_succ fmt b) (magOf_le_magOf h)

/-- Encodings without their sign are in the order of their values. -/
theorem magOf_le_iff : fmt.magOf b ≤ fmt.magOf m ↔ b ≤ m :=
  ⟨fun h => Nat.le_of_not_lt fun lt => Nat.not_le_of_lt (magOf_lt_magOf lt) h, magOf_le_magOf⟩

theorem signBit_eq (fmt : Fmt) : fmt.signBit = 2 ^ fmt.ew * 2 ^ fmt.fw := Nat.pow_add ..

theorem two_pow_width (fmt : Fmt) : 2 ^ fmt.width = 2 * fmt.signBit := by
  rw [Fmt.width, Nat.add_assoc, Nat.pow_add, Nat.pow_one, Fmt.signBit]

theorem zero_le_signBit (fmt : Fmt) (neg : Bool) : fmt.zero neg ≤ fmt.signBit := by cases neg <;> simp [Fmt.zero]

/-- The fields of an encoding: its sign is apart from its magnitude. -/
theorem fields_zero_add (neg : Bool) (h : b < fmt.signBit) :
    (fmt.zero neg + b) % 2 ^ fmt.width = fmt.zero neg + b ∧ (decide (fmt.signBit ≤ fmt.zero neg + b)) = neg ∧
    (fmt.zero neg + b) / 2 ^ fmt.fw % 2 ^ fmt.ew = b / 2 ^ fmt.fw ∧ (fmt.zero neg + b) % 2 ^ fmt.fw = b % 2 ^ fmt.fw := by
  have sign : fmt.zero neg = 2 ^ fmt.fw * (2 ^ fmt.ew * neg.toNat) := by
    cases neg
    · simp [Fmt.zero]
    · rw [Bool.toNat_true, Nat.mul_one, Nat.mul_comm, ← signBit_eq]
      rfl
  have field : b / 2 ^ fmt.fw < 2 ^ fmt.ew := Nat.div_lt_of_lt_mul (by rwa [Nat.mul_comm, ← signBit_eq])
  refine ⟨?_, ?_, ?_, ?_⟩
  · rw [two_pow_width]
    have := zero_le_signBit fmt neg
    exact Nat.mod_eq_of_lt (by omega)
  · cases neg <;> simp [Fmt.zero, h]
  · rw [sign, Nat.mul_add_div (Nat.two_pow_pos _), Nat.mul_add_mod, Nat.mod_eq_of_lt field]
  · rw [sign, Nat.mul_add_mod]

/-- The value of a finite encoding. -/
theorem fin_sigOf_expOf (fmt : Fmt) (neg : Bool) (b : Nat) :
    (if b / 2 ^ fmt.fw = 0 then Val.fin neg (b % 2 ^ fmt.fw) fmt.emin
      else .fin neg (2 ^ fmt.fw + b % 2 ^ fmt.fw) (((b / 2 ^ fmt.fw : Nat) : Int) - fmt.bias - fmt.fw)) =
    .fin neg (fmt.sigOf b) (fmt.emin + fmt.expOf b) := by
  rcases Nat.lt_or_ge b (2 ^ fmt.fw) with h | h
  · obtain ⟨hk, hs⟩ := sigOf_of_subnormal h
    rw [if_pos (Nat.div_eq_of_lt h), hk, hs, Nat.mod_eq_of_lt h]
    simp
  · obtain ⟨hk, hs⟩ := sigOf_of_normal h
    rw [if_neg (by omega), hs, ← hk, Fmt.emin]
    congr 1
    omega

end

/-! ## Encoding a rounded magnitude (R164, R166) -/

/-- The formats that the encodings of R158 are for. -/
def Fmt.all : List Fmt := [Fmt.f64, Fmt.f32, Fmt.bf16, Fmt.f16, Fmt.e4m3, Fmt.e5m2, Fmt.e2m1]

/-- What stands for an infinity, without its sign (R164). -/
def Fmt.overflow (f : Fmt) : Nat := if f = Fmt.e4m3 then 0x7F else if f = Fmt.e2m1 then 7 else f.emaxField * 2 ^ f.fw

section
variable {fmt : Fmt} (hf : fmt ∈ Fmt.all)
include hf

theorem maxBits_bounds : 2 ^ fmt.fw ≤ fmt.maxBits ∧ fmt.maxBits < fmt.signBit := by
  revert fmt
  decide

theorem eq_e4m3_of_kind (hk : fmt.kind = .e4m3) : fmt = Fmt.e4m3 := by
  revert fmt
  decide

theorem infBits_eq (neg : Bool) : fmt.infBits neg = fmt.zero neg + fmt.overflow := by
  revert fmt
  cases neg <;> decide

/-- An encoding up to the largest finite one is no infinity and no NaN. -/
theorem decode_zero_add {b : Nat} (neg : Bool) (h : b ≤ fmt.maxBits) :
    fmt.decode (fmt.zero neg + b) = .fin neg (fmt.sigOf b) (fmt.emin + fmt.expOf b) := by
  obtain ⟨hmin, hmax⟩ := maxBits_bounds hf
  obtain ⟨hmod, hneg, hex, hfr⟩ := fields_zero_add neg (Nat.lt_of_le_of_lt h hmax)
  rw [← fin_sigOf_expOf]
  simp only [Fmt.decode, hmod, hneg, hex, hfr]
  cases hk : fmt.kind with
  | ieee =>
    refine if_neg fun top => ?_
    have whole := Nat.div_mul_le_self b (2 ^ fmt.fw)
    have positive := Nat.two_pow_pos fmt.fw
    simp only [Fmt.maxBits, hk] at h hmin
    rw [top] at whole
    omega
  | e4m3 =>
    obtain rfl := eq_e4m3_of_kind hf hk
    refine if_neg fun ⟨hex, hfr⟩ => ?_
    have digits := Nat.div_add_mod b (2 ^ Fmt.e4m3.fw)
    rw [hex, hfr] at digits
    subst digits
    exact absurd h (by decide)
  | e2m1 => rfl

end

section
variable {fmt : Fmt} {r : Rnd} {m k : Nat} (neg : Bool)

/-- What an overflow is written as, without its sign (R164, R166). -/
def Fmt.beyond (f : Fmt) (r : Rnd) (neg : Bool) : Nat :=
  if r.sat = true ∨ r.mode = 1 ∨ (r.mode = 2 ∧ neg = true) ∨ (r.mode = 3 ∧ neg = false) then f.maxBits else f.overflow

theorem encodeMag_subnormal (hr : r.ftz = false) (h : m < 2 ^ fmt.fw) (q : Int) : encodeMag fmt r neg m q = fmt.zero neg + m := by
  have carry : m ≠ 2 ^ (fmt.fw + 1) := by rw [Nat.pow_succ]; omega
  simp [encodeMag, carry, h, hr]

theorem encodeMag_carry (q : Int) : encodeMag fmt r neg (2 ^ (fmt.fw + 1)) q = encodeMag fmt r neg (2 ^ fmt.fw) (q + 1) := by
  have distinct : 2 ^ fmt.fw ≠ 2 ^ (fmt.fw + 1) := Nat.ne_of_lt (Nat.pow_lt_pow_right Nat.one_lt_two (Nat.lt_succ_self _))
  simp only [encodeMag, if_true, if_neg distinct]

theorem encodeMag_normal (hf : fmt ∈ Fmt.all) (h : 2 ^ fmt.fw ≤ m) (hm : m < 2 ^ (fmt.fw + 1)) : encodeMag fmt r neg m (fmt.emin + k) =
    fmt.zero neg + if k * 2 ^ fmt.fw + m ≤ fmt.maxBits then k * 2 ^ fmt.fw + m else fmt.beyond r neg := by
  have field : (fmt.emin + k + fmt.fw + fmt.bias).toNat = k + 1 := by unfold Fmt.emin; omega
  have place : (k + 1) * 2 ^ fmt.fw + (m - 2 ^ fmt.fw) = k * 2 ^ fmt.fw + m := by rw [Nat.add_mul]; omega
  simp only [encodeMag, if_neg (Nat.ne_of_lt hm), if_neg (Nat.not_lt.2 h), field, place, infBits_eq hf, Fmt.beyond, Bool.or_eq_true, Bool.and_eq_true,
    decide_eq_true_eq, Bool.not_eq_true', or_assoc]
  rcases Nat.lt_or_ge fmt.maxBits (k * 2 ^ fmt.fw + m) with past | within
  · rw [if_pos past, if_neg (Nat.not_le.2 past), apply_ite (fmt.zero neg + ·)]
  · rw [if_neg (Nat.not_lt.2 within), if_pos within]

/-- `encodeMag` in one piece: the encoding of the magnitude, whose significand may have carried, is compared with the largest finite one. -/
theorem encodeMag_eq (hf : fmt ∈ Fmt.all) (hr : r.ftz = false) (h : 2 ^ fmt.fw ≤ m ∨ k = 0) (hm : m ≤ 2 ^ (fmt.fw + 1)) :
    encodeMag fmt r neg m (fmt.emin + k) =
      fmt.zero neg + if k * 2 ^ fmt.fw + m ≤ fmt.maxBits then k * 2 ^ fmt.fw + m else fmt.beyond r neg := by
  rcases Nat.lt_or_ge m (2 ^ fmt.fw) with sub | normal
  · obtain rfl : k = 0 := by omega
    obtain ⟨hmin, -⟩ := maxBits_bounds hf
    rw [encodeMag_subnormal neg hr sub, if_pos (by omega), Nat.zero_mul, Nat.zero_add]
  · rcases Nat.lt_or_eq_of_le hm with hm | rfl
    · exact encodeMag_normal neg hf normal hm
    · have place : (k + 1) * 2 ^ fmt.fw + 2 ^ fmt.fw = k * 2 ^ fmt.fw + 2 ^ (fmt.fw + 1) := by
        rw [Nat.add_mul, Nat.pow_succ]
        omega
      have next := encodeMag_normal (r := r) (k := k + 1) neg hf (Nat.le_refl _) (Nat.pow_lt_pow_right Nat.one_lt_two (Nat.lt_succ_self fmt.fw))
      rw [place] at next
      rw [encodeMag_carry, ← next, Int.natCast_add, Int.add_assoc]
      rfl

end

/-- R164 and R166 for a magnitude that is rounded to a format. -/
theorem encodeMag_spec (fmt : Fmt) (r : Rnd) (neg : Bool) (m top : Nat) (q etop : Int) (hf : fmt ∈ Fmt.all) (hr : r.ftz = false)
    (ht : fmt.decode fmt.maxBits = .fin false top etop) (h : 2 ^ fmt.fw ≤ m ∨ q = fmt.emin) (hm : m ≤ 2 ^ (fmt.fw + 1)) (hq : fmt.emin ≤ q) :
    (m * 2 ^ (q - fmt.emin).toNat ≤ top * 2 ^ (etop - fmt.emin).toNat →
      ∃ m' q', fmt.decode (encodeMag fmt r neg m q) = .fin neg m' q' ∧ fmt.emin ≤ q' ∧
        m' * 2 ^ (q' - fmt.emin).toNat = m * 2 ^ (q - fmt.emin).toNat) ∧
    (top * 2 ^ (etop - fmt.emin).toNat < m * 2 ^ (q - fmt.emin).toNat → encodeMag fmt r neg m q = fmt.zero neg + fmt.beyond r neg) := by
  obtain ⟨k, rfl⟩ := Int.le.dest hq
  have greatest := decode_zero_add hf false (Nat.le_refl _)
  simp only [Fmt.zero, Bool.false_eq_true, if_false, Nat.zero_add, ht, Val.fin.injEq] at greatest
  obtain ⟨-, rfl, rfl⟩ := greatest
  have normal : 2 ^ fmt.fw ≤ m ∨ k = 0 := by omega
  simp only [Int.add_comm fmt.emin, Int.add_sub_cancel, Int.toNat_natCast]
  rw [Int.add_comm, encodeMag_eq neg hf hr normal hm, ← magOf_add normal hm, sigOf_mul_pow, ← Nat.not_le, magOf_le_iff]
  refine ⟨fun le => ⟨_, _, by rw [if_pos le, decode_zero_add hf neg le], by omega, ?_⟩, fun past => by rw [if_neg past]⟩
  rw [Int.add_comm, Int.add_sub_cancel, Int.toNat_natCast, sigOf_mul_pow]

/-! ## Special values (R160, R161) -/

section
variable {fmt : Fmt} {r : Rnd} {a b : Nat}

theorem flush_false (h : a < 2 ^ fmt.width) : fmt.flush false a = a := by simp [Fmt.flush, Nat.mod_eq_of_lt h]

@[simp] theorem firstNan_nil : fmt.firstNan [] = none := rfl

theorem firstNan_cons_nan {l : List Nat} (h : (fmt.decode a).isNan = true) : fmt.firstNan (a :: l) = some (fmt.quiet a) := by
  simp [Fmt.firstNan, h]

theorem firstNan_cons {l : List Nat} (h : (fmt.decode a).isNan = false) : fmt.firstNan (a :: l) = fmt.firstNan l := by
  simp [Fmt.firstNan, h]

variable (hr : r.ftz = false) (ha : a < 2 ^ fmt.width)
include hr ha

theorem quiet_of_first_nan (h : (fmt.decode a).isNan = true) (b : Nat) :
    fpAdd fmt r a b = fmt.quiet a ∧ fpSub fmt r a b = fmt.quiet a ∧ fpMul fmt r a b = fmt.quiet a ∧
      ∀ c n, fpFma fmt r n a b c = fmt.quiet a := by
  simp only [fpAdd, fpSub, fpMul, fpFma, hr, flush_false ha, firstNan_cons_nan h, implies_true, and_self]

variable (hb : b < 2 ^ fmt.width)
include hb

theorem quiet_of_second_nan (h : (fmt.decode a).isNan = false) (k : (fmt.decode b).isNan = true) :
    fpAdd fmt r a b = fmt.quiet b ∧ fpMul fmt r a b = fmt.quiet b := by
  simp only [fpAdd, fpMul, hr, flush_false ha, flush_false hb, firstNan_cons h, firstNan_cons_nan k, and_self]

/-- Without a NaN among its sources a sum is that of the values. -/
theorem fpAdd_of_no_nan (h : (fmt.decode a).isNan = false) (k : (fmt.decode b).isNan = false) :
    fpAdd fmt r a b = addVals fmt r (fmt.decode a) (fmt.decode b) := by
  simp only [fpAdd, hr, flush_false ha, flush_false hb, firstNan_cons h, firstNan_cons k, firstNan_nil]

theorem fpMul_of_no_nan (h : (fmt.decode a).isNan = false) (k : (fmt.decode b).isNan = false) :
    fpMul fmt r a b = encodeVal fmt r (mulVal (fmt.decode a) (fmt.decode b)) := by
  simp only [fpMul, hr, flush_false ha, flush_false hb, firstNan_cons h, firstNan_cons k, firstNan_nil]

theorem fpAdd_opposite_infinities {s : Bool} (h : fmt.decode a = .inf s) (k : fmt.decode b = .inf (!s)) : fpAdd fmt r a b = fmt.defaultNan := by
  rw [fpAdd_of_no_nan hr ha hb (by rw [h]; rfl) (by rw [k]; rfl), h, k, addVals, if_neg (by cases s <;> decide)]

theorem fpMul_zero_infinity {s t : Bool} {e : Int} (h : fmt.decode a = .fin s 0 e) (k : fmt.decode b = .inf t) :
    fpMul fmt r a b = fmt.defaultNan := by
  rw [fpMul_of_no_nan hr ha hb (by rw [h]; rfl) (by rw [k]; rfl), h, k]
  rfl

theorem fpAdd_opposite_zeros {s : Bool} {e d : Int} (h : fmt.decode a = .fin s 0 e) (k : fmt.decode b = .fin (!s) 0 d) :
    fpAdd fmt r a b = fmt.zero (r.mode = 3) := by
  rw [fpAdd_of_no_nan hr ha hb (by rw [h]; rfl) (by rw [k]; rfl), h, k]
  cases s <;> simp [addVals, dyAdd, Val.num, finish, Val.isZero, Val.neg, zeroSum]

end

/-- Settles O9: rounding by whether the last place lies above the magnitude's own and whether the mode goes up, encoding by the order of the finite
encodings, special values by the case of the two sources. -/
theorem floatArithmetic : Obligations.FloatArithmetic := by
  refine ⟨fun fmt mode rand neg m e _ => roundMag_spec fmt mode rand neg m e,
    ⟨fun fmt rand neg m e => ?_, stochastic_eq, encodeMag_spec⟩,
    fun _ _ _ b hr ha h => quiet_of_first_nan hr ha h b, fun _ _ _ _ => quiet_of_second_nan,
    fun _ _ _ _ _ hr ha hb => fpAdd_opposite_infinities hr ha hb,
    fun _ _ _ _ _ _ _ hr ha hb => fpMul_zero_infinity hr ha hb, fun _ _ _ _ _ _ _ hr ha hb => fpAdd_opposite_zeros hr ha hb⟩
  simp only [roundMag_snd]
  exact ⟨roundMag_exact, roundMag_multiple, roundMag_stochastic⟩

end Sys2Proof.Machine

/-!
The vector pipes' floating-point arithmetic of one format and special functions (R182, R183, R191): each form by the rule of its number of sources.
-/

namespace Sys2Proof.Machine

/-! ## Floating-point forms of one format (R182, R183, R191) -/

theorem fltOne_of {fmt : Fmt} {mk : FormR → Instr} {val : FormR → Nat → Nat} (e : ∀ f s, exec (mk f) s = fltUn fmt f (val f) s) :
    FltOne fmt mk val := fun f => softRule_of (e f)

theorem fltTwo_of {fmt : Fmt} {mk : FormR → Instr} {val : FormR → Nat → Nat → Nat} (e : ∀ f s, exec (mk f) s = fltBin fmt f (val f) s) :
    FltTwo fmt mk val := fun f => softRule_of (e f)

theorem fltThree_of {fmt : Fmt} {mk : FormR → Instr} {val : FormR → Nat → Nat → Nat → Nat} (e : ∀ f s, exec (mk f) s = fltTri fmt f (val f) s) :
    FltThree fmt mk val := fun f => softRule_of (e f)

/-- Inverting the sign: an encoding of `w` bits below the sign bit `n` is a positive one. -/
theorem Fmt.negate_eq {fmt : Fmt} {w n : Nat} (hw : fmt.width = w) (hn : fmt.signBit = n) (a : Nat) : fmt.negate a =
    if a % 2 ^ w < n then a % 2 ^ w + n else a % 2 ^ w - n := by
  simp only [Fmt.negate, hw, hn, ← Nat.not_lt, ite_not]

theorem Fmt.width_f32 : Fmt.f32.width = 32 := rfl
theorem Fmt.width_f64 : Fmt.f64.width = 64 := rfl
theorem Fmt.signBit_f32 : Fmt.f32.signBit = 2 ^ 31 := rfl
theorem Fmt.signBit_f64 : Fmt.f64.signBit = 2 ^ 63 := rfl

/-- Settles O3: each form by the rule of its number of sources; inverting the sign by whether the encoding lies below the sign bit. -/
theorem floatForms : Obligations.FloatForms := by
  refine ⟨fltTwo_of fun _ _ => rfl, fltTwo_of fun _ _ => rfl, fltTwo_of fun _ _ => rfl, fltTwo_of fun _ _ => rfl, fltTwo_of fun _ _ => rfl,
    fltTwo_of fun _ _ => rfl, fltThree_of fun _ _ => rfl, fltThree_of fun _ _ => rfl, fltThree_of fun _ _ => rfl, fltThree_of fun _ _ => rfl,
    fltTwo_of fun _ _ => rfl, fltTwo_of fun _ _ => rfl, fltTwo_of fun _ _ => rfl, fltTwo_of fun _ _ => rfl,
    fltOne_of fun f s => ?_, fltOne_of fun f s => ?_, fltOne_of fun _ _ => rfl, fltOne_of fun _ _ => rfl,
    fltTwo_of fun _ _ => rfl, fltTwo_of fun _ _ => rfl⟩
  · simp only [← Fmt.negate_eq Fmt.width_f32 Fmt.signBit_f32]
    rfl
  · simp only [← Fmt.negate_eq Fmt.width_f64 Fmt.signBit_f64]
    rfl

/-- The short immediate 1 as an FP32 operand (R34). -/
theorem immFloat_f32_one : immFloat Fmt.f32 1 = 0x3F800000 := by decide

/-- Settles O8: each form by the rule of its number of sources; a reciprocal is the quotient of 1. That the value of a
transcendental function comes from a bound of 256 fraction bits is the model's choice (log entry 30). -/
theorem specialFunctions : Obligations.SpecialFunctions := by
  refine ⟨fltTwo_of fun _ _ => rfl, fltTwo_of fun _ _ => rfl, fltOne_of fun _ _ => rfl, fltOne_of fun _ _ => rfl, fltOne_of fun f s => ?_,
    fltOne_of fun _ _ => rfl, fltOne_of fun _ _ => rfl, fltOne_of fun _ _ => rfl, fltOne_of fun _ _ => rfl, fltOne_of fun _ _ => rfl,
    fltOne_of fun _ _ => rfl⟩
  rw [← immFloat_f32_one]
  rfl

end Sys2Proof.Machine

/-!
The integer forms of the vector pipes (R188): bits and fields of a word, saturation, and the value of each form.
-/

namespace Sys2Proof.Machine

/-! ## Bits and fields of a word of any width (R142, R146, R148, R188) -/

/-- The leading zeros of a word end at its highest set bit. -/
theorem leadZeros_eq_find {n : Nat} (x : BitVec n) : leadZeros x = ((List.range n).find? fun i => x.getLsbD (n - 1 - i)).getD n := by
  by_cases hx : x.toNat = 0
  · have none_set : (List.range n).find? (fun i => x.getLsbD (n - 1 - i)) = none := by
      simp [BitVec.eq_of_toNat_eq (y := 0#n) (by simpa using hx)]
    simp [leadZeros, bitLen, hx, none_set]
  · have top : x.toNat.log2 < n := (Nat.log2_lt hx).2 x.isLt
    have first : (List.range n).find? (fun i => x.getLsbD (n - 1 - i)) = some (n - 1 - x.toNat.log2) := by
      refine List.find?_range_eq_some.2 ⟨?_, List.mem_range.2 (by omega), fun j hj => ?_⟩
      · rw [← BitVec.testBit_toNat, show n - 1 - (n - 1 - x.toNat.log2) = x.toNat.log2 by omega]
        exact Nat.testBit_log2 hx
      · rw [← BitVec.testBit_toNat, Nat.testBit_lt_two_pow ((Nat.log2_lt hx).1 (by omega))]
        rfl
    rw [leadZeros, bitLen, if_neg hx, first, Option.getD_some]
    omega

/-- Bit `i` after the first `k` steps of `revBits`: those steps have set the bits that mirror the first `k`. -/
theorem getLsbD_foldl_mirror {n : Nat} (x : BitVec n) {i : Nat} (hi : i < n) {k : Nat} (hk : k ≤ n) :
    ((List.range k).foldl (fun (r : BitVec n) j => if x.getLsbD j then r ||| (1#n <<< (n - 1 - j)) else r) 0).getLsbD i =
      (decide (n - 1 - i < k) && x.getLsbD (n - 1 - i)) := by
  induction k with
  | zero => simp
  | succ k ih =>
    have earlier := ih (by omega)
    rw [List.range_succ, List.foldl_append, List.foldl_cons, List.foldl_nil]
    by_cases e : n - 1 - i = k
    · subst e
      rw [Nat.sub_sub_self (by omega), decide_eq_true (Nat.lt_succ_self _), Bool.true_and]
      rw [decide_eq_false (Nat.lt_irrefl _), Bool.false_and] at earlier
      split
      · rename_i set
        simp [set, hi]
      · rename_i unset
        rw [earlier, eq_false_of_ne_true unset]
    · have other : (1#n <<< (n - 1 - k)).getLsbD i = false := by
        simp only [BitVec.getLsbD_shiftLeft, BitVec.getLsbD_one]
        grind
      have moved : decide (n - 1 - i < k + 1) = decide (n - 1 - i < k) := decide_eq_decide.2 (by omega)
      rw [moved, ← earlier]
      split
      · rw [BitVec.getLsbD_or, other, Bool.or_false]
      · rfl

theorem getLsbD_revBits {n : Nat} (x : BitVec n) {i : Nat} (hi : i < n) : (revBits x).getLsbD i = x.getLsbD (n - 1 - i) := by
  rw [revBits, getLsbD_foldl_mirror x hi (Nat.le_refl n), decide_eq_true (by omega), Bool.true_and]

theorem testBit_three_fields (lo mid hi : Nat) {pos len : Nat} (hl : lo < 2 ^ pos) (hm : mid < 2 ^ len) (i : Nat) :
    (lo + 2 ^ pos * mid + 2 ^ (pos + len) * hi).testBit i =
      if i < pos then lo.testBit i else if i < pos + len then mid.testBit (i - pos) else hi.testBit (i - (pos + len)) := by
  have assemble : lo + 2 ^ pos * mid + 2 ^ (pos + len) * hi = 2 ^ pos * (2 ^ len * hi + mid) + lo := by
    rw [Nat.pow_add, Nat.mul_add, Nat.mul_assoc]
    omega
  rw [assemble, Nat.testBit_two_pow_mul_add _ hl, Nat.testBit_two_pow_mul_add _ hm, Nat.sub_sub]
  grind

/-- A word with a field replaced, as a number: what lies below the field, the field, and what lies above it. -/
theorem insertField_eq {n : Nat} (pos len : Nat) (a b : BitVec n) : insertField pos len a b =
    BitVec.ofNat n (a.toNat % 2 ^ pos + 2 ^ pos * (b.toNat % 2 ^ len) + 2 ^ (pos + len) * (a.toNat / 2 ^ (pos + len))) := by
  refine BitVec.eq_of_getLsbD_eq fun i hi => ?_
  rw [BitVec.getLsbD_ofNat, testBit_three_fields _ _ _ (Nat.mod_lt _ (Nat.two_pow_pos _)) (Nat.mod_lt _ (Nat.two_pow_pos _))]
  simp only [insertField, BitVec.getLsbD_or, BitVec.getLsbD_and, BitVec.getLsbD_not, BitVec.getLsbD_shiftLeft, BitVec.getLsbD_ofNat,
    Nat.testBit_two_pow_sub_one, Nat.testBit_mod_two_pow, Nat.testBit_div_two_pow, BitVec.testBit_toNat]
  grind

theorem low5_eq {n : Nat} (x : BitVec n) : (x.extractLsb' 0 5).toNat = x.toNat % 32 := by simp [BitVec.extractLsb'_toNat]

/-- The ten conditions on the values of the words (R149). -/
theorem intCond_eq {n : Nat} (cc : Nat) (a b : BitVec n) : intCond cc a b = conditionHolds cc a b := by
  match cc with
  | 0 | 1 =>
    rw [Bool.eq_iff_iff]
    simp [intCond, conditionHolds, BitVec.toNat_inj]
  | 2 | 4 => simp [intCond, conditionHolds, BitVec.slt_eq_decide]
  | 3 | 5 => simp [intCond, conditionHolds, BitVec.sle_eq_decide]
  | 6 | 8 => simp [intCond, conditionHolds, BitVec.ult]
  | 7 | k + 9 => simp [intCond, conditionHolds, BitVec.ule]

/-- The two registers a 64-bit result fills. -/
theorem halves_eq (d : Word) : halves d.toNat = [d.extractLsb' 0 32, d.extractLsb' 32 32] := by
  simp [halves, ← BitVec.toNat_inj, BitVec.extractLsb'_toNat, Nat.shiftRight_eq_div_pow]

/-! ## Saturation, the lesser and greater, and the dot of bytes (R188) -/

theorem clampTo_eq {rg : Int × Int} (h : rg.1 ≤ rg.2) (n : Int) : clampTo rg n = max rg.1 (min rg.2 n) := by
  unfold clampTo
  split
  · omega
  · split <;> omega

theorem satAdd_eq (uns : Bool) (a b : Lane32) : satAdd uns a b =
    if uns then BitVec.ofNat 32 (min (2 ^ 32 - 1) (a.toNat + b.toNat)) else BitVec.ofInt 32 (max (-2 ^ 31) (min (2 ^ 31 - 1) (a.toInt + b.toInt))) := by
  cases uns with
  | false =>
    rw [satAdd, clampTo_eq (by decide)]
    rfl
  | true =>
    rw [satAdd, clampTo_eq (by decide), if_pos rfl, ← BitVec.ofInt_natCast]
    congr 1
    simp [intRange, readAs]
    omega

theorem satSub_eq (uns : Bool) (a b : Lane32) : satSub uns a b =
    if uns then BitVec.ofNat 32 (a.toNat - b.toNat) else BitVec.ofInt 32 (max (-2 ^ 31) (min (2 ^ 31 - 1) (a.toInt - b.toInt))) := by
  cases uns with
  | false =>
    rw [satSub, clampTo_eq (by decide)]
    rfl
  | true =>
    have := a.isLt
    rw [satSub, clampTo_eq (by decide), if_pos rfl, ← BitVec.ofInt_natCast]
    congr 1
    simp [intRange, readAs]
    omega

theorem lesser_eq {n : Nat} (uns : Bool) (a b : BitVec n) : (if (if uns then b.ult a else b.slt a) then b else a) =
    if uns then (if a.toNat ≤ b.toNat then a else b) else (if a.toInt ≤ b.toInt then a else b) := by
  cases uns with
  | false => simp only [BitVec.slt_eq_decide, Bool.false_eq_true, if_false, decide_eq_true_eq, ← Int.not_le, ite_not]
  | true => simp only [BitVec.ult, if_true, decide_eq_true_eq, ← Nat.not_le, ite_not]

theorem greater_eq {n : Nat} (uns : Bool) (a b : BitVec n) : (if (if uns then a.ult b else a.slt b) then b else a) =
    if uns then (if b.toNat ≤ a.toNat then a else b) else (if b.toInt ≤ a.toInt then a else b) := by
  cases uns with
  | false => simp only [BitVec.slt_eq_decide, Bool.false_eq_true, if_false, decide_eq_true_eq, ← Int.not_le, ite_not]
  | true => simp only [BitVec.ult, if_true, decide_eq_true_eq, ← Nat.not_le, ite_not]

theorem dotBytes_eq (uns : Bool) (a b c : Lane32) :
    let byte := fun (x : Lane32) (i : Nat) => if uns then ((x.extractLsb' (8 * i) 8).toNat : Int) else (x.extractLsb' (8 * i) 8).toInt
    dotBytes uns a b c = BitVec.ofInt 32 (c.toInt + (byte a 0 * byte b 0 + byte a 1 * byte b 1 + byte a 2 * byte b 2 + byte a 3 * byte b 3)) := by
  intro byte
  rw [BitVec.ofInt_add, BitVec.ofInt_toInt, ← Int.zero_add (byte a 0 * byte b 0)]
  rfl

theorem mulWide_eq (uns : Bool) (a b : Lane32) : BitVec.ofInt 64 (readAs uns a * readAs uns b) =
    if uns then BitVec.ofNat 64 (a.toNat * b.toNat) else BitVec.ofInt 64 (a.toInt * b.toInt) := by
  cases uns with
  | false => rfl
  | true => rw [if_pos rfl, ← BitVec.ofInt_natCast, Int.natCast_mul]; rfl

end Sys2Proof.Machine

namespace Sys2Proof.Machine

/-! ## The integer forms (R188) -/

theorem intOne_of {mk : FormR → Instr} {val : FormR → Lane32 → Lane32} (e : ∀ f s, exec (mk f) s = intUn f (val f) s) : IntOne mk val :=
  fun f => softRule_of (e f)

theorem intTwo_of {mk : FormR → Instr} {val : FormR → Lane32 → Lane32 → Lane32} (e : ∀ f s, exec (mk f) s = intBin f (val f) s) : IntTwo mk val :=
  fun f => softRule_of (e f)

theorem intThree_of {mk : FormR → Instr} {val : FormR → Lane32 → Lane32 → Lane32 → Lane32} (e : ∀ f s, exec (mk f) s = intTri f (val f) s) :
    IntThree mk val := fun f => softRule_of (e f)

/-- A 64-bit form on pairs writes the two halves of its result. -/
theorem longBin_of {mk : FormR → Instr} {g : Word → Word → Word} (e : ∀ f s, exec (mk f) s = longBin f g s) (f : FormR) :
    VecRule true (mk f) f.h f.dst 2 [(f.a, 2), (f.b, 2)] (fun _ => false) fun w m l =>
      let d := g (w.int64 m f.a l) (w.int64 m f.b l)
      [d.extractLsb' 0 32, d.extractLsb' 32 32] := by
  simp only [← halves_eq]
  exact softRule_of (e f)

/-- `imulw` writes the two halves of the whole product. -/
theorem imulw_rule (f : FormR) : VecRule true (.imulw f) f.h f.dst 2 [(f.a, 1), (f.b, 1)] (fun _ => false) fun w m l =>
    let a := w.int32 m f.a l
    let b := w.int32 m f.b l
    let d : Word := if f.x.getLsbD 15 then BitVec.ofNat 64 (a.toNat * b.toNat) else BitVec.ofInt 64 (a.toInt * b.toInt)
    [d.extractLsb' 0 32, d.extractLsb' 32 32] := by
  simp only [← mulWide_eq, ← halves_eq]
  exact softRule_of fun _ => rfl

theorem ibfi_rule (f : FormR) : VecRule true (.ibfi f) f.h f.dst 1 [(f.a, 1), (f.b, 1)] (fun _ => false) fun w m l =>
    let pos := (f.x.extractLsb' 0 5).toNat
    let len := (f.x.extractLsb' 5 6).toNat
    let a := (w.int32 m f.a l).toNat
    [BitVec.ofNat 32 (a % 2 ^ pos + 2 ^ pos * ((w.int32 m f.b l).toNat % 2 ^ len) + 2 ^ (pos + len) * (a / 2 ^ (pos + len)))] := by
  simp only [← insertField_eq]
  exact softRule_of fun _ => rfl

theorem icmp_rule (f : FormR) : PredRule true (.icmpB32 f) f.h f.dst [(f.a, 1), (f.b, 1)] fun w m l =>
    conditionHolds (f.x.extractLsb' 14 4).toNat (w.int32 m f.a l) (w.int32 m f.b l) := by
  simp only [← intCond_eq]
  exact softPred_of fun _ => rfl

/-- Settles O6: each form by the rule of its number of sources and the lemma on its value. -/
theorem vectorIntegerForms : Obligations.VectorIntegerForms := by
  refine ⟨intTwo_of fun f s => ?iadd, intTwo_of fun f s => ?isub, intTwo_of fun _ _ => rfl, intThree_of fun _ _ => rfl, intTwo_of fun _ _ => rfl,
    intTwo_of fun f s => ?imin, intTwo_of fun f s => ?imax, intTwo_of fun _ _ => rfl, intTwo_of fun _ _ => rfl, intTwo_of fun _ _ => rfl,
    intTwo_of fun _ _ => rfl, intTwo_of fun f s => ?ishl, intTwo_of fun f s => ?ishr, intTwo_of fun f s => ?isar, intThree_of fun f s => ?idot,
    intOne_of fun f s => ?iclz, intOne_of fun _ _ => rfl, intOne_of fun _ _ => rfl, fun a _ => getLsbD_revBits a, intOne_of fun _ _ => rfl,
    fun f _ => ibfi_rule f, icmp_rule, longBin_of (g := (· + ·)) fun _ _ => rfl, longBin_of (g := (· - ·)) fun _ _ => rfl, imulw_rule⟩
  case iadd =>
    simp only [← satAdd_eq]
    rfl
  case isub =>
    simp only [← satSub_eq]
    rfl
  case imin =>
    simp only [← lesser_eq]
    rfl
  case imax =>
    simp only [← greater_eq]
    rfl
  case ishl | ishr | isar =>
    simp only [← low5_eq]
    rfl
  case idot =>
    simp only [← dotBytes_eq]
    rfl
  case iclz =>
    change execIclzB32 f s = _
    simp only [execIclzB32, leadZeros_eq_find, Nat.reduceSub]

end Sys2Proof.Machine

/-!
Selects, moves and conversions of the vector pipes (R189, R190).
-/

namespace Sys2Proof.Machine

/-! ## Operands read for each member and lane (R189) -/

theorem Warp.vecOp_clear_own {w : Warp} {h : Hdr} {dst : Spec} {k : Nat} {os own : List Warp.Operand} {priv : Bool} {val : Nat → Nat → List Lane32}
    (c : w.Clear h (w.needs (os ++ own) ++ w.needsDst k dst) (w.misfits os || w.misfit k dst)
      (w.commonV (w.xlat dst.num) && (priv || w.anyPrivate (os.map (·.1))))) :
    w.vecOp h dst k os priv val own = .fall (w.vecResult h dst k os priv val own) := by
  unfold Warp.vecOp
  exact Warp.checked_clear c

theorem vsel_retires {f : FormR} {s : State} {w : Warp} (hc : s.curWarp = some w) (hi : w.injected f.h = none)
    (cl : w.Clear f.h (w.needs [(f.a, 1), (f.b, 1), (plainSrc (xSpec f.x), 1)] ++ w.needsDst 1 f.dst) (w.misfits [(f.a, 1), (f.b, 1)] || w.misfit 1 f.dst)
      (w.commonV (w.xlat f.dst.num) && w.anyPrivate [f.a, f.b])) :
    Retires (.vsel f) s w (w.vecResult f.h f.dst 1 [(f.a, 1), (f.b, 1)] false
      (fun m l => [if (w.gmask m (xSpec f.x).num).getLsbD l then w.int32 m f.a l else w.int32 m f.b l]) [(plainSrc (xSpec f.x), 1)]) := by
  refine retires_of_fall hc ?_ (Warp.onlyRegs_vecResult ..)
  change execVsel f s = _
  rw [execVsel, warpOp_cur _ hc, Warp.vecOp_clear_own (own := [(thirdSrc f.x, 1)]) cl, Warp.soften_fall hi]
  rfl

/-! ## Conversions (R179, R190) -/

/-- A destination of `cvt` fills two registers, one, or an element of one. -/
theorem cvtFormat_bits (c : Nat) : (cvtFormat c).bits = 64 ∨ (cvtFormat c).bits = 32 ∨ (cvtFormat c).bits < 32 := by
  have each : ∀ x ∈ cvtFormats, x.bits = 64 ∨ x.bits = 32 ∨ x.bits < 32 := by decide
  rw [cvtFormat, List.getD_eq_getElem?_getD]
  cases h : cvtFormats[c]? with
  | none => exact .inr (.inl rfl)
  | some x => exact each x (List.mem_of_getElem? h)

/-- What `cvt` writes, by the size `n` of an element of the destination: two registers, one, or one with an element replaced. -/
theorem cvtResult_eq {n : Nat} (h : n = 64 ∨ n = 32 ∨ n < 32) (y : Nat) (replaced : List Lane32) :
    (if n < 32 then replaced else if (if n = 64 then 2 else 1) = 2 then halves y else [BitVec.ofNat 32 y]) =
      if n = 64 then [BitVec.ofNat 32 y, BitVec.ofNat 32 (y / 2 ^ 32)] else if n = 32 then [BitVec.ofNat 32 y] else replaced := by
  rcases h with rfl | rfl | h
  · rfl
  · rfl
  · rw [if_pos h, if_neg (by omega), if_neg (by omega)]

theorem converts_of {d : Nat} {mk : FormR → Instr} (e : ∀ f s, exec (mk f) s = cvtForm d f s) : Converts d mk := fun f =>
  softRule_of fun s => (e f s).trans (congrArg (warpOp s) (funext fun w => congrArg (w.soften f.h f.dst)
    (congrArg (w.vecOp f.h f.dst _ _ false ·) (funext fun _ => funext fun _ => cvtResult_eq (cvtFormat_bits d) ..))))

/-- Settles O7: `vsel` as a form with an operand read for each member and lane, the moves by the rule of an integer form, the conversions by the size
of the destination's format. The predicate of `vsel` and the member index of a common stochastic conversion are the model's choices (log
entries 75 and 67). -/
theorem selectMoveConvert : Obligations.SelectMoveConvert :=
  ⟨fun _ _ _ hc hi cl => vsel_retires hc hi cl, intOne_of fun _ _ => rfl, fun _ => softRule_of fun _ => rfl,
    converts_of fun _ _ => rfl, converts_of fun _ _ => rfl, converts_of fun _ _ => rfl, converts_of fun _ _ => rfl, converts_of fun _ _ => rfl,
    converts_of fun _ _ => rfl, converts_of fun _ _ => rfl, converts_of fun _ _ => rfl, converts_of fun _ _ => rfl, converts_of fun _ _ => rfl,
    converts_of fun _ _ => rfl, converts_of fun _ _ => rfl, converts_of fun _ _ => rfl, converts_of fun _ _ => rfl, converts_of fun _ _ => rfl⟩

end Sys2Proof.Machine

/-!
The bytes and words an exact accumulator is stored as (R5, R194): a number read back from its bytes, from its 64-bit words, and from the bits that
name a list of words.
-/

namespace Sys2Proof.Machine

/-! ## Bytes (R5) -/

theorem length_leBytes (n v : Nat) : (leBytes n v).length = n := by
  induction n generalizing v with
  | zero => rfl
  | succ n ih => rw [leBytes, List.length_cons, ih]

theorem leNat_leBytes_of_lt {n v : Nat} (h : v < 2 ^ (8 * n)) : leNat (leBytes n v) = v := by
  rw [leNat_leBytes, show 256 = 2 ^ 8 from rfl, ← Nat.pow_mul, Nat.mod_eq_of_lt h]

theorem ofNat_leNat_leBytes {n w : Nat} (h : w = 8 * n) (x : BitVec w) : BitVec.ofNat w (leNat (leBytes n x.toNat)) = x := by
  subst h
  rw [leNat_leBytes_of_lt x.isLt, BitVec.ofNat_toNat, BitVec.setWidth_eq]

theorem ofNat_toNat_mod {n w : Nat} (h : w = n) (x : BitVec w) : BitVec.ofNat w (x.toNat % 2 ^ n) = x := by
  subst h
  rw [Nat.mod_eq_of_lt x.isLt, BitVec.ofNat_toNat, BitVec.setWidth_eq]

theorem length_flatMap_const {α : Type} {g : Nat → List α} {k : Nat} (hg : ∀ j, (g j).length = k) (l : List Nat) : (l.flatMap g).length = k * l.length := by
  induction l with
  | nil => rfl
  | cons j l ih => rw [List.flatMap_cons, List.length_append, hg, ih, List.length_cons, Nat.mul_succ, Nat.add_comm]

/-- Pieces of `k` elements one after another: piece `i` starts at `k * i`. -/
theorem take_drop_flatMap {α : Type} {g : Nat → List α} {k : Nat} (hg : ∀ j, (g j).length = k) {l : List Nat} {i : Nat} (hi : i < l.length) :
    ((l.flatMap g).drop (k * i)).take k = g l[i] := by
  induction l generalizing i with
  | nil => exact absurd hi (Nat.not_lt_zero _)
  | cons j l ih =>
    rw [List.flatMap_cons]
    cases i with
    | zero => exact List.take_left' (hg j)
    | succ i =>
      rw [Nat.mul_succ, Nat.add_comm, ← List.drop_drop, List.drop_left' (hg j)]
      exact ih (Nat.lt_of_succ_lt_succ hi)

/-! ## Sums modulo the size of a word -/

theorem toNat_addSigned {n : Nat} (v : BitVec n) (neg : Bool) (t : Nat) :
    ((if neg then v - BitVec.ofNat n t else v + BitVec.ofNat n t).toNat : Int) = ((v.toNat : Int) + (if neg then -1 else 1) * (t : Int)) % 2 ^ n := by
  have signed : (if neg then v - BitVec.ofNat n t else v + BitVec.ofNat n t) =
      BitVec.ofInt n ((v.toNat : Int) + (if neg then -1 else 1) * (t : Int)) := by
    cases neg <;> simp [BitVec.ofInt_add, BitVec.ofInt_neg, BitVec.sub_eq_add_neg]
  have size : ((2 ^ n : Nat) : Int) ≠ 0 := Int.natCast_ne_zero.2 (Nat.ne_of_gt (Nat.two_pow_pos n))
  rw [signed, BitVec.toNat_ofInt, Int.toNat_of_nonneg (Int.emod_nonneg _ size), Int.natCast_pow, Int.cast_ofNat_Int]

/-! ## The bits that name a list of words (R208) -/

/-- The number whose bits name the elements of a list, none of them twice. -/
def bitsNaming (l : List Nat) : Nat := l.foldl (fun m j => m + 2 ^ j) 0

section
variable {n : Nat} {p : Nat → Bool}

theorem filter_range_succ : (List.range (n + 1)).filter p = (List.range n).filter p ++ if p n then [n] else [] := by
  rw [List.range_succ, List.filter_append, List.filter_cons, List.filter_nil]

theorem bitsNaming_filter_range_succ :
    bitsNaming ((List.range (n + 1)).filter p) = bitsNaming ((List.range n).filter p) + if p n then 2 ^ n else 0 := by
  rw [filter_range_succ, bitsNaming, List.foldl_append]
  split <;> rfl

theorem bitsNaming_filter_range_lt : bitsNaming ((List.range n).filter p) < 2 ^ n := by
  induction n with
  | zero => exact Nat.one_pos
  | succ n ih =>
    rw [bitsNaming_filter_range_succ, Nat.pow_succ]
    split <;> omega

theorem testBit_bitsNaming_filter_range (j : Nat) : (bitsNaming ((List.range n).filter p)).testBit j = (decide (j < n) && p j) := by
  induction n with
  | zero => simp [bitsNaming]
  | succ n ih =>
    have below := bitsNaming_filter_range_lt (n := n) (p := p)
    rw [bitsNaming_filter_range_succ]
    by_cases hp : p n
    · rw [if_pos hp, Nat.add_comm]
      rcases Nat.lt_trichotomy j n with h | rfl | h
      · rw [Nat.testBit_two_pow_add_gt h, ih, decide_eq_true h, decide_eq_true (Nat.lt_succ_of_lt h)]
      · simp [Nat.testBit_two_pow_add_eq, Nat.testBit_lt_two_pow below, hp]
      · have above := Nat.pow_le_pow_right (n := 2) (by decide) h
        rw [Nat.pow_succ] at above
        rw [Nat.testBit_lt_two_pow (by omega), decide_eq_false (by omega), Bool.false_and]
    · rw [if_neg hp, Nat.add_zero, ih]
      grind

theorem getLast?_filter_range_eq_some {t : Nat} :
    ((List.range n).filter p).getLast? = some t ↔ t < n ∧ p t = true ∧ ∀ j, t < j → j < n → p j = false := by
  induction n with
  | zero => simp
  | succ n ih =>
    rw [filter_range_succ, List.getLast?_append]
    by_cases hp : p n
    · rw [if_pos hp]
      grind
    · rw [if_neg hp]
      grind

end

end Sys2Proof.Machine

/-!
Exact accumulators as values (R194–R197, R204): what a term and a merge do to value, flags and COUNT, and that a cell reads back as written.
-/

namespace Sys2Proof.Machine.Exact

/-! ## The status word (R195) -/

theorem getLsbD_lowHalf {i : Nat} (h : i < 64) : (0xFFFF#64).getLsbD i = decide (i < 16) := by
  revert i
  decide

theorem getLsbD_flagMask {i : Nat} (h : i < 64) : (0xF#64).getLsbD i = decide (i < 4) := by
  revert i
  decide

theorem getLsbD_countMask {i : Nat} (h : i < 64) : (0xFFFFFFFFFFFF0000#64).getLsbD i = decide (16 ≤ i) := by
  revert i
  decide

theorem getLsbD_statusMask {i : Nat} (h : i < 64) : (0xFFFFFFFFFFFF000F#64).getLsbD i = decide (i < 4 ∨ 16 ≤ i) := by
  revert i
  decide

/-- A status whose bits between the flags and COUNT are 0 is stored whole (R196). -/
theorem status_and_mask {x : BitVec 64} (h : x.extractLsb' 4 12 = 0) : x &&& 0xFFFFFFFFFFFF000F#64 = x := by
  refine BitVec.eq_of_getLsbD_eq fun i hi => ?_
  rw [BitVec.getLsbD_and, getLsbD_statusMask hi]
  by_cases between : 4 ≤ i ∧ i < 16
  · have clear := congrArg (·.getLsbD (i - 4)) h
    simp only [BitVec.getLsbD_extractLsb'] at clear
    grind
  · grind

theorem count_congr {a b : Exact} (h : ∀ i, 16 ≤ i → i < 64 → a.st.getLsbD i = b.st.getLsbD i) : a.count = b.count := by
  refine congrArg BitVec.toNat (BitVec.eq_of_getLsbD_eq fun i hi => ?_)
  rw [BitVec.getLsbD_extractLsb', BitVec.getLsbD_extractLsb', h _ (by omega) (by omega)]

/-! ### Raising a flag -/

theorem getLsbD_flag (a : Exact) {i j : Nat} (h : j < 64) : (a.flag i).st.getLsbD j = (a.st.getLsbD j || decide (i = j)) := by
  simp only [flag, BitVec.getLsbD_or, BitVec.getLsbD_shiftLeft, BitVec.getLsbD_one]
  grind

theorem count_flag (a : Exact) {i : Nat} (h : i < 16) : (a.flag i).count = a.count :=
  count_congr fun j hj hj' => by rw [getLsbD_flag a hj', decide_eq_false (by omega), Bool.or_false]

/-! ### Counting terms -/

theorem getLsbD_addCount (a : Exact) (n : Nat) {i : Nat} (h : i < 16) : (a.addCount n).st.getLsbD i = a.st.getLsbD i := by
  simp only [addCount, BitVec.getLsbD_or, BitVec.getLsbD_and, getLsbD_lowHalf (show i < 64 by omega), BitVec.getLsbD_ofNat, Nat.testBit_two_pow_mul]
  grind

theorem count_addCount (a : Exact) (n : Nat) : (a.addCount n).count = min (2 ^ 48 - 1) (a.count + n) := by
  have field : (a.addCount n).st.extractLsb' 16 48 = BitVec.ofNat 48 (min (2 ^ 48 - 1) (a.count + n)) := by
    refine BitVec.eq_of_getLsbD_eq fun i hi => ?_
    simp only [addCount, BitVec.getLsbD_extractLsb', BitVec.getLsbD_or, BitVec.getLsbD_and, getLsbD_lowHalf (show 16 + i < 64 by omega),
      BitVec.getLsbD_ofNat, Nat.testBit_two_pow_mul]
    grind
  rw [count, field, BitVec.toNat_ofNat, Nat.mod_eq_of_lt (by omega)]

theorem getLsbD_flag_addCount (a : Exact) (n : Nat) {i : Nat} (h : i < 16) : ((a.flag i).addCount n).st.getLsbD i = true := by
  rw [getLsbD_addCount _ _ h, getLsbD_flag a (by omega), decide_eq_true rfl, Bool.or_true]

/-! ## Terms (R197) -/

theorem addTerm_nan {x : Val} (a : Exact) (h : x.isNan = true) : a.addTerm x = (a.flag 0).addCount 1 := by
  cases x with
  | nan => rfl
  | inf | fin => cases h

theorem addTerm_inf (a : Exact) (s : Bool) : a.addTerm (.inf s) = (a.flag (if s then 2 else 1)).addCount 1 := by cases s <;> rfl

theorem addTerm_fin (a : Exact) (neg : Bool) (m : Nat) (e : Int) : a.addTerm (.fin neg m e) =
    let t := BitVec.ofNat 4352 (m * 2 ^ (e + 2152).toNat)
    { a with v := if neg then a.v - t else a.v + t : Exact }.addCount 1 := rfl

theorem count_addTerm (a : Exact) (x : Val) : (a.addTerm x).count = min (2 ^ 48 - 1) (a.count + 1) := by
  cases x with
  | nan => rw [addTerm_nan a rfl, count_addCount, count_flag a (by decide)]
  | inf s => rw [addTerm_inf, count_addCount, count_flag a (by cases s <;> decide)]
  | fin => rw [addTerm_fin, count_addCount]; rfl

theorem toNat_v_addTerm_fin (a : Exact) (neg : Bool) (m : Nat) (e : Int) : ((a.addTerm (.fin neg m e)).v.toNat : Int) =
    ((a.v.toNat : Int) + (if neg then -1 else 1) * (m * 2 ^ (e + 2152).toNat : Nat)) % 2 ^ 4352 := toNat_addSigned a.v neg _

theorem low_addTerm_fin (a : Exact) (neg : Bool) (m : Nat) (e : Int) : (a.addTerm (.fin neg m e)).st.extractLsb' 0 16 = a.st.extractLsb' 0 16 := by
  refine BitVec.eq_of_getLsbD_eq fun i hi => ?_
  simp only [BitVec.getLsbD_extractLsb', addTerm_fin, Nat.zero_add, getLsbD_addCount _ _ hi]

/-! ## Merging (R204) -/

theorem v_merge (d s : Exact) : (d.merge s).v = d.v + s.v := rfl

theorem count_merge (d s : Exact) : (d.merge s).count = min (2 ^ 48 - 1) (d.count + s.count) := by
  rw [merge, count_addCount]
  congr 2
  refine count_congr fun i hi hi' => ?_
  simp [getLsbD_countMask hi', getLsbD_flagMask hi', hi]
  omega

theorem getLsbD_merge (d s : Exact) {i : Nat} (h : i < 4) : (d.merge s).st.getLsbD i = (d.st.getLsbD i || s.st.getLsbD i) := by
  rw [merge, getLsbD_addCount _ _ (by omega)]
  simp [getLsbD_countMask (show i < 64 by omega), getLsbD_flagMask (show i < 64 by omega), h, show ¬16 ≤ i by omega]

/-! ## The cell (R196) -/

theorem length_toCell (a : Exact) : a.toCell.length = 576 := by simp [toCell, length_leBytes]

theorem ofCell_toCell {a : Exact} (h : a.st.extractLsb' 4 12 = 0) : ofCell a.toCell = a := by
  have value : a.toCell.take 544 = leBytes 544 a.v.toNat := by
    rw [toCell, List.append_assoc, List.take_left' (length_leBytes ..)]
  have status : (a.toCell.drop 544).take 8 = leBytes 8 a.st.toNat := by
    rw [toCell, List.append_assoc, List.drop_left' (length_leBytes ..), List.take_left' (length_leBytes ..), status_and_mask h]
  rw [ofCell, value, status, ofNat_leNat_leBytes (n := 544) rfl, ofNat_leNat_leBytes (n := 8) rfl, status_and_mask h]

end Sys2Proof.Machine.Exact

/-!
The window form of an exact accumulator (R208, R209): which words it shows, what PRES says of them, and that it reads back as written.
-/

namespace Sys2Proof.Machine.Exact

/-! ## The words a window shows (R208) -/

/-- The highest word that is not the fill of the sign. -/
def top? (a : Exact) : Option Nat := ((List.range 68).filter fun j => a.word j != fill (a.v.getLsbD 4351)).getLast?

/-- The window shows word `j`: it is the highest that is not the fill, or lies below that one and is not 0. -/
def shows (a : Exact) (j : Nat) : Bool := a.top?.any fun t => j = t || (j < t && a.word j != 0)

theorem present_eq_filter (a : Exact) : a.present = (List.range 68).filter a.shows := by
  unfold present shows
  dsimp only
  change (match a.top? with | none => _ | some t => _) = _
  cases a.top? with
  | none => simp
  | some t => rfl

theorem length_present_le (a : Exact) : a.present.length ≤ 68 := by
  rw [present_eq_filter]
  exact Nat.le_trans (List.length_filter_le ..) (Nat.le_of_eq List.length_range)

theorem top?_eq_some {a : Exact} {t : Nat} (h : a.top? = some t) :
    t < 68 ∧ a.word t ≠ fill (a.v.getLsbD 4351) ∧ ∀ j, t < j → j < 68 → a.word j = fill (a.v.getLsbD 4351) := by
  simpa using getLast?_filter_range_eq_some.1 h

theorem word_of_top?_eq_none {a : Exact} (h : a.top? = none) {j : Nat} (hj : j < 68) : a.word j = fill (a.v.getLsbD 4351) := by
  simpa using List.filter_eq_nil_iff.1 (List.getLast?_eq_none_iff.1 h) j (List.mem_range.2 hj)

theorem getLast?_present (a : Exact) : a.present.getLast? = a.top? := by
  rw [present_eq_filter]
  cases h : a.top? with
  | none => simp [shows, h]
  | some t =>
    obtain ⟨bound, -, -⟩ := top?_eq_some h
    refine getLast?_filter_range_eq_some.2 ⟨bound, by simp [shows, h], fun j hj _ => ?_⟩
    simp [shows, h, Nat.ne_of_gt hj, Nat.not_lt_of_gt hj]

/-- A word the window leaves out is 0 below the highest one it shows, and the fill of the sign else. -/
theorem word_of_not_mem_present {a : Exact} {j : Nat} (hj : j < 68) (h : j ∉ a.present) :
    a.word j = if a.top?.any (j < ·) then 0 else fill (a.v.getLsbD 4351) := by
  cases ht : a.top? with
  | none => exact word_of_top?_eq_none ht hj
  | some t =>
    obtain ⟨-, -, above⟩ := top?_eq_some ht
    have left : a.shows j = false := by simpa [present_eq_filter, hj] using h
    simp only [shows, ht, Option.any_some] at left ⊢
    grind

/-! ## PRES (R208) -/

/-- PRES: a bit for each word shown, and the sign. -/
def pres (a : Exact) : Nat := bitsNaming a.present + if a.v.getLsbD 4351 then 2 ^ 127 else 0

theorem bitsNaming_present_lt (a : Exact) : bitsNaming a.present < 2 ^ 68 := by
  rw [present_eq_filter]
  exact bitsNaming_filter_range_lt

theorem pres_lt (a : Exact) : a.pres < 2 ^ (8 * 16) := by
  have := a.bitsNaming_present_lt
  unfold pres
  split <;> omega

theorem sign_of_pres (a : Exact) : decide (2 ^ 127 ≤ a.pres) = a.v.getLsbD 4351 := by
  have := a.bitsNaming_present_lt
  unfold pres
  cases a.v.getLsbD 4351 with
  | false => exact decide_eq_false (by rw [if_neg Bool.false_ne_true]; omega)
  | true => exact decide_eq_true (Nat.le_add_left ..)

theorem pres_reserved (a : Exact) : a.pres % 2 ^ 127 / 2 ^ 68 = 0 := by
  have := a.bitsNaming_present_lt
  unfold pres
  split <;> omega

theorem windowWords_pres (a : Exact) : windowWords a.pres = a.present := by
  rw [present_eq_filter, windowWords]
  refine List.filter_congr fun j hj => ?_
  rw [List.mem_range] at hj
  have unsigned : a.pres.testBit j = (bitsNaming a.present).testBit j := by
    unfold pres
    split
    · rw [Nat.add_comm, Nat.testBit_two_pow_add_gt (by omega)]
    · rw [Nat.add_zero]
  rw [← Nat.testBit_eq_decide_div_mod_eq, unsigned, present_eq_filter, testBit_bitsNaming_filter_range, decide_eq_true hj, Bool.true_and]

/-! ## The parts of a window -/

theorem toWindow_eq (a : Exact) : a.toWindow =
    leBytes 8 (a.st &&& 0xFFFFFFFFFFFF000F#64).toNat ++ leBytes 16 a.pres ++ a.present.flatMap fun j => leBytes 8 (a.word j).toNat := rfl

theorem length_toWindow (a : Exact) : a.toWindow.length = 24 + 8 * a.present.length := by
  rw [toWindow_eq, List.length_append, List.length_append, length_leBytes, length_leBytes, length_flatMap_const fun _ => length_leBytes ..]

theorem take_toWindow_status (a : Exact) : a.toWindow.take 8 = leBytes 8 (a.st &&& 0xFFFFFFFFFFFF000F#64).toNat := by
  rw [toWindow_eq, List.append_assoc, List.take_left' (length_leBytes ..)]

theorem leNat_toWindow_pres (a : Exact) : leNat ((a.toWindow.drop 8).take 16) = a.pres := by
  rw [toWindow_eq, List.append_assoc, List.drop_left' (length_leBytes ..), List.take_left' (length_leBytes ..), leNat_leBytes_of_lt a.pres_lt]

theorem ofNat_toWindow_word (a : Exact) {i : Nat} (h : i < a.present.length) :
    BitVec.ofNat 64 (leNat ((a.toWindow.drop (24 + 8 * i)).take 8)) = a.word a.present[i] := by
  rw [toWindow_eq, ← List.drop_drop, List.drop_left' (by simp [length_leBytes]), take_drop_flatMap (fun _ => length_leBytes ..) h,
    ofNat_leNat_leBytes (n := 8) rfl]

theorem last_word_ne_fill {a : Exact} {t : Nat} (h : a.top? = some t) :
    BitVec.ofNat 64 (leNat ((a.toWindow.drop (24 + 8 * (a.present.length - 1))).take 8)) ≠ fill (a.v.getLsbD 4351) := by
  obtain ⟨-, differs, -⟩ := top?_eq_some h
  rw [← getLast?_present, List.getLast?_eq_getElem?] at h
  obtain ⟨bound, rfl⟩ := List.getElem?_eq_some_iff.1 h
  rwa [ofNat_toWindow_word a bound]

/-! ## Reading a window back (R209) -/

theorem foldl_words {g : Nat → Word} {a : Exact} {n : Nat} (h : ∀ j < n, g j = a.word j) :
    (List.range n).foldl (fun s j => s + (g j).toNat * 2 ^ (64 * j)) 0 = a.v.toNat % 2 ^ (64 * n) := by
  induction n with
  | zero => simp [Nat.mod_one]
  | succ n ih =>
    rw [List.range_succ, List.foldl_append, ih fun j hj => h j (by omega), List.foldl_cons, List.foldl_nil, h n (by omega), word,
      BitVec.extractLsb'_toNat, Nat.shiftRight_eq_div_pow, Nat.mul_succ, Nat.pow_add, Nat.mod_mul, Nat.mul_comm (2 ^ (64 * n))]

theorem ofNat_foldl_words {g : Nat → Word} {a : Exact} (h : ∀ j < 68, g j = a.word j) :
    BitVec.ofNat 4352 ((List.range 68).foldl (fun s j => s + (g j).toNat * 2 ^ (64 * j)) 0) = a.v := by
  rw [foldl_words h]
  exact ofNat_toNat_mod (n := 64 * 68) rfl a.v

theorem ofWindow_toWindow {a : Exact} (h : a.st.extractLsb' 4 12 = 0) : ofWindow a.toWindow = some a := by
  simp only [ofWindow, leNat_toWindow_pres, windowWords_pres, sign_of_pres, pres_reserved, getLast?_present, take_toWindow_status]
  rw [if_neg (by decide), if_neg, ofNat_foldl_words (a := a), ofNat_leNat_leBytes (n := 8) rfl, status_and_mask h, status_and_mask h]
  · intro j hj
    cases hi : a.present.idxOf? j with
    | some i =>
      obtain ⟨bound, found, -⟩ := List.idxOf?_eq_some_iff.1 hi
      exact (ofNat_toWindow_word a bound).trans (congrArg a.word found)
    | none =>
      rw [word_of_not_mem_present hj (List.idxOf?_eq_none_iff.1 hi)]
      cases a.top? with
      | none => rfl
      | some t => simp
  · cases ht : a.top? with
    | none => exact Bool.false_ne_true
    | some t => simpa using last_word_ne_fill ht

end Sys2Proof.Machine.Exact

/-!
The exact forms (R202–R207): adding terms, merging, moving, clearing, rounding and reading accumulators.
-/

namespace Sys2Proof.Machine

/-! ## Adding terms (R197, R203) -/

/-- Every lane taking part in each active member adds its term; a dead lane that would take part sets POISON. -/
theorem warpRule_exactAdds {i : Instr} {h : Hdr} {dst : Spec} {os : List Warp.Operand} {term : Warp → Nat → Nat → Val}
    (e : ∀ s, exec i s = warpOp s fun w => exactAdds w h dst os (term w)) :
    WarpRule i h os 1 dst (fun _ => false) (fun _ _ => True) fun _ w =>
      let a := w.active.foldl (fun a m => (w.part h m).toList.foldl (fun a l => a.addTerm (term w m l)) a) (w.xaGet dst)
      (w.xaPut dst (if w.active.any fun m => w.deadPart h m != 0 then a.flag 3 else a)).noteDead h os := by
  intro s w hc _ cl
  have aligned : w.Clear h (w.needs os ++ w.needsDst 1 dst) (w.misfits os) false := cl.of_aligned fun hm => (Bool.or_eq_false_iff.1 hm).1
  have running : w.ended = false := ended_of_cur hc
  have lasts : ∀ a, ((w.xaPut dst a).noteDead h os).ended = false := fun _ => (Warp.onlyRegs_noteDead ..).ended.trans running
  rw [Retires, e, warpOp_cur _ hc, exactAdds, Warp.checked_clear aligned]
  exact congrArg _ (finish_fall (lasts _))

/-! ## Uniform forms (R40, R204–R206) -/

/-- A uniform form that has no effect under guard 0b1111, and else writes an accumulator. -/
theorem uniRule_xaPut {i : Instr} {h : Hdr} {os : List Warp.Operand} {dst : Spec} {val : Warp → Exact}
    (e : ∀ s, exec i s = warpOp s fun w => w.checked h (w.needs os ++ w.needsDst 1 dst) false false
      (unlessNever h w (.fall (w.xaPut dst (val w))))) :
    UniRule i h os 1 dst (fun _ _ => True) fun _ w => w.xaPut dst (val w) := by
  refine uniRule_of (fun _ => rfl) fun s w hc cl => ?_
  rw [e, warpOp_cur _ hc, Warp.checked_clear cl, unlessNever]
  split <;> rfl

/-- Settles O19: the adding forms by the rule of `exactAdds`, the uniform ones by the rule of a written accumulator or of a scalar result; terms,
merges, cells and windows by the lemmas on their values. -/
theorem exactForms : Obligations.ExactForms := by
  refine ⟨⟨fun _ _ _ => rfl, fun f => warpRule_exactAdds fun _ => rfl, fun f => warpRule_exactAdds fun _ => rfl,
    fun f => warpRule_exactAdds fun _ => rfl, fun f => uniRule_xaPut fun _ => rfl, fun f => uniRule_xaPut fun _ => rfl,
    fun f => uniRule_xaPut fun _ => rfl, fun f => sclRule_of fun _ => rfl, fun f => sclRule_of fun _ => rfl⟩,
    fun a neg m e _ => ⟨a.toNat_v_addTerm_fin neg m e, a.low_addTerm_fin neg m e⟩, fun a s => ?inf, fun a x hx => ?nan, Exact.count_addTerm,
    fun d a => ⟨d.v_merge a, d.count_merge a, fun _ => d.getLsbD_merge a⟩, fun _ => Exact.ofCell_toCell, Exact.length_toCell,
    fun _ => Exact.ofWindow_toWindow, fun a => ?window⟩
  case inf =>
    rw [Exact.addTerm_inf]
    exact ⟨rfl, Exact.getLsbD_flag_addCount _ _ (by cases s <;> decide)⟩
  case nan =>
    rw [Exact.addTerm_nan a hx]
    exact ⟨rfl, Exact.getLsbD_flag_addCount _ _ (by decide)⟩
  case window =>
    have short := a.length_present_le
    exact ⟨a.length_toWindow, by rw [a.length_toWindow]; omega⟩

end Sys2Proof.Machine

/-!
Matrix forms and the matrix engine (R170–R172, R214–R221, R230–R234): what a form finds at issue, one lemma for each way it goes on; the value of one
element of D by the kind of its operation; what the engine does with its oldest operation.
-/

namespace Sys2Proof.Machine

/-! ## The operands of a matrix form (R216) -/

theorem bOff_eq (d : Word) : bOff d = d.toNat % 2 ^ 19 := by simp [bOff, BitVec.extractLsb'_toNat]
theorem aRec_eq (d : Word) : aRec d = d.toNat / 2 ^ 19 % 32 := by simp [aRec, BitVec.extractLsb'_toNat, Nat.shiftRight_eq_div_pow]
theorem bRec_eq (d : Word) : bRec d = d.toNat / 2 ^ 24 % 32 := by simp [bRec, BitVec.extractLsb'_toNat, Nat.shiftRight_eq_div_pow]

/-- The sources of a matrix form: A, the descriptor of B, and the tensor scales of a scaled form. -/
def mxSrcs (kd : MxKind) (f : FormR) : List Warp.Operand := [(f.a, kd.aRegs), (f.b, 1)] ++ if kd.scaled then [(thirdSrc f.x, 1)] else []

/-- The D registers of a matrix form. -/
def mxRegs (kd : MxKind) (f : FormR) : List Nat := (List.range kd.dRegs).map (f.dst.num + ·)

def mxNeeds (kd : MxKind) (f : FormR) : List Warp.Need := (mxRegs kd f).map fun r => ⟨.v r, false, some 0⟩

/-- What the engine is handed for member `m`: the operands as they are at issue (R217, R219). -/
def mxOpAt (opc : BitVec 9) (f : FormR) (s : State) (w : Warp) (bl : Block) (m : Nat) : MxOp :=
  let kd := mxKind opc.toNat
  let d := w.scl m f.b
  let tv := (w.scl m (thirdSrc f.x)).toNat
  { slot := w.slot, op := opc.toNat, x := f.x, dst := f.dst.num, mem := m, lanes := w.part f.h m,
    a := (List.range kd.aRegs).map fun i => w.vrow m (w.xlat f.a.spec.num + i),
    tile := bl.near.readBytes (bOff d) kd.tileBytes, boff := some (bOff d), shared := w.common? f.b.spec, draw := s.tick,
    t := if kd.scaled then BitVec.ofNat 32 (encodeVal Fmt.f32 {} (mulVal (Fmt.f32.decode (tv % 2 ^ 32)) (Fmt.f32.decode (tv / 2 ^ 32)))) else 0,
    scA := if kd.scaled then bl.scales.readBytes (512 * (aRec d + m)) 512 else [],
    scB := if kd.scaled then bl.scales.readBytes (512 * bRec d) 512 else [] }

/-- The end of a form's issue: earlier accesses that stand in the way, the D registers it cannot read, and else its operations. -/
def mxLaunch (opc : BitVec 9) (f : FormR) (s : State) (w : Warp) (bl : Block) : State × WRes :=
  let kd := mxKind opc.toNat
  let ms := w.active.filter fun m => w.part f.h m != 0
  if ms != [] && w.heldByFence false then (s, .wait .memory)
  else if ms.any fun m => tileBusy w (bOff (w.scl m f.b)) kd.tileBytes then (s, .wait .log)
  else
    let kills := (ms.map fun m => (m, w.badReads f.h (mxNeeds kd f) m)).filter fun p => p.2 != 0
    if kills != [] then (s, .kill w kills 7 false)
    else
      (if ms = [] then s else { s with
        mx := tset s.mx w.core (tget [] s.mx w.core ++ ms.map (mxOpAt opc f s w bl)),
        mxLatch := if f.ru then tset s.mxLatch w.core (w.slot, w.xlat f.a.spec.num, kd.width) else tdel s.mxLatch w.core },
       .fall (ms.foldl (fun w m => (mxRegs kd f).foldl (fun w r => w.setEmpty m true (.v r)) w) w))

/-! ## A matrix form at issue (R217, R219, R220, R231) -/

section
variable {opc : BitVec 9} {f : FormR} {s : State} {w : Warp} {bl : Block}

/-- The registers of the form stand in no one's way, and its block is `bl`. -/
structure MxReady (opc : BitVec 9) (f : FormR) (s : State) (w : Warp) (bl : Block) : Prop where
  block : s.block? w.blk = some bl
  held : w.outOfRange (w.needs (mxSrcs (mxKind opc.toNat) f) ++ mxNeeds (mxKind opc.toNat) f) = false
  base : w.xlat f.a.spec.num + (mxKind opc.toNat).aRegs ≤ 128
  clear : w.Clear f.h (w.needs (mxSrcs (mxKind opc.toNat) f)) false false

/-- The tile of every active member is aligned and within near scratch. -/
def TilesFit (kd : MxKind) (f : FormR) (w : Warp) (bl : Block) : Prop :=
  ∀ m ∈ w.active, bOff (w.scl m f.b) % kd.tileBytes = 0 ∧ bOff (w.scl m f.b) + kd.tileBytes ≤ bl.ns

/-- Every record a scaled form names is there and holds its data. -/
def RecsReady (kd : MxKind) (f : FormR) (w : Warp) (bl : Block) : Prop :=
  kd.scaled = true → ∀ r ∈ recsOf w (fun m => w.scl m f.b), r < bl.srec ∧ r ∉ bl.scalePend

theorem mxIssue_misplaced (h : MxReady opc f s w bl) {m : Nat}
    (hm : (w.active.find? fun m => bOff (w.scl m f.b) % (mxKind opc.toNat).tileBytes != 0 ||
      bl.ns < bOff (w.scl m f.b) + (mxKind opc.toNat).tileBytes) = some m) :
    mxIssue opc f s w = (s, .trap w (if bOff (w.scl m f.b) % (mxKind opc.toNat).tileBytes != 0
      then { cls := 11, slot := m, detail := BitVec.ofNat 64 (bOff (w.scl m f.b)) } else { cls := 12, slot := m })) := by
  obtain ⟨block, held, base, clear⟩ := h
  unfold mxNeeds mxRegs mxSrcs at *
  simp only [mxIssue, block, held, Nat.not_lt.2 base, Warp.checked_clear clear, hm, if_false, Bool.false_eq_true]
  split <;> rfl

theorem TilesFit.find? (h : TilesFit (mxKind opc.toNat) f w bl) :
    (w.active.find? fun m => bOff (w.scl m f.b) % (mxKind opc.toNat).tileBytes != 0 ||
      bl.ns < bOff (w.scl m f.b) + (mxKind opc.toNat).tileBytes) = none := by
  rw [List.find?_eq_none]
  intro m hm
  obtain ⟨aligned, inside⟩ := h m hm
  simp [aligned, inside]

theorem RecsReady.there (h : RecsReady (mxKind opc.toNat) f w bl) :
    ((mxKind opc.toNat).scaled && (recsOf w fun m => w.scl m f.b).any fun r => bl.srec ≤ r) = false := by
  simpa using fun scaled r hr => (h scaled r hr).1

theorem RecsReady.loaded (h : RecsReady (mxKind opc.toNat) f w bl) :
    ((mxKind opc.toNat).scaled && (recsOf w fun m => w.scl m f.b).any fun r => bl.scalePend.contains r) = false := by
  simpa using fun scaled r hr => (h scaled r hr).2

section
variable (h : MxReady opc f s w bl) (tiles : TilesFit (mxKind opc.toNat) f w bl)
include h tiles

/-- With its tiles in place a form looks at its scale records, then at its D registers and at the engine (R231). -/
theorem mxIssue_placed : mxIssue opc f s w =
    if (mxKind opc.toNat).scaled && (recsOf w fun m => w.scl m f.b).any fun r => bl.srec ≤ r then (s, .trap w { cls := 13 })
    else if (mxKind opc.toNat).scaled && (recsOf w fun m => w.scl m f.b).any fun r => bl.scalePend.contains r then (s, .wait .record)
    else if mxBlocked w (s.mxOf w) (mxRegs (mxKind opc.toNat) f) then (s, .wait .fragment)
    else if s.mxFull w.core then (s, .wait .engine)
    else mxLaunch opc f s w bl := by
  obtain ⟨block, held, base, clear⟩ := h
  have placed := tiles.find?
  unfold mxNeeds mxRegs mxSrcs at *
  simp only [mxIssue, block, held, Nat.not_lt.2 base, Warp.checked_clear clear, placed, if_false, Bool.false_eq_true]
  rfl

theorem mxIssue_noRecord (scaled : (mxKind opc.toNat).scaled = true) (hr : ∃ r ∈ recsOf w (fun m => w.scl m f.b), bl.srec ≤ r) :
    mxIssue opc f s w = (s, .trap w { cls := 13 }) := by
  rw [mxIssue_placed h tiles, if_pos (by simpa [scaled] using hr)]

theorem mxIssue_pendingRecord (scaled : (mxKind opc.toNat).scaled = true) (there : ∀ r ∈ recsOf w (fun m => w.scl m f.b), r < bl.srec)
    (hr : ∃ r ∈ recsOf w (fun m => w.scl m f.b), r ∈ bl.scalePend) : mxIssue opc f s w = (s, .wait .record) := by
  rw [mxIssue_placed h tiles, if_neg (by simpa [scaled] using there), if_pos (by simpa [scaled] using hr)]

variable (recs : RecsReady (mxKind opc.toNat) f w bl)
include recs

theorem mxIssue_blocked (hb : mxBlocked w (s.mxOf w) (mxRegs (mxKind opc.toNat) f) = true) : mxIssue opc f s w = (s, .wait .fragment) := by
  simp only [mxIssue_placed h tiles, recs.there, recs.loaded, hb, Bool.false_eq_true, if_false, if_true]

variable (free : mxBlocked w (s.mxOf w) (mxRegs (mxKind opc.toNat) f) = false)
include free

theorem mxIssue_full (hf : s.mxFull w.core = true) : mxIssue opc f s w = (s, .wait .engine) := by
  simp only [mxIssue_placed h tiles, recs.there, recs.loaded, free, hf, Bool.false_eq_true, if_false, if_true]

theorem mxIssue_launches (room : s.mxFull w.core = false) : mxIssue opc f s w = mxLaunch opc f s w bl := by
  simp only [mxIssue_placed h tiles, recs.there, recs.loaded, free, room, Bool.false_eq_true, if_false]

end

theorem mxLaunch_fenced (acting : (w.active.filter fun m => w.part f.h m != 0) ≠ []) (held : w.heldByFence false = true) :
    mxLaunch opc f s w bl = (s, .wait .memory) := by
  simp only [mxLaunch, bne_iff_ne.2 acting, held, Bool.and_self, if_true]

/-- With nothing in the way a form hands over its operations and leaves its D registers empty. -/
theorem mxLaunch_goes (unheld : w.heldByFence false = false)
    (quiet : ∀ m ∈ w.active.filter (fun m => w.part f.h m != 0), tileBusy w (bOff (w.scl m f.b)) (mxKind opc.toNat).tileBytes = false ∧
      w.badReads f.h (mxNeeds (mxKind opc.toNat) f) m = 0) :
    let ms := w.active.filter fun m => w.part f.h m != 0
    mxLaunch opc f s w bl = (if ms = [] then s else { s with
        mx := tset s.mx w.core (tget [] s.mx w.core ++ ms.map (mxOpAt opc f s w bl)),
        mxLatch := if f.ru then tset s.mxLatch w.core (w.slot, w.xlat f.a.spec.num, (mxKind opc.toNat).width) else tdel s.mxLatch w.core },
      .fall (ms.foldl (fun w m => (mxRegs (mxKind opc.toNat) f).foldl (fun w r => w.setEmpty m true (.v r)) w) w)) := by
  intro ms
  have idle : (ms.any fun m => tileBusy w (bOff (w.scl m f.b)) (mxKind opc.toNat).tileBytes) = false := by
    rw [List.any_eq_false]
    exact fun m hm => by simp [(quiet m hm).1]
  have spared : ((ms.map fun m => (m, w.badReads f.h (mxNeeds (mxKind opc.toNat) f) m)).filter fun p => p.2 != 0) = [] := by
    rw [List.filter_eq_nil_iff]
    intro p hp
    obtain ⟨m, hm, rfl⟩ := List.mem_map.1 hp
    simp [(quiet m hm).2]
  unfold mxLaunch
  rw [if_neg (by simp [unheld]), if_neg (ne_true_of_eq_false idle), if_neg (by rw [bne_iff_ne]; exact fun some => some spared)]

end

/-! ## The matrix forms as instructions (R230) -/

theorem Warp.onlyRegs_emptied (w : Warp) (ms rs : List Nat) :
    w.OnlyRegs (ms.foldl (fun w m => rs.foldl (fun w r => w.setEmpty m true (.v r)) w) w) :=
  .foldl (fun _ m => .foldl (fun _ r => onlyRegs_setEmpty _ m true (.v r)) rs _) ms w

/-- A form whose issue is known takes the step that its issue gives. -/
theorem exec_of_mxIssue {i : Instr} {opc : BitVec 9} {f : FormR} {s s1 : State} {w : Warp} {r : WRes} (e : exec i s = mxForm opc f s)
    (hc : s.curWarp = some w) (h : mxIssue opc f s w = (s1, r)) : exec i s = .next (s1.finish w r) := by
  rw [e, mxForm, machineOp_cur _ hc, h]

/-! ## `mmclr` (R234) -/

section
variable {f : FormR} {s : State} {w : Warp} (hc : s.curWarp = some w)
  (clear : w.Clear f.h (((List.range 16).map (f.dst.num + ·)).map fun r => ⟨.v r, false, none⟩) false false)
include hc clear

theorem exec_mmclr_full (full : s.mxFull w.core = true) : Waits (.mmclr f) s w .engine := by
  change execMmclr f s = _
  simp only [execMmclr, machineOp_cur _ hc, Warp.checked_clear clear, full, if_true]
  rfl

theorem exec_mmclr_goes (room : s.mxFull w.core = false) :
    let ms := w.active.filter fun m => w.part f.h m != 0
    let op := fun (m : Nat) => ({ slot := w.slot, op := 0x111, x := 0, dst := f.dst.num, mem := m, lanes := w.part f.h m, draw := s.tick } : MxOp)
    exec (.mmclr f) s = .next ((if ms = [] then s else { s with mx := tset s.mx w.core (tget [] s.mx w.core ++ ms.map op) }).retire w
      { w with clearing := w.clearing ++ ms.map fun m => (m, f.dst.num) }) := by
  intro ms op
  change execMmclr f s = _
  simp only [execMmclr, machineOp_cur _ hc, Warp.checked_clear clear, room, Bool.false_eq_true, if_false]
  exact congrArg _ (finish_fall (show w.ended = false from ended_of_cur hc))

end

/-! ## One element of D (R170–R172, R214, R215, R232) -/

theorem aElem_lt {wd : Nat} (h : wd ≠ 64) (a : List (List Lane32)) (l k : Nat) : aElem wd a l k < 2 ^ wd := by
  simp only [aElem, if_neg h]
  exact Nat.mod_lt _ (Nat.two_pow_pos _)

/-- An 8-bit element of a tile is a byte. -/
theorem bElem_byte_lt (tile : List Byte) (k n : Nat) : bElem 8 tile k n < 2 ^ 8 := by
  have one : ∀ bs : List Byte, leNat (bs.take 1) < 2 ^ 8 := by
    intro bs
    cases bs with
    | nil => decide
    | cons b t => simpa [leNat] using b.isLt
  exact one _

theorem foldl_add_eq_add {α : Type} (g : α → Int) (l : List α) (d : Int) : l.foldl (fun acc k => acc + g k) d = d + (l.map g).foldl (· + ·) 0 := by
  rw [List.foldl_map, ← List.foldl_hom (d + ·) (g₂ := fun acc k => acc + g k) (fun _ _ => Int.add_assoc ..), Int.add_zero]

theorem wrapBits_cast (b : Nat) (n : Int) : (wrapBits b n : Int) = n % 2 ^ b := by
  have modulus : ((2 ^ b : Nat) : Int) ≠ 0 := Int.natCast_ne_zero.2 (Nat.ne_of_gt (Nat.two_pow_pos b))
  rw [wrapBits, Int.toNat_of_nonneg (Int.emod_nonneg _ modulus), Int.natCast_pow]
  rfl

/-- Integers add exactly and wrap (R172, R232). -/
theorem mxCell_int8 {o : MxOp} {sa sb : Bool} (h : mxKind o.op = .int8 sa sb) (l n d : Nat) : (mxCell o l n d : Int) =
    ((d : Int) + ((List.range 64).map fun i => intOfBits 8 sa (aElem 8 o.a l i) * intOfBits 8 sb (bElem 8 o.tile i n)).foldl (· + ·) 0) % 2 ^ 32 := by
  rw [← foldl_add_eq_add, ← wrapBits_cast]
  have sixtyFour : (MxKind.int8 sa sb).k = 64 := by simp [MxKind.k, MxKind.width]
  simp only [mxCell, h, sixtyFour]
  rfl

theorem intOfBits_unsigned {b : Nat} (h : b < 2 ^ 8) : intOfBits 8 false b = b := by
  simp only [intOfBits, Nat.mod_eq_of_lt h]
  rfl

theorem intOfBits_signed {b : Nat} (h : b < 2 ^ 8) : intOfBits 8 true b = if 128 ≤ b then (b : Int) - 256 else b := by
  simp only [intOfBits, Nat.mod_eq_of_lt h]
  simp

/-- The exact sum with the value of each byte of A and of the tile as the form reads it. -/
theorem mxCell_bytes {sa sb : Bool} {va vb : Nat → Int} (ha : ∀ b, b < 2 ^ 8 → intOfBits 8 sa b = va b) (hb : ∀ b, b < 2 ^ 8 → intOfBits 8 sb b = vb b)
    {o : MxOp} (h : mxKind o.op = .int8 sa sb) (l n d : Nat) : (mxCell o l n d : Int) =
      ((d : Int) + ((List.range 64).map fun i => va (aElem 8 o.a l i) * vb (bElem 8 o.tile i n)).foldl (· + ·) 0) % 2 ^ 32 := by
  simp only [mxCell_int8 h, ha _ (aElem_lt (by decide) ..), hb _ (bElem_byte_lt ..)]

/-- The tree of R171: each group of eight products is rounded, scaled, and added in order. -/
theorem mxTree_range (p : Nat → Val) (scale : Nat → Val → Val) (g d : Nat) : mxTree ((List.range (8 * g)).map p) scale d =
    (List.range g).foldl (fun d j => fpSum Fmt.f32 {} [Fmt.f32.decode d,
      scale j (Fmt.f32.decode (fpSum Fmt.f32 {} ((List.range 8).map fun i => p (8 * j + i))))]) d := by
  have groups : ((List.range (8 * g)).map p).length / 8 = g := by simp
  rw [mxTree, groups]
  refine List.foldl_rel (r := (· = ·)) rfl fun j hj d _ same => ?_
  have group : (((List.range (8 * g)).map p).drop (8 * j)).take 8 = (List.range 8).map fun i => p (8 * j + i) := by
    have := List.mem_range.1 hj
    refine List.ext_getElem ?_ fun i _ _ => ?_
    · rw [List.length_take, List.length_drop, List.length_map, List.length_map, List.length_range, List.length_range]
      omega
    · rw [List.getElem_take, List.getElem_drop, List.getElem_map, List.getElem_map, List.getElem_range, List.getElem_range]
  simp only [group, same]

/-- The other formats round each group of eight products to FP32 and add the groups in order (R170, R171). -/
theorem mxCell_float {o : MxOp} {fa fb : Fmt} {sc : Bool} (h : mxKind o.op = .float fa fb sc ∧ MxKind.k (.float fa fb sc) = 8 * (64 / fa.width))
    (l n d : Nat) : mxCell o l n d = (List.range (64 / fa.width)).foldl (fun d j =>
      fpSum Fmt.f32 {} [Fmt.f32.decode d, (if sc then mxScale o.scA o.scB o.t l n else fun _ g => g) j (Fmt.f32.decode (fpSum Fmt.f32 {}
        ((List.range 8).map fun i => mulVal (fa.decode (aElem fa.width o.a l (8 * j + i))) (fb.decode (bElem fa.width o.tile (8 * j + i) n)))))]) d := by
  obtain ⟨kind, groups⟩ := h
  rw [mxCell, kind, ← mxTree_range fun k => mulVal (fa.decode (aElem fa.width o.a l k)) (fb.decode (bElem fa.width o.tile k n)), ← groups]
  rfl

/-! ## The engine (R217–R222) -/

section
variable {s : State} {c : Nat} {o : MxOp} {rest : List MxOp} {w : Warp} (hq : tget [] s.mx c = o :: rest)
  (hw : s.warp? (warpKey c o.slot) = some w) (alone : o.shared = false)
include hq hw alone

/-- The engine takes its tile from near scratch as the oldest operation of a member by itself completes (R219). -/
theorem mxComplete_reads {bl : Block} {b : Nat} (hb : s.block? w.blk = some bl) (ho : o.boff = some b) : s.mxComplete c =
    { s.putWarp (w.mxApply { o with tile := tileRead o (bl.near.readBytes b o.tile.length), boff := none }
        (rest.filter fun x => x.slot = o.slot)) with mx := tset s.mx c rest } := by
  simp only [State.mxComplete, hq, hw, hb, ho, alone, Bool.false_and, Bool.false_eq_true, if_false, List.map_id']

theorem mxComplete_ready (ho : o.boff = none) : s.mxComplete c =
    { s.putWarp (w.mxApply o (rest.filter fun x => x.slot = o.slot)) with mx := tset s.mx c rest } := by
  simp only [State.mxComplete, hq, hw, ho, alone, Bool.false_and, Bool.false_eq_true, if_false, List.map_id']

end

theorem getD_tileRead (o : MxOp) (now : List Byte) {i : Nat} (h : i < o.tile.length) :
    (tileRead o now).getD i 0 = if Config.tilePick o.draw i then now.getD i 0 else o.tile.getD i 0 := by
  simp [tileRead, List.getD, h]

/-- `mmclr` writes zeros into the rows of its lanes that are still live (R234). -/
theorem mxApply_clear (w : Warp) {o : MxOp} (later : List MxOp) (hop : o.op = 0x111) (hd : o.dst ≠ 0x300) :
    w.mxApply o later =
      let w1 := ((List.range 16).map (o.dst + ·)).foldl (fun w1 r => w1.vput o.mem r (o.lanes &&& (w.bank o.mem).live) (List.replicate 96 0)) w
      { w1 with clearing := w1.clearing.erase (o.mem, o.dst) } := by
  have clear : o.isClear = true := by simpa [MxOp.isClear] using hop
  have zeros : ∀ r, (laneNumbers.map fun _ => ([] : List Lane32)).map (fun x => x.getD (r - o.dst) 0) = List.replicate 96 0 := fun r => by
    rw [List.map_map]
    exact (List.map_const' (l := laneNumbers) (b := 0)).trans (congrArg (List.replicate · 0) List.length_range)
  simp only [Warp.mxApply, MxOp.regs, clear, hd, Bool.not_true, Bool.and_false, Bool.false_eq_true, if_false, if_true, zeros]

/-- Settles O24: every form of the family by the rule of `mxIssue`, the values by the kind of the operation, and the engine by the operation at the head
of its queue. -/
theorem matrixForms : Obligations.MatrixForms := by
  refine ⟨?_, ?_⟩
  · intro mxRule
    have rule : ∀ {mk : FormR → Instr} {opc : BitVec 9} {aRegs dRegs tile : Nat} {scaled : Bool}, (∀ f s, exec (mk f) s = mxForm opc f s) →
        (mxKind opc.toNat).aRegs = aRegs → (mxKind opc.toNat).dRegs = dRegs → (mxKind opc.toNat).tileBytes = tile →
        (mxKind opc.toNat).scaled = scaled → mxRule mk opc aRegs dRegs tile scaled := by
      rintro mk opc _ _ _ _ e rfl rfl rfl rfl f s w bl hc block third srcs base dregs dneeds off recA recB recs ms op held fits clear
      have offs : off = fun m => bOff (w.scl m f.b) := funext fun m => (bOff_eq _).symm
      have recsA : recA = fun m => aRec (w.scl m f.b) := funext fun m => (aRec_eq _).symm
      have recsB : recB = fun m => bRec (w.scl m f.b) := funext fun m => (bRec_eq _).symm
      clear_value off recA recB
      subst offs recsA recsB
      have h : MxReady opc f s w bl := ⟨block, held, fits, clear⟩
      have run := fun {s1 r} => exec_of_mxIssue (s1 := s1) (r := r) (e f s) hc
      refine ⟨fun m hm => run (mxIssue_misplaced h hm), fun tiles => ⟨fun scaled hr => run (mxIssue_noRecord h tiles scaled hr),
        fun scaled there hr => run (mxIssue_pendingRecord h tiles scaled there hr), fun ready free full => run (mxIssue_full h tiles ready free full),
        fun ready blocked => run (mxIssue_blocked h tiles ready blocked), fun ready free room acting held => ?_, fun ready free room unheld quiet => ?_⟩⟩
      · exact run ((mxIssue_launches h tiles ready free room).trans (mxLaunch_fenced acting held))
      · have goes := run ((mxIssue_launches h tiles ready free room).trans (mxLaunch_goes unheld quiet))
        rw [finish_fall ((w.onlyRegs_emptied ..).ended.trans (ended_of_cur hc))] at goes
        refine ⟨fun still => ?_, fun acting => ?_⟩
        · change (w.active.filter fun m => w.part f.h m != 0) = [] at still
          rw [Retires, goes, still]
          rfl
        · rw [goes, if_neg acting]
          rfl
    exact ⟨rule (fun _ _ => rfl) rfl rfl rfl rfl, rule (fun _ _ => rfl) rfl rfl rfl rfl, rule (fun _ _ => rfl) rfl rfl rfl rfl,
      rule (fun _ _ => rfl) rfl rfl rfl rfl, rule (fun _ _ => rfl) rfl rfl rfl rfl, rule (fun _ _ => rfl) rfl rfl rfl rfl,
      rule (fun _ _ => rfl) rfl rfl rfl rfl, rule (fun _ _ => rfl) rfl rfl rfl rfl, rule (fun _ _ => rfl) rfl rfl rfl rfl,
      rule (fun _ _ => rfl) rfl rfl rfl rfl, rule (fun _ _ => rfl) rfl rfl rfl rfl, rule (fun _ _ => rfl) rfl rfl rfl rfl,
      rule (fun _ _ => rfl) rfl rfl rfl rfl, rule (fun _ _ => rfl) rfl rfl rfl rfl, rule (fun _ _ => rfl) rfl rfl rfl rfl,
      rule (fun _ _ => rfl) rfl rfl rfl rfl, rule (fun _ _ => rfl) rfl rfl rfl rfl,
      fun _ _ _ hc clear => ⟨exec_mmclr_full hc clear, exec_mmclr_goes hc clear⟩⟩
  · intro dot s8
    have uns := fun b => intOfBits_unsigned (b := b)
    have sig : ∀ b, b < 2 ^ 8 → intOfBits 8 true b = s8 b := fun b => intOfBits_signed
    refine ⟨fun o l n d ho _ => mxCell_bytes sig sig (by rw [ho]; rfl) l n d, fun o l n d ho _ => mxCell_bytes sig uns (by rw [ho]; rfl) l n d,
      fun o l n d ho _ => mxCell_bytes uns sig (by rw [ho]; rfl) l n d, fun o l n d ho _ => mxCell_bytes uns uns (by rw [ho]; rfl) l n d,
      ?double, ?plain, ?scaled, ?idle, ?reads, ?clears, ?tile⟩
    case double =>
      intro o l n d ho
      simp only [mxCell, ho]
      rfl
    case plain =>
      intro o l n d fa fb h
      have kinds : ∀ p ∈ [(0x100, Fmt.bf16, Fmt.bf16), (0x101, Fmt.f16, Fmt.f16), (0x102, Fmt.e4m3, Fmt.e4m3), (0x103, Fmt.e4m3, Fmt.e5m2),
          (0x104, Fmt.e5m2, Fmt.e4m3), (0x105, Fmt.e5m2, Fmt.e5m2), (0x106, Fmt.e2m1, Fmt.e2m1)],
          mxKind p.1 = .float p.2.1 p.2.2 false ∧ MxKind.k (.float p.2.1 p.2.2 false) = 8 * (64 / p.2.1.width) := by decide
      exact mxCell_float (kinds _ h) l n d
    case scaled =>
      intro o l n d fa fb h
      have kinds : ∀ p ∈ [(0x10C, Fmt.e4m3, Fmt.e4m3), (0x10D, Fmt.e4m3, Fmt.e5m2), (0x10E, Fmt.e5m2, Fmt.e4m3), (0x10F, Fmt.e5m2, Fmt.e5m2),
          (0x110, Fmt.e2m1, Fmt.e2m1)],
          mxKind p.1 = .float p.2.1 p.2.2 true ∧ MxKind.k (.float p.2.1 p.2.2 true) = 8 * (64 / p.2.1.width) := by decide
      exact mxCell_float (kinds _ h) l n d
    case idle =>
      intro c s h
      change execMmaMemberComplete c s = _
      simp only [execMmaMemberComplete, State.mxComplete, h]
    case reads => exact fun c s o rest w bl b hq hw hb ho alone => congrArg _ (mxComplete_reads hq hw alone hb ho)
    case clears =>
      intro c s o rest w hq hw hop ho alone hd
      exact congrArg _ ((mxComplete_ready hq hw alone ho).trans (by rw [mxApply_clear w _ hop hd]))
    case tile =>
      intro o now i hi
      rw [getD_tileRead o now hi]
      split
      · exact .inl rfl
      · exact .inr rfl

end Sys2Proof.Machine

/-!
Scale records, `cvgo` and the convolution engine (R226–R229, R235–R244): what the two forms do once their operands are clear, and what a job of the
engine computes, stores and records.
-/

namespace Sys2Proof.Machine

theorem Warp.ended_logEntry (w : Warp) (e : LogEntry) : (w.logEntry e).ended = w.ended :=
  foldl_keep (·.ended) _ (fun a m => foldl_keep (·.ended) _ (fun b r => (onlyRegs_setEmpty b m true r).ended) _ a) _ w

/-! ## `scld` (R229) -/

section
variable {f : FormM} {s : State} {w : Warp} {bl : Block} (hc : s.curWarp = some w) (ht : w.tx = none) (acts : Warp.never f.h = false)
  (block : s.block? w.blk = some bl) (clear : w.Clear f.h (w.needs [(⟨f.addr, 0, f.fa⟩, 1), (f.data, 1)]) false false)
include hc ht acts block clear

theorem exec_scld_misaligned (odd : (w.ea f.addr f.off (w.active.headD 0) 0).toNat % 128 ≠ 0) :
    Traps (.scld f) s w { cls := 11, slot := w.active.headD 0, detail := w.ea f.addr f.off (w.active.headD 0) 0 } := by
  change execScld f s = _
  simp only [execScld, machineOpNT_cur _ hc ht, Warp.checked_clear clear, acts, block, bne_iff_ne.2 odd, Bool.false_eq_true, if_false, if_true]
  rfl

variable (aligned : (w.ea f.addr f.off (w.active.headD 0) 0).toNat % 128 = 0)
include aligned

theorem exec_scld_outside (out : bl.srec ≤ (w.scl (w.active.headD 0) f.data).toNat) : Traps (.scld f) s w { cls := 13 } := by
  change execScld f s = _
  simp only [execScld, machineOpNT_cur _ hc ht, Warp.checked_clear clear, acts, block, aligned, out, bne_self_eq_false, Bool.false_eq_true, if_false, if_true]
  rfl

variable (there : (w.scl (w.active.headD 0) f.data).toNat < bl.srec)
include there

theorem exec_scld_pending (pending : (w.scl (w.active.headD 0) f.data).toNat ∈ bl.scalePend) : Waits (.scld f) s w .record := by
  change execScld f s = _
  simp only [execScld, machineOpNT_cur _ hc ht, Warp.checked_clear clear, acts, block, aligned, Nat.not_le.2 there, List.contains_iff_mem.2 pending,
    bne_self_eq_false, Bool.false_eq_true, if_false, if_true]
  rfl

/-- `scld` takes a log entry for its 512 bytes, and its record is pending. -/
theorem exec_scld_goes {k : Nat} (loaded : (w.scl (w.active.headD 0) f.data).toNat ∉ bl.scalePend) (entry : w.freeEntry = some k)
    (mapped : ∀ i, i < 4 → s.window w.ctx (w.ea f.addr f.off (w.active.headD 0) 0 + BitVec.ofNat 64 (128 * i)) = none) :
    let m := w.active.headD 0
    let r := (w.scl m f.data).toNat
    exec (.scld f) s = .next ((s.modBlock w.blk fun b => { b with scalePend := b.scalePend ++ [r] }).retire w
      (w.logEntry (w.entryFor k (packM 0x112 f) { acc := .scales r, size := 512, attr := f.attr } true 0 []
        [{ slot := m, lane := 96, addr := w.ea f.addr f.off m 0 }]))) := by
  have nowhere : ((List.range 4).any fun i => (s.window w.ctx (w.ea f.addr f.off (w.active.headD 0) 0 + BitVec.ofNat 64 (128 * i))).isSome) = false := by
    rw [List.any_eq_false]
    intro i hi
    rw [mapped i (List.mem_range.1 hi)]
    exact Bool.false_ne_true
  have free : bl.scalePend.contains (w.scl (w.active.headD 0) f.data).toNat = false := by simpa using loaded
  change execScld f s = _
  simp only [execScld, machineOpNT_cur _ hc ht, Warp.checked_clear clear, acts, block, aligned, Nat.not_le.2 there, free, nowhere, entry,
    bne_self_eq_false, Bool.false_eq_true, if_false]
  exact congrArg _ (finish_fall ((w.ended_logEntry _).trans (ended_of_cur hc)))

end

/-! ## `cvgo` (R242) -/

/-- With its accesses performed and seen by every die, a warp has nothing left that `cvgo` waits for. -/
theorem cvgo_released {s : State} {w : Warp} (entry : w.freeEntry ≠ none) (done : ∀ e ∈ w.log, e.async = true) (spread : ∀ r ∈ s.replicas, r.owner ≠ w.key) :
    (w.freeEntry.isNone || (w.log.any fun e => !e.async) || s.replicas.any fun r => r.owner = w.key) = false := by
  simp only [Bool.or_eq_false_iff, Option.isNone_eq_false_iff, Option.isSome_iff_ne_none, List.any_eq_false, Bool.not_eq_true', decide_eq_true_eq, Bool.not_eq_false]
  exact ⟨⟨entry, done⟩, spread⟩

section
variable {f : FormR} {s : State} {w : Warp} {bl : Block} (hc : s.curWarp = some w) (ht : w.tx = none) (acts : Warp.never f.h = false)
  (block : s.block? w.blk = some bl) (clear : w.Clear f.h (w.needs [(f.a, 1)]) false false)
include hc ht acts block clear

theorem exec_cvgo_misaligned (odd : (w.scl (w.active.headD 0) f.a).toNat % 128 ≠ 0) :
    Traps (.cvgo f) s w { cls := 11, slot := w.active.headD 0, detail := w.scl (w.active.headD 0) f.a } := by
  change execCvgo f s = _
  simp only [execCvgo, machineOpNT_cur _ hc ht, Warp.checked_clear clear, acts, block, bne_iff_ne.2 odd, Bool.false_eq_true, if_false, if_true]
  rfl

variable (aligned : (w.scl (w.active.headD 0) f.a).toNat % 128 = 0)
include aligned

theorem exec_cvgo_outside (out : bl.ns < (w.scl (w.active.headD 0) f.a).toNat + 128) : Traps (.cvgo f) s w { cls := 12, slot := w.active.headD 0 } := by
  change execCvgo f s = _
  simp only [execCvgo, machineOpNT_cur _ hc ht, Warp.checked_clear clear, acts, block, aligned, out, bne_self_eq_false, Bool.false_eq_true, if_false, if_true]
  rfl

variable (inside : (w.scl (w.active.headD 0) f.a).toNat + 128 ≤ bl.ns)
include inside

theorem exec_cvgo_busy (busy : ∃ e ∈ w.log, e.async = false) : Waits (.cvgo f) s w .log := by
  have outstanding : (w.log.any fun e => !e.async) = true := by simpa using busy
  change execCvgo f s = _
  simp only [execCvgo, machineOpNT_cur _ hc ht, Warp.checked_clear clear, acts, block, aligned, Nat.not_lt.2 inside, outstanding, Bool.or_true, Bool.true_or,
    bne_self_eq_false, Bool.false_eq_true, if_false, if_true]
  rfl

variable (entry : w.freeEntry ≠ none) (done : ∀ e ∈ w.log, e.async = true) (spread : ∀ r ∈ s.replicas, r.owner ≠ w.key)
include entry done spread

theorem exec_cvgo_full (full : convRoom ≤ (tget [] s.conv (clusterOf w.core)).length) : Waits (.cvgo f) s w .queue := by
  change execCvgo f s = _
  simp only [execCvgo, machineOpNT_cur _ hc ht, Warp.checked_clear clear, acts, block, aligned, Nat.not_lt.2 inside, cvgo_released entry done spread, full,
    bne_self_eq_false, Bool.false_eq_true, if_false, if_true]
  rfl

/-- `cvgo` puts the job its record describes at the end of the queue of its cluster. -/
theorem exec_cvgo_goes (room : (tget [] s.conv (clusterOf w.core)).length < convRoom) :
    let a := w.scl (w.active.headD 0) f.a
    exec (.cvgo f) s = .next ((State.modBlock { s with conv := tset s.conv (clusterOf w.core) (tget [] s.conv (clusterOf w.core) ++ [{
      ctx := w.ctx, core := w.core, blk := some w.blk, place := a.toNat,
      fields := BitVec.ofNat 768 (leNat (bl.near.readBytes a.toNat 96)) }]) } w.blk fun b => { b with jobs := b.jobs + 1 }).retire w w) := by
  change execCvgo f s = _
  simp only [execCvgo, machineOpNT_cur _ hc ht, Warp.checked_clear clear, acts, block, aligned, Nat.not_lt.2 inside, cvgo_released entry done spread,
    Nat.not_le.2 room, bne_self_eq_false, Bool.false_eq_true, if_false]
  exact congrArg _ (finish_fall (ended_of_cur hc))

end

/-! ## What a job computes (R238, R240, R241, R244) -/

namespace State

theorem convRun_bad {j : ConvJob} (s : State) (h : j.bad = true) :
    s.convRun j = ([], { cls := 1, unit := 0x5C0 + clusterOf j.core, addr := j.place, nerr := 1 }) := by
  simp only [convRun, h, if_true]
  rfl

theorem convRun_good {s : State} {j : ConvJob} (h : j.bad = false) (all : ∀ p ∈ s.convOutputs j, ∃ bs, p.2 = .ok bs) :
    s.convRun j = ((s.convOutputs j).filterMap fun p => match p.2 with | .ok bs => some (p.1.toNat, bs) | .error _ => none, {}) := by
  simp only [convRun, h, Bool.false_eq_true, if_false]
  split
  · rfl
  · next e met =>
    obtain ⟨p, hp, he⟩ := List.exists_of_findSome?_eq_some met
    obtain ⟨bs, hbs⟩ := all p hp
    simp [hbs] at he

end State

/-- The output extent of an axis is the number of strides that fit, and no more (R238). -/
theorem ConvJob.outExt_bounds {j : ConvJob} {a : Nat} (h : j.str a ≠ 0) :
    (j.outExt a - 1) * j.str a ≤ ((j.ext a + j.plo a + j.phi a : Nat) : Int) - j.dil a * ((j.ker a : Int) - 1) - 1 ∧
      ((j.ext a + j.plo a + j.phi a : Nat) : Int) - j.dil a * ((j.ker a : Int) - 1) - 1 < j.outExt a * j.str a := by
  have positive : (0 : Int) < j.str a := Int.natCast_pos.2 (Nat.pos_of_ne_zero h)
  rw [ConvJob.outExt, if_neg h, Int.fdiv_eq_ediv_of_nonneg _ (Int.le_of_lt positive), Int.add_sub_cancel]
  exact ⟨Int.ediv_mul_le _ (Int.ne_of_gt positive), Int.lt_ediv_add_one_mul_self _ positive⟩

/-! ## The engine (R235, R243, R244) -/

/-- A job that belongs to no node brings its advance when its record names a timeline counter (R243). -/
theorem convAdvance_eq (j : ConvJob) (s : State) :
    (if j.node.isNone && j.fld 56 8 ≤ 63 then s.postAdvance j.ctx (j.fld 56 8) (BitVec.ofNat 64 (j.fld 64 64)) else s) =
      if j.node = none ∧ (j.fields.extractLsb' 56 8).toNat ≤ 63
        then s.postAdvance j.ctx (j.fields.extractLsb' 56 8).toNat (j.fields.extractLsb' 64 64) else s := by
  have due : (j.node.isNone && decide (j.fld 56 8 ≤ 63)) = true ↔ j.node = none ∧ (j.fields.extractLsb' 56 8).toNat ≤ 63 :=
    Bool.and_eq_true_iff.trans (and_congr Option.isNone_iff_eq_none decide_eq_true_iff)
  have value : BitVec.ofNat 64 (j.fld 64 64) = j.fields.extractLsb' 64 64 := by simp only [ConvJob.fld, BitVec.ofNat_toNat, BitVec.setWidth_eq]
  exact ite_congr (propext due) (fun _ => congrArg (fun v => s.postAdvance j.ctx (j.fld 56 8) v) value) fun _ => rfl

section
variable {cl : Nat} {s : State}

theorem exec_convJobStart_empty (empty : tget [] s.conv cl = []) : exec (.convJobStart cl) s = .next s := by
  change execConvJobStart cl s = _
  simp only [execConvJobStart, State.convStart, empty]

/-- A job that ends, or does not, gives withdrawn ones their turn (R245, R415). -/
theorem exec_convJobEnd (cl : Nat) (s : State) : exec (.convJobEnd cl) s = .next ((List.range 16).foldl State.requeueJobs (s.convEnd cl)) := rfl

theorem exec_convJobEnd_empty (empty : tget [] s.conv cl = []) :
    exec (.convJobEnd cl) s = .next ((List.range 16).foldl State.requeueJobs s) := by
  simp only [exec_convJobEnd, State.convEnd, empty]

variable {j : ConvJob} {rest : List ConvJob} (head : tget [] s.conv cl = j :: rest)
include head

theorem exec_convJobStart_starts (idle : j.started = false) : exec (.convJobStart cl) s =
    .next { s.convTouch j with conv := tset s.conv cl ({ j with started := true, outs := (s.convRun j).1, err := (s.convRun j).2 } :: rest) } := by
  change execConvJobStart cl s = _
  simp only [execConvJobStart, State.convStart, head, idle, Bool.false_eq_true, if_false]

theorem exec_convJobEnd_early (h : j.started = false ∨ s.convReady j = false) :
    exec (.convJobEnd cl) s = .next ((List.range 16).foldl State.requeueJobs s) := by
  have : (!j.started || !s.convReady j) = true := by simpa using h
  simp only [exec_convJobEnd, State.convEnd, head, this, if_true]

/-- A job that ends stores its outputs, then its record, then brings its advance (R243). -/
theorem exec_convJobEnd_ends (runs : j.started = true) (ready : s.convReady j = true) :
    let s1 := (j.outs.foldl (fun s o => s.agentStore j.ctx (BitVec.ofNat 64 o.1) o.2) s).convRecord j
    let s2 : State := { s1 with conv := tset s1.conv cl rest }
    let tl := (j.fields.extractLsb' 56 8).toNat
    let s3 := if j.node = none ∧ tl ≤ 63 then s2.postAdvance j.ctx tl (j.fields.extractLsb' 64 64) else s2
    exec (.convJobEnd cl) s = .next ((List.range 16).foldl State.requeueJobs
      (match j.node with | some n => s3.modNode n fun x => { x with busy := false, err := j.err } | none => s3)) := by
  intro s1 s2 tl s3
  have goes : (!j.started || !s.convReady j) = false := by simp [runs, ready]
  simp only [exec_convJobEnd, State.convEnd, head, goes, Bool.false_eq_true, if_false, convAdvance_eq]
  rfl

end

theorem State.convRecord_block {s : State} {j : ConvJob} {b : Nat} (h : j.blk = some b) : s.convRecord j = s.modBlock b fun x => { x with
    near := (x.near.writeBytes (j.place + 52) (leBytes 4 (if j.bad then 0 else j.outCount))).writeBytes (j.place + 96) j.err.bytes, jobs := x.jobs - 1 } := by
  simp only [State.convRecord, h]

/-- Settles O25: the two forms case by case, and the engine by the job at the head of its queue. -/
theorem convolutionForms : Obligations.ConvolutionForms := by
  unfold Obligations.ConvolutionForms
  intro again
  refine ⟨?_, ?_, ?_, ?_, ?_, ?_, fun s j => s.convRun_bad, fun s j => State.convRun_good, ?_, ?_, ?_, fun j a => ConvJob.outExt_bounds⟩
  · exact fun f s w bl k hc ht acts block clear => ⟨exec_scld_misaligned hc ht acts block clear, exec_scld_outside hc ht acts block clear,
      exec_scld_pending hc ht acts block clear⟩
  · exact fun f s w bl k hc ht acts block clear aligned there loaded mapped entry => exec_scld_goes hc ht acts block clear aligned there loaded entry mapped
  · exact fun f s w bl hc ht acts block clear => ⟨exec_cvgo_misaligned hc ht acts block clear, exec_cvgo_outside hc ht acts block clear,
      exec_cvgo_busy hc ht acts block clear, exec_cvgo_full hc ht acts block clear⟩
  · exact fun f s w bl hc ht acts block clear => exec_cvgo_goes hc ht acts block clear
  · exact fun cl s empty => ⟨exec_convJobStart_empty empty, exec_convJobEnd_empty empty⟩
  · exact fun cl s j rest head idle => ⟨exec_convJobEnd_early head (.inl idle), exec_convJobStart_starts head idle⟩
  · exact fun cl s j rest head _ held => exec_convJobEnd_early head (.inr held)
  · exact fun cl s j rest head runs ready => exec_convJobEnd_ends head runs ready
  · exact fun s j b => State.convRecord_block

end Sys2Proof.Machine

/-!
Physical memory (R256, R310, R334, R336, R416): where a byte is held does not move when bytes are written, no two addresses outside the cache
carve-out share a place, and what a performed write does to each other warp.
-/

namespace Sys2Proof.Machine

/-! ## Tables and lists of writes -/

/-- A change of one value that keeps `g` of it keeps `g` of every value read. -/
theorem tget_tmod_keep {α β : Type} (g : α → β) (d : α) (t : Tab α) (n m : Nat) (f : α → α) (h : ∀ a, g (f a) = g a) :
    g (tget d (tmod t n f) m) = g (tget d t m) := by
  induction t with
  | nil => rfl
  | cons p t ih =>
    obtain ⟨k, w⟩ := p
    by_cases hn : k = n <;> by_cases hm : k = m <;> simp_all [tmod, tget]

/-- A map that changes every value by `f` of its key changes the value found so. -/
theorem tfind_map {α : Type} {g : Nat × α → Nat × α} (f : Nat → α → α) (h : ∀ p, g p = (p.1, f p.1 p.2)) (t : Tab α) (k : Nat) :
    tfind (t.map g) k = (tfind t k).map (f k) := by
  induction t with
  | nil => rfl
  | cons p t ih =>
    obtain ⟨n, w⟩ := p
    rw [List.map_cons, h]
    by_cases hn : n = k
    · subst hn; simp [tfind]
    · simp only [tfind, hn, if_false, ih]

/-- Of writes that agree where they meet, each is read back. -/
theorem Memory.read_foldl_write_mem {β : Type} {m : Memory} (l : List β) (a : β → Nat) (v : β → Byte) (h : Memory.wf m = true)
    (agree : ∀ x ∈ l, ∀ y ∈ l, a x = a y → v x = v y) {x : β} (hx : x ∈ l) :
    Memory.read (l.foldl (fun m x => Memory.write m (a x) (v x)) m) (a x) = v x := by
  induction l generalizing m x with
  | nil => simp at hx
  | cons y t ih =>
    have later : ∀ z ∈ t, Memory.read (t.foldl (fun m x => Memory.write m (a x) (v x)) (Memory.write m (a y) (v y))) (a z) = v z :=
      fun z hz => ih (Memory.wf_write _ _ h) (fun p hp q hq => agree p (List.mem_cons_of_mem _ hp) q (List.mem_cons_of_mem _ hq)) hz
    rw [List.foldl_cons]
    by_cases again : ∃ z ∈ t, a z = a x
    · obtain ⟨z, hz, e⟩ := again
      rw [← e, later z hz]
      exact agree z (List.mem_cons_of_mem _ hz) x hx e
    · have last : x = y := (List.mem_cons.1 hx).resolve_right fun hx => again ⟨x, hx, rfl⟩
      subst last
      rw [Memory.read_foldl_write _ a v _ (Memory.wf_write _ _ h) fun z hz e => again ⟨z, hz, e⟩, Memory.read_write_same _ _ h]

namespace State

/-! ## Where a byte is held (R334, R336) -/

/-- The place of a byte depends on the size of the carve-out and on which sectors are valid with which tags. -/
theorem home_congr {s t : State} (size : t.mscSize = s.mscSize) (valid : ∀ n, (tget {} t.sectors n).v = (tget {} s.sectors n).v)
    (tag : ∀ n, (tget {} t.sectors n).tag = (tget {} s.sectors n).tag) (a : Nat) : t.home a = s.home a := by
  have carve : t.mscC = s.mscC := by rw [mscC, size]; rfl
  have start : t.carveLo = s.carveLo := by rw [carveLo, carve]; rfl
  unfold home fronted sectorOf
  rw [carve, start]
  dsimp only
  rw [valid, tag]

theorem home_dirtySector (s : State) (a b : Nat) : (s.dirtySector a).home b = s.home b := by
  unfold dirtySector
  split
  · rfl
  · exact home_congr (s := s) (by rfl) (fun n => tget_tmod_keep Sector.v _ _ _ n (fun m => { m with d := true }) fun _ => rfl)
      (fun n => tget_tmod_keep Sector.tag _ _ _ n (fun m => { m with d := true }) fun _ => rfl) b

/-- Writing bytes moves no byte. -/
theorem home_physWrite (s : State) (a : Nat) (bs : List Byte) (b : Nat) : (s.physWrite a bs).home b = s.home b :=
  foldl_keep (fun t : State => t.home b) dirtySector (fun t x => home_dirtySector t x b) (lineSpan a bs.length) s

/-- Outside the carve-out (R333): reached at its own address, or through the sector that fronts it. -/
def Direct (s : State) (a : Nat) : Prop := ¬(s.carveLo ≤ a ∧ a < hbmTop)

section
variable {s : State} (size : s.mscSize ≤ 4)
include size

theorem mscC_spec : 2048 ∣ s.mscC ∧ 0 < s.mscC ∧ s.mscC ≤ 2 ^ 38 := by
  have bound : 2 ^ s.mscSize ≤ 2 ^ 4 := Nat.pow_le_pow_right (by decide) size
  have pos : 0 < 2 ^ s.mscSize := Nat.two_pow_pos _
  unfold mscC
  omega

/-- A byte held away from its address is in the carve-out, at its offset there, under its tag. -/
theorem home_fronted {a : Nat} (away : s.home a ≠ a) :
    capLo ≤ a ∧ s.home a = s.carveLo + (a - capLo) % s.mscC ∧
      (tget {} s.sectors (s.home a - s.home a % 2048)).tag = (a - capLo) / s.mscC := by
  obtain ⟨dvd, pos, le⟩ := mscC_spec size
  unfold home at away ⊢
  split at away <;> [skip; exact absurd rfl away]
  dsimp only at away
  split at away <;> [skip; exact absurd rfl away]
  split at away <;> [skip; exact absurd rfl away]
  rename_i ranged isFronted held
  rw [if_pos ranged, if_pos isFronted]
  dsimp only
  rw [if_pos held]
  simp only [Bool.and_eq_true, decide_eq_true_eq] at ranged held
  have low : (s.carveLo + (a - capLo) % s.mscC) % 2048 = (a - capLo) % 2048 := by
    have := Nat.mod_mod_of_dvd (a - capLo) dvd
    unfold carveLo hbmTop
    omega
  have place : (s.sectorOf (a - capLo)).1 + (a - capLo) % 2048 = s.carveLo + (a - capLo) % s.mscC := by
    simp only [sectorOf]
    omega
  refine ⟨ranged.1, place, ?_⟩
  rw [place]
  exact held.2

theorem home_direct_inj {a b : Nat} (ha : s.Direct a) (hb : s.Direct b) (e : s.home a = s.home b) : a = b := by
  obtain ⟨-, pos, le⟩ := mscC_spec size
  have carved : ∀ x, s.carveLo ≤ s.carveLo + x % s.mscC ∧ s.carveLo + x % s.mscC < hbmTop := fun x => by
    have := Nat.mod_lt x pos
    unfold carveLo hbmTop
    omega
  by_cases awayA : s.home a = a <;> by_cases awayB : s.home b = b
  · rw [← awayA, e, awayB]
  · obtain ⟨-, pb, -⟩ := home_fronted size awayB
    exact absurd (carved (b - capLo)) (by rw [← pb, ← e, awayA]; exact ha)
  · obtain ⟨-, pa, -⟩ := home_fronted size awayA
    exact absurd (carved (a - capLo)) (by rw [← pa, e, awayB]; exact hb)
  · obtain ⟨la, pa, ta⟩ := home_fronted size awayA
    obtain ⟨lb, pb, tb⟩ := home_fronted size awayB
    have offset : (a - capLo) % s.mscC = (b - capLo) % s.mscC := by omega
    have tag : (a - capLo) / s.mscC = (b - capLo) / s.mscC := by rw [← ta, ← tb, e]
    have := Nat.div_add_mod (a - capLo) s.mscC
    rw [offset, tag, Nat.div_add_mod] at this
    omega

/-! ## Reading what was written -/

variable (wf : s.mem.wf = true) {a : Nat} {bs : List Byte} (into : ∀ i < bs.length, s.Direct (a + i))
include wf into

theorem read_physWrite_mem {i : Nat} (hi : i < bs.length) : (s.physWrite a bs).mem.read (s.home (a + i)) = bs[i] := by
  have mem : (i, bs[i]) ∈ (List.range bs.length).zip bs := List.mem_iff_getElem.2 ⟨i, by simpa using hi, by simp⟩
  have indexed : ∀ p ∈ (List.range bs.length).zip bs, ∃ h : p.1 < bs.length, p.2 = bs[p.1] := by
    intro p hp
    obtain ⟨j, hj, rfl⟩ := List.mem_iff_getElem.1 hp
    simp only [List.length_zip, List.length_range, Nat.min_self] at hj
    simp [hj]
  rw [mem_physWrite]
  refine Memory.read_foldl_write_mem _ (fun p : Nat × Byte => s.home (a + p.1)) (·.2) wf ?_ mem
  intro p hp q hq e
  obtain ⟨ip, vp⟩ := indexed p hp
  obtain ⟨iq, vq⟩ := indexed q hq
  have same : p.1 = q.1 := by have := home_direct_inj size (into _ ip) (into _ iq) e; omega
  simp only [vp, vq, same]

theorem read_physWrite_outside {b : Nat} (hb : s.Direct b) (out : b < a ∨ a + bs.length ≤ b) :
    (s.physWrite a bs).mem.read (s.home b) = s.mem.read (s.home b) := by
  rw [mem_physWrite]
  refine Memory.read_foldl_write _ (fun p : Nat × Byte => s.home (a + p.1)) (·.2) _ wf ?_
  intro p hp e
  have ip : p.1 < bs.length := List.mem_range.1 (List.of_mem_zip hp).1
  have := home_direct_inj size (into _ ip) hb e
  omega

theorem physRead_physWrite_same : (s.physWrite a bs).physRead a bs.length = bs := by
  refine List.ext_getElem (by simp [physRead]) fun i h1 h2 => ?_
  simp only [physRead, List.getElem_map, List.getElem_range, home_physWrite]
  exact read_physWrite_mem size wf into h2

theorem physRead_physWrite_outside {b : Nat} (hb : s.Direct b) (out : b < a ∨ a + bs.length ≤ b) :
    (s.physWrite a bs).physRead b 1 = s.physRead b 1 := by
  simp only [physRead, List.range_one, List.map_cons, List.map_nil, Nat.add_zero, home_physWrite]
  rw [read_physWrite_outside size wf into hb out]

end

/-- A line written whole is poisoned no longer (R256). -/
theorem home_notMem_poison_physWrite (s : State) {a : Nat} {bs : List Byte} {l : Nat} (hl : l ∈ lineSpan a bs.length) (lo : a ≤ l)
    (hi : l + 128 ≤ a + bs.length) : s.home l ∉ (s.physWrite a bs).poison := by
  intro h
  have kept := (List.mem_filter.1 h).2
  rw [Bool.not_eq_true', ← Bool.not_eq_true, List.contains_iff_mem] at kept
  refine kept (List.mem_map_of_mem (List.mem_filter.2 ⟨hl, ?_⟩))
  simp [lo, hi]

theorem warps_physWrite (s : State) (a : Nat) (bs : List Byte) : (s.physWrite a bs).warps = s.warps :=
  foldl_keep (·.warps) dirtySector (fun t x => by unfold dirtySector; split <;> rfl) (lineSpan a bs.length) s

end State

/-! ## What a performed access does to another warp (R310, R416) -/

/-- The warp as an access of another to a line leaves it: an open transaction that tracks the line will abort (R310). -/
def Warp.conflictAt (w : Warp) (line : Nat) (write : Bool) : Warp :=
  match w.tx with
  | none => w
  | some t =>
    if t.pending.isNone && (t.writes.contains line || (write && t.reads.contains line)) then
      { w with tx := some { t with pending := some (1, 0, tget 0 t.vlines line) } }
    else w

/-- The warp as a write of another to a line leaves its monitor (R416). -/
def Warp.wokenBy (w : Warp) (line : Nat) : Warp :=
  if w.mon.armed && w.mon.pline = line then { w with mon := { w.mon with written := true } } else w

/-- The warp as a write of another to a line leaves it. -/
def Warp.meetsWrite (w : Warp) (line : Nat) : Warp := (w.conflictAt line true).wokenBy line

namespace State

theorem warp?_conflicts (s : State) (who line : Nat) (write : Bool) (k : Nat) :
    (s.conflicts who line write).warp? k = (s.warp? k).map fun w => if k = who then w else w.conflictAt line write := by
  refine tfind_map (fun k w => if k = who then w else w.conflictAt line write) (fun p => ?_) s.warps k
  by_cases h : p.1 = who
  · rw [if_pos h, if_pos h]
  · simp only [h, if_false, Warp.conflictAt]
    cases p.2.tx with
    | none => rfl
    | some t => dsimp only; split <;> rfl

theorem warp?_wakeMonitors (s : State) (who line k : Nat) :
    (s.wakeMonitors who line).warp? k = (s.warp? k).map fun w => if k = who then w else w.wokenBy line := by
  refine tfind_map (fun k w => if k = who then w else w.wokenBy line) (fun p => ?_) s.warps k
  by_cases h : p.1 = who
  · simp only [bne_eq_false_iff_eq.2 h, Bool.false_and, if_pos h]
    rfl
  · simp only [bne_iff_ne.2 h, h, if_false, Bool.true_and, Warp.wokenBy]
    split <;> rfl

/-- A performed write reaches another warp line by line. -/
theorem warp?_perform (s : State) {who k : Nat} (a : Nat) (bs : List Byte) (other : k ≠ who) :
    (s.perform who a bs).warp? k = (s.warp? k).map fun w => (lineSpan a bs.length).foldl Warp.meetsWrite w := by
  have each : ∀ (l : List Nat) (t : State), (l.foldl (fun s x => (s.conflicts who x true).wakeMonitors who x) t).warp? k =
      (t.warp? k).map fun w => l.foldl Warp.meetsWrite w := by
    intro l
    induction l with
    | nil => intro t; simp
    | cons x l ih =>
      intro t
      rw [List.foldl_cons, ih, warp?_wakeMonitors, warp?_conflicts, Option.map_map, Option.map_map]
      simp only [other, if_false]
      rfl
  have start : ((s.physWrite a bs).callBack (who / 32) a bs.length).warp? k = s.warp? k := congrArg (tfind · k) (warps_physWrite s a bs)
  unfold perform
  rw [each, start]

end State

namespace Warp
variable (w : Warp) (line : Nat)

theorem meetsWrite_frame : w.meetsWrite line = { w with tx := (w.meetsWrite line).tx, mon := (w.meetsWrite line).mon } := by
  have conflict : w.conflictAt line true = { w with tx := (w.conflictAt line true).tx } := by
    unfold conflictAt; split <;> [rfl; split <;> rfl]
  have woken : ∀ x : Warp, x.wokenBy line = { x with mon := (x.wokenBy line).mon } := fun x => by unfold wokenBy; split <;> rfl
  unfold meetsWrite
  rw [woken, conflict]

@[simp] theorem tx_wokenBy : (w.wokenBy line).tx = w.tx := by unfold wokenBy; split <;> rfl
@[simp] theorem mon_conflictAt (write : Bool) : (w.conflictAt line write).mon = w.mon := by unfold conflictAt; split <;> [rfl; split <;> rfl]

theorem mon_meetsWrite : (w.meetsWrite line).mon = { w.mon with written := w.mon.written || (w.mon.armed && w.mon.pline = line) } := by
  unfold meetsWrite wokenBy
  rw [mon_conflictAt]
  split <;> rename_i h
  · simp [h]
  · rw [mon_conflictAt, eq_false_of_ne_true h, Bool.or_false]

theorem tx_meetsWrite : (w.meetsWrite line).tx = w.tx.map fun t =>
    if t.pending.isNone && (t.writes.contains line || t.reads.contains line) then { t with pending := some (1, 0, tget 0 t.vlines line) } else t := by
  unfold meetsWrite conflictAt
  rw [tx_wokenBy]
  split
  · next h => simp [h]
  · next t h => simp only [h, Option.map_some, Bool.true_and]; split <;> simp_all

variable {w}

theorem foldl_meetsWrite_frame (ls : List Nat) :
    let x := ls.foldl meetsWrite w
    x = { w with tx := x.tx, mon := x.mon } := by
  induction ls generalizing w with
  | nil => rfl
  | cons l ls ih => rw [List.foldl_cons, ih, meetsWrite_frame]

theorem mon_foldl_meetsWrite (ls : List Nat) :
    (ls.foldl meetsWrite w).mon = { w.mon with written := w.mon.written || (w.mon.armed && ls.contains w.mon.pline) } := by
  induction ls generalizing w with
  | nil => simp
  | cons l ls ih => rw [List.foldl_cons, ih, mon_meetsWrite]; simp [Bool.and_or_distrib_left, Bool.or_assoc]

/-- An abort once pending stays as it is. -/
theorem tx_foldl_meetsWrite_pending {t : Tx} (opened : w.tx = some t) (due : t.pending ≠ none) (ls : List Nat) : (ls.foldl meetsWrite w).tx = some t := by
  induction ls generalizing w with
  | nil => exact opened
  | cons l ls ih =>
    refine ih ?_
    rw [tx_meetsWrite, opened]
    simp [Option.isNone_iff_eq_none, due]

/-- A write to a line of its sets aborts an open transaction with cause 1 (R310). -/
theorem tx_foldl_meetsWrite {t : Tx} (opened : w.tx = some t) (quiet : t.pending = none) {ls : List Nat}
    (hit : ∃ l ∈ ls, l ∈ t.writes ∨ l ∈ t.reads) : ∃ u, (ls.foldl meetsWrite w).tx = some u ∧ ∃ va, u.pending = some (1, va) := by
  induction ls generalizing w with
  | nil => simp at hit
  | cons l ls ih =>
    have step := tx_meetsWrite w l
    rw [opened, Option.map_some] at step
    by_cases now : l ∈ t.writes ∨ l ∈ t.reads
    · rw [if_pos (by simpa [quiet] using now)] at step
      exact ⟨_, tx_foldl_meetsWrite_pending step (by simp) ls, _, rfl⟩
    · rw [if_neg (by simpa [quiet] using now)] at step
      obtain ⟨x, hx, tracked⟩ := hit
      refine ih step ⟨x, (List.mem_cons.1 hx).resolve_left ?_, tracked⟩
      rintro rfl
      exact now tracked

end Warp

/-- Settles O55: a write moves no byte and places outside the carve-out are distinct, so it is read back and nothing else changes; another warp meets
it line by line. -/
theorem physicalMemory : Obligations.PhysicalMemory := by
  unfold Obligations.PhysicalMemory
  refine ⟨fun s a bs canonical => ⟨?_, fun who => ?_⟩, fun s a bs canonical size into => ⟨?_, fun b hb out => ?_⟩,
    fun s a bs l hl lo hi => s.home_notMem_poison_physWrite hl lo hi, fun s who a k bs w held other => ?_⟩
  · exact State.canonical_of_blocks canonical (State.wf_physWrite a bs canonical.1) (State.blocks_physWrite s a bs)
  · exact (State.mem_others _ who _).1
  · exact State.physRead_physWrite_same size canonical.1 into
  · exact State.physRead_physWrite_outside size canonical.1 into hb out
  · have frame := Warp.foldl_meetsWrite_frame (w := w) (State.lineSpan a bs.length)
    refine ⟨(State.lineSpan a bs.length).foldl Warp.meetsWrite w, by rw [s.warp?_perform a bs other, held]; rfl, fun armed watched => ?_, ?_, ?_, ?_, ?_,
      fun t opened quiet hit => ?_⟩
    · rw [Warp.mon_foldl_meetsWrite]
      simp [armed, watched]
    · rw [frame]
    · rw [frame]
    · rw [frame]
    · rw [frame]
    · exact Warp.tx_foldl_meetsWrite opened quiet hit

end Sys2Proof.Machine

/-!
Reliability (R457, R59): a kill writes em, and a write of em holds the bit of an exited lane at 0.
-/

namespace Sys2Proof.Machine

/-- A warp of one member whose em holds the bits of lanes 0 and 1, though lane 0 has exited. -/
def exitedInEm : Warp := { banks := [{ exited := 1, s := [(253, 3)] }] }

/-- The machine that holds this warp alone. -/
def exitedInEmState : State := { warps := [(0, exitedInEm)] }

/-- Killing lane 1 takes the bit of lane 0 out of em as well. -/
theorem em_killLanes_exitedInEm : ((exitedInEmState.killLanes 0 0 2 8 0).warp? 0).map (fun w => (w.bank 0).em) = some 0 := by decide +kernel

/-- Refutes O43: `kill`'s clause says that em loses the lanes killed and keeps the rest, of any warp. Where em holds the bit of an exited lane, the
kill of another lane clears that bit too (R59), here 3 &&& ~2 = 1 is claimed and 0 is left. The clause lacks the premise that em and the exited
lanes are disjoint. -/
theorem not_reliabilityForms : ¬ Obligations.ReliabilityForms := by
  unfold Obligations.ReliabilityForms
  rintro ⟨-, -, -, -, -, kills, -⟩
  obtain ⟨w1, held, -, em, -⟩ := (kills exitedInEmState 0 0 2 8 0 exitedInEm rfl (by decide) rfl rfl rfl).2 (by decide) (by decide)
  have left := em_killLanes_exitedInEm
  rw [held, Option.map_some, Option.some.injEq, em] at left
  exact absurd left (by decide)

end Sys2Proof.Machine

/-!
Atomics as they are performed (R262, R270–R272): the value an operation leaves, the lanes of a combined request one after another, an ordered contribution,
and the release of a target's contributions.
-/

namespace Sys2Proof.Machine

/-! ## What a request meets -/

theorem agentEvent_of_key {ag : Agent} {k : Nat} (h : agentKey ag = some k) {s t : State} {f : Nat → State} (e : f k = t) :
    agentEvent ag s f = .next ((t.afterKill s k).settleFences k) := by
  simp only [agentEvent, h, e]

namespace State

/-- A part within one page granule is one piece. -/
theorem pieces_single {s : State} {w : Warp} {e : LogEntry} {p : Part} {n : Nat} {ph : Phys} (fits : p.addr.toNat % 65536 + n ≤ 65536)
    (located : s.locateByte w e p 0 = .ok ph) : s.pieces w e p n = some [(0, n, ph)] := by
  have inside : n ≤ 65536 - p.addr.toNat % 65536 := by omega
  have one : s.locate w e p n = .ok [(0, ph)] := by simp [locate, inside, located]
  simp [pieces, one]

/-! ## The value an unordered atomic leaves (R270) -/

/-- An integer of `n` bytes read as signed. -/
def signedOf (n x : Nat) : Int := if x < 2 ^ (8 * n) / 2 then (x : Int) else (x : Int) - (2 ^ (8 * n) : Nat)

theorem signedOf_atomNew_min (n old : Nat) (d : BitVec 128) :
    signedOf n (atomNew (.min true) n old d) = min (signedOf n old) (signedOf n (d.toNat % 2 ^ (8 * n))) := by
  have lesser : atomNew (.min true) n old d =
      if signedOf n (d.toNat % 2 ^ (8 * n)) < signedOf n old then d.toNat % 2 ^ (8 * n) else old := rfl
  rw [lesser]
  split <;> omega

theorem signedOf_atomNew_max (n old : Nat) (d : BitVec 128) :
    signedOf n (atomNew (.max true) n old d) = max (signedOf n old) (signedOf n (d.toNat % 2 ^ (8 * n))) := by
  have greater : atomNew (.max true) n old d =
      if signedOf n old < signedOf n (d.toNat % 2 ^ (8 * n)) then d.toNat % 2 ^ (8 * n) else old := rfl
  rw [greater]
  split <;> omega

/-! ## The lanes of a combined request, ascending (R262) -/

/-- The lanes of a request, ascending. -/
def lanesOf (ps : List Part) : List Nat := laneNumbers.filter fun l => ps.any fun p => p.lane = l

/-- The step of one lane: it receives what it finds. -/
def atomStep (op : AtomOp) (n : Nat) (ps : List Part) (acc : Nat × List (Nat × Nat)) (l : Nat) : Nat × List (Nat × Nat) :=
  match ps.find? fun p => p.lane = l with
  | some p => (atomNew op n acc.1 p.data, acc.2 ++ [(l, acc.1)])
  | none => acc

theorem atomSteps_eq (op : AtomOp) (n : Nat) (ps : List Part) (old : Nat) : atomSteps op n ps old = (lanesOf ps).foldl (atomStep op n ps) (old, []) := rfl

theorem mem_lanesOf {ps : List Part} {l : Nat} : l ∈ lanesOf ps ↔ l < 96 ∧ ∃ p ∈ ps, p.lane = l := by
  simp [lanesOf, laneNumbers]

/-- The lanes of a request are the ascending list of those it names. -/
theorem lanesOf_eq {ps : List Part} {ls : List Nat} (ascending : ls.Pairwise (· < ·)) (named : ∀ l, l ∈ ls ↔ l < 96 ∧ ∃ p ∈ ps, p.lane = l) :
    lanesOf ps = ls :=
  List.Pairwise.eq_of_mem_iff (List.pairwise_lt_range.filter _) ascending fun l => mem_lanesOf.trans (named l).symm

theorem atomStep_of_find {op : AtomOp} {n : Nat} {ps : List Part} {l : Nat} {p : Part} (h : (ps.find? fun p => p.lane = l) = some p)
    (acc : Nat × List (Nat × Nat)) : atomStep op n ps acc l = (atomNew op n acc.1 p.data, acc.2 ++ [(l, acc.1)]) := by
  simp only [atomStep, h]

/-- Every lane of a request receives a value, once and in its turn. -/
theorem lanes_atomSteps (op : AtomOp) (n : Nat) (ps : List Part) (old : Nat) : (atomSteps op n ps old).2.map (·.1) = lanesOf ps := by
  have each : ∀ (ls : List Nat) (acc : Nat × List (Nat × Nat)), (∀ l ∈ ls, ∃ p ∈ ps, p.lane = l) →
      (ls.foldl (atomStep op n ps) acc).2.map (·.1) = acc.2.map (·.1) ++ ls := by
    intro ls
    induction ls with
    | nil => intro acc _; simp
    | cons l ls ih =>
      intro acc named
      obtain ⟨p, hp⟩ : ∃ p, (ps.find? fun p => p.lane = l) = some p := by
        obtain ⟨p, hp, e⟩ := named l (List.mem_cons_self ..)
        exact Option.isSome_iff_exists.1 (List.find?_isSome.2 ⟨p, hp, by simpa using e⟩)
      rw [List.foldl_cons, ih _ fun x hx => named x (List.mem_cons_of_mem _ hx), atomStep_of_find hp]
      simp
  exact each _ _ fun l hl => (mem_lanesOf.1 hl).2

theorem find?_atomSteps_isSome (op : AtomOp) (n : Nat) (ps : List Part) (old l : Nat) :
    ((atomSteps op n ps old).2.find? fun x => x.1 = l).isSome = (l < 96 && ps.any fun p => p.lane = l) := by
  have received : (∃ x ∈ (atomSteps op n ps old).2, x.1 = l) ↔ l ∈ lanesOf ps := by
    rw [← lanes_atomSteps op n ps old, List.mem_map]
  rw [Bool.eq_iff_iff, List.find?_isSome]
  simpa [mem_lanesOf] using received

theorem atomSteps_one (op : AtomOp) (n : Nat) {p : Part} (old : Nat) (h : p.lane < 96) :
    atomSteps op n [p] old = (atomNew op n old p.data, [(p.lane, old)]) := by
  have lanes : lanesOf [p] = [p.lane] := lanesOf_eq (List.pairwise_singleton ..) fun l => by
    simp only [List.mem_singleton, exists_eq_left]
    omega
  rw [atomSteps_eq, lanes]
  exact atomStep_of_find (by simp) _

/-- Of two lanes the lower comes first, whatever the order of the parts. -/
theorem atomSteps_two (op : AtomOp) (n : Nat) {p q : Part} (old : Nat) (lt : p.lane < q.lane) (h : q.lane < 96) : atomSteps op n [q, p] old =
    (atomNew op n (atomNew op n old p.data) q.data, [(p.lane, old), (q.lane, atomNew op n old p.data)]) := by
  have lanes : lanesOf [q, p] = [p.lane, q.lane] := lanesOf_eq (by simpa using lt) fun l => by
    simp only [List.mem_cons, List.not_mem_nil, or_false, exists_eq_or_imp, exists_eq_left]
    omega
  have lower : ([q, p].find? fun x => x.lane = p.lane) = some p := by simp [lt.ne']
  have upper : ([q, p].find? fun x => x.lane = q.lane) = some q := by simp
  rw [atomSteps_eq, lanes, List.foldl_cons, atomStep_of_find lower, List.foldl_cons, atomStep_of_find upper]
  rfl

/-! ## A combined request is applied (R262) -/

/-- The parts of an entry that a request for an address names, for one member or for an access made once. -/
def namedAt (e : LogEntry) (m : Nat) (addr : Word) : List Part := e.parts.filter fun p => (e.shared || p.slot = m) && p.addr = addr && !p.ok

/-- A lane of an atomic receives the value it found, and its part is complete. -/
def receiveAtom (k : Nat) (e : LogEntry) (n : Nat) (olds : List (Nat × Nat)) (s : State) (p : Part) : State :=
  let v := ((olds.find? fun x => x.1 = p.lane).map (·.2)).getD 0
  State.completePart (if e.dst = 0x300 then s else s.modWarp k fun w =>
    (List.range (n / 4)).foldl (fun w j => w.vput p.slot (e.dst + j) (1#96 <<< p.lane) (List.replicate 96 (BitVec.ofNat 32 (v / 2 ^ (32 * j))))) w)
      k e.seq p (BitVec.ofNat 128 v)

theorem atomicApply_performs {s : State} {k i m n : Nat} {addr : Word} {w : Warp} {e : LogEntry} {op : AtomOp} {p0 : Part} {ph : Phys}
    (entry : s.entryOf k i = some (w, e)) (acc : e.acc = .atomic op n) (plain : e.tx = false) (first : (namedAt e m addr).head? = some p0)
    (ready : ∀ p ∈ namedAt e m addr, s.ready w e p = true) (size : n = 4 ∨ n = 8) (aligned : addr.toNat % n = 0)
    (located : s.locateByte w e p0 0 = .ok ph)
    (clean : ((s.fillFor w p0 [(0, n, ph)]).uncached ph n true true).poisoned ph.pa n = false) :
    let s1 := (s.fillFor w p0 [(0, n, ph)]).uncached ph n true true
    let r := atomSteps op n (namedAt e m addr) (leNat (s1.physRead ph.pa n))
    let s2 := (s1.readBy k ph.pa n).writePart w e p0 [(0, n, ph)] (leBytes n r.1)
    s.atomicApply k i m addr = (namedAt e m addr).foldl (receiveAtom k e n r.2) (if e.acquires then s2.acquireBy k w.core e.scope else s2) := by
  intro s1 r s2
  obtain ⟨rest, named⟩ := List.head?_eq_some_iff.1 first
  have at_addr : p0.addr = addr := by
    have := List.mem_filter.1 (List.mem_of_head? first)
    simp only [Bool.and_eq_true, decide_eq_true_eq] at this
    exact this.2.1.2
  have fits : addr.toNat % 65536 + n ≤ 65536 := by rcases size with rfl | rfl <;> omega
  have piece : s.pieces w e p0 n = some [(0, n, ph)] := pieces_single (at_addr ▸ fits) located
  have all : ((p0 :: rest).all fun p => s.ready w e p) = true := List.all_eq_true.2 (named ▸ ready)
  simp only [r, s2, s1, named]
  unfold namedAt at named
  simp only [atomicApply, entry, acc, named, all, piece, plain, clean, List.any_cons, List.any_nil, Bool.or_self, List.foldl_cons, List.foldl_nil, List.flatMap_cons,
    List.flatMap_nil, List.append_nil, Bool.not_true, Bool.false_eq_true, if_false]
  rfl

/-! ## An ordered contribution (R271) -/

/-- The contribution of one live lane to a target that holds none becomes its only entry. -/
theorem contribute_first {s : State} {k i m : Nat} {addr : Word} {w : Warp} {e : LogEntry} {dbl : Bool} {ph : Phys} {b : Block} {p : Part}
    (entry : s.entryOf k i = some (w, e)) (acc : e.acc = .ordered dbl) (named : (e.parts.filter fun p => p.slot = m && p.addr = addr && !p.ok) = [p])
    (located : s.locateByte w e p 0 = .ok ph) (block : s.block? w.blk = some b) (fits : s.ordClash w dbl ph.pa = false)
    (single : Leaf.prop ph.leaf = false) (room : s.sliceHeld (homeSlice ph.pa) < 4096) (live : p.dead = false) (ready : s.ready w e p = true)
    (none : tfind s.ordq ph.pa = none) :
    s.contribute k i m addr = ((({ s.fillFor w p [(0, 0, ph)] with
      ordq := tset s.ordq ph.pa { dbl := dbl, node := b.node, entries := [⟨[w.info.b, w.info.pos, e.tag, (midxOf w m).toNat],
        BitVec.ofNat 64 (p.data.toNat % 2 ^ (if dbl then Fmt.f64 else Fmt.f32).width), w.blk⟩] } } : State).modWarp k
      fun w => w.markFull e.seq false).completePart k e.seq p p.data) := by
  simp [contribute, entry, acc, named, located, block, fits, ordPage, single, Nat.not_le.2 room, live, ready, none]

/-! ## A release (R272) -/

theorem ordRelease_nil {q : OrdQueue} (old : Nat) (h : q.entries = []) :
    ordRelease q old = (old, BitVec.ofNat 64 ((if q.dead then 2 ^ 32 else 0) + (if q.abort then 2 ^ 33 else 0))) := by
  simp [ordRelease, h]

/-- Two contributions are added in the order of their keys, however they came. -/
theorem ordRelease_two {q : OrdQueue} {a b : OrdEntry} (old : Nat) (lt : keyLt a.key b.key = true) (nlt : keyLt b.key a.key = false)
    (held : q.entries = [b, a] ∨ q.entries = [a, b]) :
    let f := if q.dbl then Fmt.f64 else Fmt.f32
    ordRelease q old = (fpAdd f {} (fpAdd f {} old a.value.toNat) b.value.toNat,
      BitVec.ofNat 64 (2 + (if q.dead then 2 ^ 32 else 0) + (if q.abort then 2 ^ 33 else 0))) := by
  have sorted : q.entries.foldr ordInsert [] = [a, b] := by
    rcases held with h | h <;> simp [h, ordInsert, lt, nlt]
  have two : q.entries.length = 2 := by rcases held with h | h <;> simp [h]
  simp only [ordRelease, sorted, two, List.foldl_cons, List.foldl_nil]

/-- A release that finds no contribution reads 0 and leaves memory as it is. -/
theorem releasePart_empty {s : State} {k i : Nat} {p : Part} {w : Warp} {e : LogEntry} {ps : List (Nat × Nat × Phys)}
    (entry : s.entryOf k i = some (w, e)) (mem : p ∈ e.parts) (acc : e.acc = .release) (ready : s.ready w e p = true) (own : e.shared = false)
    (pieces : s.pieces w e p (s.partSize w e p) = some ps) (none : tfind s.ordq ((ps.map fun q => q.2.2.pa).headD 0) = none) :
    s.releasePart k i p = (((({ s.fillFor w p ps with ordq := tdel (s.fillFor w p ps).ordq ((ps.map fun q => q.2.2.pa).headD 0) } : State).acquireBy k w.core 4).modWarp k
      fun w => w.sput p.slot e.dst 0).completePart k e.seq p 0) := by
  simp only [releasePart, entry, List.contains_iff_mem.2 mem, acc, ready, own, pieces, none, bne_self_eq_false, Bool.not_true, Bool.or_self, Bool.false_and,
    Bool.false_eq_true, if_false, if_true, List.foldl_cons, List.foldl_nil]
  rfl

end State

/-- Settles O22: the table of operations case by case, the lanes of a request by the ascending list they make, and each event by the lemma on what it
performs. That every lane of an access with common operands takes a step of its own is the model's choice (log entry 11). -/
theorem atomicSteps : Obligations.AtomicSteps := by
  unfold Obligations.AtomicSteps
  refine ⟨⟨fun ag e m addr s k h => agentEvent_of_key h rfl, ?_, State.find?_atomSteps_isSome, fun op n p old h => State.atomSteps_one op n old h,
    fun op n p q old lt h => State.atomSteps_two op n old lt h, ?_⟩,
    fun ag e m addr s k h => agentEvent_of_key h rfl, ?_, fun q old h => State.ordRelease_nil old h,
    fun q a b old lt nlt held => State.ordRelease_two old lt nlt held,
    fun s k i p w e ps entry mem acc ready own pieces none => State.releasePart_empty entry mem acc ready own pieces none⟩
  · intro n old d size below
    refine ⟨rfl, rfl, rfl, rfl, rfl, rfl, rfl, ?_, ?_, rfl, rfl⟩
    · simpa [State.signedOf] using State.signedOf_atomNew_min n old d
    · simpa [State.signedOf] using State.signedOf_atomNew_max n old d
  · intro ag s k i m addr w e op n p0 ph agent entry acc plain ps first ready size aligned located s1 clean
    exact agentEvent_of_key agent <| State.atomicApply_performs entry acc plain first ready size aligned located clean
  · intro ag s k i m addr w e dbl ph b p agent entry acc named located block fits single room live ready none
    exact agentEvent_of_key agent <| State.contribute_first entry acc named located block fits single room live ready none

end Sys2Proof.Machine

/-!
Accesses as they issue (R29, R106, R264, R267): what a per-lane and a uniform form do once their checks are clear, in the order of R264.
-/

namespace Sys2Proof.Machine

/-! ## Requests -/

/-- The destination is a common vector register. -/
def Req.intoCommon (r : Req) (w : Warp) : Bool := match r.dst with | .vec n => w.commonV (w.xlat n.toNat) | _ => false

/-- The destination of a uniform form is common. -/
def Req.intoShared (r : Req) : Bool := match r.dst with | .scl n => n.toNat < 128 | .spc _ => true | _ => false

/-- The parts a per-lane access makes: a dead lane that is misaligned makes none. -/
def laneParts (w : Warp) (h : Hdr) (r : Req) (align : Nat) (addr : Nat → Nat → Word) (data : Nat → Nat → BitVec 128) : List Part :=
  (lanePartsOf w h r.deads addr data).filter fun p => !p.dead || p.addr.toNat % align = 0

/-- A part lies in a per-member window (R325). -/
def windowed (s : State) (w : Warp) (r : Req) (ps : List Part) : Bool := !r.near && ps.any fun p => !p.dead && (s.window w.ctx p.addr).isSome

theorem Warp.OnlyRegs.freeEntry {w w' : Warp} (h : w.OnlyRegs w') : w'.freeEntry = w.freeEntry := by rw [h]; rfl
theorem Warp.OnlyRegs.log {w w' : Warp} (h : w.OnlyRegs w') : w'.log = w.log := by rw [h]

/-- An access that is entered in the operand log leaves the earlier entries as they are. -/
theorem Warp.log_logEntry (w : Warp) (e : LogEntry) : (w.logEntry e).log = w.log ++ [e] :=
  congrArg (· ++ [e]) (foldl_keep (·.log) _ (fun a m => foldl_keep (·.log) _ (fun b r => (onlyRegs_setEmpty b m true r).log) _ a) _ w)

/-! ## A per-lane access (R264) -/

section
variable {s : State} {w : Warp} {word : BitVec 96} {h : Hdr} {os : List Warp.Operand} {r : Req} {align : Nat} {addr : Nat → Nat → Word}
  {data : Nat → Nat → BitVec 128} {tag : Nat}
  (clear : w.Clear h (w.needs os ++ w.needsDst r.regs r.dst) (w.misfits os || w.misfit r.regs r.dst)
    (r.intoCommon w && !os.all fun o => w.common? o.1.spec))
include clear

theorem issueAt_askew {p : Part} (askew : firstPart (laneParts w h r align addr data) (fun p => p.addr.toNat % align != 0) = some p) :
    issueAt s w word h os r align addr data tag = .trap w { cls := 11, slot := p.slot, lane := p.lane, detail := p.addr } := by
  unfold laneParts at askew
  exact (Warp.checked_clear clear).trans (by simp only [askew])

variable (straight : firstPart (laneParts w h r align addr data) (fun p => p.addr.toNat % align != 0) = none)
include straight

theorem issueAt_beyond {p : Part}
    (beyond : firstPart (laneParts w h r align addr data) (fun p => r.near && s.nearSize w < p.addr.toNat + r.size) = some p) :
    issueAt s w word h os r align addr data tag = .trap w { cls := 12, slot := p.slot, lane := p.lane } := by
  unfold laneParts at straight beyond
  exact (Warp.checked_clear clear).trans (by simp only [straight, beyond])

variable (within : firstPart (laneParts w h r align addr data) (fun p => r.near && s.nearSize w < p.addr.toNat + r.size) = none)
include within

theorem issueAt_window (refused : (r.intoCommon w && windowed s w r (laneParts w h r align addr data)) = true) :
    issueAt s w word h os r align addr data tag = .trap w { cls := 4 } := by
  unfold laneParts at straight within
  refine (Warp.checked_clear clear).trans ?_
  simp only [straight, within]
  exact if_pos refused

variable (allowed : (r.intoCommon w && windowed s w r (laneParts w h r align addr data)) = false)
include allowed

theorem issueAt_nothing (nothing : laneParts w h r align addr data = []) : issueAt s w word h os r align addr data tag = .fall (w.noteDead h os) := by
  unfold laneParts at straight within
  refine (Warp.checked_clear clear).trans ?_
  simp only [straight, within]
  exact (if_neg (Bool.not_eq_true _ ▸ allowed)).trans (if_pos nothing)

variable (something : laneParts w h r align addr data ≠ [])
include something

theorem issueAt_full (full : w.freeEntry = none) : issueAt s w word h os r align addr data tag = .wait .log := by
  have full' : (w.noteDead h os).freeEntry = none := (Warp.onlyRegs_noteDead w h os).freeEntry.trans full
  unfold laneParts at straight within
  refine (Warp.checked_clear clear).trans ?_
  simp only [straight, within, full']
  exact (if_neg (Bool.not_eq_true _ ▸ allowed)).trans (if_neg something)

theorem issueAt_enters {k : Nat} (free : w.freeEntry = some k) : issueAt s w word h os r align addr data tag =
    .fall ((w.noteDead h os).logEntry ((w.noteDead h os).entryFor k word r
      ((os.all fun o => w.common? o.1.spec) && !windowed s w r (laneParts w h r align addr data) && !r.perMember) tag [] (laneParts w h r align addr data))) := by
  have free' : (w.noteDead h os).freeEntry = some k := (Warp.onlyRegs_noteDead w h os).freeEntry.trans free
  unfold laneParts at straight within
  refine (Warp.checked_clear clear).trans ?_
  simp only [straight, within, free']
  exact (if_neg (Bool.not_eq_true _ ▸ allowed)).trans (if_neg something)

end

/-- What falls through goes on with `post`; every other end stays. -/
def WRes.onFall (post : Warp → Warp) : WRes → WRes
  | .fall w => .fall (post w)
  | r => r

theorem Warp.ended_logEntry_noteDead (w : Warp) (h : Hdr) (os : List Warp.Operand) (e : LogEntry) : ((w.noteDead h os).logEntry e).ended = w.ended :=
  ((w.noteDead h os).ended_logEntry e).trans (onlyRegs_noteDead w h os).ended

/-- A form that issues a per-lane access and then does `post`. -/
theorem laneAccess_of {i : Instr} {word : BitVec 96} {h : Hdr} {os : List Warp.Operand} {req : Warp → Req} {align : Nat} {addr : Warp → Nat → Nat → Word}
    {data : Warp → Nat → Nat → BitVec 128} {tag : Warp → Nat} {side : Warp → Prop} {post : Warp → Warp}
    (e : ∀ s w, s.curWarp = some w → side w →
      exec i s = .next (s.finish w ((issueAt s w word h os (req w) align (addr w) (data w) (tag w)).onFall post)))
    (alive : ∀ w, (post w).ended = w.ended) : LaneAccess i word h os req align addr data tag side post := by
  intro s w hc hs r common dstCommon parts windows askew beyond clear
  have ends : ∀ {x : WRes}, issueAt s w word h os r align (addr w) (data w) (tag w) = x → exec i s = .next (s.finish w (x.onFall post)) :=
    fun issue => issue ▸ e s w hc hs
  have retires : ∀ {w1 : Warp}, issueAt s w word h os r align (addr w) (data w) (tag w) = .fall w1 → w1.ended = w.ended → Retires i s w (post w1) :=
    fun issue same => (ends issue).trans (congrArg _ (finish_fall ((alive _).trans (same.trans (ended_of_cur hc)))))
  refine ⟨fun p first => ends (issueAt_askew clear first), fun p straight first => ends (issueAt_beyond clear straight first),
    fun straight within into wide => ends (issueAt_window clear straight within (Bool.and_eq_true_iff.2 ⟨into, wide⟩)),
    fun straight within may => ⟨?_, ?_, ?_⟩⟩
  all_goals have allowed : (dstCommon && windows) = false := Bool.and_eq_false_iff.2 may
  · exact fun nothing => retires (issueAt_nothing clear straight within allowed nothing) (Warp.onlyRegs_noteDead w h os).ended
  · exact fun something full => ends (issueAt_full clear straight within allowed something full)
  · exact fun k something free => retires (issueAt_enters clear straight within allowed something free) (w.ended_logEntry_noteDead h os _)

/-! ## A uniform access (R264, R267) -/

/-- The members a uniform access is made for. -/
def onceMembers (w : Warp) (r : Req) : List Nat := if w.active = [] then [] else if r.single then [0] else w.active

/-- The operands of a uniform form. -/
def onceOps (f : FormM) (r : Req) : List Warp.Operand := (⟨f.addr, 0, f.fa⟩, 1) :: (match r.data with | some o => [o] | none => [])

/-- A member's address lies in a per-member window (R325). -/
def onceWindowed (s : State) (w : Warp) (f : FormM) (r : Req) : Bool :=
  !r.near && (onceMembers w r).any fun m => (s.window w.ctx (w.ea f.addr f.off m 0)).isSome

/-- Outside near scratch no member is beyond its end. -/
theorem onceMembers_within (s : State) (w : Warp) (f : FormM) {r : Req} (far : r.near = false) :
    ((onceMembers w r).find? fun m => r.near && s.nearSize w < (w.ea f.addr f.off m 0).toNat + r.size) = none := by
  simp [far]

section
variable {s : State} {w : Warp} {word : BitVec 96} {f : FormM} {r : Req} {align : Nat} {data : Nat → BitVec 128} {blob : List Byte} {tag : Nat}
  (clear : w.Clear f.h (w.needs (onceOps f r) ++ w.needsDst r.regs r.dst) false (r.intoShared && !w.common? f.addr)) (far : r.near = false)
include clear

theorem issueOnce_never (never : Warp.never f.h = true) : issueOnce s w word f r align data blob tag = .fall w :=
  (Warp.checked_clear clear).trans (if_pos never)

variable (acts : Warp.never f.h = false)
include acts

theorem issueOnce_askew {m : Nat} (askew : ((onceMembers w r).find? fun m => (w.ea f.addr f.off m 0).toNat % align != 0) = some m) :
    issueOnce s w word f r align data blob tag = .trap w { cls := 11, slot := m, detail := w.ea f.addr f.off m 0 } := by
  unfold onceMembers at askew
  refine (Warp.checked_clear clear).trans ((if_neg (Bool.not_eq_true _ ▸ acts)).trans ?_)
  simp only [askew]

variable (straight : ((onceMembers w r).find? fun m => (w.ea f.addr f.off m 0).toNat % align != 0) = none)

include straight far

theorem issueOnce_window (refused : (r.intoShared && onceWindowed s w f r) = true) :
    issueOnce s w word f r align data blob tag = .trap w { cls := 4 } := by
  have within := onceMembers_within s w f far
  unfold onceMembers at straight within
  refine (Warp.checked_clear clear).trans ((if_neg (Bool.not_eq_true _ ▸ acts)).trans ?_)
  simp only [straight, within]
  exact if_pos refused

variable (allowed : (r.intoShared && onceWindowed s w f r) = false)
include allowed

theorem issueOnce_nothing (nothing : onceMembers w r = []) : issueOnce s w word f r align data blob tag = .fall w := by
  have within := onceMembers_within s w f far
  unfold onceMembers at straight within
  refine (Warp.checked_clear clear).trans ((if_neg (Bool.not_eq_true _ ▸ acts)).trans ?_)
  simp only [straight, within]
  exact (if_neg (Bool.not_eq_true _ ▸ allowed)).trans (if_pos nothing)

variable (something : onceMembers w r ≠ [])
include something

theorem issueOnce_full (full : w.freeEntry = none) : issueOnce s w word f r align data blob tag = .wait .log := by
  have within := onceMembers_within s w f far
  unfold onceMembers at straight within
  refine (Warp.checked_clear clear).trans ((if_neg (Bool.not_eq_true _ ▸ acts)).trans ?_)
  simp only [straight, within, full]
  exact (if_neg (Bool.not_eq_true _ ▸ allowed)).trans (if_neg something)

theorem issueOnce_enters {k : Nat} (free : w.freeEntry = some k) : issueOnce s w word f r align data blob tag =
    .fall (w.logEntry (w.entryFor k word r (((onceOps f r).all fun o => w.common? o.1.spec) && !onceWindowed s w f r && !r.perMember) tag blob
      ((onceMembers w r).map fun m => { slot := m, lane := 96, addr := w.ea f.addr f.off m 0, data := data m }))) := by
  have within := onceMembers_within s w f far
  unfold onceMembers at straight within
  refine (Warp.checked_clear clear).trans ((if_neg (Bool.not_eq_true _ ▸ acts)).trans ?_)
  simp only [straight, within, free]
  exact (if_neg (Bool.not_eq_true _ ▸ allowed)).trans (if_neg something)

end

/-- A form that issues a uniform access. -/
theorem onceAccess_of {i : Instr} {word : BitVec 96} {f : FormM} {req : Warp → Req} {align : Nat} {data : Warp → Nat → BitVec 128}
    {blob : Warp → List Byte} {side : Warp → Prop}
    (e : ∀ s w, s.curWarp = some w → side w → exec i s = .next (s.finish w (issueOnce s w word f (req w) align (data w) (blob w) 0))) :
    OnceAccess i word f req align data blob side id := by
  intro s w hc hs r os common dstCommon base ms windows askew clear far
  have ends : ∀ {x : WRes}, issueOnce s w word f r align (data w) (blob w) 0 = x → exec i s = .next (s.finish w x) := fun issue => issue ▸ e s w hc hs
  have retires : ∀ {w1 : Warp}, issueOnce s w word f r align (data w) (blob w) 0 = .fall w1 → w1.ended = w.ended → Retires i s w w1 :=
    fun issue same => (ends issue).trans (congrArg _ (finish_fall (same.trans (ended_of_cur hc))))
  refine ⟨fun never => retires (issueOnce_never clear never) rfl, fun m acts first => ends (issueOnce_askew clear acts first),
    fun acts straight into wide => ends (issueOnce_window clear far acts straight (Bool.and_eq_true_iff.2 ⟨into, wide⟩)),
    fun acts straight may => ⟨?_, ?_, ?_⟩⟩
  all_goals have allowed : (dstCommon && windows) = false := Bool.and_eq_false_iff.2 may
  · exact fun nothing => retires (issueOnce_nothing clear far acts straight allowed nothing) rfl
  · exact fun something full => ends (issueOnce_full clear far acts straight allowed something full)
  · exact fun k something free => retires (issueOnce_enters clear far acts straight allowed something free) (w.ended_logEntry _)

end Sys2Proof.Machine

/-!
Atomics, `ordrel`, prefetch and cache control as they issue (R269–R272).
-/

namespace Sys2Proof.Machine

theorem accessOp_cur {s : State} {w : Warp} (f : State → Warp → WRes) (hc : s.curWarp = some w) : accessOp s f = .next (s.finish w (f s w)) :=
  machineOp_cur _ hc

theorem accessOpNT_cur {s : State} {w : Warp} (f : State → Warp → WRes) (hc : s.curWarp = some w) (ht : w.tx = none) :
    accessOpNT s f = .next (s.finish w (f s w)) :=
  machineOpNT_cur _ hc ht

/-! ## Unordered and ordered atomics (R270, R271) -/

theorem WRes.onFall_id (r : WRes) : r.onFall id = r := by cases r <;> rfl

/-- An unordered atomic is a per-lane access. -/
theorem laneAccess_atomForm {mk : FormM → Instr} {opc : BitVec 9} {op : AtomOp} {n k : Nat} {data : FormM → Warp → Nat → Nat → BitVec 128}
    (e : ∀ f s, exec (mk f) s = atomForm opc op n k f (data f) s) (f : FormM) :
    LaneAccess (mk f) (packM opc f) f.h [Warp.addrOperand f, (f.data, k)]
      (fun _ => { acc := .atomic op n, size := n, attr := f.attr, regs := (match f.dst with | .vec _ => n / 4 | _ => 0), dst := f.dst, data := some (f.data, k) }) n
      (fun w => w.ea f.addr f.off) (data f) (fun _ => 0) (fun _ => True) id := by
  refine laneAccess_of (fun s w hc _ => ?_) fun _ => rfl
  rw [WRes.onFall_id, e]
  exact accessOp_cur _ hc

/-- Integer data of four bytes are the lane's 32 bits. -/
theorem dataInt_four (w : Warp) (f : FormM) : dataInt w f 4 = fun m l => BitVec.ofNat 128 (w.int32 m f.data l).toNat := by
  funext m l
  rw [dataInt, Nat.mod_eq_of_lt (w.int32 m f.data l).isLt]

/-- As `laneAccess_atomForm`, with integer data of four bytes. -/
theorem laneAccess_atomWord {mk : FormM → Instr} {opc : BitVec 9} {op : AtomOp} (e : ∀ f s, exec (mk f) s = atomForm opc op 4 1 f (fun w => dataInt w f 4) s)
    (f : FormM) : LaneAccess (mk f) (packM opc f) f.h [Warp.addrOperand f, (f.data, 1)]
      (fun _ => { acc := .atomic op 4, size := 4, attr := f.attr, regs := (match f.dst with | .vec _ => 4 / 4 | _ => 0), dst := f.dst, data := some (f.data, 1) }) 4
      (fun w => w.ea f.addr f.off) (fun w m l => BitVec.ofNat 128 (w.int32 m f.data l).toNat) (fun _ => 0) (fun _ => True) id :=
  laneAccess_atomForm (data := fun f w m l => BitVec.ofNat 128 (w.int32 m f.data l).toNat)
    (fun f s => (e f s).trans (congrArg (atomForm opc op 4 1 f · s) (funext fun w => dataInt_four w f))) f

/-- An ordered atomic is a per-lane access that counts once in the warp's n. -/
theorem laneAccess_orderedForm {mk : FormM → Instr} {opc : BitVec 9} {dbl : Bool} {n k : Nat} {fmt : Fmt} (e : ∀ f s, exec (mk f) s = orderedForm opc dbl f s)
    (size : n = if dbl then 8 else 4) (width : k = n / 4) (format : fmt = if dbl then Fmt.f64 else Fmt.f32) (f : FormM) :
    LaneAccess (mk f) (packM opc f) f.h [Warp.addrOperand f, (f.data, k)]
      (fun _ => { acc := .ordered dbl, size := n, attr := f.attr, data := some (f.data, k), deads := true, perMember := true }) n
      (fun w => w.ea f.addr f.off) (fun w m l => BitVec.ofNat 128 (w.flt fmt m f.data l 0)) (fun w => w.ordN) (fun w => w.tx = none)
      fun w => { w with ordN := w.ordN + 1 } := by
  refine laneAccess_of (fun s w hc ht => ?_) fun _ => rfl
  have counted : ∀ r : WRes, (match r with | .fall w1 => .fall { w1 with ordN := w1.ordN + 1 } | x => x) =
      r.onFall fun w => { w with ordN := w.ordN + 1 } := fun r => by cases r <;> rfl
  subst size width format
  refine (e f s).trans ((accessOpNT_cur _ hc ht).trans (congrArg (fun r => Host.Outcome.next (s.finish w r)) ?_))
  cases dbl <;> exact counted _

/-! ## `ordrel` (R272) -/

/-- The access of `ordrel`. -/
def ordrelReq (f : FormM) : Req := { acc := .release, size := 4, attr := f.attr, regs := 1, dst := f.dst }

section
variable {f : FormM} {s : State} {w : Warp} (hc : s.curWarp = some w) (ht : w.tx = none)
include hc ht

theorem exec_ordrel_unheld (never : ∀ e ∈ w.log, ∀ b, e.acc ≠ .ordered b) :
    exec (.ordrel f) s = .next (s.finish w (issueOnce s w (packM 0x139 f) f (ordrelReq f) 4 (fun _ => 0) [] 0)) := by
  have unheld : (w.log.any fun e => e.acc = .ordered false || e.acc = .ordered true) = false := by
    simp only [List.any_eq_false, Bool.or_eq_true, decide_eq_true_eq, not_or]
    exact fun e he => ⟨never e he _, never e he _⟩
  change execOrdrel f s = _
  unfold execOrdrel
  rw [accessOpNT_cur _ hc ht]
  simp only [unheld, Bool.false_and, Bool.false_eq_true, if_false]
  change Host.Outcome.next (s.finish w (match issueOnce s w (packM 0x139 f) f (ordrelReq f) 4 (fun _ => 0) [] 0 with | .fall w1 => .fall w1 | r => r)) = _
  cases issueOnce s w (packM 0x139 f) f (ordrelReq f) 4 (fun _ => 0) [] 0 <;> rfl

theorem exec_ordrel_held {e e1 : LogEntry} {b : Bool} (mem : e ∈ w.log) (acc : e.acc = .ordered b)
    (issue : issueOnce s w (packM 0x139 f) f (ordrelReq f) 4 (fun _ => 0) [] 0 = .fall (w.logEntry e1)) : Waits (.ordrel f) s w .memory := by
  have held : (w.log.any fun e => e.acc = .ordered false || e.acc = .ordered true) = true :=
    List.any_eq_true.2 ⟨e, mem, by cases b <;> simp [acc]⟩
  have entered : ((w.logEntry e1).log != w.log) = true := by simp [Warp.log_logEntry]
  change execOrdrel f s = _
  unfold ordrelReq at issue
  unfold execOrdrel
  rw [accessOpNT_cur _ hc ht]
  simp only [issue, held, entered, Bool.and_self, if_true]
  rfl

/-- A release that would be entered waits while the warp still holds an ordered contribution. -/
theorem ordrel_waits {j : Nat} (acts : Warp.never f.h = false) (live : w.active ≠ []) (free : w.freeEntry = some j)
    (held : ∃ e ∈ w.log, ∃ b, e.acc = .ordered b) (clear : w.Clear f.h (w.needs [(⟨f.addr, 0, f.fa⟩, 1)] ++ w.needsDst 1 f.dst) false false)
    (own : ∃ n, f.dst = .scl n ∧ 128 ≤ n.toNat) (straight : ∀ m ∈ w.active, (w.ea f.addr f.off m 0).toNat % 4 = 0) :
    Waits (.ordrel f) s w .memory := by
  obtain ⟨e, mem, b, acc⟩ := held
  obtain ⟨n, dst, high⟩ := own
  have own : (ordrelReq f).intoShared = false := by
    simp only [ordrelReq, Req.intoShared, dst]
    exact decide_eq_false (Nat.not_lt.2 high)
  have members : onceMembers w (ordrelReq f) = w.active := by simp [onceMembers, ordrelReq, live]
  refine exec_ordrel_held hc ht mem acc (issueOnce_enters ?_ rfl acts ?_ ?_ ?_ free)
  · rw [own]
    exact clear
  · rw [members, List.find?_eq_none]
    exact fun m hm => by simp [straight m hm]
  · rw [own, Bool.false_and]
  · rwa [members]

end

/-! ## What a fetch changes of the machine (R269, R329) -/

/-- `t` is `s` but for the L1 and the translation caches: of the cache ways lines have left, and of the warps transactions may have been told to abort. -/
def State.FetchedFrom (s t : State) : Prop :=
  t = { s with l1 := t.l1, tlb := t.tlb, walks := t.walks, dirty := t.dirty, warps := t.warps } ∧ (∀ d ∈ t.dirty, d ∈ s.dirty) ∧
  ∀ k, (t.warp? k).map (fun x => { x with tx := none }) = (s.warp? k).map fun x => { x with tx := none }

namespace State

theorem FetchedFrom.refl (s : State) : FetchedFrom s s := ⟨rfl, fun _ => id, fun _ => rfl⟩

theorem FetchedFrom.trans {a b c : State} (h : FetchedFrom a b) (k : FetchedFrom b c) : FetchedFrom a c := by
  obtain ⟨h, hd, hw⟩ := h
  obtain ⟨k, kd, kw⟩ := k
  refine ⟨?_, fun d m => hd d (kd d m), fun n => (kw n).trans (hw n)⟩
  rw [k, h]

theorem FetchedFrom.foldl {β : Type} {f : State → β → State} (h : ∀ s b, FetchedFrom s (f s b)) (l : List β) (s : State) :
    FetchedFrom s (l.foldl f s) := by
  induction l generalizing s with
  | nil => exact .refl s
  | cons b t ih => exact (h s b).trans (ih _)

theorem fetchedFrom_callBack (s : State) (core pa n : Nat) : FetchedFrom s (s.callBack core pa n) :=
  ⟨rfl, fun _ m => List.mem_of_mem_filter m, fun _ => rfl⟩

theorem fetchedFrom_conflicts (s : State) (who line : Nat) (write : Bool) : FetchedFrom s (s.conflicts who line write) := by
  refine ⟨rfl, fun _ => id, fun k => ?_⟩
  have quiet (w : Warp) : { w.conflictAt line write with tx := none } = { w with tx := none } := by
    unfold Warp.conflictAt
    split
    · rfl
    · split <;> rfl
  rw [warp?_conflicts, Option.map_map]
  congr 1
  funext w
  simp only [Function.comp]
  split
  · rfl
  · exact quiet w

theorem fetchedFrom_readBy (s : State) (who a n : Nat) : FetchedFrom s (s.readBy who a n) :=
  (fetchedFrom_callBack ..).trans (.foldl (fun s l => fetchedFrom_conflicts s who l false) _ _)

theorem fetchedFrom_fillTlb (s : State) (core x : Nat) (ea : Word) (midx : BitVec 16) : FetchedFrom s (s.fillTlb core x ea midx) := by
  have walked := FetchedFrom.foldl (f := fun s (e : Nat × Nat × Nat) => s.readBy noWarp e.2.1 8) (fun s e => fetchedFrom_readBy s noWarp e.2.1 8)
    (s.walkSteps core x (s.offsetVa x ea midx).toNat) s
  unfold fillTlb fillVa
  split
  · exact .refl s
  · dsimp only
    split
    · exact walked
    · exact walked.trans ⟨rfl, fun _ => id, fun _ => rfl⟩

theorem fetchedFrom_l1Fill (s : State) (core pa : Nat) : FetchedFrom s (s.l1Fill core pa) := ⟨rfl, fun _ => id, fun _ => rfl⟩

/-- A fill of the translation caches leaves the L1. -/
theorem l1_fillTlb (s : State) (core x : Nat) (ea : Word) (midx : BitVec 16) : (s.fillTlb core x ea midx).l1 = s.l1 := by
  rw [walkFrame_fillTlb s core x ea midx]

/-- No core's cache ways own a line that has been called back from all of them. -/
theorem callBack_all (s : State) (pa : Nat) {core : Nat} (real : core < 1280) : (core, pa / 128 * 128) ∉ (s.callBack 1280 pa 1).dirty := by
  have span : lineSpan pa 1 = [pa / 128 * 128] := by simp [lineSpan]
  simp [callBack, span, Nat.ne_of_lt real]

end State

/-! ## Prefetch (R269) -/

/-- What `pf` does for one part. -/
def prefetchPart (w : Warp) (s : State) (p : Part) : State :=
  match s.translate w.core w.ctx p.addr (State.midxOf w p.slot) .read w.sup with
  | .ok ph =>
    let s1 := s.fillTlb w.core w.ctx p.addr (State.midxOf w p.slot)
    if State.l1Ok ph then s1.l1Fill w.core (s.readAddr w p 0 ph) else s1
  | .error _ => s

theorem prefetchPart_ok {w : Warp} {s : State} {p : Part} {ph : Phys} (ok : s.translate w.core w.ctx p.addr (State.midxOf w p.slot) .read w.sup = .ok ph) :
    prefetchPart w s p = if State.l1Ok ph then (s.fillTlb w.core w.ctx p.addr (State.midxOf w p.slot)).l1Fill w.core (s.readAddr w p 0 ph)
      else s.fillTlb w.core w.ctx p.addr (State.midxOf w p.slot) := by
  unfold prefetchPart
  rw [ok]

theorem fetchedFrom_prefetchPart (w : Warp) (s : State) (p : Part) : s.FetchedFrom (prefetchPart w s p) := by
  unfold prefetchPart
  split
  · dsimp only
    split
    · exact (State.fetchedFrom_fillTlb ..).trans (State.fetchedFrom_l1Fill ..)
    · exact State.fetchedFrom_fillTlb ..
  · exact .refl s

/-- The machine after `pf`. -/
def prefetched (f : FormM) (s : State) (w : Warp) : State :=
  if f.data.spec.num = 0 then (lanePartsOf w f.h false (w.ea f.addr f.off) fun _ _ => 0).foldl (prefetchPart w) s else s

theorem exec_pf {f : FormM} {s : State} {w : Warp} (hc : s.curWarp = some w) (ht : w.tx = none)
    (clear : w.Clear f.h (w.needs [Warp.addrOperand f]) (w.misfits [Warp.addrOperand f]) false) :
    exec (.pf f) s = .next ((prefetched f s w).retire w w) := by
  change execPf f s = _
  unfold execPf
  rw [machineOpNT_cur _ hc ht]
  simp only [Warp.checked_clear clear]
  exact congrArg _ (finish_fall (ended_of_cur hc))

theorem fetchedFrom_prefetched (f : FormM) (s : State) (w : Warp) : s.FetchedFrom (prefetched f s w) := by
  unfold prefetched
  split
  · exact .foldl (fetchedFrom_prefetchPart w) _ _
  · exact .refl s

theorem prefetched_single {f : FormM} {s : State} {w : Warp} {p : Part} {ph : Phys} (level : f.data.spec.num = 0)
    (single : lanePartsOf w f.h false (w.ea f.addr f.off) (fun _ _ => 0) = [p])
    (ok : s.translate w.core w.ctx p.addr (State.midxOf w p.slot) .read w.sup = .ok ph) :
    prefetched f s w = if State.l1Ok ph then (s.fillTlb w.core w.ctx p.addr (State.midxOf w p.slot)).l1Fill w.core (s.readAddr w p 0 ph)
      else s.fillTlb w.core w.ctx p.addr (State.midxOf w p.slot) := by
  rw [prefetched, if_pos level, single]
  exact prefetchPart_ok ok

/-! ## `cwb` (R269) -/

/-- What `cwb` does for one part. -/
def cleanPart (w : Warp) (s : State) (p : Part) : State :=
  match s.translate w.core w.ctx p.addr (State.midxOf w p.slot) .read w.sup with
  | .ok ph => (s.fillTlb w.core w.ctx p.addr (State.midxOf w p.slot)).callBack 1280 ph.pa 1
  | .error _ => s

theorem cleanPart_ok {w : Warp} {s : State} {p : Part} {ph : Phys} (ok : s.translate w.core w.ctx p.addr (State.midxOf w p.slot) .read w.sup = .ok ph) :
    cleanPart w s p = (s.fillTlb w.core w.ctx p.addr (State.midxOf w p.slot)).callBack 1280 ph.pa 1 := by
  unfold cleanPart
  rw [ok]

theorem fetchedFrom_cleanPart (w : Warp) (s : State) (p : Part) : s.FetchedFrom (cleanPart w s p) := by
  unfold cleanPart
  split
  · exact (State.fetchedFrom_fillTlb ..).trans (State.fetchedFrom_callBack ..)
  · exact .refl s

theorem l1_cleanPart (w : Warp) (s : State) (p : Part) : (cleanPart w s p).l1 = s.l1 := by
  unfold cleanPart
  split
  · exact State.l1_fillTlb ..
  · rfl

/-- The machine after `cwb`. -/
def cleaned (f : FormM) (s : State) (w : Warp) : State := (lanePartsOf w f.h false (w.ea f.addr f.off) fun _ _ => 0).foldl (cleanPart w) s

theorem fetchedFrom_cleaned (f : FormM) (s : State) (w : Warp) : s.FetchedFrom (cleaned f s w) := .foldl (fetchedFrom_cleanPart w) _ s

theorem l1_cleaned (f : FormM) (s : State) (w : Warp) : (cleaned f s w).l1 = s.l1 := foldl_keep (·.l1) (cleanPart w) (l1_cleanPart w) _ s

section
variable {f : FormM} {s : State} {w : Warp} (hc : s.curWarp = some w) (ht : w.tx = none)
  (clear : w.Clear f.h (w.needs [Warp.addrOperand f]) (w.misfits [Warp.addrOperand f]) false)
include hc ht clear

theorem exec_cwb_room (room : w.union f.h = 0 ∨ w.freeEntry ≠ none) : exec (.cwb f) s = .next ((cleaned f s w).retire w w) := by
  have fits : (w.union f.h != 0 && w.freeEntry.isNone) = false := by
    obtain no | free := room
    · simp [no]
    · rw [Option.isNone_eq_false_iff.2 (Option.isSome_iff_ne_none.2 free), Bool.and_false]
  change execCwb f s = _
  unfold execCwb
  rw [machineOpNT_cur _ hc ht]
  simp only [Warp.checked_clear clear, fits, Bool.false_eq_true, if_false]
  exact congrArg _ (finish_fall (ended_of_cur hc))

theorem cwb_full (someLane : w.union f.h ≠ 0) (full : w.freeEntry = none) : Waits (.cwb f) s w .log := by
  have held : (w.union f.h != 0 && w.freeEntry.isNone) = true := Bool.and_eq_true_iff.2 ⟨bne_iff_ne.2 someLane, full ▸ rfl⟩
  change execCwb f s = _
  unfold execCwb
  rw [machineOpNT_cur _ hc ht]
  simp only [Warp.checked_clear clear, held, if_true]
  rfl

end

theorem cleaned_single {f : FormM} {s : State} {w : Warp} {p : Part} {ph : Phys}
    (single : lanePartsOf w f.h false (w.ea f.addr f.off) (fun _ _ => 0) = [p])
    (ok : s.translate w.core w.ctx p.addr (State.midxOf w p.slot) .read w.sup = .ok ph) {core : Nat} (real : core < 1280) :
    (core, ph.pa / 128 * 128) ∉ (cleaned f s w).dirty := by
  rw [cleaned, single]
  change _ ∉ (cleanPart w s p).dirty
  rw [cleanPart_ok ok]
  exact State.callBack_all _ _ real

/-! ## `rooffl` (R251, R269) -/

/-- Every resident block on the core that has not ended belongs to the warp's context. -/
def coreIsMine (s : State) (w : Warp) : Prop := ∀ p ∈ s.blocks, p.2.core = w.core → p.2.st = .resident → s.blockOver p.1 p.2 = false → p.2.ctx = w.ctx

section
variable {f : FormR} {s : State} {w : Warp} (hc : s.curWarp = some w) (ht : w.tx = none)
include hc ht

theorem exec_rooffl_never (never : Warp.never f.h = true) : Retires (.rooffl f) s w w := by
  change execRooffl f s = _
  unfold execRooffl
  rw [machineOpNT_cur _ hc ht]
  simp only [never, if_true]
  exact congrArg _ (finish_fall (ended_of_cur hc))

variable (acts : Warp.never f.h = false)
include acts

theorem rooffl_waits (busy : ∃ e ∈ w.log, e.async = false) : Waits (.rooffl f) s w .log := by
  have busy : (w.log.any fun e => !e.async) = true := by simpa using busy
  change execRooffl f s = _
  unfold execRooffl
  rw [machineOpNT_cur _ hc ht]
  simp only [acts, busy, Bool.false_eq_true, if_false, if_true]
  rfl

variable (quiet : ∀ e ∈ w.log, e.async = true)
include quiet

/-- `rooffl` flushes the core's cache ways, after the bank's new size when the core runs the warp's context alone. -/
theorem exec_rooffl (resized : State) (size : coreIsMine s w ∧ s.waysOf w.ctx ≠ tget 0 s.ways w.core ∧ resized = s.resizeBank w.core (s.waysOf w.ctx) ∨
    (¬coreIsMine s w ∨ s.waysOf w.ctx = tget 0 s.ways w.core) ∧ resized = s) : exec (.rooffl f) s = .next ((resized.cleanWays w.core).retire w w) := by
  have quiet : (w.log.any fun e => !e.async) = false := by simpa using quiet
  have resizes : ((s.blocks.all fun p => p.2.core != w.core || p.2.st != .resident || p.2.ctx = w.ctx || s.blockOver p.1 p.2) &&
      s.waysOf w.ctx != tget 0 s.ways w.core) = true ↔ coreIsMine s w ∧ s.waysOf w.ctx ≠ tget 0 s.ways w.core := by
    rw [Bool.and_eq_true, bne_iff_ne, List.all_eq_true]
    refine and_congr_left fun _ => forall₂_congr fun p _ => ?_
    simp only [Bool.or_eq_true, bne_iff_ne, decide_eq_true_eq, ← Bool.not_eq_true]
    tauto
  change execRooffl f s = _
  unfold execRooffl
  rw [machineOpNT_cur _ hc ht]
  simp only [acts, quiet, Bool.false_eq_true, if_false]
  refine congrArg _ ((finish_fall (ended_of_cur hc)).trans ?_)
  obtain ⟨own, differ, rfl⟩ | ⟨keep, rfl⟩ := size
  · rw [if_pos (resizes.2 ⟨own, differ⟩)]
  · rw [if_neg fun both => keep.elim (· (resizes.1 both).1) (resizes.1 both).2]

end

/-! ## The obligation -/

/-- Settles O21: an atomic is a per-lane access and `ordrel` a uniform one (R264); a fetch, its walks included, changes the L1, the translation caches
and what others' reads may change; `rooffl` goes through the flush and the new size of the bank. -/
theorem atomicAndCacheForms : Obligations.AtomicAndCacheForms := by
  unfold Obligations.AtomicAndCacheForms
  refine ⟨laneAccess_atomWord fun _ _ => rfl, laneAccess_atomForm fun _ _ => rfl, laneAccess_atomWord fun _ _ => rfl, laneAccess_atomWord fun _ _ => rfl,
    laneAccess_atomWord fun _ _ => rfl, laneAccess_atomWord fun _ _ => rfl, laneAccess_atomWord fun _ _ => rfl, laneAccess_atomWord fun _ _ => rfl,
    laneAccess_atomWord fun _ _ => rfl, laneAccess_atomWord fun _ _ => rfl, laneAccess_atomForm fun _ _ => rfl, laneAccess_atomForm fun _ _ => rfl,
    laneAccess_atomForm fun _ _ => rfl, laneAccess_atomForm fun _ _ => rfl, laneAccess_atomForm fun _ _ => rfl,
    laneAccess_orderedForm (fun _ _ => rfl) rfl rfl rfl, laneAccess_orderedForm (fun _ _ => rfl) rfl rfl rfl,
    fun f => onceAccess_of fun s w hc ⟨ht, unheld⟩ => exec_ordrel_unheld hc ht unheld, ?_, ?_, ?_, ?_⟩
  · exact fun f s w j hc ht acts live free held clear own straight => ordrel_waits hc ht acts live free held clear own straight
  · exact fun f s w hc ht clear => ⟨prefetched f s w, exec_pf hc ht clear, fetchedFrom_prefetched f s w, fun level => if_neg level,
      fun p ph level single ok => prefetched_single level single ok⟩
  · exact fun f s w hc ht clear => ⟨fun room => ⟨cleaned f s w, exec_cwb_room hc ht clear room, fetchedFrom_cleaned f s w,
      l1_cleaned f s w, fun p ph single ok core real => cleaned_single single ok real⟩, cwb_full hc ht clear⟩
  · exact fun f s w hc ht => ⟨exec_rooffl_never hc ht, rooffl_waits hc ht,
      fun acts quiet keep => exec_rooffl hc ht acts quiet s (.inr ⟨keep, rfl⟩),
      fun acts quiet own differ => exec_rooffl hc ht acts quiet _ (.inl ⟨own, differ, rfl⟩)⟩

end Sys2Proof.Machine

/-!
What reset leaves (R318, R333, R339, R342, R406, R421, R464, R473, R474, R476, R478): the tables are empty, and reset writes only the power limits.
-/

namespace Sys2Proof.Machine

namespace State

@[simp] theorem mem_reset : reset.mem = [] := rfl
@[simp] theorem blocks_reset : reset.blocks = [] := rfl
@[simp] theorem warps_reset : reset.warps = [] := rfl

/-- Where nothing is listed, every byte reads as an unlisted one. -/
theorem physRead_of_mem_nil {s : State} (h : s.mem = []) (a n : Nat) : s.physRead a n = List.replicate n Memory.unlisted := by
  have unlisted : ∀ i, s.mem.read (s.home (a + i)) = Memory.unlisted := fun i => by rw [h, Memory.read]
  rw [physRead, List.map_congr_left fun i _ => unlisted i, List.map_const', List.length_range]

theorem canonical_reset : reset.Canonical := by
  rw [Canonical, mem_reset, blocks_reset]
  exact ⟨rfl, List.forall_mem_nil _⟩

theorem keyed_reset : reset.Keyed := by
  rw [Keyed, warps_reset]
  exact List.forall_mem_nil _

/-- The power limits are the one table reset writes: 300 of each of the eight dies (R478). -/
theorem pcap_reset {d : Nat} (h : d < 8) : tget 0 reset.pcap d = 300#64 := tget_map_of_mem 0 (fun _ => 300#64) (List.mem_range.2 h)

theorem getD_dieTime_reset (d : Nat) : reset.dieTime.getD d 0 = 0 := by
  match d with
  | 0 | 1 | 2 | 3 | 4 | 5 | 6 | 7 | _ + 8 => rfl

end State

/-- Settles O56: reset lists no byte, no block and no warp. -/
theorem resetInvariants : Obligations.ResetInvariants :=
  ⟨State.canonical_reset, State.keyed_reset, rfl, fun a n => State.physRead_of_mem_nil State.mem_reset a n⟩

/-- Settles O58: a table that reset leaves empty reads as its default everywhere. -/
theorem resetValues : Obligations.ResetValues := by
  unfold Obligations.ResetValues
  refine ⟨rfl, rfl, rfl, rfl, rfl, rfl, rfl, rfl, rfl, rfl, rfl, rfl, rfl, State.getD_dieTime_reset, rfl, rfl, rfl, rfl, rfl, rfl, rfl,
    fun _ _ => rfl, fun _ => State.pcap_reset, rfl, rfl, rfl, fun _ => rfl, fun _ => ?_, fun _ => ⟨rfl, rfl, rfl⟩⟩
  exact ⟨rfl, rfl, rfl, rfl, rfl, rfl, rfl, rfl, rfl, fun _ => rfl⟩

end Sys2Proof.Machine

/-!
Byte-counting barriers (R282, R283, R292): the word, its steps, and the forms that make them.
-/

namespace Sys2Proof.Machine

/-! ## After a wait acquires (R133, R248) -/

/-- The warp with what its streams had taken ahead dropped, as an acquire leaves it (R133). -/
def Warp.drained (w : Warp) : Warp := { w with st8 := w.st8.map fun x => { x with ready := 0, ahead := [] } }

theorem State.warps_acquire (s : State) (core scope : Nat) : (s.acquire core scope).warps = s.warps := by
  unfold acquire l1Clear
  by_cases fused : s.fused.contains (clusterOf core) = true
  · rw [if_pos fused, if_pos fused]
    split <;> rfl
  · rw [if_neg fused, if_neg fused]
    split <;> rfl

theorem warp?_acquireBy_own {s : State} {w : Warp} (hw : s.warp? w.key = some w) (scope : Nat) :
    (s.acquireBy w.key w.core scope).warp? w.key = some w.drained :=
  modWarp_own (f := Warp.drained) (by rw [State.warp?, State.warps_acquire]; exact hw) rfl

/-- A wait that acquires ends with what `k` makes of the drained warp. -/
theorem acquired_own {s : State} {w : Warp} (hw : s.warp? w.key = some w) (scope : Nat) (k : Warp → Warp) :
    acquired s w scope k = (s.acquireBy w.key w.core scope, .fall (k w.drained)) := by
  simp only [acquired, warp?_acquireBy_own hw, Option.getD_some]

/-! ## Barrier words (R282, R283) -/

namespace Barrier

/-- A barrier between a step and the end of its phase. -/
def stepped (b : Barrier) (d : Int) (arrives : Bool) : Barrier :=
  { b with bytes := (BitVec.ofInt 32 (b.bytes + d)).toInt, arr := if arrives then b.arr - 1 else b.arr,
           err := b.err || b.bytes + d < -(2 ^ 31) || 2 ^ 31 ≤ b.bytes + d || (arrives && b.arr = 0) }

/-- A step is a change of BYTES and ARR, then the end of the phase where both are zero. -/
theorem step_eq (b : Barrier) (d : Int) (arrives : Bool) : b.step d arrives =
    if (b.stepped d arrives).arr = 0 ∧ (b.stepped d arrives).bytes = 0 then { b.stepped d arrives with phase := !b.phase, arr := b.init }
    else b.stepped d arrives := by
  unfold step stepped
  cases arrives with
  | false => simp
  | true => by_cases h : b.arr = 0 <;> simp [h]

theorem step_spec (b : Barrier) (d : Int) (arrives : Bool) :
    let y := b.bytes + d
    let arr := if arrives then b.arr - 1 else b.arr
    let done := arr = 0 ∧ (BitVec.ofInt 32 y).toInt = 0
    (b.step d arrives).bytes = (BitVec.ofInt 32 y).toInt ∧ (b.step d arrives).init = b.init ∧
    (b.step d arrives).phase = (if done then !b.phase else b.phase) ∧ (b.step d arrives).arr = (if done then b.init else arr) ∧
    ((b.step d arrives).err = true ↔ b.err = true ∨ y < -2 ^ 31 ∨ 2 ^ 31 ≤ y ∨ (arrives = true ∧ b.arr = 0)) := by
  intro y arr done
  have err : (b.stepped d arrives).err = true ↔ b.err = true ∨ y < -2 ^ 31 ∨ 2 ^ 31 ≤ y ∨ (arrives = true ∧ b.arr = 0) := by
    simp [stepped, or_assoc, y]
  rw [step_eq]
  by_cases h : (b.stepped d arrives).arr = 0 ∧ (b.stepped d arrives).bytes = 0
  · rw [if_pos h, if_pos (show done from h), if_pos (show done from h)]
    exact ⟨rfl, rfl, rfl, rfl, err⟩
  · rw [if_neg h, if_neg (show ¬done from h), if_neg (show ¬done from h)]
    exact ⟨rfl, rfl, rfl, rfl, err⟩

/-- The word of the fields of a word is that word. -/
theorem word_ofWord (x : Word) : (ofWord x).word = x := by
  have low : wrapBits 32 (x.extractLsb' 0 32).toInt = x.toNat % 2 ^ 32 := by
    rw [wrapBits, ← BitVec.toNat_ofInt, BitVec.ofInt_toInt, BitVec.extractLsb'_toNat, Nat.shiftRight_zero]
  have bit : ∀ k, (if x.getLsbD k then 2 ^ k else 0) = x.toNat / 2 ^ k % 2 * 2 ^ k := by
    intro k
    rw [← BitVec.testBit_toNat, Nat.testBit_eq_decide_div_mod_eq]
    rcases Nat.mod_two_eq_zero_or_one (x.toNat / 2 ^ k) with h | h <;> simp [h]
  apply BitVec.eq_of_toNat_eq
  simp only [word, ofWord, low, bit, BitVec.extractLsb'_toNat, Nat.shiftRight_eq_div_pow, BitVec.toNat_ofNat]
  have := x.isLt
  omega

end Barrier

/-! ## A word of near scratch -/

namespace Memory

@[simp] theorem length_readBytes (m : Memory) (a n : Nat) : (readBytes m a n).length = n := by
  induction n generalizing a with
  | zero => rfl
  | succ n ih => rw [readBytes, List.length_cons, ih]

theorem getElem_readBytes (m : Memory) {a n i : Nat} (h : i < (readBytes m a n).length) : (readBytes m a n)[i] = m.read (a + i) := by
  induction n generalizing a i with
  | zero => exact absurd h (Nat.not_lt_zero i)
  | succ n ih =>
    cases i with
    | zero => rfl
    | succ i =>
      simp only [readBytes, List.getElem_cons_succ, ih]
      rw [Nat.add_right_comm, Nat.add_assoc]

theorem readBytes_writeBytes_same {m : Memory} (a : Nat) (bs : List Byte) (h : wf m = true) : readBytes (writeBytes m a bs) a bs.length = bs := by
  refine List.ext_getElem (length_readBytes ..) fun i _ hi => ?_
  rw [getElem_readBytes, read_writeBytes _ _ _ h, if_pos ⟨by omega, by omega⟩, Nat.add_sub_cancel_left, List.getD_eq_getElem _ _ hi]

end Memory

theorem barrier_putBarrier {s : State} {blk : Nat} {bl : Block} (off : Nat) {b : Barrier} (canonical : s.Canonical) (hb : s.block? blk = some bl)
    (whole : b = Barrier.ofWord b.word) : (s.putBarrier blk off b).barrier blk off = b := by
  have tidy := (canonical.2 _ (mem_of_tfind hb)).1
  have read := Memory.readBytes_writeBytes_same off (leBytes 8 b.word.toNat) tidy
  rw [length_leBytes] at read
  simp only [State.barrier, State.putBarrier, State.nearWrite, State.block?_modBlock_same, hb, Option.map_some, read]
  rw [ofNat_leNat_leBytes (n := 8) rfl, ← whole]

/-! ## The forms (R292) -/

/-- The members a barrier form executes for (R288, R292). -/
def barMembers (w : Warp) (f : FormM) (hasB : Bool) (dst : List Spec) : List Nat :=
  if w.anyPrivate (((⟨f.addr, 0, f.fa⟩, 1) :: (if hasB then [(f.data, 1)] else []) : List Warp.Operand).map (·.1)) then w.active
  else if dst != [] && !(dst.any fun d => d.num < 128) && w.active = [] then [] else [w.active.headD 0]

/-- Its steps: for each member the offset and the source value. -/
def barOps (w : Warp) (f : FormM) (hasB : Bool) (dst : List Spec) : List (Nat × Nat × Word) :=
  (barMembers w f hasB dst).map fun m => (m, (w.ea f.addr f.off m 0).toNat, if hasB then w.scl m f.data else 0)

theorem barChecks_eq_nil {bl : Block} {m off : Nat} (aligned : off % 8 = 0) (inside : off + 8 ≤ bl.ns) : barChecks bl m off = [] := by
  simp [barChecks, alignCheck, rangeCheck, aligned, inside]

section
variable {s : State} {w : Warp} {bl : Block} {f : FormM} {hasB : Bool} {dst : List Spec} {run : State → Warp → List (Nat × Nat × Word) → State × WRes}

/-- A barrier form whose checks pass and that nothing holds back makes its steps. -/
theorem barForm_cur (hc : s.curWarp = some w) (ht : w.tx = none) (hn : Warp.never f.h = false) (hb : s.block? w.blk = some bl)
    (cl : w.Clear f.h (w.needs ((⟨f.addr, 0, f.fa⟩, 1) :: (if hasB then [(f.data, 1)] else [])) ++ dst.flatMap (w.needsDst 1)) false
      (w.anyPrivate (((⟨f.addr, 0, f.fa⟩, 1) :: (if hasB then [(f.data, 1)] else []) : List Warp.Operand).map (·.1)) && dst.any fun d => d.num < 128))
    (acts : barMembers w f hasB dst ≠ [])
    (free : ∀ m ∈ barMembers w f hasB dst, (w.ea f.addr f.off m 0).toNat % 8 = 0 ∧ (w.ea f.addr f.off m 0).toNat + 8 ≤ bl.ns ∧
      wordBusy s w (w.ea f.addr f.off m 0).toNat = false)
    (unheld : w.heldByFence true = false) :
    barForm s f hasB dst run = .next ((run s w (barOps w f hasB dst)).1.finish w (run s w (barOps w f hasB dst)).2) := by
  have placed : (barOps w f hasB dst).flatMap (fun o => barChecks bl o.1 o.2.1) = [] := by
    simp only [barOps, List.flatMap_eq_nil_iff, List.mem_map]
    rintro _ ⟨m, hm, rfl⟩
    exact barChecks_eq_nil (free m hm).1 (free m hm).2.1
  have idle : (barOps w f hasB dst).any (fun o => wordBusy s w o.2.1) = false := by
    simp only [barOps, List.any_eq_false, List.mem_map]
    rintro _ ⟨m, hm, rfl⟩
    simp [(free m hm).2.2]
  rw [barForm, machineOpNT_cur _ hc ht]
  simp only [Warp.checked_clear cl, hn, Bool.false_or, hb, Option.getD_some, unheld]
  unfold barOps barMembers at *
  simp only [acts, placed, idle, firstCheck]
  rfl

end

/-- What `bbtst` answers of a word (R292). -/
def bbtstResult (s : State) (w : Warp) (o : Nat × Nat × Word) : Word :=
  BitVec.ofNat 64 ((if (s.barrier w.blk o.2.1).phase != o.2.2.getLsbD 0 then 1 else 0) + (if (s.barrier w.blk o.2.1).err then 2 else 0))

theorem getLsbD_bbtstResult (s : State) (w : Warp) (o : Nat × Nat × Word) :
    (bbtstResult s w o).getLsbD 0 = ((s.barrier w.blk o.2.1).phase != o.2.2.getLsbD 0) := by
  unfold bbtstResult
  cases (s.barrier w.blk o.2.1).phase != o.2.2.getLsbD 0 <;> cases (s.barrier w.blk o.2.1).err <;> rfl

/-- `bbtst` writes its answers: once where it makes one step for all members, else for each. -/
def bbtstPut (s : State) (w0 : Warp) (f : FormM) (ops : List (Nat × Nat × Word)) (w : Warp) : Warp :=
  if ops.length = 1 && w.active.length != 1 then w.sclWrite f.dst.num fun _ => bbtstResult s w0 (ops.headD (0, 0, 0))
  else ops.foldl (fun w o => w.sput o.1 f.dst.num (bbtstResult s w0 o)) w

theorem bbtstPut_eq (s : State) (w0 : Warp) (f : FormM) (ops : List (Nat × Nat × Word)) (w : Warp) : bbtstPut s w0 f ops w =
    if ops.length = 1 ∧ w.active.length ≠ 1 then w.sclWrite f.dst.num fun _ => bbtstResult s w0 (ops.headD (0, 0, 0))
    else ops.foldl (fun w o => w.sput o.1 f.dst.num (bbtstResult s w0 o)) w :=
  if_congr (by simp) rfl rfl

theorem onlyRegs_bbtstPut (s : State) (w0 : Warp) (f : FormM) (ops : List (Nat × Nat × Word)) (w : Warp) : w.OnlyRegs (bbtstPut s w0 f ops w) := by
  unfold bbtstPut
  split
  · exact w.onlyRegs_sclWrite ..
  · exact .foldl (fun _ _ => Warp.onlyRegs_sput ..) _ _

/-- Settles O27: the steps of a word, what is read after it is written, and each form as its steps on the words of its members. -/
theorem barrierForms : Obligations.BarrierForms := by
  refine ⟨⟨Barrier.step_spec, Barrier.word_ofWord, fun s blk off b bl canonical hb whole => barrier_putBarrier off canonical hb whole⟩, ?_, ?_, ?_, ?_, ?_⟩
  all_goals
    intro f s w bl hc hw ht hn hb os priv common cl ms at' acts free unheld
    have live := ended_of_cur hc
  · have steps : exec (.bbini f) s = execBbini f s := rfl
    rw [execBbini, barForm_cur hc ht hn hb cl acts free unheld] at steps
    rw [steps, finish_fall live]
    simp only [inRange_iff]
    rfl
  · have steps : exec (.bbexp f) s = execBbexp f s := rfl
    rw [execBbexp, barForm_cur hc ht hn hb cl acts free unheld] at steps
    refine ⟨fun busy => steps.trans (by rw [if_pos busy]; rfl), fun idle => steps.trans ?_⟩
    rw [if_neg (by simp [idle]), finish_fall live]
    simp only [BitVec.extractLsb'_toNat, Nat.shiftRight_zero]
    rfl
  · have steps : exec (.bbarr f) s = execBbarr f s := rfl
    rw [execBbarr, barForm_cur hc ht hn hb cl acts free unheld] at steps
    refine ⟨fun busy => steps.trans (by rw [if_pos busy]; rfl), fun idle => steps.trans ?_⟩
    rw [if_neg (by simp [idle]), finish_fall live]
    rfl
  · have steps : exec (.bbwt f) s = execBbwt f s := rfl
    rw [execBbwt, barForm_cur hc ht hn hb cl acts free unheld] at steps
    change ((∃ o ∈ barOps w f true [], _) → _) ∧ ((∀ o ∈ barOps w f true [], _) → _)
    refine ⟨fun early => steps.trans ?_, fun turned => steps.trans ?_⟩
    · obtain ⟨o, ho, same⟩ := early
      rw [if_neg]
      · rfl
      · exact fun h => bne_iff_ne.1 (List.all_eq_true.1 h o ho) same
    · rw [if_pos (List.all_eq_true.2 fun o ho => bne_iff_ne.2 (turned o ho)), acquired_own hw]
      exact congrArg Host.Outcome.next (finish_fall live)
  · have steps : exec (.bbtst f) s = execBbtst f s := rfl
    rw [execBbtst, barForm_cur hc ht hn hb cl acts free unheld] at steps
    change ((∀ o ∈ barOps w f true [f.dst], _) → _) ∧ ((∃ o ∈ barOps w f true [f.dst], _) → _)
    have wrote := onlyRegs_bbtstPut s w f (barOps w f true [f.dst])
    refine ⟨fun early => steps.trans ?_, fun turned => steps.trans ?_⟩
    · rw [if_neg fun h => ?_]
      · refine congrArg Host.Outcome.next ((finish_fall ((wrote w).ended.trans live)).trans ?_)
        exact congrArg (s.retire w) (bbtstPut_eq ..)
      · obtain ⟨o, ho, h⟩ := List.any_eq_true.1 h
        exact bne_iff_ne.1 ((getLsbD_bbtstResult s w o).symm.trans h) (early o ho)
    · obtain ⟨o, ho, differ⟩ := turned
      rw [if_pos (List.any_eq_true.2 ⟨o, ho, (getLsbD_bbtstResult s w o).trans (bne_iff_ne.2 differ)⟩), acquired_own hw]
      refine congrArg Host.Outcome.next ((finish_fall ((wrote w.drained).ended.trans live)).trans ?_)
      exact congrArg ((s.acquireBy w.key w.core 1).retire w) (bbtstPut_eq ..)

end Sys2Proof.Machine

/-!
Timelines (R293): a `tlrd` acquires, and what it says of the streams holds of a warp that the machine holds under its own key.
-/

namespace Sys2Proof.Machine

/-- A warp of core 1 whose first stream has taken an element ahead. -/
def aheadWarp : Warp := { core := 1, st := .act, banks := [{}], st8 := [{ ready := 1 }] }

/-- The machine that holds this warp under the key of core 0 instead of its own, and runs it. -/
def misfiledState : State := { cur := some (.warp 0 0), warps := [(0, aheadWarp)] }

/-- `tlrd` of counter 0 into s0, with no guard. -/
def tlrdForm : FormR := ⟨⟨7, false, 0, false, true⟩, .scl 0, plainSrc (.imm 0), plainSrc (.imm 0), false, 0⟩

/-- The elements the first stream of the warp under key 32 has taken ahead. -/
def aheadAfter : Res → Option Nat
  | .next t => (t.warp? 32).map fun w => (w.st8.headD {}).ready
  | _ => none

/-- `tlrd` of the misfiled warp leaves the stream as it was: the acquire finds no warp under the key it drains. -/
theorem aheadAfter_tlrd_misfiled : aheadAfter (execTlrd tlrdForm misfiledState) = some 1 := by decide +kernel

/-- Refutes O28: `tlrd`'s clause says that its acquire drops what the streams of the running warp have taken ahead, and lacks the premise of the other
clauses that the machine holds the warp under its own key. Of a warp held under another key the acquire drops nothing: here one element stays. -/
theorem not_batchAndTimelineForms : ¬ Obligations.BatchAndTimelineForms := by
  unfold Obligations.BatchAndTimelineForms
  rintro ⟨-, -, -, -, -, -, -, -, tlrd⟩
  have drains := (tlrd tlrdForm misfiledState aheadWarp rfl rfl rfl
    ⟨by decide, rfl, rfl, by decide, by decide, by decide⟩ (by decide)).2 (by decide)
  have left := aheadAfter_tlrd_misfiled
  rw [show execTlrd tlrdForm misfiledState = exec (.tlrd tlrdForm) misfiledState from rfl, drains] at left
  exact absurd left (by decide +kernel)

end Sys2Proof.Machine

/-!
Fences (R300, R301, R308): the ordering point a fence sets, when it is complete, and what it leaves when it goes.
-/

namespace Sys2Proof.Machine

/-! ## Tables written twice -/

theorem tset_tset {α : Type} (t : Tab α) (n : Nat) (v w : α) : tset (tset t n v) n w = tset t n w := by
  induction t with
  | nil => simp [tset]
  | cons p t ih =>
    obtain ⟨k, x⟩ := p
    by_cases h : k = n <;> simp [tset, h, ih]

theorem tset_of_tfind {α : Type} {t : Tab α} {n : Nat} {v : α} (h : tfind t n = some v) : tset t n v = t := by
  induction t with
  | nil => exact absurd h (by simp)
  | cons p t ih =>
    obtain ⟨k, x⟩ := p
    by_cases same : k = n
    · subst same
      obtain rfl : x = v := by simpa [tfind] using h
      simp [tset]
    · simp only [tfind, if_neg same] at h
      simp [tset, same, ih h]

theorem tget_tdel_same {α : Type} (d : α) (t : Tab α) (n : Nat) : tget d (tdel t n) n = d := by
  induction t with
  | nil => rfl
  | cons p t ih =>
    obtain ⟨k, x⟩ := p
    by_cases h : k = n
    · simpa [tdel, h] using ih
    · simp only [tdel, List.filter_cons, bne_iff_ne, ne_eq, h, not_false_eq_true, if_pos, tget, if_neg] at ih ⊢
      exact ih

namespace State

theorem putWarp_putWarp (s : State) {a b : Warp} (h : a.key = b.key) : (s.putWarp a).putWarp b = s.putWarp b := by
  simp only [putWarp, h, tset_tset]

theorem putWarp_of_held {s : State} {w : Warp} (h : s.warp? w.key = some w) : s.putWarp w = s := by
  rw [putWarp, tset_of_tfind h]

/-- What an instruction had made of its warp does not matter once it retires. -/
theorem retire_putWarp (s : State) (w : Warp) {a b : Warp} (h : a.key = b.key) : (s.putWarp a).retire w b = s.retire w b := by
  unfold retire
  exact congrArg (State.finishWarp · b.key) (putWarp_putWarp s h)

theorem acquireBy_l1 (s : State) (k core scope : Nat) : (s.acquireBy k core scope).l1 = (s.acquire core scope).l1 := by
  unfold acquireBy modWarp
  split <;> rfl

/-! ## Ordering points -/

/-- One ordering point looked at: if complete it goes, with its acquire. -/
def settleFence (k : Nat) (s : State) (f : Fence) : State :=
  match s.warp? k with
  | none => s
  | some x =>
    if !s.fenceDone x f then s
    else if f.acq then (s.putWarp { x with fences := x.fences.erase f }).acquireBy k x.core f.scope
    else s.putWarp { x with fences := x.fences.erase f }

theorem settleFences_eq {s : State} {k : Nat} {w : Warp} (h : s.warp? k = some w) : s.settleFences k = w.fences.foldl (settleFence k) s := by
  simp only [settleFences, h]
  rfl

theorem settleFence_live {s : State} {w : Warp} (h : s.warp? w.key = some w) (f : Fence) :
    ∃ w1, (settleFence w.key s f).warp? w.key = some w1 ∧ w1.key = w.key ∧ w1.ended = w.ended := by
  simp only [settleFence, h]
  have erased : (s.putWarp { w with fences := w.fences.erase f }).warp? w.key = some { w with fences := w.fences.erase f } := warp?_putWarp_same ..
  split
  · exact ⟨w, h, rfl, rfl⟩
  · split
    · exact ⟨_, warp?_acquireBy_own (w := { w with fences := w.fences.erase f }) erased f.scope, rfl, rfl⟩
    · exact ⟨_, erased, rfl, rfl⟩

theorem foldl_settleFence_live (fs : List Fence) {s : State} {w : Warp} (h : s.warp? w.key = some w) :
    ∃ w1, (fs.foldl (settleFence w.key) s).warp? w.key = some w1 ∧ w1.ended = w.ended := by
  induction fs generalizing s w with
  | nil => exact ⟨w, h, rfl⟩
  | cons f fs ih =>
    obtain ⟨w1, held, key, ended⟩ := settleFence_live h f
    rw [← key] at held
    obtain ⟨w2, held2, ended2⟩ := ih held
    exact ⟨w2, by rwa [key] at held2, ended2.trans ended⟩

end State

section
variable {s : State} {w : Warp} (hw : s.warp? w.key = some w) (p : Fence)

/-- The warp with its new ordering point alone, as it stands when the points are looked at. -/
theorem settleFences_single : (s.putWarp { w with fences := [p] }).settleFences w.key = State.settleFence w.key (s.putWarp { w with fences := [p] }) p := by
  have held : (s.putWarp { w with fences := [p] }).warp? w.key = some { w with fences := [p] } := State.warp?_putWarp_same ..
  rw [State.settleFences_eq held]
  rfl

theorem settleFences_waiting (h : s.fenceDone w p = false) :
    (s.putWarp { w with fences := [p] }).settleFences w.key = s.putWarp { w with fences := [p] } := by
  have held : (s.putWarp { w with fences := [p] }).warp? w.key = some { w with fences := [p] } := State.warp?_putWarp_same ..
  have waits : (s.putWarp { w with fences := [p] }).fenceDone { w with fences := [p] } p = false := h
  rw [settleFences_single, State.settleFence, held]
  simp only [waits]
  rfl

include hw in
theorem settleFences_complete (none : w.fences = []) (h : s.fenceDone w p = true) :
    (s.putWarp { w with fences := [p] }).settleFences w.key = if p.acq then s.acquireBy w.key w.core p.scope else s := by
  have held : (s.putWarp { w with fences := [p] }).warp? w.key = some { w with fences := [p] } := State.warp?_putWarp_same ..
  have done : (s.putWarp { w with fences := [p] }).fenceDone { w with fences := [p] } p = true := h
  have gone : ({ w with fences := [p].erase p } : Warp) = w := by
    rw [List.erase_cons_head, ← none]
  have back : (s.putWarp { w with fences := [p] }).putWarp w = s :=
    (State.putWarp_putWarp s (a := { w with fences := [p] }) (b := w) rfl).trans (State.putWarp_of_held hw)
  rw [settleFences_single, State.settleFence, held]
  simp only [done, gone, back]
  rfl

end

/-- A new ordering point is complete when what came before it is performed and the replicas its scope names have caught up (R300, R303). -/
theorem fenceDone_fencePoint (s : State) (w : Warp) (acq rel sc : Bool) (scope : Nat) : s.fenceDone w (fencePoint w acq rel sc scope) = true ↔
    (∀ e ∈ w.log, e.seq < w.nextSeq → e.async = false → (acq = true → rel = false → e.reads = true) → ∀ p ∈ e.parts, p.ok = true) ∧
      ¬(rel = true ∧ 3 ≤ scope ∧ ∃ r ∈ s.replicas, r.owner = w.key) ∧ ¬(sc = true ∧ 4 ≤ scope ∧ s.replicas ≠ []) := by
  have covered : ∀ e : LogEntry, ((fencePoint w acq rel sc scope).covers e = true ↔
      e.seq < w.nextSeq ∧ e.async = false ∧ (acq = true → rel = false → e.reads = true)) := by
    intro e
    cases acq <;> cases rel <;> simp [Fence.covers, fencePoint, and_assoc]
  have performed : (w.log.all fun e => !(fencePoint w acq rel sc scope).covers e || e.parts.all fun p => p.ok) = true ↔
      ∀ e ∈ w.log, e.seq < w.nextSeq → e.async = false → (acq = true → rel = false → e.reads = true) → ∀ p ∈ e.parts, p.ok = true := by
    simp only [List.all_eq_true, Bool.or_eq_true, Bool.not_eq_true', ← Bool.not_eq_true, covered, not_and_or]
    grind
  rw [State.fenceDone, Bool.and_eq_true, Bool.and_eq_true, performed, and_assoc]
  refine and_congr Iff.rfl (and_congr ?_ ?_)
  · cases rel <;> simp [fencePoint, imp_iff_not_or]
  · by_cases wide : 4 ≤ scope <;> cases sc <;> simp [fencePoint, wide]

section
variable {s : State} {w : Warp} (acq rel sc : Bool) (f : FormR) (hc : s.curWarp = some w)
include hc

theorem fenceForm_never (h : Warp.never f.h = true ∨ w.tx ≠ none) : fenceForm acq rel sc f s = .next (s.retire w w) := by
  rw [fenceForm, machineOp_cur _ hc, if_pos (by simpa [Option.isSome_iff_ne_none] using h)]
  exact congrArg Host.Outcome.next (finish_fall (ended_of_cur hc))

variable (hw : s.warp? w.key = some w) (hn : Warp.never f.h = false) (ht : w.tx = none)
include hn ht

/-- A fence retires at once with the ordering points that are left (R308). -/
theorem fenceForm_acts : ∃ s1 w1,
    s1 = (s.putWarp { w with fences := w.fences ++ [fencePoint w acq rel sc (fenceScope f)] }).settleFences w.key ∧
      s1.warp? w.key = some w1 ∧ fenceForm acq rel sc f s = .next (s1.retire w w1) := by
  have put : (s.putWarp { w with fences := w.fences ++ [fencePoint w acq rel sc (fenceScope f)] }).warp? w.key =
      some { w with fences := w.fences ++ [fencePoint w acq rel sc (fenceScope f)] } := State.warp?_putWarp_same ..
  obtain ⟨w1, held, ended⟩ := State.foldl_settleFence_live (w.fences ++ [fencePoint w acq rel sc (fenceScope f)])
    (w := { w with fences := w.fences ++ [fencePoint w acq rel sc (fenceScope f)] }) put
  have held : ((s.putWarp { w with fences := w.fences ++ [fencePoint w acq rel sc (fenceScope f)] }).settleFences w.key).warp? w.key = some w1 := by
    rw [State.settleFences_eq put]; exact held
  refine ⟨_, w1, rfl, held, ?_⟩
  rw [fenceForm, machineOp_cur _ hc, if_neg (by simp [hn, ht])]
  simp only [held, Option.getD_some]
  exact congrArg Host.Outcome.next (finish_fall (w := w) (ended.trans (show w.ended = false from ended_of_cur hc)))

include hw in
/-- With no other point set, what is left is known from the new one alone. -/
theorem fenceForm_first (none : w.fences = []) :
    (s.fenceDone w (fencePoint w acq rel sc (fenceScope f)) = false →
      fenceForm acq rel sc f s = .next (s.retire w { w with fences := [fencePoint w acq rel sc (fenceScope f)] })) ∧
    (s.fenceDone w (fencePoint w acq rel sc (fenceScope f)) = true → acq = false → fenceForm acq rel sc f s = .next (s.retire w w)) ∧
    (s.fenceDone w (fencePoint w acq rel sc (fenceScope f)) = true → acq = true →
      fenceForm acq rel sc f s = .next ((s.acquireBy w.key w.core (fenceScope f)).retire w w.drained)) := by
  obtain ⟨s1, w1, rfl, held, runs⟩ := fenceForm_acts acq rel sc f hc hn ht
  rw [none, List.nil_append] at held runs
  refine ⟨fun waits => ?_, fun done noAcq => ?_, fun done isAcq => ?_⟩
  · rw [settleFences_waiting _ waits] at held runs
    obtain rfl := Option.some.inj ((State.warp?_putWarp_same ..).symm.trans held)
    rw [runs, State.retire_putWarp]
    rfl
  · rw [settleFences_complete hw _ none done, if_neg (by simp [fencePoint, noAcq])] at held runs
    obtain rfl := Option.some.inj (hw.symm.trans held)
    exact runs
  · rw [settleFences_complete hw _ none done, if_pos (show (fencePoint w acq rel sc (fenceScope f)).acq = true from isAcq)] at held runs
    obtain rfl := Option.some.inj ((warp?_acquireBy_own hw _).symm.trans held)
    exact runs

end

/-- An access that an ordering point holds is not performed (R300). -/
theorem ready_of_held {s : State} {w : Warp} {e : LogEntry} {f : Fence} (p : Part) (hf : f ∈ w.fences) (after : f.pos ≤ e.seq)
    (kind : f.writesOnly = true → e.writes = true) (mode : e.sup = true → f.sup = true) : s.ready w e p = false := by
  have holds : f.holds e = true := by
    cases hs : e.sup <;> cases hq : f.writesOnly <;> simp_all [Fence.holds, Fence.reaches]
  have anyHolds : (w.fences.any fun f => f.holds e) = true := List.any_eq_true.2 ⟨f, hf, holds⟩
  simp [State.ready, State.inOrder, anyHolds]

/-- Settles O29: the fence retires with the points that are left; a point alone goes exactly when it is complete. -/
theorem fenceForms : Obligations.FenceForms := by
  have rule : ∀ (acq rel sc : Bool) (f : FormR) (s : State) (w : Warp), s.curWarp = some w → s.warp? w.key = some w →
      (Warp.never f.h = true ∨ w.tx ≠ none → fenceForm acq rel sc f s = .next (s.retire w w)) ∧
      (Warp.never f.h = false → w.tx = none → ∃ s1 w1,
        s1 = (s.putWarp { w with fences := w.fences ++ [fencePoint w acq rel sc (fenceScope f)] }).settleFences w.key ∧
        s1.warp? w.key = some w1 ∧ fenceForm acq rel sc f s = .next (s1.retire w w1)) ∧
      (Warp.never f.h = false → w.tx = none → w.fences = [] → _) := fun acq rel sc f s w hc hw =>
    ⟨fenceForm_never acq rel sc f hc, fenceForm_acts acq rel sc f hc, fenceForm_first acq rel sc f hc hw⟩
  simp only [← Bool.not_eq_true, fenceDone_fencePoint] at rule
  simp only [Bool.not_eq_true] at rule
  refine ⟨rule true false false, rule false true false, rule true true false, rule true true true, ?_, ?_, ?_⟩
  all_goals clear rule
  · exact fun s w e p f hf after kind mode => ready_of_held p hf after kind mode
  · intro s k core scope apart wide
    have apart : ¬s.fused.contains (clusterOf core) = true := by rw [apart]; exact Bool.false_ne_true
    rw [State.acquireBy_l1, State.acquire, if_neg apart, if_pos wide, State.l1Clear, if_neg apart]
    exact tget_tdel_same ..
  · intro s k core scope narrow
    rw [State.acquireBy_l1, State.acquire, if_neg (by split <;> omega)]

end Sys2Proof.Machine

/-!
Transactions (R309–R316): what an abort leaves of the warp, and the forms that open, commit and abort one.
-/

namespace Sys2Proof.Machine

/-! ## Bits of TXSTAT (R315) -/

/-- What TXSTAT keeps above the fields a transaction writes. -/
theorem and_not_low17 (x : Word) : x &&& ~~~0x1FFFF#64 = BitVec.ofNat 64 (x.toNat / 2 ^ 17 * 2 ^ 17) := by
  refine BitVec.eq_of_getLsbD_eq fun i hi => ?_
  have low : (0x1FFFF#64).getLsbD i = decide (i < 17) := by
    rw [show (0x1FFFF#64) = BitVec.ofNat 64 (2 ^ 17 - 1) from rfl, BitVec.getLsbD_ofNat, Nat.testBit_two_pow_sub_one]
    simp [hi]
  rw [BitVec.getLsbD_and, BitVec.getLsbD_not, low, BitVec.getLsbD_ofNat, Nat.mul_comm, Nat.testBit_two_pow_mul, Nat.testBit_div_two_pow]
  by_cases h : i < 17
  · simp [h]
  · simp [hi, h, Nat.sub_add_cancel (Nat.le_of_not_lt h), Nat.le_of_not_lt h, BitVec.testBit_toNat]

/-- The word of an abort with its fields, as a number. -/
theorem txFields_toNat (x : Word) {v : Nat} (h : v < 2 ^ 17) : ((x &&& ~~~0x1FFFF#64) ||| BitVec.ofNat 64 v).toNat = x.toNat / 2 ^ 17 * 2 ^ 17 + v := by
  have := x.isLt
  rw [and_not_low17, BitVec.toNat_or, BitVec.toNat_ofNat, BitVec.toNat_ofNat, Nat.mod_eq_of_lt (by omega), Nat.mod_eq_of_lt (by omega),
    Nat.mul_comm, Nat.two_pow_add_eq_or_of_lt h]

theorem bump16_toNat (x : Word) (n : Nat) : (bump16 x 32 n).toNat =
    x.toNat % 2 ^ 32 + 2 ^ 32 * min 65535 (x.toNat / 2 ^ 32 % 2 ^ 16 + n) + 2 ^ 48 * (x.toNat / 2 ^ 48) := by
  have := x.isLt
  have ones : ∀ i, (0xFFFF#64).getLsbD i = decide (i < 16) := fun i => by
    rw [show (0xFFFF#64) = BitVec.ofNat 64 (2 ^ 16 - 1) from rfl, BitVec.getLsbD_ofNat, Nat.testBit_two_pow_sub_one]
    grind
  have fields : bump16 x 32 n = BitVec.ofNat 64
      (x.toNat % 2 ^ 32 + 2 ^ 32 * min 65535 (x.toNat / 2 ^ 32 % 2 ^ 16 + n) + 2 ^ (32 + 16) * (x.toNat / 2 ^ 48)) := by
    refine BitVec.eq_of_getLsbD_eq fun i hi => ?_
    rw [BitVec.getLsbD_ofNat, testBit_three_fields _ _ _ (Nat.mod_lt _ (Nat.two_pow_pos _)) (show min 65535 _ < 2 ^ 16 by omega)]
    simp only [bump16, BitVec.getLsbD_or, BitVec.getLsbD_and, BitVec.getLsbD_not, BitVec.getLsbD_shiftLeft, BitVec.getLsbD_ofNat, ones,
      BitVec.extractLsb'_toNat, Nat.shiftRight_eq_div_pow, Nat.testBit_mod_two_pow, Nat.testBit_div_two_pow, BitVec.testBit_toNat]
    have high : 16 ≤ i - 32 → (min 65535 (x.toNat / 2 ^ 32 % 2 ^ 16 + n)).testBit (i - 32) = false := fun h =>
      Nat.testBit_lt_two_pow (Nat.lt_of_lt_of_le (show min 65535 _ < 2 ^ 16 by omega) (Nat.pow_le_pow_right (by omega) h))
    grind
  rw [fields, BitVec.toNat_ofNat]
  omega

/-! ## Registers full again (R125) -/

namespace Warp

/-- The second warp differs from the first in nothing but private registers and in copies that are full again. -/
structure Refilled (w w1 : Warp) : Prop where
  onlyRegs : w.OnlyRegs w1
  s : w1.s = w.s
  v : w1.v = w.v
  full : ∀ m r, w.isEmpty m r = false → w1.isEmpty m r = false

theorem Refilled.refl (w : Warp) : w.Refilled w := ⟨.refl w, rfl, rfl, fun _ _ h => h⟩

theorem Refilled.trans {a b c : Warp} (h : a.Refilled b) (k : b.Refilled c) : a.Refilled c :=
  ⟨h.onlyRegs.trans k.onlyRegs, k.s.trans h.s, k.v.trans h.v, fun m r e => k.full m r (h.full m r e)⟩

theorem Refilled.foldl {β : Type} {f : Warp → β → Warp} (h : ∀ (w : Warp) b, w.Refilled (f w b)) (l : List β) (w : Warp) : w.Refilled (l.foldl f w) := by
  induction l generalizing w with
  | nil => exact .refl w
  | cons b t ih => exact (h w b).trans (ih _)

theorem getLsbD_putBit_false {n : Nat} (x : BitVec n) (k i : Nat) : (putBit false x k).getLsbD i = (x.getLsbD i && i != k) := by
  by_cases hi : i < n
  · have bit : (1#n <<< k).getLsbD i = decide (i = k) := by
      simp only [BitVec.getLsbD_shiftLeft, BitVec.getLsbD_one]
      by_cases same : i = k
      · subst same; simp; omega
      · by_cases before : i < k
        · simp [before, same]
        · simp [show i - k ≠ 0 by omega, same]
    rw [putBit, if_neg Bool.false_ne_true, BitVec.getLsbD_and, BitVec.getLsbD_not, bit]
    simp [hi, bne, beq_eq_decide]
  · rw [BitVec.getLsbD_of_ge _ _ (Nat.le_of_not_lt hi), BitVec.getLsbD_of_ge _ _ (Nat.le_of_not_lt hi), Bool.false_and]

theorem bank_setBank (w : Warp) (m n : Nat) (b : Bank) :
    (w.setBank m b).bank n = if m = n ∧ m < w.banks.length then b else w.bank n := by
  by_cases same : m = n
  · subst same
    by_cases inside : m < w.banks.length
    · rw [if_pos ⟨rfl, inside⟩, bank_setBank_same _ _ inside]
    · rw [if_neg fun h => inside h.2, bank, setBank_banks, bank, List.getD_eq_default _ _ (by rw [length_lset]; omega), List.getD_eq_default _ _ (by omega)]
  · rw [if_neg fun h => same h.1, bank_setBank_ne _ _ same]

theorem isEmpty_v (w : Warp) (n k : Nat) : w.isEmpty n (.v k) = if w.commonV k then w.emptyV.getLsbD k else (w.bank n).emptyV.getLsbD k := rfl

theorem isEmpty_s (w : Warp) (n k : Nat) : w.isEmpty n (.s k) = if k < 128 then w.emptyS.getLsbD k else (w.bank n).emptyS.getLsbD k := rfl

theorem setEmpty_v (w : Warp) (m k : Nat) : w.setEmpty m false (.v k) = if w.commonV k then { w with emptyV := putBit false w.emptyV k }
    else w.setBank m { w.bank m with emptyV := putBit false (w.bank m).emptyV k } := rfl

theorem setEmpty_s (w : Warp) (m k : Nat) : w.setEmpty m false (.s k) = if k < 128 then { w with emptyS := putBit false w.emptyS k }
    else w.setBank m { w.bank m with emptyS := putBit false (w.bank m).emptyS k } := rfl

/-- A change of a bank that leaves full what is full in it leaves full what any member sees full. -/
theorem isEmpty_setBank_of_full {w : Warp} {n : Nat} {q : Reg} {m : Nat} {b : Bank}
    (hv : ∀ j, (w.bank m).emptyV.getLsbD j = false → b.emptyV.getLsbD j = false)
    (hs : ∀ j, (w.bank m).emptyS.getLsbD j = false → b.emptyS.getLsbD j = false) (h : w.isEmpty n q = false) :
    (w.setBank m b).isEmpty n q = false := by
  cases q with
  | v j =>
    rw [isEmpty_v] at h ⊢
    rw [show (w.setBank m b).commonV j = w.commonV j from rfl, bank_setBank, setBank_emptyV]
    grind
  | s j =>
    rw [isEmpty_s] at h ⊢
    rw [bank_setBank, setBank_emptyS]
    grind
  | x j | g j | st j => exact h

theorem isEmpty_setEmpty_of_full {w : Warp} {n : Nat} {q : Reg} (m : Nat) (r : Reg) (h : w.isEmpty n q = false) :
    (w.setEmpty m false r).isEmpty n q = false := by
  have put : ∀ {n : Nat} (x : BitVec n) (k j : Nat), x.getLsbD j = false → (putBit false x k).getLsbD j = false :=
    fun x k j h => by rw [getLsbD_putBit_false, h, Bool.false_and]
  cases r with
  | v k =>
    rw [setEmpty_v]
    split
    · cases q with
      | v j =>
        rw [isEmpty_v] at h ⊢
        change (if w.commonV j then (putBit false w.emptyV k).getLsbD j else (w.bank n).emptyV.getLsbD j) = false
        split at h
        · rw [if_pos ‹_›, put _ _ _ h]
        · rw [if_neg ‹_›, h]
      | s j | x j | g j | st j => exact h
    · exact isEmpty_setBank_of_full (put _ _) (fun _ h => h) h
  | s k =>
    rw [setEmpty_s]
    split
    · cases q with
      | s j =>
        rw [isEmpty_s] at h ⊢
        change (if j < 128 then (putBit false w.emptyS k).getLsbD j else (w.bank n).emptyS.getLsbD j) = false
        split at h
        · rw [if_pos ‹_›, put _ _ _ h]
        · rw [if_neg ‹_›, h]
      | v j | x j | g j | st j => exact h
    · exact isEmpty_setBank_of_full (fun _ h => h) (put _ _) h
  | x k =>
    cases q with
    | x j => exact put w.emptyX k j h
    | v j | s j | g j | st j => exact h
  | g k => exact h
  | st k => exact h

/-- A register an access fills is full once it is marked so. -/
theorem isEmpty_setEmpty_same (w : Warp) (m : Nat) {r : Reg} (h : ∀ k, r ≠ .st k) : (w.setEmpty m false r).isEmpty m r = false := by
  have none : ¬m < w.banks.length → w.bank m = {} := fun h => List.getD_eq_default _ _ (by simpa using h)
  have clear : ∀ {n : Nat} (x : BitVec n) (k : Nat), (putBit false x k).getLsbD k = false := fun x k => by rw [getLsbD_putBit_false]; simp
  cases r with
  | v k =>
    rw [setEmpty_v]
    split
    · rename_i common
      exact (if_pos common).trans (clear ..)
    · rename_i own
      refine (if_neg own).trans ?_
      rw [bank_setBank]
      split
      · exact clear ..
      · rw [none (by simp_all)]; exact BitVec.getLsbD_zero
  | s k =>
    rw [setEmpty_s]
    split
    · rename_i common
      exact (if_pos common).trans (clear ..)
    · rename_i own
      refine (if_neg own).trans ?_
      rw [bank_setBank]
      split
      · exact clear ..
      · rw [none (by simp_all)]; exact BitVec.getLsbD_zero
  | x k => exact clear ..
  | g k => rfl
  | st k => exact absurd rfl (h k)

/-- Marking a copy full leaves every full copy full. -/
theorem refilled_setEmpty (w : Warp) (m : Nat) (r : Reg) : w.Refilled (w.setEmpty m false r) := by
  refine ⟨onlyRegs_setEmpty .., ?_, ?_, fun n q h => ?_⟩
  · cases r with
    | v k => simp only [setEmpty]; split <;> rfl
    | s k => simp only [setEmpty]; split <;> rfl
    | x k | g k | st k => rfl
  · cases r with
    | v k => simp only [setEmpty]; split <;> rfl
    | s k => simp only [setEmpty]; split <;> rfl
    | x k | g k | st k => rfl
  · exact isEmpty_setEmpty_of_full m r h

/-- Every register the chosen accesses would fill is full again. -/
theorem refilled_refill (w : Warp) (f : LogEntry → Bool) : w.Refilled (w.refill f) :=
  .foldl (fun _ _ => .foldl (fun _ _ => .foldl (fun _ _ => refilled_setEmpty ..) _ _) _ _) _ _

/-- What one step of a fold brings about and the others keep holds at its end. -/
theorem foldl_brings {β : Type} {I P : Warp → Prop} {f : Warp → β → Warp} (always : ∀ w b, I w → I (f w b)) (keep : ∀ w b, P w → P (f w b))
    {l : List β} {b : β} (hb : b ∈ l) (brings : ∀ w, I w → P (f w b)) {w : Warp} (start : I w) : P (l.foldl f w) := by
  induction l generalizing w with
  | nil => exact absurd hb List.not_mem_nil
  | cons a t ih =>
    rcases List.mem_cons.1 hb with rfl | later
    · exact t.foldlRecOn f (brings w start) fun x hx a _ => keep x a hx
    · exact ih later (always w a start)

theorem fills_ne_st {e : LogEntry} {r : Reg} (h : r ∈ e.fills) (k : Nat) : r ≠ .st k := by
  rintro rfl
  unfold LogEntry.fills at h
  split at h <;> simp at h

theorem isEmpty_refill {w : Warp} {f : LogEntry → Bool} {e : LogEntry} (he : e ∈ w.log) (chosen : f e = true) {m : Nat} (hm : m ∈ w.slots)
    {r : Reg} (hr : r ∈ e.fills) : (w.refill f).isEmpty m r = false := by
  have marks : ∀ (m' : Nat) (e' : LogEntry) (x : Warp), x.Refilled (e'.fills.foldl (fun w r => w.setEmpty m' false r) x) :=
    fun m' e' => .foldl (fun _ _ => refilled_setEmpty ..) _
  have entry : ∀ (e' : LogEntry) (x : Warp), x.Refilled (x.slots.foldl (fun w m => e'.fills.foldl (fun w r => w.setEmpty m false r) w) x) :=
    fun e' x => .foldl (fun x m' => marks m' e' x) _ _
  unfold refill
  refine foldl_brings (I := fun x => x.p = w.p) (P := fun x => x.isEmpty m r = false) (fun x e' hp => ?_) (fun x e' => (entry e' x).full m r)
    (List.mem_filter.2 ⟨he, chosen⟩) (fun x hp => ?_) rfl
  · rw [(entry e' x).onlyRegs]; exact hp
  · refine foldl_brings (I := fun _ => True) (fun _ _ _ => trivial) (fun x m' => (marks m' e x).full m r) (show m ∈ x.slots from ?_)
      (fun x _ => ?_) trivial
    · rwa [slots, hp]
    · exact foldl_brings (I := fun _ => True) (fun _ _ _ => trivial) (fun x q => (refilled_setEmpty x m q).full m r) hr
        (fun x _ => isEmpty_setEmpty_same x m (fills_ne_st hr)) trivial

/-! ## The abort (R312, R315) -/

/-- The warp with em as it stood at `txbegin` and its registers full again. -/
def txRestored (w : Warp) (t : Tx) : Warp :=
  (w.eachSlot fun m b => [0, 1, 2].foldl (fun b i => b.setEmWord i ((t.em.getD m []).getD i 0)) b).refill fun e => e.tx

theorem s_eachSlot (w : Warp) (f : Nat → Bank → Bank) : (w.eachSlot f).s = w.s := by
  unfold eachSlot; exact foldl_keep Warp.s (fun w m => w.setBank m (f m (w.bank m))) (fun _ _ => rfl) _ _
theorem v_eachSlot (w : Warp) (f : Nat → Bank → Bank) : (w.eachSlot f).v = w.v := by
  unfold eachSlot; exact foldl_keep Warp.v (fun w m => w.setBank m (f m (w.bank m))) (fun _ _ => rfl) _ _

theorem onlyRegs_txRestored (w : Warp) (t : Tx) : w.OnlyRegs (w.txRestored t) := (onlyRegs_eachSlot ..).trans (refilled_refill ..).onlyRegs

/-- What an abort makes of the warp's TXSTAT. -/
def abortStat (w : Warp) (t : Tx) (cause code : Nat) : Word :=
  bump16 ((w.txstat &&& ~~~0x1FFFF#64) ||| BitVec.ofNat 64 (2 * cause + 16 * code + 4096 * min 16 (txLines t))) 32 1

theorem dropTx_of_tx {w : Warp} {t : Tx} (ht : w.tx = some t) (cause code : Nat) (a : Word) : w.dropTx cause code a =
    ({ w.txRestored t with log := w.log.filter (fun e => !e.tx), mm := t.mm, pc := t.target, tx := none, txstat := w.abortStat t cause code,
                           txaddr := if cause = 3 then w.txFaultAddr.getD a else a, loopDue := false } : Warp).endLoops := by
  have log := congrArg Warp.log (onlyRegs_txRestored w t)
  have stat := congrArg Warp.txstat (onlyRegs_txRestored w t)
  have logged := congrArg Warp.log (onlyRegs_eachSlot w fun m b => [0, 1, 2].foldl (fun b i => b.setEmWord i ((t.em.getD m []).getD i 0)) b)
  have fault : (w.eachSlot fun m b => [0, 1, 2].foldl (fun b i => b.setEmWord i ((t.em.getD m []).getD i 0)) b).txFaultAddr = w.txFaultAddr := by
    unfold txFaultAddr
    rw [logged]
  unfold abortStat
  rw [← fault, ← log, ← stat]
  simp only [dropTx, ht, txRestored]

theorem isEmpty_dropTx {w : Warp} {t : Tx} (ht : w.tx = some t) (cause code : Nat) (a : Word) (m : Nat) (r : Reg) :
    (w.dropTx cause code a).isEmpty m r = (w.txRestored t).isEmpty m r := by
  rw [dropTx_of_tx ht]
  cases r <;> rfl

/-- The word an abort leaves in TXSTAT, as a number. -/
theorem abortStat_toNat (w : Warp) (t : Tx) {cause code : Nat} (hc : cause < 8) (hk : code < 256) :
    ∃ n, n ≤ 16 ∧ (w.abortStat t cause code).toNat = w.txstat.toNat / 2 ^ 17 % 2 ^ 15 * 2 ^ 17 + (2 * cause + 16 * code + 4096 * n) +
      2 ^ 32 * min 65535 (w.txstat.toNat / 2 ^ 32 % 2 ^ 16 + 1) + 2 ^ 48 * (w.txstat.toNat / 2 ^ 48) := by
  have few : min 16 (txLines t) ≤ 16 := Nat.min_le_left ..
  refine ⟨min 16 (txLines t), few, ?_⟩
  rw [abortStat, bump16_toNat, txFields_toNat _ (by omega)]
  omega

theorem txQuiet_iff (w : Warp) : w.txQuiet = true ↔ ∀ e ∈ w.log, e.tx = true → ∀ p ∈ e.parts, p.ok = true ∨ p.fault ≠ none := by
  simp only [txQuiet, List.all_eq_true, Bool.or_eq_true, Bool.not_eq_true', Option.isSome_iff_ne_none, ← Bool.not_eq_true, ← imp_iff_not_or]

end Warp

/-! ## The forms (R313, R316) -/

/-- An instruction that an open transaction does not admit aborts it with cause 7 (R313). -/
theorem machineOpNT_tx {s : State} {w : Warp} (f : State → Warp → State × WRes) (hc : s.curWarp = some w) (ht : w.tx ≠ none) :
    machineOpNT s f = .next (s.putWarp (Warp.abortTx { w with st := .act, waitOn := none } 7 0 0)) := by
  rw [machineOpNT, machineOp_cur _ hc]
  simp [Option.isSome_iff_ne_none.2 ht, State.finish]

/-- The write set of a transaction performed and in the core's L1 (R311). -/
def commitRanges (s : State) (w : Warp) (t : Tx) : State := t.ranges.foldl (fun s r => (s.perform w.key r.1 r.2).l1Update w.core r.1 r.2) s

section
variable {s : State} {w : Warp} (hc : s.curWarp = some w)
include hc

theorem txbegin_cur (f : FormC) :
    (Warp.never f.h = true → Retires (.txbegin f) s w w) ∧
    (Warp.never f.h = false → w.meld.opened = true → Traps (.txbegin f) s w { cls := 16 }) ∧
    (Warp.never f.h = false → w.meld.opened = false → w.tx = none → Retires (.txbegin f) s w { w with
      tx := some { em := w.banks.map fun b => [tget 0 b.s 253, tget 0 b.s 254, tget 0 b.s 255], mm := w.mm, target := FormC.target f w.pc, since := s.cycle },
      txstat := BitVec.ofNat 64 (w.txstat.toNat / 2 ^ 17 * 2 ^ 17), txaddr := 0 }) := by
  have live := ended_of_cur hc
  have steps : exec (.txbegin f) s = execTxbegin f s := rfl
  rw [execTxbegin, machineOp_cur _ hc] at steps
  refine ⟨fun never => ?_, fun acts opened => ?_, fun acts closed none => ?_⟩
  · rw [if_pos never, finish_fall live] at steps
    exact steps
  · rw [if_neg (by simp [acts]), if_pos opened] at steps
    exact steps
  · rw [if_neg (by simp [acts]), if_neg (by simp [closed]), if_neg (by simp [none]), and_not_low17] at steps
    exact steps.trans (congrArg Host.Outcome.next (finish_fall (w := w) live))

theorem txend_none (f : FormC) (hn : Warp.never f.h = false) (ht : w.tx = none) : Traps (.txend f) s w { cls := 16 } := by
  have steps : exec (.txend f) s = execTxend f s := rfl
  rw [execTxend, machineOp_cur _ hc] at steps
  simp only [hn, ht] at steps
  exact steps

theorem txend_busy (f : FormC) {t : Tx} (hn : Warp.never f.h = false) (ht : w.tx = some t) (busy : releaseBusy s w true = true) :
    Waits (.txend f) s w .log := by
  have steps : exec (.txend f) s = execTxend f s := rfl
  rw [execTxend, machineOp_cur _ hc] at steps
  simp only [hn, ht, busy] at steps
  exact steps

theorem txend_commits (f : FormC) {t : Tx} (hn : Warp.never f.h = false) (ht : w.tx = some t) (idle : releaseBusy s w true = false) :
    let w1 : Warp := { w with tx := none, txstat := (w.txstat &&& ~~~(0x1FFFF#64)) ||| BitVec.ofNat 64 (4096 * min 16 (Warp.txLines t)) }
    ((∃ r ∈ t.ranges, s.hostReady r.1 r.2.length false = false) → Waits (.txend f) s w .transaction) ∧
    ((∀ r ∈ t.ranges, s.hostReady r.1 r.2.length false = true) → exec (.txend f) s =
      .next ((((commitRanges s w t).putWarp w1).acquireBy w.key w.core 4).retire w w1.drained)) := by
  intro w1
  have steps : exec (.txend f) s = execTxend f s := rfl
  rw [execTxend, machineOp_cur _ hc] at steps
  simp only [hn, ht, idle, Bool.false_eq_true, ↓reduceIte] at steps
  have some_held : (t.ranges.any fun r => !s.hostReady r.1 r.2.length false) = true ↔ ∃ r ∈ t.ranges, s.hostReady r.1 r.2.length false = false := by
    simp [List.any_eq_true]
  refine ⟨fun held => steps.trans ?_, fun free => steps.trans ?_⟩
  · rw [if_pos (some_held.2 held)]
    rfl
  · have none_held : ¬(t.ranges.any fun r => !s.hostReady r.1 r.2.length false) = true := fun h => by
      obtain ⟨r, hr, held⟩ := some_held.1 h
      exact absurd (free r hr) (by simp [held])
    rw [if_neg none_held]
    have own : ((commitRanges s w t).putWarp w1).warp? w1.key = some w1 := State.warp?_putWarp_same ..
    exact (congrArg (fun p : State × WRes => Host.Outcome.next (p.1.finish w p.2)) (acquired_own own 4 id)).trans
      (congrArg Host.Outcome.next (finish_fall (w1 := w1.drained) (show w.ended = false from ended_of_cur hc)))

theorem txabt_cur (f : FormC) :
    (Warp.never f.h = false → w.tx ≠ none →
      exec (.txabt f) s = .next (s.putWarp (Warp.abortTx { w with st := .act, waitOn := none } 6 (f.ctl.extractLsb' 0 8).toNat 0))) ∧
    (Warp.never f.h = true ∨ w.tx = none → Retires (.txabt f) s w w) := by
  have steps : exec (.txabt f) s = execTxabt f s := rfl
  rw [execTxabt, warpOp_cur _ hc, unlessNever] at steps
  refine ⟨fun acts opened => ?_, fun idle => ?_⟩
  · rw [if_neg (by simp [acts]), if_pos (Option.isSome_iff_ne_none.2 opened)] at steps
    exact steps
  · have same : (if Warp.never f.h = true then WRes.fall w else if w.tx.isSome = true then .abort 6 (f.ctl.extractLsb' 0 8).toNat 0 else .fall w) = .fall w := by
      rcases idle with h | h <;> simp [h]
    rw [same, finish_fall (ended_of_cur hc)] at steps
    exact steps

end

theorem Tx.ranges_of_held_nil {t : Tx} (h : t.held = []) : t.ranges = [] := by
  rw [Tx.ranges, h]
  rfl

/-- TX_CONFLICT takes the abort that is pending, once the transaction's accesses are complete (R312). -/
theorem txConflict_takes {c k line : Nat} {s : State} {w : Warp} {t : Tx} {cause code : Nat} {a : Word} (hw : s.warp? (warpKey c k) = some w)
    (ht : w.tx = some t) (pending : t.pending = some (cause, code, a)) (named : cause ≠ 1 ∨ a.toNat = line) (quiet : w.txQuiet = true) :
    exec (.txConflict c k line) s = .next (s.modWarp (warpKey c k) fun w => w.awake.dropTx cause code a) := by
  have steps : exec (.txConflict c k line) s = execTxConflict c k line s := rfl
  have takes : ¬((decide (cause = 1) && a.toNat != line || !w.txQuiet) = true) := by
    rw [quiet]
    rcases named with h | h <;> simp [h]
  rw [steps, execTxConflict, State.modWarp, State.modWarp, hw]
  simp only [ht, Option.bind_some, pending, if_neg takes]

theorem txConflict_idle {c k line : Nat} {s : State} {w : Warp} (hw : s.warp? (warpKey c k) = some w) (idle : ∀ t, w.tx = some t → t.pending = none) :
    exec (.txConflict c k line) s = .next (s.modWarp (warpKey c k) id) := by
  have steps : exec (.txConflict c k line) s = execTxConflict c k line s := rfl
  have none : w.tx.bind (·.pending) = none := by
    cases ht : w.tx with
    | none => rfl
    | some t => exact idle t ht
  rw [steps, execTxConflict, State.modWarp, State.modWarp, hw]
  simp only [none, id]

theorem abortTx_waits {w : Warp} {t : Tx} (ht : w.tx = some t) (busy : ¬w.txQuiet = true) (first : t.pending = none) (cause code : Nat) (a : Word) :
    w.abortTx cause code a = { w with tx := some { t with pending := some (cause, code, a) } } := by
  rw [Warp.abortTx, if_neg busy, Warp.pendAbort, ht]
  simp [first]

/-- What an abort leaves of the warp (R312, R315). -/
theorem dropTx_spec {w : Warp} {t : Tx} {cause code : Nat} (a : Word) (ht : w.tx = some t) (hc : cause < 8) (hk : code < 256) :
    let w1 := w.dropTx cause code a
    (∀ e ∈ w.log, e.tx = true → ∀ m ∈ w.slots, ∀ r ∈ e.fills, w1.isEmpty m r = false) ∧
    w1.tx = none ∧ w1.pc = t.target ∧ w1.mm = t.mm ∧ w1.txaddr = (if cause = 3 then w.txFaultAddr.getD a else a) ∧ w1.log = w.log.filter (fun e => !e.tx) ∧
    w1.txstat.extractLsb' 0 1 = 0 ∧ w1.txstat.extractLsb' 1 3 = BitVec.ofNat 3 cause ∧
    w1.txstat.extractLsb' 4 8 = BitVec.ofNat 8 code ∧ w1.s = w.s ∧ w1.v = w.v ∧
    (w1.txstat.extractLsb' 32 16).toNat = min 65535 ((w.txstat.extractLsb' 32 16).toNat + 1) := by
  intro w1
  have restored := Warp.dropTx_of_tx ht cause code a
  have stat : w1.txstat = w.abortStat t cause code := congrArg Warp.txstat restored
  have back := Warp.onlyRegs_eachSlot w fun m b => [0, 1, 2].foldl (fun b i => b.setEmWord i ((t.em.getD m []).getD i 0)) b
  have refilled := Warp.refilled_refill (w.eachSlot fun m b => [0, 1, 2].foldl (fun b i => b.setEmWord i ((t.em.getD m []).getD i 0)) b) fun e => e.tx
  obtain ⟨n, few, word⟩ := w.abortStat_toNat t hc hk
  have bits := (w.abortStat t cause code).isLt
  have old := w.txstat.isLt
  refine ⟨fun e he inTx m hm r hr => ?_, congrArg Warp.tx restored, congrArg Warp.pc restored, congrArg Warp.mm restored,
    congrArg Warp.txaddr restored, congrArg Warp.log restored, ?_, ?_, ?_, ?_, ?_, ?_⟩
  · have held := congrArg Warp.log back
    have wide := congrArg Warp.p back
    rw [Warp.isEmpty_dropTx ht]
    exact Warp.isEmpty_refill (by rw [held]; exact he) inTx (by rw [Warp.slots, wide]; exact hm) hr
  · rw [stat]
    apply BitVec.eq_of_toNat_eq
    rw [BitVec.extractLsb'_toNat, word, Nat.shiftRight_zero, show BitVec.toNat (0 : BitVec 1) = 0 from rfl]
    omega
  · rw [stat]
    apply BitVec.eq_of_toNat_eq
    rw [BitVec.extractLsb'_toNat, word, Nat.shiftRight_eq_div_pow, BitVec.toNat_ofNat]
    omega
  · rw [stat]
    apply BitVec.eq_of_toNat_eq
    rw [BitVec.extractLsb'_toNat, word, Nat.shiftRight_eq_div_pow, BitVec.toNat_ofNat]
    omega
  · exact (congrArg Warp.s restored).trans (refilled.s.trans (Warp.s_eachSlot ..))
  · exact (congrArg Warp.v restored).trans (refilled.v.trans (Warp.v_eachSlot ..))
  · rw [stat, BitVec.extractLsb'_toNat, BitVec.extractLsb'_toNat, word, Nat.shiftRight_eq_div_pow, Nat.shiftRight_eq_div_pow]
    omega

/-- Settles O30: the forms, and what an abort makes of the warp by the word it leaves in TXSTAT and the registers it fills. -/
theorem transactionForms : Obligations.TransactionForms := by
  refine ⟨fun f s w hc => txbegin_cur hc f, fun f s w hc hn ht => txend_none hc f hn ht, fun f s w t hc hn ht busy => txend_busy hc f hn ht busy,
    fun f s w t hc hn ht idle => txend_commits hc f hn ht idle, fun t held => Tx.ranges_of_held_nil held, fun f s w hc hn ht => (txabt_cur hc f).1 hn ht,
    fun f s w hc idle => (txabt_cur hc f).2 idle, fun f => ?_, fun w t cause code a ht hc hk => dropTx_spec a ht hc hk, fun w t cause code a ht => ?_,
    fun c k line s w t cause code a hw ht pending named quiet => txConflict_takes hw ht pending named ((Warp.txQuiet_iff w).2 quiet),
    fun c k line s w hw idle => txConflict_idle hw idle, fun i s w hi hc ht f => ?_⟩
  · refine sclRule_of (priv := fun _ => false) (val := fun _ w _ => if f.x = 0 then w.txStatus else w.txaddr) fun s => rfl
  · dsimp only
    rw [← Warp.txQuiet_iff]
    exact ⟨fun quiet => by rw [Warp.abortTx, if_pos quiet], fun busy first => abortTx_waits ht busy first cause code a⟩
  · simp only [List.mem_cons, List.not_mem_nil, or_false] at hi
    rcases hi with rfl | rfl | rfl | rfl | rfl | rfl | rfl | rfl | rfl
    · exact (show exec (.batch f) s = batchForm none f s from rfl).trans (by rw [batchForm]; exact machineOpNT_tx _ hc ht)
    · exact (show exec (.bwait f) s = execBwait f s from rfl).trans (machineOpNT_tx _ hc ht)
    · exact (show exec (.tlwait f) s = execTlwait f s from rfl).trans (machineOpNT_tx _ hc ht)
    · exact (show exec (.tlsig f) s = execTlsig f s from rfl).trans (machineOpNT_tx _ hc ht)
    · exact (show exec (.cpy f) s = execCpy f s from rfl).trans (machineOpNT_tx _ hc ht)
    · exact (show exec (.halo f) s = execHalo f s from rfl).trans (machineOpNT_tx _ hc ht)
    · exact (show exec (.cvgo f) s = execCvgo f s from rfl).trans (machineOpNT_tx _ hc ht)
    · exact (show exec (.regrp f) s = execRegrp f s from rfl).trans (machineOpNT_tx _ hc ht)
    · exact (show exec (.rooffl f) s = execRooffl f s from rfl).trans (machineOpNT_tx _ hc ht)

end Sys2Proof.Machine

/-!
Power control and identity (R477–R480): the word of a rail, and the fields of PCAP as a window's end or an emergency leaves them.
-/

namespace Sys2Proof.Machine

/-! ## The fields of PCAP (R478) -/

theorem plim_eq (v : Word) : plim v = v.toNat % 2 ^ 16 := by rw [plim, BitVec.extractLsb'_toNat, Nat.shiftRight_zero]
theorem flim_eq (v : Word) : flim v = v.toNat / 2 ^ 16 % 2 ^ 12 := by rw [flim, BitVec.extractLsb'_toNat, Nat.shiftRight_eq_div_pow]
theorem mmin_eq (v : Word) : mmin v = v.toNat / 2 ^ 28 % 2 ^ 12 := by rw [mmin, BitVec.extractLsb'_toNat, Nat.shiftRight_eq_div_pow]
theorem vfStep_eq (v : Word) : vfStep v = v.toNat / 2 ^ 40 % 4 := by rw [vfStep, BitVec.extractLsb'_toNat, Nat.shiftRight_eq_div_pow]
theorem throttle_eq (v : Word) : throttle v = v.toNat / 2 ^ 42 % 64 := by rw [throttle, BitVec.extractLsb'_toNat, Nat.shiftRight_eq_div_pow]

/-- VF and THR replaced, the limits kept. -/
theorem setCaps_eq (v : Word) {vf thr : Nat} (hv : vf ≤ 3) (ht : thr < 64) :
    setCaps v vf thr = BitVec.ofNat 64 (v.toNat % 2 ^ 40 + 2 ^ 40 * vf + 2 ^ 42 * thr) := by
  have low : (v &&& 0xFFFFFFFFFF#64).toNat = v.toNat % 2 ^ 40 := by
    rw [BitVec.toNat_and, show (0xFFFFFFFFFF#64).toNat = 2 ^ 40 - 1 from rfl, Nat.and_two_pow_sub_one_eq_mod]
  have fields : (2 ^ 40 * vf + 2 ^ 42 * thr) % 2 ^ 64 = 2 ^ 40 * (vf + 4 * thr) := by omega
  apply BitVec.eq_of_toNat_eq
  rw [setCaps, BitVec.toNat_or, low, BitVec.toNat_ofNat, BitVec.toNat_ofNat, fields, Nat.lor_comm,
    ← Nat.two_pow_add_eq_or_of_lt (Nat.mod_lt _ (Nat.two_pow_pos 40))]
  omega

/-- A PCAP word whose fields stand as they are. -/
theorem caps_unchanged {v : Word} (h : v.toNat < 2 ^ 48) :
    v = BitVec.ofNat 64 (v.toNat % 2 ^ 40 + 2 ^ 40 * (v.toNat / 2 ^ 40 % 4) + 2 ^ 42 * (v.toNat / 2 ^ 42 % 64)) := by
  apply BitVec.eq_of_toNat_eq
  rw [BitVec.toNat_ofNat]
  omega

/-- What the end of a window makes of a die's PCAP (R479). -/
def cappedWord (v : Word) (power flux margin : Nat) : Word :=
  if plim v < power || flim v < flux || margin < mmin v then
    (if throttle v < 48 then setCaps v (vfStep v) (throttle v + 8) else setCaps v (min 3 (vfStep v + 1)) (throttle v))
  else if 10 * power ≤ 9 * plim v && 10 * flux ≤ 9 * flim v && 11 * mmin v ≤ 10 * margin then
    (if 0 < vfStep v then setCaps v (vfStep v - 1) (throttle v) else setCaps v 0 (throttle v - 8))
  else v

section
variable {die : Nat} {s : State} (hd : die < 8) (hp : s.powered = true)
include hd hp

theorem capWindow_run (power flux margin : Nat) : exec (.capWindow die power flux margin) s =
    .next { s with pcap := tset s.pcap die (cappedWord (tget 0 s.pcap die) power flux margin) } := by
  have steps : exec (.capWindow die power flux margin) s = execCapWindow die power flux margin s := rfl
  rw [steps, execCapWindow, if_neg (by simp [hd, hp])]
  rfl

theorem marginEmergency_run (margin : Nat) : exec (.marginEmergency die margin) s =
    .next (if 2 * margin < mmin (tget 0 s.pcap die) then
      { s with pcap := tset s.pcap die (setCaps (tget 0 s.pcap die) 3 (throttle (tget 0 s.pcap die))) } else s) := by
  have steps : exec (.marginEmergency die margin) s = execMarginEmergency die margin s := rfl
  rw [steps, execMarginEmergency, if_neg (by simp [hd, hp])]

end

section
variable (v : Word) (power flux margin : Nat)

/-- Above a limit: a die throttles by 8 up to 48, then lowers its step. -/
theorem cappedWord_above (above : plim v < power ∨ flim v < flux ∨ margin < mmin v) : cappedWord v power flux margin =
    if throttle v < 48 then setCaps v (vfStep v) (throttle v + 8) else setCaps v (min 3 (vfStep v + 1)) (throttle v) :=
  if_pos (by simpa [or_assoc] using above)

/-- Inside all limits by a tenth it goes back the same way. -/
theorem cappedWord_inside (within : ¬(plim v < power ∨ flim v < flux ∨ margin < mmin v))
    (inside : power * 10 ≤ plim v * 9 ∧ flux * 10 ≤ flim v * 9 ∧ mmin v * 11 ≤ margin * 10) : cappedWord v power flux margin =
    if 0 < vfStep v then setCaps v (vfStep v - 1) (throttle v) else setCaps v 0 (throttle v - 8) := by
  refine (if_neg (by simpa [or_assoc] using within)).trans (if_pos ?_)
  simp only [Bool.and_eq_true, decide_eq_true_eq]
  omega

theorem cappedWord_between (within : ¬(plim v < power ∨ flim v < flux ∨ margin < mmin v))
    (outside : ¬(power * 10 ≤ plim v * 9 ∧ flux * 10 ≤ flim v * 9 ∧ mmin v * 11 ≤ margin * 10)) : cappedWord v power flux margin = v := by
  refine (if_neg (by simpa [or_assoc] using within)).trans (if_neg ?_)
  simp only [Bool.and_eq_true, decide_eq_true_eq]
  omega

end

theorem telemetrySample_run {rail : Nat} (mv ca temp : BitVec 16) {s : State} (hr : rail < 28) (hp : s.powered = true) :
    exec (.telemetrySample rail mv ca temp) s =
      .next { s with rails := tset s.rails rail ((tget 0 s.rails rail).extractLsb' 48 16 + 1 ++ temp ++ ca ++ mv) } := by
  have steps : exec (.telemetrySample rail mv ca temp) s = execTelemetrySample rail mv ca temp s := rfl
  rw [steps, execTelemetrySample, if_neg (by simp [hr, hp])]

/-- The four fields of a rail's word (R477). -/
theorem railWord_fields (n temp ca mv : BitVec 16) :
    (n ++ temp ++ ca ++ mv : Word).extractLsb' 0 16 = mv ∧ (n ++ temp ++ ca ++ mv : Word).extractLsb' 16 16 = ca ∧
    (n ++ temp ++ ca ++ mv : Word).extractLsb' 32 16 = temp ∧ (n ++ temp ++ ca ++ mv : Word).extractLsb' 48 16 = n := by
  refine ⟨?_, ?_, ?_, ?_⟩ <;> refine BitVec.eq_of_getLsbD_eq fun i hi => ?_
  all_goals simp only [BitVec.getLsbD_extractLsb', BitVec.getLsbD_append]
  all_goals grind

/-- Settles O51: the words of rails and of PCAP, field by field. -/
theorem powerControl : Obligations.PowerControl := by
  refine ⟨fun rail mv ca temp s => ⟨fun off => ?_, fun hr hp => ?_⟩, fun die power flux margin s off => ⟨?_, ?_⟩, ?_, fun code body s hp => ?_,
    fun code body s hp => ?_⟩
  · have steps : exec (.telemetrySample rail mv ca temp) s = execTelemetrySample rail mv ca temp s := rfl
    rw [steps, execTelemetrySample, if_pos (by simpa using off)]
  · obtain ⟨f0, f1, f2, f3⟩ := railWord_fields ((tget 0 s.rails rail).extractLsb' 48 16 + 1) temp ca mv
    refine ⟨_, telemetrySample_run mv ca temp hr hp, rfl, ?_⟩
    simp only [tget_tset_same]
    exact ⟨f0, f1, f2, f3, fun r other => tget_tset_ne _ _ _ (Ne.symm other)⟩
  · have steps : exec (.capWindow die power flux margin) s = execCapWindow die power flux margin s := rfl
    rw [steps, execCapWindow, if_pos (by simpa using off)]
  · have steps : exec (.marginEmergency die margin) s = execMarginEmergency die margin s := rfl
    rw [steps, execMarginEmergency, if_pos (by simpa using off)]
  · intro die power flux margin s hd hp v plim' flim' mmin' vf thr above inside moved narrow eights few
    have vf_lt : vf < 4 := Nat.mod_lt _ (by omega)
    have hvf : vfStep v = vf := vfStep_eq v
    have hthr : throttle v = thr := throttle_eq v
    have habove : (plim v < power ∨ flim v < flux ∨ margin < mmin v) ↔ above := by rw [plim_eq, flim_eq, mmin_eq]
    have hinside : (power * 10 ≤ plim v * 9 ∧ flux * 10 ≤ flim v * 9 ∧ mmin v * 11 ≤ margin * 10) ↔ inside := by rw [plim_eq, flim_eq, mmin_eq]
    have capped : ∀ vf' thr', cappedWord v power flux margin = BitVec.ofNat 64 (v.toNat % 2 ^ 40 + 2 ^ 40 * vf' + 2 ^ 42 * thr') →
        moved (.capWindow die power flux margin) vf' thr' := fun vf' thr' word =>
      ⟨_, capWindow_run hd hp power flux margin, rfl, (tget_tset_same ..).trans word, fun d other => tget_tset_ne _ _ _ (Ne.symm other)⟩
    refine ⟨fun ab more => capped _ _ ?_, fun ab full => capped _ _ ?_, fun nab ins up => capped _ _ ?_, fun nab ins top => capped _ _ ?_,
      fun nab out => capped _ _ ?_, fun low => ?_, fun enough => ?_⟩
    · rw [cappedWord_above v _ _ _ (habove.2 ab), hthr, hvf, if_pos more, setCaps_eq _ (by omega) (by omega)]
    · rw [cappedWord_above v _ _ _ (habove.2 ab), hthr, hvf, if_neg (by omega), setCaps_eq _ (by omega) (by omega), full]
    · rw [cappedWord_inside v _ _ _ (mt habove.1 nab) (hinside.2 ins), hthr, hvf, if_pos up, setCaps_eq _ (by omega) (by omega)]
    · rw [cappedWord_inside v _ _ _ (mt habove.1 nab) (hinside.2 ins), hthr, hvf, if_neg (by omega), setCaps_eq _ (by omega) (by omega)]
    · rw [cappedWord_between v _ _ _ (mt habove.1 nab) (mt hinside.1 out)]
      exact caps_unchanged narrow
    · have low' : 2 * margin < mmin v := by rw [mmin_eq, Nat.mul_comm]; exact low
      refine ⟨_, (marginEmergency_run hd hp margin).trans (congrArg _ (if_pos low')), rfl, (tget_tset_same ..).trans ?_,
        fun d other => tget_tset_ne _ _ _ (Ne.symm other)⟩
      change setCaps v 3 (throttle v) = _
      rw [hthr, setCaps_eq _ (by omega) (by omega)]
    · have enough' : ¬2 * margin < mmin v := by rw [mmin_eq, Nat.mul_comm]; exact Nat.not_lt.2 enough
      exact (marginEmergency_run hd hp margin).trans (congrArg _ (if_neg enough'))
  · have steps : exec (.spdmMessage code body) s = execSpdmMessage code body s := rfl
    exact ⟨_, by rw [steps, execSpdmMessage, if_pos hp]⟩
  · have steps : exec (.spdmMessage code body) s = execSpdmMessage code body s := rfl
    rw [steps, execSpdmMessage, if_neg (by simp [hp])]

end Sys2Proof.Machine

/-!
The start of the device (R333, R422, R474–R476): the steps as writes of the boot record, and the record as flash holds it.
-/

namespace Sys2Proof.Machine

/-! ## Steps (R475) -/

namespace BootRec

theorem failOf_addFail (b : BootRec) {n : Nat} (h : n - 1 < b.fail.length) : (b.addFail n).failOf n = min 255 (b.failOf n + 1) :=
  getD_lset_same _ _ h

theorem getD_fail_addFail_ne (b : BootRec) {n i : Nat} (h : n - 1 ≠ i) : (b.addFail n).fail.getD i 0 = b.fail.getD i 0 := getD_lset_ne _ _ _ h

end BootRec

namespace State

theorem beginStep_nil (s : State) : s.beginStep [] = { s with devState := 1 } := rfl

/-- The record as the beginning of step `n` writes it. -/
def stepRecord (s : State) (n : Nat) : BootRec := { s.boot with step := n, pend := true, seq := s.boot.seq + 1 }

/-- A step that has failed less than twice begins. -/
theorem beginStep_begins (s : State) {n : Nat} (rest : List Nat) (h : s.boot.failOf n < 2) : s.beginStep (n :: rest) =
    { s with boot := s.stepRecord n, bootOld := s.boot, devStep := n, measured := if n = 2 then s.stepRecord n else s.measured } := by
  rw [beginStep, if_neg (by omega), if_neg (by simp; omega)]
  by_cases two : n = 2
  · rw [if_pos two, if_pos two]; rfl
  · rw [if_neg two, if_neg two]; rfl

/-- Beginning a step leaves the machine outside the boot record, the ports and the device's state. -/
theorem beginStep_keeps {α : Type} (g : State → α) (hg : ∀ (s : State) b o ds df st alt m rank route ports,
      g { s with boot := b, bootOld := o, devState := ds, devFail := df, devStep := st, devAlt := alt, measured := m, rank := rank, route := route,
                 ports := ports } = g s) (l : List Nat) (s : State) : g (s.beginStep l) = g s := by
  induction l generalizing s with
  | nil => exact hg s s.boot s.bootOld 1 s.devFail s.devStep s.devAlt s.measured s.rank s.route s.ports
  | cons n l ih =>
    rw [beginStep]
    split
    · exact hg s s.boot s.bootOld 2 n s.devStep s.devAlt s.measured s.rank s.route s.ports
    · split
      · exact (ih _).trans (hg s s.boot s.bootOld s.devState s.devFail s.devStep _ s.measured _ _ _)
      · split
        · exact hg s (s.stepRecord n) s.boot s.devState s.devFail n s.devAlt (s.stepRecord n) s.rank s.route s.ports
        · exact hg s (s.stepRecord n) s.boot s.devState s.devFail n s.devAlt s.measured s.rank s.route s.ports

theorem beginStep_map (l : List Nat) (s : State) : (s.beginStep l).boot.map = s.boot.map := by
  induction l generalizing s with
  | nil => rfl
  | cons n l ih =>
    rw [beginStep]
    split
    · rfl
    · split
      · exact ih _
      · split <;> rfl

/-- The machine as after reset, but for the flash and what the outside has seen. -/
def afterReset (s : State) (new old : BootRec) : State :=
  { State.reset with tick := s.tick, agenda := s.agenda, hostOut := s.hostOut, boot := new, bootOld := old }

/-- The machine a start begins with: the newer record counts, and a step it names as not ended has failed. -/
def startBase (s : State) : State :=
  let s1 := s.afterReset (if s.boot.seq < s.bootOld.seq then s.bootOld else s.boot) (if s.boot.seq < s.bootOld.seq then s.boot else s.bootOld)
  if s1.boot.pend then s1.writeBoot fun b => { b.addFail b.step with pend := false } else s1

theorem startUp_eq (s : State) : s.startUp = s.startBase.beginStep (bootSteps 1) := rfl

theorem startBase_keeps {α : Type} (g : State → α) (hg : ∀ (s : State) b o, g { s with boot := b, bootOld := o } = g s) (s : State) :
    g s.startBase = g (s.afterReset s.boot s.bootOld) := by
  have same : ∀ new old, g (s.afterReset new old) = g (s.afterReset s.boot s.bootOld) := fun new old => hg (s.afterReset s.boot s.bootOld) new old
  unfold startBase
  extract_lets s1
  split
  · exact (hg s1 _ _).trans (same ..)
  · exact same ..

theorem startBase_map (s : State) : s.startBase.boot.map = (if s.boot.seq < s.bootOld.seq then s.bootOld else s.boot).map := by
  unfold startBase
  extract_lets s1
  split <;> rfl

/-- A start leaves nothing of what came before but the flash. -/
theorem startUp_clears (s : State) : s.startUp.mem = [] ∧ s.startUp.warps = [] ∧ s.startUp.nodes = [] ∧ s.startUp.ctxs = [] ∧ s.startUp.cycle = 0 ∧
    s.startUp.powered = true ∧ s.startUp.boot.map = (if s.boot.seq < s.bootOld.seq then s.bootOld else s.boot).map := by
  rw [startUp_eq]
  refine ⟨?_, ?_, ?_, ?_, ?_, ?_, (beginStep_map ..).trans (startBase_map s)⟩
  · exact (beginStep_keeps State.mem (fun _ _ _ _ _ _ _ _ _ _ _ => rfl) _ _).trans (startBase_keeps State.mem (fun _ _ _ => rfl) s)
  · exact (beginStep_keeps State.warps (fun _ _ _ _ _ _ _ _ _ _ _ => rfl) _ _).trans (startBase_keeps State.warps (fun _ _ _ => rfl) s)
  · exact (beginStep_keeps State.nodes (fun _ _ _ _ _ _ _ _ _ _ _ => rfl) _ _).trans (startBase_keeps State.nodes (fun _ _ _ => rfl) s)
  · exact (beginStep_keeps State.ctxs (fun _ _ _ _ _ _ _ _ _ _ _ => rfl) _ _).trans (startBase_keeps State.ctxs (fun _ _ _ => rfl) s)
  · exact (beginStep_keeps State.cycle (fun _ _ _ _ _ _ _ _ _ _ _ => rfl) _ _).trans (startBase_keeps State.cycle (fun _ _ _ => rfl) s)
  · exact (beginStep_keeps State.powered (fun _ _ _ _ _ _ _ _ _ _ _ => rfl) _ _).trans (startBase_keeps State.powered (fun _ _ _ => rfl) s)

/-- A start whose newer record names no step in progress, and whose first step has failed less than twice, begins step 1 (R475). -/
theorem startUp_begins {s : State} (newer : s.bootOld.seq ≤ s.boot.seq) (ended : s.boot.pend = false) (few : s.boot.failOf 1 < 2) :
    s.startUp = { s.afterReset (s.stepRecord 1) s.boot with devStep := 1 } := by
  have base : s.startBase = s.afterReset s.boot s.bootOld := by
    unfold startBase
    rw [if_neg (Nat.not_lt.2 newer), if_neg (Nat.not_lt.2 newer)]
    exact if_neg (show ¬s.boot.pend = true by simp [ended])
  rw [startUp_eq, base, show bootSteps 1 = 1 :: bootSteps 2 from rfl, beginStep_begins _ _ (show (s.afterReset s.boot s.bootOld).boot.failOf 1 < 2 from few)]
  rfl

/-! ## The end of a step -/

theorem stepEffect_boot (s : State) (n f : Nat) : (s.stepEffect n f).boot = s.boot := by unfold stepEffect; split <;> rfl
theorem stepEffect_devState (s : State) (n f : Nat) : (s.stepEffect n f).devState = s.devState := by unfold stepEffect; split <;> rfl
theorem stepEffect_devAlt (s : State) (n f : Nat) : (s.stepEffect n f).devAlt = s.devAlt := by unfold stepEffect; split <;> rfl
theorem stepEffect_measured (s : State) (n f : Nat) : (s.stepEffect n f).measured = s.measured := by unfold stepEffect; split <;> rfl

theorem stepEffect_mscSize (s : State) : (s.stepEffect 5 0).mscSize = if s.boot.size ≤ 4 then s.boot.size else 0 :=
  if_congr (by simp) rfl rfl

/-- The record as a step that has ended leaves it. -/
def endedRecord (s : State) : BootRec := { s.boot with pend := false, seq := s.boot.seq + 1 }

/-- A step that never failed ends without its alternative. -/
theorem stepOk_clean {s : State} (clean : s.boot.failOf s.devStep = 0) :
    s.stepOk = (stepEffect { s with boot := s.endedRecord, bootOld := s.boot } s.devStep 0).beginStep (bootSteps (s.devStep + 1)) := by
  rw [stepOk]
  simp only [clean]
  rfl

end State

theorem bootStepDone_true {s : State} (hd : s.devState = 0) (hn : s.devStep ≠ 0) (hp : s.boot.pend = true) :
    exec (.bootStepDone true) s = .next s.stepOk := by
  have steps : exec (.bootStepDone true) s = execBootStepDone true s := rfl
  rw [steps, execBootStepDone, if_pos (by simp [hd, hn, hp]), if_pos rfl]

theorem bootStepDone_false {s : State} (hd : s.devState = 0) (hn : s.devStep ≠ 0) (hp : s.boot.pend = true) :
    exec (.bootStepDone false) s = .next s.stepFail := by
  have steps : exec (.bootStepDone false) s = execBootStepDone false s := rfl
  rw [steps, execBootStepDone, if_pos (by simp [hd, hn, hp]), if_neg Bool.false_ne_true]

section
variable {s : State} (hd : s.devState = 0) (hp : s.boot.pend = true)
include hd hp

theorem bootStepDone_next {n : Nat} (lo : 1 ≤ n) (hi : n ≤ 6) (at' : s.devStep = n) (clean : s.boot.fail.getD (n - 1) 0 = 0)
    (cleanNext : s.boot.fail.getD (n + 1 - 1) 0 = 0) :
    ∃ t, exec (.bootStepDone true) s = .next t ∧ t.devState = 0 ∧ t.devStep = n + 1 ∧ t.devAlt = s.devAlt ∧
      t.boot.pend = true ∧ t.boot.step = n + 1 ∧ t.boot.fail = s.boot.fail ∧ t.boot.seq = s.boot.seq + 2 ∧
      t.measured = (if n = 1 then t.boot else s.measured) ∧ (n = 5 → t.mscSize = if s.boot.size ≤ 4 then s.boot.size else 0) := by
  subst at'
  have steps : State.bootSteps (s.devStep + 1) = (s.devStep + 1) :: (State.bootSteps (s.devStep + 1)).tail := by
    obtain h | h | h | h | h | h : s.devStep = 1 ∨ s.devStep = 2 ∨ s.devStep = 3 ∨ s.devStep = 4 ∨ s.devStep = 5 ∨ s.devStep = 6 := by omega
    all_goals rw [h]; rfl
  have boot := State.stepEffect_boot { s with boot := s.endedRecord, bootOld := s.boot } s.devStep 0
  refine ⟨_, bootStepDone_true hd (by omega) hp, ?_⟩
  rw [State.stepOk_clean clean, steps, State.beginStep_begins _ _ (by rw [boot]; exact (show s.boot.failOf (s.devStep + 1) = 0 from cleanNext) ▸ Nat.two_pos)]
  simp only [State.stepRecord, boot, State.stepEffect_devState, State.stepEffect_devAlt, State.stepEffect_measured]
  refine ⟨hd, trivial, trivial, trivial, trivial, rfl, rfl, ?_, fun five => ?_⟩
  · exact if_congr (by omega) rfl rfl
  · rw [five, State.stepEffect_mscSize]
    rfl

theorem bootStepDone_last (at' : s.devStep = 7) (clean : s.boot.fail.getD (7 - 1) 0 = 0) :
    ∃ t, exec (.bootStepDone true) s = .next t ∧ t.devState = 1 ∧ t.boot.pend = false ∧ t.rank = s.boot.rank ∧ t.route = s.boot.route := by
  refine ⟨_, bootStepDone_true hd (by omega) hp, ?_⟩
  rw [State.stepOk_clean (by rw [at']; exact clean), at', show State.bootSteps (7 + 1) = [] from rfl, State.beginStep_nil]
  exact ⟨rfl, rfl, rfl, rfl⟩

variable (whole : s.boot.fail.length = 7)
include whole

theorem bootStepDone_halts {n : Nat} (lo : 1 ≤ n) (hi : n ≤ 7) (at' : s.devStep = n) (twice : s.boot.fail.getD (n - 1) 0 = 2) :
    ∃ t, exec (.bootStepDone false) s = .next t ∧ t.devState = 2 ∧ t.devFail = n ∧ t.boot.pend = false := by
  subst at'
  have third : (s.boot.addFail s.devStep).failOf s.devStep = 3 := by
    rw [BootRec.failOf_addFail _ (by omega), show s.boot.failOf s.devStep = 2 from twice]; rfl
  refine ⟨_, bootStepDone_false hd (by omega) hp, ?_⟩
  rw [State.stepFail]
  dsimp only
  rw [if_pos]
  · exact ⟨rfl, rfl, rfl⟩
  · exact Nat.le_of_eq third.symm

theorem bootStepDone_again {n : Nat} (lo : 1 ≤ n) (hi : n ≤ 7) (at' : s.devStep = n) (few : s.boot.fail.getD 0 0 ≤ 1)
    (clean : s.boot.fail.getD (n - 1) 0 = 0) : ∃ t, exec (.bootStepDone false) s = .next t ∧
      t.devState = 0 ∧ t.devStep = 1 ∧ t.boot.fail.getD (n - 1) 0 = 1 ∧ t.boot.pend = true ∧ t.mem = [] ∧ t.ctxs = [] := by
  subst at'
  have first : (s.boot.addFail s.devStep).failOf s.devStep = 1 := by
    rw [BootRec.failOf_addFail _ (by omega), show s.boot.failOf s.devStep = 0 from clean]; rfl
  have early : (s.boot.addFail s.devStep).failOf 1 < 2 := by
    by_cases one : s.devStep = 1
    · rw [one] at first ⊢; omega
    · have kept := BootRec.getD_fail_addFail_ne s.boot (show s.devStep - 1 ≠ 0 by omega)
      exact Nat.lt_of_le_of_lt (Nat.le_of_eq kept) (Nat.lt_succ_of_le few)
  refine ⟨_, bootStepDone_false hd (by omega) hp, ?_⟩
  rw [State.stepFail]
  dsimp only
  rw [if_neg, State.startUp_begins]
  · exact ⟨rfl, rfl, first, rfl, rfl, rfl⟩
  · exact Nat.le_succ _
  · rfl
  · exact early
  · exact fun h => absurd (show 3 ≤ (s.boot.addFail s.devStep).failOf s.devStep from h) (by omega)

end

/-! ## The record in flash (R474) -/

namespace BootRec

/-- The fields of the record before its map. -/
def head (b : BootRec) : List Byte :=
  leBytes 8 b.seq ++ leBytes 1 b.step ++ leBytes 1 (if b.pend then 1 else 0) ++ List.replicate 6 0#8 ++
  (List.range 7).flatMap (fun i => leBytes 1 (b.failOf (i + 1))) ++ List.replicate 41 0#8 ++ leBytes 2 b.rank ++ leBytes 1 b.size ++ List.replicate 189 0#8

def mapBytes (b : BootRec) : List Byte := (List.range 1280).flatMap fun g => leBytes 4 (tget 0 b.map g).toNat
def routeBytes (b : BootRec) : List Byte := (List.range 16384).flatMap fun r => leBytes 3 (tget 0 b.route r).toNat

theorem body_eq (b : BootRec) : b.body = b.head ++ b.mapBytes ++ List.replicate 0xB00 0#8 ++ b.routeBytes ++ List.replicate 0x1FFC 0#8 := rfl

theorem length_head (b : BootRec) : b.head.length = 0x100 := by
  simp only [head, List.length_append, length_leBytes, List.length_replicate, length_flatMap_const (fun _ => length_leBytes ..), List.length_range]

theorem length_mapBytes (b : BootRec) : b.mapBytes.length = 4 * 1280 := by
  rw [mapBytes, length_flatMap_const (fun _ => length_leBytes ..), List.length_range]

theorem length_routeBytes (b : BootRec) : b.routeBytes.length = 3 * 16384 := by
  rw [routeBytes, length_flatMap_const (fun _ => length_leBytes ..), List.length_range]

theorem length_body (b : BootRec) : b.body.length = 0xFFFC := by
  simp only [body_eq, List.length_append, length_head, length_mapBytes, length_routeBytes, List.length_replicate]

theorem length_image (b : BootRec) : b.image.length = 65536 := by
  rw [image, List.length_append, length_body, length_leBytes]

/-- The CRC an image carries is that of its body. -/
theorem bootValid_image (b : BootRec) : bootValid b.image = true := by
  have crc := leNat_leBytes_of_lt (n := 4) (crc32 b.body).isLt
  rw [bootValid, image, List.take_left' b.length_body, List.drop_left' b.length_body, List.take_of_length_le (by rw [length_leBytes]), crc]
  simp

theorem seq_image (b : BootRec) : leNat (b.image.take 8) = b.seq % 2 ^ 64 := by
  have first : b.image.take 8 = leBytes 8 b.seq := by
    rw [image, body_eq, head]
    simp only [List.append_assoc]
    exact List.take_left' (length_leBytes ..)
  rw [first, leNat_leBytes]
  rfl

theorem map_image (b : BootRec) {g : Nat} (h : g < 1280) : leNat ((b.image.drop (0x100 + 4 * g)).take 4) = (tget 0 b.map g).toNat := by
  have piece : (b.image.drop (0x100 + 4 * g)).take 4 = leBytes 4 (tget 0 b.map g).toNat := by
    rw [image, body_eq]
    simp only [List.append_assoc]
    rw [← List.drop_drop, List.drop_left' b.length_head, List.drop_append_of_le_length (by rw [length_mapBytes]; omega),
      List.take_append_of_le_length (by rw [List.length_drop, length_mapBytes]; omega), mapBytes, take_drop_flatMap (fun _ => length_leBytes ..) (by simpa using h),
      List.getElem_range]
  rw [piece, leNat_leBytes_of_lt (by have := (tget 0 b.map g).isLt; omega)]

theorem route_image (b : BootRec) {r : Nat} (h : r < 16384) : leNat ((b.image.drop (0x2000 + 3 * r)).take 3) = (tget 0 b.route r).toNat := by
  have before : (b.head ++ b.mapBytes ++ List.replicate 0xB00 0#8).length = 0x2000 := by
    simp only [List.length_append, length_head, length_mapBytes, List.length_replicate]
  have piece : (b.image.drop (0x2000 + 3 * r)).take 3 = leBytes 3 (tget 0 b.route r).toNat := by
    rw [image, body_eq, List.append_assoc _ b.routeBytes, List.append_assoc _ (b.routeBytes ++ _), List.append_assoc b.routeBytes]
    rw [← List.drop_drop, List.drop_left' before, List.drop_append_of_le_length (by rw [length_routeBytes]; omega),
      List.take_append_of_le_length (by rw [List.length_drop, length_routeBytes]; omega), routeBytes,
      take_drop_flatMap (fun _ => length_leBytes ..) (by simpa using h), List.getElem_range]
  rw [piece, leNat_leBytes_of_lt (by have := (tget 0 b.route r).isLt; omega)]

end BootRec

/-- Settles O50: each start, step and failure as writes of the record, and the record's image piece by piece. -/
theorem deviceStart : Obligations.DeviceStart := by
  refine ⟨fun hot s => ⟨fun starts => ?_, fun cold powered on => ?_⟩, ?_, State.startUp_clears, fun ok s off => ?_, fun s hd hp whole =>
    ⟨fun n lo hi at' clean cleanNext => bootStepDone_next hd hp lo hi at' clean cleanNext, fun at' clean => bootStepDone_last hd hp at' clean,
      fun n lo hi at' twice => bootStepDone_halts hd hp whole lo hi at' twice,
      fun n lo hi at' few clean => bootStepDone_again hd hp whole lo hi at' few clean⟩, fun v s => ⟨fun on => ?_, fun off => ?_⟩,
    fun s => ⟨rfl, rfl⟩, fun b _ => ⟨b.length_image, b.bootValid_image, b.seq_image, fun r h => b.route_image h, fun g h => b.map_image h⟩⟩
  · have steps : exec (.deviceStart hot) s = execDeviceStart hot s := rfl
    rw [steps, execDeviceStart, if_pos (by simpa [or_assoc] using starts)]
  · have steps : exec (.deviceStart hot) s = execDeviceStart hot s := rfl
    rw [steps, execDeviceStart, if_neg]
    simp only [cold, powered, Bool.or_eq_true, Bool.and_eq_true, decide_eq_true_eq]
    grind
  · have steps : exec (.deviceStart false) State.reset = execDeviceStart false State.reset := rfl
    have starts : (false || !State.reset.powered || decide (State.reset.devState = 0) && decide (State.reset.devStep = 0)) = true := rfl
    rw [steps, execDeviceStart, if_pos starts, State.startUp_begins (s := State.reset) (Nat.le_refl _) rfl Nat.two_pos]
    rfl
  · have steps : exec (.bootStepDone ok) s = execBootStepDone ok s := rfl
    rw [steps, execBootStepDone, if_neg]
    simp only [Bool.and_eq_true, decide_eq_true_eq, bne_iff_ne]
    grind
  · have steps : exec (.bootclr v) s = execBootclr v s := rfl
    exact ⟨_, by rw [steps, execBootclr, if_pos on], rfl, rfl, rfl, rfl⟩
  · have steps : exec (.bootclr v) s = execBootclr v s := rfl
    rw [steps, execBootclr, if_neg (by simp [off])]

end Sys2Proof.Machine

/-!
The host port (R336, R467, R468) and the windows of BAR0 (R339, R447, R470–R473, R478).
-/

namespace Sys2Proof.Machine

/-! ## What a request of the host leaves (R336, R338) -/

namespace State

/-- Nothing reached the host but interrupts, and blocks and nodes are as they were. -/
structure Interrupts (s t : State) : Prop where
  blocks : t.blocks = s.blocks
  nodes : t.nodes = s.nodes
  out : ∃ o, t.hostOut = s.hostOut ++ o ∧ ∀ x ∈ o, x = .msix

theorem Interrupts.refl (s : State) : s.Interrupts s := ⟨rfl, rfl, [], (List.append_nil _).symm, List.forall_mem_nil _⟩

theorem Interrupts.trans {a b c : State} (h : a.Interrupts b) (k : b.Interrupts c) : a.Interrupts c := by
  obtain ⟨o, ho, only⟩ := h.out
  obtain ⟨o', ho', only'⟩ := k.out
  exact ⟨k.blocks.trans h.blocks, k.nodes.trans h.nodes, o ++ o', by rw [ho', ho, List.append_assoc], List.forall_mem_append.2 ⟨only, only'⟩⟩

theorem Interrupts.foldl {β : Type} {f : State → β → State} (h : ∀ (s : State) b, s.Interrupts (f s b)) (l : List β) (s : State) : s.Interrupts (l.foldl f s) := by
  induction l generalizing s with
  | nil => exact .refl s
  | cons b t ih => exact (h s b).trans (ih _)

/-- A change of nothing the host sees, of no block and of no node. -/
theorem Interrupts.of_same {s t : State} (hb : t.blocks = s.blocks) (hn : t.nodes = s.nodes) (ho : t.hostOut = s.hostOut) : s.Interrupts t :=
  ⟨hb, hn, [], by rw [ho, List.append_nil], List.forall_mem_nil _⟩

theorem interrupts_logDevice (s : State) (e : ErrRec) : s.Interrupts (s.logDevice e) := by
  unfold logDevice
  split
  · exact .of_same rfl rfl rfl
  · exact ⟨rfl, rfl, [.msix], rfl, by simp⟩

theorem interrupts_sectorLoss (s : State) (sec : Nat) : s.Interrupts (s.sectorLoss sec) := by
  unfold sectorLoss
  extract_lets ls ls' s1
  exact (Interrupts.of_same (s := s) (t := s1) rfl rfl rfl).trans (interrupts_logDevice ..)

theorem interrupts_moveSector (s : State) (src dst : Nat) (errs : Bool) : s.Interrupts (s.moveSector src dst errs) := by
  unfold moveSector
  extract_lets bs bad
  exact .of_same rfl rfl rfl

theorem interrupts_sectors (s : State) (t : Tab Sector) : s.Interrupts { s with sectors := t } := .of_same rfl rfl rfl

/-- A line request moves sectors, and reports one that is lost. -/
theorem interrupts_mscServe (s : State) (line : Nat) (write mscb bypass : Bool) : s.Interrupts (s.mscServe line write mscb bypass) := by
  unfold mscServe
  extract_lets c
  split
  · exact .refl s
  · have lost : s.Interrupts (if s.sectorBad (s.sectorOf c).1 then s.sectorLoss (s.sectorOf c).1 else s) := by
      split
      · exact interrupts_sectorLoss ..
      · exact .refl s
    refine lost.trans ?_
    dsimp only
    generalize (if s.sectorBad (s.sectorOf c).1 then s.sectorLoss (s.sectorOf c).1 else s) = r
    split
    · split
      · exact .of_same rfl rfl rfl
      · exact .refl r
    · split
      · exact .refl r
      · refine Interrupts.trans ?_ ((interrupts_moveSector ..).trans (interrupts_sectors ..))
        split
        · exact interrupts_moveSector ..
        · exact .refl r

theorem interrupts_bypassLines (s : State) (a n : Nat) (write : Bool) : s.Interrupts (s.bypassLines a n write) :=
  .foldl (fun s l => interrupts_mscServe s l write false true) _ _

theorem WalkFrame.interrupts {s t : State} (h : s.WalkFrame t) : s.Interrupts t := .of_same (by rw [h]) (by rw [h]) (by rw [h])

theorem mem_hostTakes {s : State} {a n l : Nat} (h : l ∈ lineSpan a n) : l ∈ (s.hostTakes a n).hostHeld := by
  by_cases held : l ∈ s.hostHeld
  · exact List.mem_append_left _ held
  · exact List.mem_append_right _ (List.mem_filter.2 ⟨h, by simpa using held⟩)

theorem refusedByte_none {s : State} {a n : Nat} (h : ∀ i < n, s.deviceOnly (a + i) = false) : s.refusedByte a n = none := by
  rw [refusedByte, List.find?_eq_none.2 fun i hi => by rw [h i (List.mem_range.1 hi)]; exact Bool.false_ne_true]
  rfl

/-- The first byte that only the device may reach is the one refused. -/
theorem refusedByte_first {s : State} {a n i : Nat} (hi : i < n) (out : s.deviceOnly (a + i) = true) (first : ∀ j < i, s.deviceOnly (a + j) = false) :
    s.refusedByte a n = some (a + i) := by
  have found : (List.range n).find? (fun i => s.deviceOnly (a + i)) = some i :=
    List.find?_range_eq_some.2 ⟨out, List.mem_range.2 hi, fun j hj => by rw [first j hj]; rfl⟩
  rw [refusedByte, found]
  rfl

end State

/-! ## Reads and writes of memory (R467, R468) -/

theorem cxlMemRead_run {range : Bool} {off len a : Nat} {s : State} (h : hdmAddr range off len = some a) :
    ((∀ i < len, s.deviceOnly (a + i) = false) → ∃ t, exec (.cxlMemRead range off len) s = .next t ∧
      (∃ o, t.hostOut = s.hostOut ++ o ++ [.data (t.physRead a len) (t.poisoned a len)] ∧ ∀ x ∈ o, x = .msix) ∧ t.blocks = s.blocks ∧
      t.nodes = s.nodes ∧ ∀ l ∈ State.lineSpan a len, l ∈ t.hostHeld) ∧
    (∀ i < len, s.deviceOnly (a + i) = true → (∀ j < i, s.deviceOnly (a + j) = false) →
      exec (.cxlMemRead range off len) s = .next ((s.logRefused false (a + i)).toHost (List.replicate len 0xFF))) := by
  have steps : exec (.cxlMemRead range off len) s = execCxlMemRead range off len s := rfl
  simp only [execCxlMemRead, h] at steps
  refine ⟨fun open' => ?_, fun i hi out first => ?_⟩
  · rw [State.refusedByte_none open'] at steps
    have served := (s.interrupts_bypassLines a len false).trans (State.walkFrame_readBy (s.bypassLines a len false) State.noWarp a len).interrupts
    obtain ⟨o, sent, only⟩ := served.out
    refine ⟨_, steps, ⟨o, ?_, only⟩, served.blocks, served.nodes, fun l hl => State.mem_hostTakes hl⟩
    exact congrArg (· ++ [_]) sent
  · rw [State.refusedByte_first hi out first] at steps
    exact steps

theorem cxlMemWrite_run {range : Bool} {off a : Nat} {data : List Byte} {s : State} (h : hdmAddr range off data.length = some a) :
    ((∀ i < data.length, s.deviceOnly (a + i) = false) → exec (.cxlMemWrite range off data) s =
      .next (((s.bypassLines a data.length true).perform State.noWarp a data).hostTakes a data.length)) ∧
    (∀ i < data.length, s.deviceOnly (a + i) = true → (∀ j < i, s.deviceOnly (a + j) = false) →
      exec (.cxlMemWrite range off data) s = .next (s.logRefused true (a + i))) := by
  have steps : exec (.cxlMemWrite range off data) s = execCxlMemWrite range off data s := rfl
  simp only [execCxlMemWrite, h] at steps
  refine ⟨fun open' => ?_, fun i hi out first => ?_⟩
  · rw [State.refusedByte_none open'] at steps
    exact steps
  · rw [State.refusedByte_first hi out first] at steps
    exact steps

theorem cxlMem_outside {range : Bool} {off len : Nat} {data : List Byte} {s : State} :
    (hdmAddr range off len = none → exec (.cxlMemRead range off len) s = .next s) ∧
    (hdmAddr range off data.length = none → exec (.cxlMemWrite range off data) s = .next s) := by
  refine ⟨fun h => ?_, fun h => ?_⟩
  · have steps : exec (.cxlMemRead range off len) s = execCxlMemRead range off len s := rfl
    rw [steps, execCxlMemRead, h]
  · have steps : exec (.cxlMemWrite range off data) s = execCxlMemWrite range off data s := rfl
    rw [steps, execCxlMemWrite, h]

/-- The lines the device owns on behalf of the host, and those the host holds (R467, R468). -/
theorem hostLines (line : Nat) (s : State) :
    (State.isHost (line / 128 * 128) = false → exec (.hostSnoop line) s = .next s ∧ exec (.cxlOwnershipGrant line) s = .next s) ∧
    (State.isHost (line / 128 * 128) = true → exec (.hostSnoop line) s =
      .next (({ s with hostOwned := s.hostOwned.filter fun x => x != line / 128 * 128 } : State).toHost (s.physRead (line / 128 * 128) 128)
        (s.poisoned (line / 128 * 128) 128))) ∧
    (State.isHost (line / 128 * 128) = true → ∃ t, exec (.cxlOwnershipGrant line) s = .next t ∧ line / 128 * 128 ∈ t.hostOwned ∧
      (line / 128 * 128 ∈ s.hostOwned → t = s) ∧ t = { s with hostOwned := t.hostOwned }) ∧
    ∃ t, exec (.backInvalidateResponse line) s = .next t ∧ t = { s with hostHeld := t.hostHeld } ∧
      ∀ x, x ∈ t.hostHeld ↔ x ∈ s.hostHeld ∧ x ≠ line / 128 * 128 := by
  have snoops : exec (.hostSnoop line) s = execHostSnoop line s := rfl
  have grants : exec (.cxlOwnershipGrant line) s = execCxlOwnershipGrant line s := rfl
  have answers : exec (.backInvalidateResponse line) s = execBackInvalidateResponse line s := rfl
  refine ⟨fun dev => ⟨?_, ?_⟩, fun host => ?_, fun host => ?_, ⟨_, answers, rfl, fun x => by simp⟩⟩
  · rw [snoops, execHostSnoop, if_pos (by simp [dev])]
  · rw [grants, execCxlOwnershipGrant, if_pos (by simp [dev])]
  · rw [snoops, execHostSnoop, if_neg (by simp [host])]
  · by_cases owned : line / 128 * 128 ∈ s.hostOwned
    · exact ⟨s, by rw [grants, execCxlOwnershipGrant, if_pos (by simp [owned])], owned, fun _ => rfl, rfl⟩
    · refine ⟨_, by rw [grants, execCxlOwnershipGrant, if_neg (by simp [host, owned])], ?_, fun h => absurd h owned, rfl⟩
      exact List.mem_append_right _ (List.mem_singleton.2 rfl)

/-! ## BAR0 (R469–R473) -/

theorem barPlace_inside {base stride x i : Nat} (hx : x < 16) (hi : i < stride) : barPlace base stride (base + stride * x + i) = some (x, i) := by
  have low : stride * x + i < 16 * stride := by nlinarith
  rw [barPlace, if_pos (by simp; omega), show base + stride * x + i - base = stride * x + i by omega,
    Nat.mul_add_div (by omega), Nat.div_eq_of_lt hi, Nat.add_zero, Nat.mul_add_mod, Nat.mod_eq_of_lt hi]

theorem barPlace_outside {base stride off : Nat} (h : off < base ∨ base + 16 * stride ≤ off) : barPlace base stride off = none :=
  if_neg (by simp; omega)

theorem mergeWord_whole (old : Word) (off : Nat) (v : Word) : State.mergeWord old off 8 v = v := rfl

/-- Eight bytes of a long word replaced: those, and any others. -/
theorem extract_replaced {n : Nat} (d : BitVec n) (w : Word) {o : Nat} (ho : o + 64 ≤ n) :
    ((d &&& ~~~((BitVec.allOnes 64).setWidth n <<< o)) ||| (w.setWidth n <<< o)).extractLsb' o 64 = w := by
  refine BitVec.eq_of_getLsbD_eq fun i hi => ?_
  simp only [BitVec.getLsbD_extractLsb', BitVec.getLsbD_or, BitVec.getLsbD_and, BitVec.getLsbD_not, BitVec.getLsbD_shiftLeft, BitVec.getLsbD_setWidth,
    BitVec.getLsbD_allOnes]
  simp [hi, show o + i < n by omega, show i < n by omega]

theorem extract_kept {n : Nat} (d : BitVec n) (w : Word) {o p : Nat} (apart : p + 64 ≤ o ∨ o + 64 ≤ p) (hp : p + 64 ≤ n) :
    ((d &&& ~~~((BitVec.allOnes 64).setWidth n <<< o)) ||| (w.setWidth n <<< o)).extractLsb' p 64 = d.extractLsb' p 64 := by
  refine BitVec.eq_of_getLsbD_eq fun i hi => ?_
  simp only [BitVec.getLsbD_extractLsb', BitVec.getLsbD_or, BitVec.getLsbD_and, BitVec.getLsbD_not, BitVec.getLsbD_shiftLeft, BitVec.getLsbD_setWidth,
    BitVec.getLsbD_allOnes]
  rcases apart with h | h
  · simp [hi, show p + i < n by omega, show p + i < o by omega]
  · have beyond : ¬(p + i - o < 64) := by omega
    simp [hi, show p + i < n by omega, beyond, BitVec.getLsbD_of_ge w (p + i - o) (by omega)]

section
variable {s : State} {off : Nat} (on : s.powered = true) (up : s.devState = 1)
include on up

theorem barWrite_up (v : Word) (aligned : off % 8 = 0) (other : off / 8 ≠ 1) : s.barWrite off 8 v =
    match barPlace 0x100000 4096 off with
    | some (x, i) => if i = 0 && (8 : Nat) = 4 then s.doorbell x (v.extractLsb' 0 32).toNat else s
    | none => match barPlace 0x200000 65536 off with
      | some (x, i) => s.writeCtxWindow x i 8 v
      | none => match barPlace 0x300000 4096 off with
        | some (x, i) => if i < 512 && (s.ctx x).held then s.hostAdvance x (i / 8) v else s
        | none => match barPlace 0x600000 65536 off with
          | some (x, i) => s.writeGroup x i 8 v
          | none =>
            if off = 0x402000 then { s with rptr := (v.extractLsb' 8 8).toNat }
            else if inRange 0x501000 0x50103F off then
              { s with pcap := tset s.pcap ((off - 0x501000) / 8) ((tget 0 s.pcap ((off - 0x501000) / 8) &&& 0xFFFFFF0000000000#64) |||
                (State.mergeWord (tget 0 s.pcap ((off - 0x501000) / 8)) off 8 v &&& 0xFFFFFFFFFF#64)) }
            else s := by
  rw [State.barWrite, if_neg (by simp [State.barAligned, aligned, on]), if_neg other, if_neg (by simp [up])] <;> rfl

/-- A write of eight bytes in a context's window. -/
theorem barWrite_ctxWindow {x i : Nat} (v : Word) (hx : x < 16) (hi : i < 65536) (aligned : i % 8 = 0) :
    s.barWrite (0x200000 + 65536 * x + i) 8 v = s.writeCtxWindow x i 8 v := by
  rw [barWrite_up on up v (by omega) (by omega), barPlace_outside (by omega), barPlace_inside hx hi]

theorem barWrite_rptr (v : Word) : s.barWrite 0x402000 8 v = { s with rptr := v.toNat / 256 % 256 } := by
  rw [barWrite_up on up v (by omega) (by omega), barPlace_outside (by omega), barPlace_outside (by omega), barPlace_outside (by omega),
    barPlace_outside (by omega)]
  simp only [if_true, BitVec.extractLsb'_toNat, Nat.shiftRight_eq_div_pow]

theorem barWrite_pcap {d : Nat} (v : Word) (hd : d < 8) : s.barWrite (0x501000 + 8 * d) 8 v =
    { s with pcap := tset s.pcap d ((tget 0 s.pcap d &&& 0xFFFFFF0000000000#64) ||| (v &&& 0xFFFFFFFFFF#64)) } := by
  rw [barWrite_up on up v (by omega) (by omega), barPlace_outside (by omega), barPlace_outside (by omega), barPlace_outside (by omega),
    barPlace_outside (by omega)]
  dsimp only
  rw [if_neg (by omega), if_pos ((inRange_iff ..).2 (by omega)), show (0x501000 + 8 * d - 0x501000) / 8 = d by omega, mergeWord_whole]

end

theorem leNat_lt (bs : List Byte) : leNat bs < 256 ^ bs.length := by
  induction bs with
  | nil => exact Nat.one_pos
  | cons b bs ih =>
    have := b.isLt
    rw [leNat, List.length_cons, Nat.pow_succ]
    omega

/-- The qword of the timeline window a counter is read at (R470). -/
theorem barRead_timeline {s : State} {x c : Nat} (up : s.devState = 1) (hx : x < 16) (hc : c < 64) : s.barRead (0x300000 + 4096 * x + 8 * (c % 512)) 8 =
    if (s.ctx x).held then leBytes 8 (s.timeline x c) else List.replicate 8 0xFF := by
  have small : c % 512 = c := Nat.mod_eq_of_lt (by omega)
  have word : s.barWord (0x300000 + 4096 * x + 8 * c) = if (s.ctx x).held then some (BitVec.ofNat 64 (s.timeline x c)) else none := by
    rw [State.barWord, if_neg (by omega), if_neg (by omega), if_neg (by omega), barPlace_outside (by omega), barPlace_inside hx (by omega)]
    dsimp only
    rw [show 8 * c / 8 = c by omega]
    exact if_congr (by simp; omega) rfl rfl
  have aligned : State.barAligned (0x300000 + 4096 * x + 8 * c) 8 = true := by
    simp only [State.barAligned, Bool.and_eq_true, Bool.or_eq_true, decide_eq_true_eq]
    exact ⟨⟨.inr trivial, by omega⟩, rfl⟩
  have value : (BitVec.ofNat 64 (s.timeline x c)).toNat = s.timeline x c := by
    rw [BitVec.toNat_ofNat, Nat.mod_eq_of_lt]
    refine Nat.lt_of_lt_of_eq (leNat_lt _) ?_
    rw [State.physRead, List.length_map, List.length_range]
    rfl
  rw [small, State.barRead, if_pos aligned, show (0x300000 + 4096 * x + 8 * c) / 8 * 8 = 0x300000 + 4096 * x + 8 * c by omega, word,
    show (0x300000 + 4096 * x + 8 * c) % 8 = 0 by omega]
  by_cases held : (s.ctx x).held = true
  · rw [if_pos held, if_pos held]
    dsimp only
    rw [value, List.drop_zero, List.take_of_length_le (by rw [length_leBytes])]
  · rw [if_neg held, if_neg held]

section
variable {s : State} {x : Nat}

theorem hostDoorbellWrite_run (q : BitVec 32) :
    (s.devState = 1 → x < 16 → exec (.hostDoorbellWrite x q) s = .next (s.doorbell x q.toNat)) ∧
    (¬s.devState = 1 ∨ 16 ≤ x → exec (.hostDoorbellWrite x q) s = .next s) := by
  have steps : exec (.hostDoorbellWrite x q) s = execHostDoorbellWrite x q s := rfl
  refine ⟨fun up hx => ?_, fun off => ?_⟩
  · rw [steps, execHostDoorbellWrite, if_pos (by simp [up, hx])]
  · rw [steps, execHostDoorbellWrite, if_neg (by simp; omega)]

theorem timelineWindow_run (c : Nat) (v : BitVec 64) :
    (s.devState = 1 → x < 16 → c < 64 → (s.ctx x).held = true →
      (s.counterReady x c = true → exec (.timelineWindowWrite x c v) s = .next (s.advance x c v)) ∧
      (s.counterReady x c = false → exec (.timelineWindowWrite x c v) s = .next (s.postAdvance x c v))) ∧
    (¬s.devState = 1 ∨ 16 ≤ x ∨ 64 ≤ c ∨ (s.ctx x).held = false → exec (.timelineWindowWrite x c v) s = .next s) ∧
    (x < 16 → s.powered = true → s.devState = 1 → c < 64 → exec (.timelineWindowRead x c) s =
      .next (s.toHost (if (s.ctx x).held then leBytes 8 (s.timeline x c) else List.replicate 8 0xFF))) ∧
    (16 ≤ x ∨ s.powered = false → exec (.timelineWindowRead x c) s = .next s) := by
  have writes : exec (.timelineWindowWrite x c v) s = execTimelineWindowWrite x c v s := rfl
  have reads : exec (.timelineWindowRead x c) s = execTimelineWindowRead x c s := rfl
  refine ⟨fun up hx hc held => ?_, fun off => ?_, fun hx on up hc => ?_, fun off => ?_⟩
  · rw [writes, execTimelineWindowWrite, if_pos (by simp [up, hx, hc, held]), State.hostAdvance]
    exact ⟨fun ready => by rw [if_pos ready], fun busy => by rw [if_neg (by simp [busy])]⟩
  · rw [writes, execTimelineWindowWrite, if_neg]
    simp only [Bool.and_eq_true, decide_eq_true_eq]
    grind
  · rw [reads, execTimelineWindowRead, if_pos (by simp [hx, on]), barRead_timeline up hx hc]
  · rw [reads, execTimelineWindowRead, if_neg (by simp only [Bool.and_eq_true, decide_eq_true_eq]; grind)]

theorem descriptorWrite_run (off size : Nat) (v : BitVec 64) :
    (¬s.devState = 1 ∨ 16 ≤ x ∨ 0x40 ≤ off ∨ (s.ctx x).res = true ∨ (s.ctx x).busy = true → exec (.descriptorWrite x off size v) s = .next s) ∧
    (s.devState = 1 → x < 16 → off < 0x40 → off % 8 = 0 → (s.ctx x).res = false → (s.ctx x).busy = false → ∃ t, exec (.descriptorWrite x off 8 v) s = .next t ∧
      (t.ctx x).fresh = true ∧ (t.ctx x).desc.extractLsb' (8 * off) 64 = v ∧
      (∀ o, o < 0x40 → o % 8 = 0 → o ≠ off → (t.ctx x).desc.extractLsb' (8 * o) 64 = (s.ctx x).desc.extractLsb' (8 * o) 64) ∧ ∀ y, y ≠ x → t.ctx y = s.ctx y) := by
  have steps : ∀ size, exec (.descriptorWrite x off size v) s = execDescriptorWrite x off size v s := fun _ => rfl
  refine ⟨fun idle => ?_, fun up hx ho aligned res busy => ?_⟩
  · rw [steps, execDescriptorWrite]
    by_cases reached : (s.devState = 1 && x < 16 && off < 0x40 && State.barAligned off size) = true
    · simp only [Bool.and_eq_true, decide_eq_true_eq] at reached
      rw [if_pos (by simpa using reached), State.writeDesc, if_pos (by rw [Bool.or_eq_true]; grind)]
    · rw [if_neg reached]
  · have whole : State.barAligned off 8 = true := by simp [State.barAligned, aligned]
    refine ⟨_, by rw [steps, execDescriptorWrite, if_pos (by simp [up, hx, ho, whole]), State.writeDesc, if_neg (by simp [res, busy])], ?_⟩
    have at' : off / 8 * 8 = off := by omega
    rw [State.ctx_modCtx_same]
    dsimp only
    rw [at', mergeWord_whole]
    refine ⟨rfl, extract_replaced _ _ (by omega), fun o ho' aligned' other => extract_kept _ _ (by omega) (by omega), fun y other => ?_⟩
    exact State.ctx_modCtx_ne _ _ other

theorem groupWindow_run (g : Nat) :
    (¬s.devState = 1 ∨ 16 ≤ x ∨ s.resident x = false ∨ 256 ≤ g ∨ (s.ctx x).gload.contains g = true → exec (.groupWindowLoad x g) s = .next s) ∧
    (s.devState = 1 → x < 16 → s.resident x = true → g < 256 → (s.ctx x).gload.contains g = false →
      exec (.groupWindowLoad x g) s = .next (s.modCtx x fun c => { c with gload := c.gload ++ [g] })) ∧
    ((s.ctx x).gload.contains g = false ∨ (∃ p ∈ s.colls, p.2.ctx = x ∧ p.2.g = g) → exec (.groupLoadDecided x g) s = .next s) ∧
    ((s.ctx x).gload.contains g = true → (∀ p ∈ s.colls, p.2.ctx ≠ x ∨ p.2.g ≠ g) →
      exec (.groupLoadDecided x g) s = .next ((s.loadGroup x g (tget 0 (s.ctx x).gimg g)).1.modCtx x fun c =>
        { c with gload := c.gload.filter (· != g), gstat := tset c.gstat g (BitVec.ofNat 64 (s.loadGroup x g (tget 0 (s.ctx x).gimg g)).2) })) := by
  have loads : exec (.groupWindowLoad x g) s = execGroupWindowLoad x g s := rfl
  have decides : exec (.groupLoadDecided x g) s = execGroupLoadDecided x g s := rfl
  have runs : s.collRuns x g = true ↔ ∃ p ∈ s.colls, p.2.ctx = x ∧ p.2.g = g := by simp [State.collRuns]
  refine ⟨fun idle => ?_, fun up hx res hg fresh => ?_, fun idle => ?_, fun asked quiet => ?_⟩
  · rw [loads, execGroupWindowLoad, State.startGroupLoad]
    by_cases reached : (s.devState = 1 && x < 16) = true
    · simp only [Bool.and_eq_true, decide_eq_true_eq] at reached
      rw [if_pos (by simpa using reached), if_pos]
      rw [Bool.or_eq_true, Bool.or_eq_true, Bool.not_eq_true', decide_eq_true_eq]
      grind
    · rw [if_neg reached]
  · rw [loads, execGroupWindowLoad, if_pos (by simp [up, hx]), State.startGroupLoad, if_neg (by rw [res, fresh]; simp [hg])]
  · rw [decides, execGroupLoadDecided, if_pos]
    rw [Bool.or_eq_true, runs, Bool.not_eq_true']
    exact idle
  · rw [decides, execGroupLoadDecided, if_neg]
    rw [Bool.or_eq_true, runs, Bool.not_eq_true', asked]
    rintro (h | ⟨p, hp, same⟩)
    · exact absurd h (by simp)
    · rcases quiet p hp with h | h
      · exact h same.1
      · exact h same.2

/-- The registers of a context's window keep the bits they hold (R398, R406, R410, R471). -/
theorem barWrite_registers (v : Word) (on : s.powered = true) (up : s.devState = 1) (hx : x < 16) (res : s.resident x = true) :
    exec (.barRegisterWrite (0x200048 + 65536 * x) 8 v) s = .next (s.modCtx x fun c => { c with trapvec := v &&& 0x00FFFFFFFFFFFFFC#64 }) ∧
    exec (.barRegisterWrite (0x200050 + 65536 * x) 8 v) s = .next (s.modCtx x fun c => { c with ydl := v &&& 0xFFFFFFFF#64 }) ∧
    exec (.barRegisterWrite (0x200058 + 65536 * x) 8 v) s = .next (s.modCtx x fun c => { c with svpool := v &&& 0x00FFFFFFFFFFFFFF#64 }) ∧
    exec (.barRegisterWrite (0x200060 + 65536 * x) 8 v) s = .next (s.modCtx x fun c => { c with ways := BitVec.ofNat 64 (min 16 (v.toNat % 32)) }) := by
  have steps : ∀ i, exec (.barRegisterWrite (0x200000 + 65536 * x + i) 8 v) s = .next (s.barWrite (0x200000 + 65536 * x + i) 8 v) := fun _ => rfl
  have ways : State.roofCfg v = BitVec.ofNat 64 (min 16 (v.toNat % 32)) := by
    rw [State.roofCfg, BitVec.extractLsb'_toNat, Nat.shiftRight_zero]
  refine ⟨?_, ?_, ?_, ?_⟩
  · rw [show 0x200048 + 65536 * x = 0x200000 + 65536 * x + 0x48 by omega, steps, barWrite_ctxWindow on up v hx (by omega) (by omega)]
    simp only [State.writeCtxWindow, res, mergeWord_whole]
    rfl
  · rw [show 0x200050 + 65536 * x = 0x200000 + 65536 * x + 0x50 by omega, steps, barWrite_ctxWindow on up v hx (by omega) (by omega)]
    simp only [State.writeCtxWindow, res, mergeWord_whole]
    rfl
  · rw [show 0x200058 + 65536 * x = 0x200000 + 65536 * x + 0x58 by omega, steps, barWrite_ctxWindow on up v hx (by omega) (by omega)]
    simp only [State.writeCtxWindow, res, mergeWord_whole]
    rfl
  · rw [show 0x200060 + 65536 * x = 0x200000 + 65536 * x + 0x60 by omega, steps, barWrite_ctxWindow on up v hx (by omega) (by omega), ← ways]
    simp only [State.writeCtxWindow, res, mergeWord_whole]
    rfl

end

/-- Settles O48: each access of the host, and each window by the place it has in BAR0. -/
theorem hostPort : Obligations.HostPort := by
  refine ⟨⟨fun range off len data s => ⟨(cxlMem_outside (data := data)).1, (cxlMem_outside (len := len)).2, fun a h => ?_, fun a h => ?_⟩, hostLines⟩, fun x q s => hostDoorbellWrite_run q,
    fun x c v s => timelineWindow_run c v, fun x off size v s => descriptorWrite_run off size v, fun x g s => groupWindow_run g, fun off size v s on => ?_,
    fun off size v s off' => ?_⟩
  · exact cxlMemRead_run h
  · exact cxlMemWrite_run h
  · have writes : ∀ off size, exec (.barRegisterWrite off size v) s = .next (s.barWrite off size v) := fun _ _ => rfl
    have reads : ∀ read, exec (.barInvalidAccess off size read) s = execBarInvalidAccess off size read s := fun _ => rfl
    refine ⟨fun odd => ⟨?_, ?_⟩, ?_, fun up => ?_, fun d up hd => ?_, fun x up hx res => barWrite_registers v on up hx res⟩
    · rw [writes, State.barWrite, if_pos (by simp [odd])]
    · rw [reads, execBarInvalidAccess, if_pos (by simp [on]), State.barRead, if_neg (by simp [odd])]
      rfl
    · rw [reads, execBarInvalidAccess, if_neg (by simp)]
    · rw [writes, barWrite_rptr on up]
    · rw [writes, barWrite_pcap on up v hd]
  · have steps : exec (.barRegisterWrite off size v) s = .next (s.barWrite off size v) := rfl
    rw [steps, State.barWrite, if_pos (by simp [off'])]

end Sys2Proof.Machine

/-!
Contexts (R339, R342, R373, R472): creating one from its descriptor, bringing one back, and leaving residency.
-/

namespace Sys2Proof.Machine

namespace State

/-! ## What memory operations leave alone -/

theorem physWrite_keeps {α : Type} (g : State → α) (hg : ∀ (s : State) m p c, g { s with mem := m, poison := p, sectors := c } = g s)
    (s : State) (a : Nat) (bs : List Byte) : g (s.physWrite a bs) = g s := by
  have dirty : ∀ (t : State) (l : Nat), g (t.dirtySector l) = g t := fun t l => by
    unfold dirtySector
    split
    · rfl
    · exact hg t t.mem t.poison _
  exact (hg ((lineSpan a bs.length).foldl dirtySector s) _ _ ((lineSpan a bs.length).foldl dirtySector s).sectors).trans (foldl_keep g _ dirty _ _)

theorem perform_keeps {α : Type} (g : State → α)
    (hg : ∀ (s : State) m p c d w, g { s with mem := m, poison := p, sectors := c, dirty := d, warps := w } = g s)
    (s : State) (who a : Nat) (bs : List Byte) : g (s.perform who a bs) = g s := by
  have others : ∀ (t : State) (l : Nat), g ((t.conflicts who l true).wakeMonitors who l) = g t := fun t l =>
    hg t t.mem t.poison t.sectors t.dirty _
  unfold perform
  dsimp only
  refine (foldl_keep g _ others _ _).trans ?_
  refine (hg (s.physWrite a bs) (s.physWrite a bs).mem (s.physWrite a bs).poison (s.physWrite a bs).sectors _ (s.physWrite a bs).warps).trans ?_
  exact physWrite_keeps g (fun t m p c => hg t m p c t.dirty t.warps) s a bs

theorem writePieces_keeps {α : Type} (g : State → α) (hg : ∀ (s : State) m p c, g { s with mem := m, poison := p, sectors := c } = g s)
    (s : State) (x u : Nat) (ps : List Piece) : g (s.writePieces x u ps) = g s :=
  foldl_keep g _ (fun t _ => physWrite_keeps g hg t _ _) _ _

/-- Below the capacity tier a byte is held at its own address. -/
theorem home_low (s : State) {a : Nat} (h : a < capLo) : s.home a = a := by
  rw [home, if_neg]
  simp only [Bool.and_eq_true, decide_eq_true_eq]
  omega

/-- What is written below the capacity tier is read there. -/
theorem read_physWrite_low {s : State} (wf : s.mem.wf = true) {a : Nat} {bs : List Byte} (low : a + bs.length ≤ capLo) {i : Nat} (hi : i < bs.length) :
    (s.physWrite a bs).mem.read (a + i) = bs[i] := by
  have mem : (i, bs[i]) ∈ (List.range bs.length).zip bs := List.mem_iff_getElem.2 ⟨i, by simpa using hi, by simp⟩
  have indexed : ∀ p ∈ (List.range bs.length).zip bs, ∃ h : p.1 < bs.length, p.2 = bs[p.1] := by
    intro p hp
    obtain ⟨j, hj, rfl⟩ := List.mem_iff_getElem.1 hp
    simp only [List.length_zip, List.length_range, Nat.min_self] at hj
    simp [hj]
  have placed : ∀ p ∈ (List.range bs.length).zip bs, s.home (a + p.1) = a + p.1 := fun p hp => by
    obtain ⟨h, -⟩ := indexed p hp
    exact home_low s (by omega)
  have read := Memory.read_foldl_write_mem ((List.range bs.length).zip bs) (fun p : Nat × Byte => s.home (a + p.1)) (·.2) wf (fun p hp q hq e => by
    rw [placed p hp, placed q hq] at e
    obtain ⟨_, vp⟩ := indexed p hp
    obtain ⟨_, vq⟩ := indexed q hq
    have same : p.1 = q.1 := by omega
    simp only [vp, vq, same]) mem
  dsimp only at read
  rw [placed _ mem] at read
  rw [mem_physWrite]
  exact read

/-- A stretch of zeros, read below the capacity tier. -/
theorem physNat_zeros {s : State} (wf : s.mem.wf = true) {a n b k : Nat} (low : a + n ≤ capLo) (lo : a ≤ b) (hi : b + k ≤ a + n) :
    (s.physWrite a (List.replicate n 0)).physNat b k = 0 := by
  have zero : ∀ i < k, (s.physWrite a (List.replicate n 0)).mem.read ((s.physWrite a (List.replicate n 0)).home (b + i)) = 0 := fun i hi' => by
    have read := read_physWrite_low (bs := List.replicate n 0) wf (by rwa [List.length_replicate]) (i := b + i - a) (by rw [List.length_replicate]; omega)
    rw [List.getElem_replicate, show a + (b + i - a) = b + i by omega] at read
    rw [home_low _ (by omega), read]
  have zeros : ∀ k, leNat (List.replicate k (0 : Byte)) = 0 := fun k => by
    induction k with
    | zero => rfl
    | succ k ih => rw [List.replicate_succ, leNat, ih]; rfl
  rw [physNat, physRead, List.map_congr_left fun i hi => zero i (List.mem_range.1 hi), List.map_const', List.length_range, zeros]

/-- What a performed write does to others leaves the bytes it wrote. -/
theorem perform_physNat (s : State) (who a : Nat) (bs : List Byte) (b n : Nat) : (s.perform who a bs).physNat b n = (s.physWrite a bs).physNat b n :=
  foldl_keep (fun t : State => t.physNat b n) (fun (t : State) l => (t.conflicts who l true).wakeMonitors who l) (fun _ _ => rfl) _ _

theorem readSegs_physNat (s : State) (x b n : Nat) : (s.readSegs x).physNat b n = s.physNat b n := rfl

/-! ## Creating a context (R339) -/

theorem abortBlock_ctxs (s : State) (b : Nat) : (s.abortBlock b).ctxs = s.ctxs := by rw [(beside_abortBlock s b).1]

/-- The blocks of a context aborted, before what it holds is removed. -/
def abortsOf (s : State) (x : Nat) : State := ((s.blocks.filter fun p => p.2.ctx = x).map (·.1)).foldl State.abortBlock s

theorem discard_eq (s : State) (x : Nat) : s.discard x = { s.abortsOf x with
    blocks := (s.abortsOf x).blocks.filter fun p => p.2.ctx != x, warps := (s.abortsOf x).warps.filter fun p => p.2.ctx != x,
    nodes := (s.abortsOf x).nodes.filter fun p => p.2.ctx != x, copies := (s.abortsOf x).copies.filter fun p => p.2.ctx != x,
    insts := (s.abortsOf x).insts.filter fun p => !(((s.abortsOf x).tasks.filter fun p => p.2.ctx = x).map (·.1)).contains p.2.task,
    tasks := (s.abortsOf x).tasks.filter fun p => p.2.ctx != x,
    conv := (s.abortsOf x).conv.map fun p => (p.1, p.2.filter fun j => j.ctx != x), early := (s.abortsOf x).early.filter fun p => p.1 != x,
    tlb := (s.abortsOf x).tlb.filter (fun l => l.ctx != x), walks := (s.abortsOf x).walks.filter fun p => p.ctx != x } := rfl

theorem discard_ctxs (s : State) (x : Nat) : (s.discard x).ctxs = s.ctxs := by
  rw [discard_eq]
  exact foldl_keep State.ctxs State.abortBlock abortBlock_ctxs _ _

/-- Nothing of the context is left. -/
theorem discard_gone (s : State) (x : Nat) : (∀ p ∈ (s.discard x).nodes, p.2.ctx ≠ x) ∧ (∀ p ∈ (s.discard x).blocks, p.2.ctx ≠ x) ∧
    (∀ l ∈ (s.discard x).tlb, l.ctx ≠ x) ∧ ∀ p ∈ (s.discard x).walks, p.ctx ≠ x := by
  rw [discard_eq]
  exact ⟨fun p hp => bne_iff_ne.1 (List.mem_filter.1 hp).2, fun p hp => bne_iff_ne.1 (List.mem_filter.1 hp).2,
    fun l hl => bne_iff_ne.1 (List.mem_filter.1 hl).2, fun p hp => bne_iff_ne.1 (List.mem_filter.1 hp).2⟩

/-- The context a descriptor describes. -/
def described (d : BitVec 512) : Context :=
  { res := true, held := true, desc := d, ttroot := rootOf (d.extractLsb' 0 64), segtab := segTabOf (d.extractLsb' 64 64),
    tlblk := d.extractLsb' 128 64, qtab := BitVec.ofNat 64 (descFld d 192 56), qmax := descFld d 256 16, prio := descFld d 272 3,
    quant := if descFld d 288 16 = 0 then 3000000 else 1500 * descFld d 288 16 }

/-- The machine once the slot holds the context, before its timeline is cleared and its segments are read. -/
def withCtx (s : State) (x : Nat) (d : BitVec 512) : State :=
  { s.discard x with ctxs := tset (s.discard x).ctxs x (described d),
                     hostHeld := (s.discard x).hostHeld.filter fun l => !(lineSpan (descFld d 128 64) 512).contains l }

theorem createCtx_good {s : State} {x : Nat} (good : s.descBad (s.ctx x).desc = false) : s.createCtx x =
    ((s.withCtx x (s.ctx x).desc).perform noWarp (descFld (s.ctx x).desc 128 64) (List.replicate 512 0)).readSegs x := by
  rw [createCtx, if_neg (by simp [good])]
  rfl

theorem createCtx_bad {s : State} {x : Nat} (bad : s.descBad (s.ctx x).desc = true) : s.createCtx x =
    { s.discard x with ctxs := tset (s.discard x).ctxs x { desc := (s.ctx x).desc, err := true, fresh := true } } := by
  rw [createCtx, if_pos bad]

theorem readSegs_ctx_same (s : State) (x : Nat) : ∃ l, (s.readSegs x).ctx x = { s.ctx x with segs := l } := ⟨_, ctx_modCtx_same ..⟩
theorem readSegs_ctx_ne (s : State) {x y : Nat} (h : y ≠ x) : (s.readSegs x).ctx y = s.ctx y := ctx_modCtx_ne _ _ h

/-- The timeline block of a context that is created is below the device's own range. -/
theorem timeline_low {s : State} {d : BitVec 512} (good : s.descBad d = false) : descFld d 128 64 + 512 ≤ capLo := by
  simp only [descBad, Bool.or_eq_false_iff, decide_eq_false_iff_not] at good
  have inside : descFld d 128 64 + 512 ≤ s.reservedLo := Nat.not_lt.1 good.2
  exact inside.trans ((Nat.sub_le ..).trans ((Nat.sub_le ..).trans (by decide)))

section
variable {s : State} {x : Nat} (good : s.descBad (s.ctx x).desc = false)
include good

theorem createCtx_ctx_same : ∃ l, (s.createCtx x).ctx x = { described (s.ctx x).desc with segs := l } := by
  have held : ((s.withCtx x (s.ctx x).desc).perform noWarp (descFld (s.ctx x).desc 128 64) (List.replicate 512 0)).ctx x = described (s.ctx x).desc :=
    (perform_keeps (fun t => t.ctx x) (fun _ _ _ _ _ _ => rfl) ..).trans (tget_tset_same ..)
  obtain ⟨l, read⟩ := readSegs_ctx_same ((s.withCtx x (s.ctx x).desc).perform noWarp (descFld (s.ctx x).desc 128 64) (List.replicate 512 0)) x
  exact ⟨l, by rw [createCtx_good good, read, held]⟩

theorem createCtx_ctx_ne {y : Nat} (h : y ≠ x) : (s.createCtx x).ctx y = s.ctx y := by
  rw [createCtx_good good, readSegs_ctx_ne _ h]
  refine (perform_keeps (fun t => t.ctx y) (fun _ _ _ _ _ _ => rfl) ..).trans ?_
  exact (tget_tset_ne _ _ _ (Ne.symm h)).trans (congrArg (tget {} · y) (discard_ctxs s x))

theorem createCtx_gone : (∀ p ∈ (s.createCtx x).nodes, p.2.ctx ≠ x) ∧ (∀ p ∈ (s.createCtx x).blocks, p.2.ctx ≠ x) ∧
    (∀ l ∈ (s.createCtx x).tlb, l.ctx ≠ x) ∧ ∀ p ∈ (s.createCtx x).walks, p.ctx ≠ x := by
  obtain ⟨nodes, blocks, tlb, walks⟩ := s.discard_gone x
  rw [createCtx_good good]
  refine ⟨?_, ?_, ?_, ?_⟩
  · rw [show State.nodes (readSegs _ x) = _ from perform_keeps State.nodes (fun _ _ _ _ _ _ => rfl) ..]; exact nodes
  · rw [show State.blocks (readSegs _ x) = _ from perform_keeps State.blocks (fun _ _ _ _ _ _ => rfl) ..]; exact blocks
  · rw [show State.tlb (readSegs _ x) = _ from perform_keeps State.tlb (fun _ _ _ _ _ _ => rfl) ..]; exact tlb
  · rw [show State.walks (readSegs _ x) = _ from perform_keeps State.walks (fun _ _ _ _ _ _ => rfl) ..]; exact walks

/-- The counters of a context that is created are zero. -/
theorem createCtx_timeline (canonical : s.Canonical) {k : Nat} (hk : k < 64) : (s.createCtx x).timeline x k = 0 := by
  obtain ⟨l, ctx⟩ := createCtx_ctx_same good
  have place : (s.createCtx x).timelineAt x k = descFld (s.ctx x).desc 128 64 + 8 * k := by
    rw [timelineAt, ctx]
    rfl
  have wf : (s.withCtx x (s.ctx x).desc).mem.wf = true := (((Keeps.refl s).discard x).1 canonical).1
  rw [timeline, place, createCtx_good good]
  have low := timeline_low good
  rw [readSegs_physNat, perform_physNat]
  exact physNat_zeros wf low (Nat.le_add_right ..) (by omega)

end

/-! ## Withdrawn jobs (R235, R245) -/

/-- A job whose block, if it has one, is on the device. -/
def jobHome (s : State) (j : ConvJob) : Bool :=
  match j.blk.bind s.block? with
  | some b => b.st = .resident || b.aborted
  | none => true

/-- The jobs of a context as its frame holds them. -/
def framedJobs (s : State) (x : Nat) : List ConvJob :=
  if s.poolUnits x = 0 then (s.ctx x).jobs
  else ((List.range (s.ctx x).jobs.length).zip (s.ctx x).jobs).map fun p =>
    { p.2 with fields := BitVec.ofNat 768 ((s.frameAt x 0).num (0x100 + 128 * p.1) 96) }

/-- One job tried: it joins its cluster's queue, or is left. -/
def requeueOne (s0 : State) (acc : State × List ConvJob) (j : ConvJob) : State × List ConvJob :=
  if s0.jobHome j && (tget [] acc.1.conv (clusterOf j.core)).length < convRoom && !(acc.2.any fun k => clusterOf k.core = clusterOf j.core) then
    ({ acc.1 with conv := tset acc.1.conv (clusterOf j.core) (tget [] acc.1.conv (clusterOf j.core) ++ [j]) }, acc.2)
  else (acc.1, acc.2 ++ [j])

/-- The queues with the jobs that found room, and those that did not. -/
def requeued (s : State) (x : Nat) : State × List ConvJob := (s.framedJobs x).foldl s.requeueOne (s, [])

theorem requeueJobs_eq (s : State) (x : Nat) : s.requeueJobs x =
    if !s.resident x || (s.requeued x).2.length = (s.ctx x).jobs.length then s
    else
      let s1 := (s.requeued x).1.modCtx x fun c => { c with jobs := (s.requeued x).2 }
      if s1.poolUnits x = 0 then s1 else s1.writePieces x 0 (ctxPieces (s.requeued x).2) := rfl

theorem requeueOne_keeps {α : Type} (g : State → α) (hg : ∀ (s : State) q, g { s with conv := q } = g s) (s : State) (acc : State × List ConvJob)
    (j : ConvJob) : g (s.requeueOne acc j).1 = g acc.1 := by
  unfold requeueOne
  split
  · exact hg ..
  · rfl

theorem requeued_keeps {α : Type} (g : State → α) (hg : ∀ (s : State) q, g { s with conv := q } = g s) (s : State) (x : Nat) :
    g (s.requeued x).1 = g s :=
  foldl_keep (fun acc : State × List ConvJob => g acc.1) s.requeueOne (fun acc j => requeueOne_keeps g hg s acc j) _ _

theorem requeueJobs_keeps {α : Type} (g : State → α) (hg : ∀ (s : State) q m p c t, g { s with conv := q, mem := m, poison := p, sectors := c, ctxs := t } = g s)
    (s : State) (x : Nat) : g (s.requeueJobs x) = g s := by
  have queued := requeued_keeps g (fun t q => hg t q t.mem t.poison t.sectors t.ctxs) s x
  have put : g ((s.requeued x).1.modCtx x fun c => { c with jobs := (s.requeued x).2 }) = g s :=
    (hg (s.requeued x).1 (s.requeued x).1.conv (s.requeued x).1.mem (s.requeued x).1.poison (s.requeued x).1.sectors _).trans queued
  rw [requeueJobs_eq]
  dsimp only
  split
  · rfl
  · split
    · exact put
    · exact (writePieces_keeps g (fun t m p c => hg t t.conv m p c t.ctxs) ..).trans put

/-- A context's jobs alone change when they are queued again. -/
theorem requeueJobs_ctx (s : State) (x : Nat) : ∃ js, (s.requeueJobs x).ctx x = { s.ctx x with jobs := js } := by
  have put : ((s.requeued x).1.modCtx x fun c => { c with jobs := (s.requeued x).2 }).ctx x = { s.ctx x with jobs := (s.requeued x).2 } := by
    rw [ctx_modCtx_same, requeued_keeps (fun t => t.ctx x) (fun _ _ => rfl)]
  rw [requeueJobs_eq]
  dsimp only
  split
  · exact ⟨(s.ctx x).jobs, rfl⟩
  · split
    · exact ⟨_, put⟩
    · exact ⟨_, (writePieces_keeps (fun t => t.ctx x) (fun _ _ _ _ => rfl) ..).trans put⟩

/-- A queue grows up to its 16 places. -/
theorem length_requeueOne_conv (s : State) (acc : State × List ConvJob) (j : ConvJob) (cl n : Nat) (h : (tget [] acc.1.conv cl).length ≤ max 16 n) :
    (tget [] (s.requeueOne acc j).1.conv cl).length ≤ max 16 n := by
  unfold requeueOne
  split
  · rename_i room
    simp only [Bool.and_eq_true, decide_eq_true_eq] at room
    have size : convRoom = 16 := rfl
    by_cases same : clusterOf j.core = cl
    · subst same
      rw [tget_tset_same, List.length_append]
      exact le_max_of_le_left (by rw [List.length_singleton]; omega)
    · rwa [tget_tset_ne _ _ _ same]
  · exact h

theorem length_requeueJobs_conv (s : State) (x cl : Nat) : (tget [] (s.requeueJobs x).conv cl).length ≤ max 16 (tget [] s.conv cl).length := by
  have queued : (tget [] (s.requeued x).1.conv cl).length ≤ max 16 (tget [] s.conv cl).length :=
    List.foldlRecOn (motive := fun acc => (tget [] acc.1.conv cl).length ≤ max 16 (tget [] s.conv cl).length) (s.framedJobs x) s.requeueOne
      (Nat.le_max_right ..) fun acc h j _ => length_requeueOne_conv s acc j cl _ h
  rw [requeueJobs_eq]
  dsimp only
  split
  · exact Nat.le_max_right ..
  · split
    · exact queued
    · rw [writePieces_keeps State.conv (fun _ _ _ _ => rfl)]; exact queued

/-- One job without a block. -/
theorem requeueJobs_single {s : State} {x : Nat} {j : ConvJob} (res : s.resident x = true) (poolless : s.poolUnits x = 0) (one : (s.ctx x).jobs = [j])
    (free : j.blk = none) :
    (16 ≤ (tget [] s.conv (clusterOf j.core)).length → s.requeueJobs x = s) ∧
    ((tget [] s.conv (clusterOf j.core)).length < 16 →
      (s.requeueJobs x).conv = tset s.conv (clusterOf j.core) (tget [] s.conv (clusterOf j.core) ++ [j]) ∧ ((s.requeueJobs x).ctx x).jobs = []) := by
  have home : s.jobHome j = true := by rw [jobHome, free]; rfl
  have tried : s.requeued x = s.requeueOne (s, []) j := by rw [requeued, framedJobs, if_pos poolless, one]; rfl
  refine ⟨fun full => ?_, fun room => ?_⟩
  · have left : s.requeued x = (s, [j]) := by
      rw [tried, requeueOne, if_neg]
      · rfl
      · have size : convRoom = 16 := rfl
        simp only [Bool.and_eq_true, decide_eq_true_eq]
        omega
    rw [requeueJobs_eq, if_pos]
    rw [left, one]
    simp
  · have gone : s.requeued x = ({ s with conv := tset s.conv (clusterOf j.core) (tget [] s.conv (clusterOf j.core) ++ [j]) }, []) := by
      rw [tried, requeueOne, if_pos]
      simp [home, convRoom, room]
    have units : (({ s with conv := tset s.conv (clusterOf j.core) (tget [] s.conv (clusterOf j.core) ++ [j]) } : State).modCtx x
        fun c => { c with jobs := [] }).poolUnits x = 0 := by
      rw [poolUnits, ctx_modCtx_same]
      exact poolless
    have result : s.requeueJobs x = ({ s with conv := tset s.conv (clusterOf j.core) (tget [] s.conv (clusterOf j.core) ++ [j]) } : State).modCtx x
        fun c => { c with jobs := [] } := by
      rw [requeueJobs_eq, gone, if_neg (by simp [res, one])]
      exact if_pos units
    rw [result]
    exact ⟨rfl, congrArg Context.jobs (ctx_modCtx_same ..)⟩

/-! ## Bringing a context back (R342, R373) -/

theorem returnCtx_unheld {s : State} {x : Nat} (h : (s.ctx x).held = false) : s.returnCtx x = s.modCtx x fun c => { c with err := true } := by
  rw [returnCtx, if_pos (by simp [h])]

/-- The queues that were mapped and are not pending yet. -/
def mappedBack (c : Context) : List Nat := c.mapped.filter fun q => !(c.pending.any fun p => p.1 = q)

/-- The machine once the context is resident again, before its segments are read. -/
def broughtBack (s : State) (x : Nat) : State :=
  ({ s.modCtx x fun c => { c with
      res := true, err := false, pending := c.pending ++ (mappedBack (s.ctx x)).map fun q => (q, s.cycle), mapped := [] } with
    insts := s.insts.map fun p => if p.2.ctx = x && p.2.st = .saved then (p.1, { p.2 with st := .queued, order := s.rdyOrder }) else p } : State).nextOrder

theorem broughtBack_ctx (s : State) (x : Nat) : (s.broughtBack x).ctx x = { s.ctx x with
    res := true, err := false, pending := (s.ctx x).pending ++ (mappedBack (s.ctx x)).map fun q => (q, s.cycle), mapped := [] } :=
  tget_tset_same ..

theorem returnCtx_eq {s : State} {x : Nat} (h : (s.ctx x).held = true) : s.returnCtx x = ((s.broughtBack x).readSegs x).requeueJobs x := by
  rw [returnCtx, if_neg (by simp [h])]
  rfl

/-- A returned context is resident, and its mapped queues are pending again. -/
theorem returnCtx_ctx {s : State} {x : Nat} (h : (s.ctx x).held = true) : ∃ js l, (s.returnCtx x).ctx x = { s.ctx x with
    res := true, err := false, pending := (s.ctx x).pending ++ (mappedBack (s.ctx x)).map fun q => (q, s.cycle), mapped := [], segs := l, jobs := js } := by
  obtain ⟨js, ctx⟩ := requeueJobs_ctx ((s.broughtBack x).readSegs x) x
  obtain ⟨l, segs⟩ := readSegs_ctx_same (s.broughtBack x) x
  exact ⟨js, l, by rw [returnCtx_eq h, ctx, segs, broughtBack_ctx]⟩

theorem returnCtx_insts {s : State} {x : Nat} (h : (s.ctx x).held = true) : ∀ p ∈ (s.returnCtx x).insts, p.2.ctx = x → p.2.st ≠ .saved := by
  rw [returnCtx_eq h, requeueJobs_keeps State.insts (fun _ _ _ _ _ _ => rfl)]
  intro p hp mine saved
  obtain ⟨q, -, rfl⟩ := List.mem_map.1 hp
  split at saved
  · exact absurd saved (by simp)
  · rename_i other
    rw [if_neg other] at mine
    exact other (by simp [mine, saved])

/-- The queues pending after a return are those that were pending or mapped. -/
theorem mem_pending_back (c : Context) (now q : Nat) :
    (∃ p ∈ c.pending ++ (mappedBack c).map fun q => (q, now), p.1 = q) ↔ (∃ p ∈ c.pending, p.1 = q) ∨ q ∈ c.mapped := by
  simp only [List.mem_append, List.mem_map, mappedBack, List.mem_filter, Bool.not_eq_true', List.any_eq_false, decide_eq_true_eq]
  constructor
  · rintro ⟨p, hp | ⟨q', ⟨hq, -⟩, rfl⟩, rfl⟩
    · exact .inl ⟨p, hp, rfl⟩
    · exact .inr hq
  · rintro (⟨p, hp, rfl⟩ | hq)
    · exact ⟨p, .inl hp, rfl⟩
    · by_cases there : ∃ p ∈ c.pending, p.1 = q
      · obtain ⟨p, hp, same⟩ := there
        exact ⟨p, .inl hp, same⟩
      · exact ⟨(q, now), .inr ⟨q, ⟨hq, fun p hp same => there ⟨p, hp, same⟩⟩, rfl⟩, rfl⟩

/-! ## Leaving residency (R472) -/

/-- Saving warps takes units of a context's pool, and leaves its other registers and the queue slots. -/
structure ContextsKept (s t : State) : Prop where
  qslots : t.qslots = s.qslots
  ctx : ∀ y, t.ctx y = { s.ctx y with units := (t.ctx y).units }

theorem ContextsKept.refl (s : State) : s.ContextsKept s := ⟨rfl, fun _ => rfl⟩

theorem ContextsKept.trans {a b c : State} (h : a.ContextsKept b) (k : b.ContextsKept c) : a.ContextsKept c :=
  ⟨k.qslots.trans h.qslots, fun y => by rw [k.ctx, h.ctx]⟩

theorem ContextsKept.foldl {β : Type} {f : State → β → State} (h : ∀ (s : State) b, s.ContextsKept (f s b)) (l : List β) (s : State) :
    s.ContextsKept (l.foldl f s) := by
  induction l generalizing s with
  | nil => exact .refl s
  | cons b t ih => exact (h s b).trans (ih _)

theorem ContextsKept.of_same {s t : State} (hq : t.qslots = s.qslots) (hc : t.ctxs = s.ctxs) : s.ContextsKept t := by
  have same : ∀ y, s.ctx y = t.ctx y := fun y => by rw [State.ctx, State.ctx, hc]
  exact ⟨hq, fun y => by rw [same]⟩

theorem contextsKept_modBlock (s : State) (b : Nat) (f : Block → Block) : s.ContextsKept (s.modBlock b f) := .of_same rfl rfl

theorem contextsKept_writePieces (s : State) (x u : Nat) (ps : List Piece) : s.ContextsKept (s.writePieces x u ps) :=
  .of_same (writePieces_keeps State.qslots (fun _ _ _ _ => rfl) ..) (writePieces_keeps State.ctxs (fun _ _ _ _ => rfl) ..)

theorem contextsKept_units (s : State) (x : Nat) (us : List Nat) : s.ContextsKept (s.modCtx x fun c => { c with units := c.units ++ us }) := by
  refine ⟨rfl, fun y => ?_⟩
  by_cases same : y = x
  · subst same
    rw [ctx_modCtx_same]
  · rw [ctx_modCtx_ne _ _ same]

theorem contextsKept_modWarp (s : State) (k : Nat) (f : Warp → Warp) : s.ContextsKept (s.modWarp k f) := by
  have beside := (beside_modWarp s k f).1
  exact .of_same (by rw [beside]) (by rw [beside])

theorem contextsKept_endSaveOne (s : State) (k : Nat) : s.ContextsKept (s.endSaveOne k) := by
  unfold endSaveOne
  split
  · exact .refl s
  · split
    · split
      · exact .refl s
      · extract_lets held w0 w1 keep latch s1
        have dropped : s.ContextsKept s1 := .of_same rfl rfl
        clear_value s1
        split
        · exact dropped.trans (contextsKept_modBlock ..)
        · split
          · exact .refl s
          · exact dropped.trans (((contextsKept_writePieces ..).trans (contextsKept_units ..)).trans (contextsKept_modBlock ..))
    · exact .refl s

theorem contextsKept_endSave (s : State) (k : Nat) : s.ContextsKept (s.endSave k) := by
  unfold endSave
  dsimp only
  split
  · split
    · exact (contextsKept_endSaveOne ..).trans ((contextsKept_modWarp ..).trans (contextsKept_endSaveOne ..))
    · exact contextsKept_endSaveOne ..
  · exact contextsKept_endSaveOne ..

theorem contextsKept_saveWaiting (s : State) (b : Nat) : s.ContextsKept (s.saveWaiting b) :=
  .foldl (f := fun s (w : Warp) => (s.beginSave w.key false).endSave w.key) (fun _ _ => (contextsKept_modWarp ..).trans (contextsKept_endSave ..)) _ _

theorem contextsKept_raiseReq (s : State) (b cause : Nat) : s.ContextsKept (s.raiseReq b cause) := by
  unfold raiseReq
  split
  · exact .refl s
  · split
    · exact .refl s
    · split
      · exact .refl s
      · exact (contextsKept_modBlock ..).trans (contextsKept_saveWaiting ..)

theorem contextsKept_raiseAll (s : State) (x : Nat) : s.ContextsKept (s.raiseAll x) := .foldl (fun _ _ => contextsKept_raiseReq ..) _ _

/-- The queues of the context's slots. -/
def mappedQueues (s : State) (x : Nat) : List Nat := (s.qslots.filter fun p => p.2.st != .free && p.2.ctx = x).map fun p => p.2.q

/-- A context that leaves: its slots are free, it remembers what they had mapped. -/
theorem leaveCtx_spec (s : State) (x : Nat) : (s.leaveCtx x).qslots = (s.qslots.map fun p => if p.2.ctx = x then (p.1, {}) else p) ∧
    ((s.leaveCtx x).ctx x).res = false ∧ ((s.leaveCtx x).ctx x).busy = true ∧ ((s.leaveCtx x).ctx x).mapped = (s.ctx x).mapped ++ s.mappedQueues x := by
  unfold leaveCtx
  extract_lets mine pool out js s1 s2 s3
  have left : s2.ContextsKept s3 := by
    unfold s3
    split
    · exact contextsKept_writePieces ..
    · exact .refl _
  have all := left.trans (contextsKept_raiseAll s3 x)
  have ctx : s2.ctx x = { s.ctx x with res := false, busy := true, err := false, mapped := (s.ctx x).mapped ++ mine, jobs := (s.ctx x).jobs ++ js } :=
    tget_tset_same ..
  refine ⟨all.qslots, ?_, ?_, ?_⟩
  · rw [all.ctx, ctx]
  · rw [all.ctx, ctx]
  · rw [all.ctx, ctx]
    rfl

end State

/-! ## The steps -/

section
variable {x : Nat} {s : State}

theorem contextCreate_idle (h : 16 ≤ x ∨ s.devState ≠ 1 ∨ (s.ctx x).res = true ∨ (s.ctx x).busy = true ∨ (s.ctx x).fresh = false) :
    exec (.contextCreate x) s = .next s := by
  have steps : exec (.contextCreate x) s = execContextCreate x s := rfl
  rw [steps, execContextCreate]
  dsimp only
  rw [if_pos (by simpa [or_assoc] using h)]

theorem contextReturn_idle (h : 16 ≤ x ∨ s.devState ≠ 1 ∨ (s.ctx x).res = true ∨ (s.ctx x).busy = true ∨ (s.ctx x).fresh = true) :
    exec (.contextReturn x) s = .next s := by
  have steps : exec (.contextReturn x) s = execContextReturn x s := rfl
  rw [steps, execContextReturn]
  dsimp only
  rw [if_pos (by simpa [or_assoc] using h)]

variable (hx : x < 16) (up : s.devState = 1) (res : (s.ctx x).res = false) (busy : (s.ctx x).busy = false)
include hx up res busy

theorem contextCreate_run (fresh : (s.ctx x).fresh = true) : exec (.contextCreate x) s = .next (s.createCtx x) := by
  have steps : exec (.contextCreate x) s = execContextCreate x s := rfl
  rw [steps, execContextCreate]
  dsimp only
  rw [if_neg (by simp [hx, up, res, busy, fresh])]

theorem contextReturn_run (old : (s.ctx x).fresh = false) : exec (.contextReturn x) s = .next (s.returnCtx x) := by
  have steps : exec (.contextReturn x) s = execContextReturn x s := rfl
  rw [steps, execContextReturn]
  dsimp only
  rw [if_neg (by simp [hx, up, res, busy, old])]

end

theorem contextMakeNonresident_run (x : Nat) (s : State) :
    (16 ≤ x ∨ (s.ctx x).res = false ∨ (s.ctx x).busy = true → exec (.contextMakeNonresident x) s = .next s) ∧
    (x < 16 → (s.ctx x).res = true → (s.ctx x).busy = false → exec (.contextMakeNonresident x) s = .next (s.leaveCtx x)) := by
  have steps : exec (.contextMakeNonresident x) s = execContextMakeNonresident x s := rfl
  rw [steps, execContextMakeNonresident]
  refine ⟨fun idle => ?_, fun hx res busy => ?_⟩
  · dsimp only
    rw [if_pos (by simpa [or_assoc] using idle)]
  · dsimp only
    rw [if_neg (by simp [hx, res, busy])]

theorem residencyChangeDone_run (x : Nat) (s : State) :
    ((s.reap.ctx x).busy = false → exec (.residencyChangeDone x) s = .next s.reap) ∧
    ((s.reap.ctx x).busy = true → s.reap.hasLeft x = true → exec (.residencyChangeDone x) s = .next (s.reap.modCtx x fun c => { c with busy := false })) ∧
    ((s.reap.ctx x).busy = true → s.reap.hasLeft x = false → exec (.residencyChangeDone x) s = .next (s.reap.raiseAll x)) := by
  have steps : exec (.residencyChangeDone x) s = execResidencyChangeDone x s := rfl
  rw [steps, execResidencyChangeDone]
  refine ⟨fun idle => ?_, fun busy left => ?_, fun busy stays => ?_⟩
  · dsimp only
    rw [if_pos (by simp [idle])]
  · dsimp only
    rw [if_neg (by simp [busy]), if_pos left]
  · dsimp only
    rw [if_neg (by simp [busy]), if_neg (by simp [stays])]

/-- Settles O49: what the slot holds after each change, field by field, and what is left of the context elsewhere. -/
theorem contextChanges : Obligations.ContextChanges := by
  refine ⟨fun x s off => ⟨contextCreate_idle ?_, contextReturn_idle ?_⟩,
    fun x s => ⟨fun old => contextCreate_idle (.inr (.inr (.inr (.inr old)))), fun new => contextReturn_idle (.inr (.inr (.inr (.inr new))))⟩,
    fun x s hx up res busy fresh => ⟨fun bad => ?_, fun good => ?_⟩, fun x s hx up res busy old => ⟨fun unheld => ?_, fun held => ?_⟩,
    fun x s => ⟨(contextMakeNonresident_run x s).1, fun hx res busy => ?_⟩, fun x s => residencyChangeDone_run x s,
    fun s x cl => State.length_requeueJobs_conv s x cl, fun s x j res poolless one free => State.requeueJobs_single res poolless one free⟩
  · exact off.imp_right (Or.imp_right (Or.imp_right .inl))
  · exact off.imp_right (Or.imp_right (Or.imp_right .inl))
  · exact ⟨_, contextCreate_run hx up res busy fresh, by rw [State.createCtx_bad bad]; exact tget_tset_same ..⟩
  · obtain ⟨l, ctx⟩ := State.createCtx_ctx_same good
    obtain ⟨nodes, blocks, tlb, walks⟩ := State.createCtx_gone good
    refine ⟨_, _, contextCreate_run hx up res busy fresh, ctx, rfl, rfl, rfl, rfl, rfl, rfl, rfl, rfl, ?_, rfl, rfl, rfl, rfl, rfl, rfl, rfl, rfl,
      fun canonical k hk => State.createCtx_timeline good canonical hk, nodes, blocks, tlb, walks, fun y other => ?_⟩
    · exact (BitVec.toNat_ofNat ..).trans (Nat.mod_eq_of_lt (Nat.lt_of_lt_of_le (BitVec.isLt _) (by decide)))
    · rw [State.createCtx_ctx_ne good other]
      exact ⟨rfl, rfl⟩
  · rw [contextReturn_run hx up res busy old, State.returnCtx_unheld unheld]
  · obtain ⟨js, l, ctx⟩ := State.returnCtx_ctx held
    refine ⟨_, contextReturn_run hx up res busy old, ?_⟩
    rw [ctx]
    exact ⟨rfl, rfl, rfl, rfl, State.mem_pending_back _ _, State.returnCtx_insts held⟩
  · obtain ⟨qslots, gone, leaving, mapped⟩ := State.leaveCtx_spec s x
    refine ⟨_, (contextMakeNonresident_run x s).2 hx res busy, gone, leaving, ?_, ?_⟩
    · rw [qslots]
      intro p hp mine
      obtain ⟨q, -, rfl⟩ := List.mem_map.1 hp
      split at mine
      · rw [if_pos ‹_›]
      · exact absurd mine ‹_›
    · rintro q ⟨p, hp, used, mine, rfl⟩
      rw [mapped]
      exact List.mem_append_right _ (List.mem_map.2 ⟨p, List.mem_filter.2 ⟨hp, by simp [used, mine]⟩, rfl⟩)

end Sys2Proof.Machine

/-!
Doorbells, queue slots and the fetching of records (R341–R343, R348, R349).
-/

namespace Sys2Proof.Machine

namespace State

/-! ## Doorbells (R341) -/

theorem queueValid_iff (d : QDesc) : d.valid = true ↔ d.en = true ∧ 1 ≤ d.size ∧ d.size ≤ 16 ∧ d.ring % 4096 = 0 ∧ d.rd ≤ d.wr ∧ d.wr - d.rd ≤ 2 ^ d.size := by
  simp only [QDesc.valid, Bool.and_eq_true, inRange_iff, decide_eq_true_eq, and_assoc]

theorem isMapped_eq_false (s : State) (x q : Nat) : s.isMapped x q = false ↔ ∀ p ∈ s.qslots, p.2.st = .free ∨ p.2.ctx ≠ x ∨ p.2.q ≠ q := by
  simp only [isMapped, List.any_eq_false, Bool.and_eq_true, bne_iff_ne, decide_eq_true_eq]
  refine forall₂_congr fun p _ => ?_
  grind

/-- A doorbell adds its queue to the pending ones when the context is resident and the queue valid, neither mapped nor pending. -/
theorem doorbell_spec (s : State) (x q : Nat) :
    let rings := s.resident x = true ∧ q ≤ (s.ctx x).qmax ∧ (∃ d, s.readQueue x q = .ok d ∧ d.valid = true) ∧
      (∀ p ∈ s.qslots, p.2.st = .free ∨ p.2.ctx ≠ x ∨ p.2.q ≠ q) ∧ ∀ p ∈ (s.ctx x).pending, p.1 ≠ q
    (rings → s.doorbell x q = s.modCtx x fun c => { c with pending := c.pending ++ [(q, s.cycle)] }) ∧ (¬rings → s.doorbell x q = s) := by
  intro rings
  have valid : (match s.readQueue x q with
      | .ok d => d.valid
      | .error _ => false) = true ↔ ∃ d, s.readQueue x q = .ok d ∧ d.valid = true := by
    cases s.readQueue x q <;> simp
  have waits : ((s.ctx x).pending.any fun p => p.1 = q) = false ↔ ∀ p ∈ (s.ctx x).pending, p.1 ≠ q := by simp
  have decides : ¬(!s.resident x || (s.ctx x).qmax < q || !(match s.readQueue x q with
      | .ok d => d.valid
      | .error _ => false) || s.isMapped x q || (s.ctx x).pending.any (fun p => p.1 = q)) = true ↔ rings := by
    simp only [rings, Bool.or_eq_true, not_or, Bool.not_eq_true', Bool.not_eq_true, Bool.not_eq_false, decide_eq_true_eq, valid, waits,
      isMapped_eq_false, Nat.not_lt, and_assoc]
  unfold doorbell
  exact ⟨fun h => if_neg (decides.2 h), fun h => if_pos (by_contra fun c => h (decides.1 c))⟩

/-! ## The selector (R343) -/

/-- The last seven mappings were all made by priority. -/
def agedTurn (s : State) : Bool := s.mappings.length = 7 && s.mappings.all id

/-- One queue comes before another under the rule of the step. -/
def queueBefore (aged : Bool) (a b : Nat × Nat × Nat × Nat) : Bool := if aged || a.1 = b.1 then waitsLonger a b else b.1 < a.1

theorem agedTurn_iff (s : State) : s.agedTurn = true ↔ s.mappings.length = 7 ∧ ∀ b ∈ s.mappings, b = true := by simp [agedTurn]

theorem selectQueue_eq (s : State) : s.selectQueue = (sortKey (queueBefore s.agedTurn) s.pendingQueues).head?.map fun q => (q, !s.agedTurn) := by
  change (match sortKey (queueBefore s.agedTurn) s.pendingQueues with
    | [] => none
    | q :: _ => some (q, !s.agedTurn)) = _
  cases sortKey (queueBefore s.agedTurn) s.pendingQueues <;> rfl

theorem waitsLonger_iff (a b : Nat × Nat × Nat × Nat) : waitsLonger a b = true ↔
    a.2.1 < b.2.1 ∨ (a.2.1 = b.2.1 ∧ (a.2.2.1 < b.2.2.1 ∨ (a.2.2.1 = b.2.2.1 ∧ a.2.2.2 ≤ b.2.2.2))) := by
  simp only [waitsLonger, Bool.or_eq_true, Bool.and_eq_true, decide_eq_true_eq]

theorem queueBefore_aged (a b : Nat × Nat × Nat × Nat) : queueBefore true a b = waitsLonger a b := rfl

theorem queueBefore_prio (a b : Nat × Nat × Nat × Nat) : queueBefore false a b = true ↔ b.1 < a.1 ∨ (b.1 = a.1 ∧ waitsLonger a b = true) := by
  unfold queueBefore
  by_cases same : a.1 = b.1
  · rw [if_pos (by simp [same])]; simp [same]
  · rw [if_neg (by simp [same])]; simp [Ne.symm same]

theorem queueBefore_total (aged : Bool) (a b : Nat × Nat × Nat × Nat) : queueBefore aged a b = true ∨ queueBefore aged b a = true := by
  cases aged with
  | true =>
    simp only [queueBefore_aged, waitsLonger_iff]
    omega
  | false =>
    simp only [queueBefore_prio, waitsLonger_iff]
    omega

theorem queueBefore_trans (aged : Bool) (a b c : Nat × Nat × Nat × Nat) (h : queueBefore aged a b = true) (k : queueBefore aged b c = true) :
    queueBefore aged a c = true := by
  cases aged with
  | true =>
    simp only [queueBefore_aged, waitsLonger_iff] at *
    omega
  | false =>
    simp only [queueBefore_prio, waitsLonger_iff] at *
    omega

/-- The queue the selector chooses comes before every pending one. -/
theorem selectQueue_some {s : State} (h : s.pendingQueues ≠ []) : ∃ p ∈ s.pendingQueues,
    s.selectQueue = some (p, !s.agedTurn) ∧ ∀ q ∈ s.pendingQueues, queueBefore s.agedTurn p q = true := by
  obtain ⟨p, first⟩ := exists_head?_sortKey (le := queueBefore s.agedTurn) h
  exact ⟨p, mem_of_head?_sortKey first, by rw [selectQueue_eq, first]; rfl,
    fun q hq => head?_sortKey_le (queueBefore_total _) (queueBefore_trans _) first q hq⟩

end State

/-! ## Slots (R342, R343) -/

theorem slotMap_idle {n : Nat} {s : State} (h : 64 ≤ n ∨ (tget ({} : QSlot) s.qslots n).st ≠ .free ∨ s.pendingQueues = []) :
    exec (.slotMap n) s = .next s := by
  have steps : exec (.slotMap n) s = execSlotMap n s := rfl
  rw [steps, execSlotMap]
  by_cases busy : 64 ≤ n ∨ (tget ({} : QSlot) s.qslots n).st ≠ .free
  · rw [if_pos (by simpa using busy)]
  · have none : s.pendingQueues = [] := by grind
    rw [if_neg (by simpa using busy), State.selectQueue_eq, none]
    rfl

/-- A free slot maps the queue the selector chooses. -/
theorem slotMap_maps {n : Nat} {s : State} (hn : n < 64) (free : (tget ({} : QSlot) s.qslots n).st = .free) {p : Nat × Nat × Nat × Nat} {prio : Bool}
    (chosen : s.selectQueue = some (p, prio)) : exec (.slotMap n) s = .next {
      s.modCtx p.2.2.1 (fun c => { c with pending := c.pending.filter fun y => y.1 != p.2.2.2 }) with
      qslots := tset s.qslots n { st := .fetch, ctx := p.2.2.1, q := p.2.2.2, since := s.cycle },
      mappings := (s.mappings ++ [prio]).drop ((s.mappings ++ [prio]).length - 7) } := by
  have steps : exec (.slotMap n) s = execSlotMap n s := rfl
  rw [steps, execSlotMap, if_neg (by simp [hn, free]), chosen]
  rfl

theorem slotBlocked_iff (s : State) (x q : Nat) : s.slotBlocked x q = true ↔ 4096 ≤ s.nodes.length ∨ 1024 ≤ (s.queueNodes x q).length := by
  simp [State.slotBlocked]

theorem quantumExpire_run (n : Nat) (s : State) :
    let t := tget ({} : QSlot) s.qslots n
    let expires := t.st ≠ .free ∧ t.since + (s.ctx t.ctx).quant ≤ s.cycle ∧ s.pendingQueues ≠ []
    (¬expires → exec (.quantumExpire n) s = .next s) ∧
    (expires → exec (.quantumExpire n) s = .next ((s.freeSlot n).modCtx t.ctx fun c => { c with pending := c.pending ++ [(t.q, s.cycle)] })) := by
  intro t expires
  have steps : exec (.quantumExpire n) s = execQuantumExpire n s := rfl
  have decides : ¬(t.st = .free || s.cycle < t.since + (s.ctx t.ctx).quant || s.pendingQueues = []) = true ↔ expires := by
    simp only [expires, Bool.or_eq_true, not_or, decide_eq_true_eq, Nat.not_lt, and_assoc, ne_eq]
  rw [steps, execQuantumExpire]
  exact ⟨fun h => congrArg _ (if_pos (by_contra fun c => h (decides.1 c))), fun h => congrArg _ (if_neg (decides.2 h))⟩

theorem slotUnstall_run (n : Nat) (s : State) :
    let t := tget ({} : QSlot) s.qslots n
    let full := 4096 ≤ s.nodes.length ∨ 1024 ≤ (s.queueNodes t.ctx t.q).length
    (t.st ≠ .stall ∨ full → exec (.slotUnstall n) s = .next s) ∧
    (t.st = .stall → ¬full → exec (.slotUnstall n) s = .next { s with qslots := tset s.qslots n { t with st := .fetch } }) := by
  intro t full
  have steps : exec (.slotUnstall n) s = execSlotUnstall n s := rfl
  have decides : (t.st != .stall || s.slotBlocked t.ctx t.q) = true ↔ t.st ≠ .stall ∨ full := by
    rw [Bool.or_eq_true, bne_iff_ne, slotBlocked_iff]
  rw [steps, execSlotUnstall]
  exact ⟨fun h => congrArg _ (if_pos (decides.2 h)), fun stalled room => congrArg _ (if_neg fun c => (decides.1 c).elim (absurd stalled) room)⟩

/-! ## Fetching a record (R342, R348) -/

theorem slotFetch_idle {n : Nat} {s : State} (h : (tget ({} : QSlot) s.qslots n).st ≠ .fetch) : exec (.slotFetch n) s = .next s := by
  have steps : exec (.slotFetch n) s = .next (s.slotStep n) := rfl
  rw [steps, State.slotStep, if_pos (bne_iff_ne.2 h), if_neg h]

/-- What a slot does once its queue's descriptor may be read. -/
def State.slotRead (s : State) (n : Nat) (t : QSlot) : State :=
  match s.readQueue t.ctx t.q with
  | .error e => s.queueError n t.ctx t.q e
  | .ok d =>
    if !d.valid || d.rd = d.wr then s.freeSlot n
    else if s.slotBlocked t.ctx t.q then { s with qslots := tset s.qslots n { t with st := .stall } }
    else match s.agentRead t.ctx 0 (d.place d.rd) 0 128 with
      | .error e => s.queueError n t.ctx t.q e
      | .ok bs =>
        if !s.agentReady t.ctx (s.queueVa t.ctx t.q + 16#64) 8 then s else
        match (s.agentTouch t.ctx 0 (d.place d.rd) 0 128).agentWrite State.noWarp t.ctx (s.queueVa t.ctx t.q + 16#64) 0 (leBytes 8 (d.rd + 1)) with
        | .error e => s.queueError n t.ctx t.q e
        | .ok s2 => s2.deliver t.ctx t.q (BitVec.ofNat 1024 (leNat bs))

theorem slotFetch_eq {n : Nat} {s : State} (fetches : (tget ({} : QSlot) s.qslots n).st = .fetch) : exec (.slotFetch n) s =
    .next ((s.agentTouch (tget ({} : QSlot) s.qslots n).ctx 0 (s.queueVa (tget ({} : QSlot) s.qslots n).ctx (tget ({} : QSlot) s.qslots n).q) 0 24).slotRead n
      (tget ({} : QSlot) s.qslots n)) := by
  have steps : exec (.slotFetch n) s = .next (s.slotStep n) := rfl
  rw [steps, State.slotStep, if_pos fetches, if_neg (by rw [fetches]; decide)]
  rfl

section
variable {s : State} (n : Nat) (t : QSlot)

theorem slotRead_error {e : AgentErr} (h : s.readQueue t.ctx t.q = .error e) : s.slotRead n t = s.queueError n t.ctx t.q e := by
  rw [State.slotRead, h]

variable {d : QDesc} (read : s.readQueue t.ctx t.q = .ok d)
include read

theorem slotRead_empty (h : d.valid = false ∨ d.rd = d.wr) : s.slotRead n t = s.freeSlot n := by
  rw [State.slotRead, read]
  exact if_pos (by simpa using h)

variable (valid : d.valid = true) (more : d.rd ≠ d.wr)
include valid more

theorem slotRead_stalls (full : s.slotBlocked t.ctx t.q = true) : s.slotRead n t = { s with qslots := tset s.qslots n { t with st := .stall } } := by
  rw [State.slotRead, read]
  dsimp only
  rw [if_neg (by simp [valid, more]), if_pos full]

/-- The record at RD is read, and RD moves on once the host lets it be written. -/
theorem slotRead_fetches (room : s.slotBlocked t.ctx t.q = false) {bs : List Byte} {s2 : State}
    (got : s.agentRead t.ctx 0 (d.place d.rd) 0 128 = .ok bs)
    (wrote : (s.agentTouch t.ctx 0 (d.place d.rd) 0 128).agentWrite State.noWarp t.ctx (s.queueVa t.ctx t.q + 16#64) 0 (leBytes 8 (d.rd + 1)) = .ok s2) :
    s.slotRead n t = if s.agentReady t.ctx (s.queueVa t.ctx t.q + 16#64) 8 then s2.deliver t.ctx t.q (BitVec.ofNat 1024 (leNat bs)) else s := by
  rw [State.slotRead, read]
  dsimp only
  rw [if_neg (by simp [valid, more]), if_neg (by simp [room]), got]
  dsimp only
  rw [wrote]
  cases s.agentReady t.ctx (s.queueVa t.ctx t.q + 16#64) 8 <;> rfl

end

namespace State

/-! ## What a read by an agent leaves (R322, R492) -/

theorem interrupts_uncached (s : State) (ph : Phys) (n : Nat) (read write : Bool) : s.Interrupts (s.uncached ph n read write) := by
  unfold uncached
  split
  · exact .refl s
  · refine .foldl (fun s l => ?_) _ _
    dsimp only
    have looked : s.Interrupts (if read then s.mscServe l false (ph.leaf.getLsbD 54) false else s) := by
      split
      · exact interrupts_mscServe ..
      · exact .refl s
    split
    · exact looked.trans (interrupts_mscServe ..)
    · exact looked

theorem walkFrame_agentFill (s : State) (x : Nat) (va : Word) (midx : BitVec 16) (n core : Nat) : s.WalkFrame (s.agentFill x va midx n core) := by
  unfold agentFill
  exact .foldl (f := fun (s : State) (p : Nat × Nat) => s.fillTlb core x (va + BitVec.ofNat 64 p.1) midx) (fun s p => walkFrame_fillTlb ..) _ _

theorem interrupts_agentTouch (s : State) (x die : Nat) (va : Word) (midx : BitVec 16) (n : Nat) (sup : Bool) (core : Nat) :
    s.Interrupts (s.agentTouch x die va midx n sup core) := by
  unfold agentTouch
  split
  · exact .refl s
  · refine (walkFrame_agentFill s x va midx n core).interrupts.trans ?_
    apply Interrupts.foldl
    exact fun s p => (interrupts_uncached s p.2.2 p.2.1 true false).trans (walkFrame_readBy ..).interrupts

/-! ## Delivery (R348, R349) -/

/-- The error of a record that is delivered, and its tiles. -/
def recordTiles (s : State) (x : Nat) (h : LHdr) : Option (Nat × Nat × Nat) × List (Int × Int × Bool) :=
  if h.bad || (h.kind = 0 && h.phased && !s.fitsIdle x h) then (some (1, 0, (Config.noAddr s.tick).toNat), [])
  else match s.readTiles x h with
    | .error e => (some (e.cls, e.detail, e.addr), [])
    | .ok l => (none, l)

/-- Nodes of the queue whose tiles meet those of the record with a write among them. -/
def depsByTile (s : State) (x q : Nat) (h : LHdr) : List (Nat × Node) :=
  (s.queueNodes x q).filter fun p => tilesMeet (s.recordTiles x h).2 p.2.tiles

/-- Nodes of the queue where one of the two is a cut. -/
def depsByCut (s : State) (x q : Nat) (h : LHdr) : List (Nat × Node) := (s.queueNodes x q).filter fun p => h.kind = 3 || LHdr.kind p.2.hdr = 3

/-- The node a record becomes. -/
def recordNode (s : State) (x q : Nat) (h : LHdr) : Node :=
  { ctx := x, queue := q, hdr := h, bad := (s.recordTiles x h).1, tiles := (s.recordTiles x h).2,
    deps := ((s.depsByTile x q h ++ s.depsByCut x q h).map (·.1)).eraseDups, tileDep := s.depsByTile x q h != [],
    nblk := if h.kind = 0 && !h.indir then h.ngrp * h.cgs else 0 }

theorem deliver_nodes (s : State) (x q : Nat) (h : LHdr) : (s.deliver x q h).nodes = s.nodes ++ [(tfresh s.nodes, s.recordNode x q h)] := by
  have touched : ∀ c : Bool, (if c then s.agentTouch x 0 h.tilep 0 (32 * h.ntile) else s).nodes = s.nodes := fun c => by
    cases c
    · rfl
    · exact (interrupts_agentTouch ..).nodes
  have kept := touched ((s.recordTiles x h).1.isNone && h.kind != 3)
  have delivered : (s.deliver x q h).nodes =
      (if (s.recordTiles x h).1.isNone && h.kind != 3 then s.agentTouch x 0 h.tilep 0 (32 * h.ntile) else s).nodes ++
        [(tfresh (if (s.recordTiles x h).1.isNone && h.kind != 3 then s.agentTouch x 0 h.tilep 0 (32 * h.ntile) else s).nodes, s.recordNode x q h)] := rfl
  rw [delivered, kept]

/-- A node depends on the nodes of its queue that its tiles meet, and on those of a cut. -/
theorem mem_deps_recordNode (s : State) (x q : Nat) (h : LHdr) (k : Nat) : k ∈ (s.recordNode x q h).deps ↔ ∃ p ∈ s.nodes, p.1 = k ∧ p.2.ctx = x ∧
    p.2.queue = q ∧ (tilesMeet (s.recordNode x q h).tiles p.2.tiles = true ∨ h.kind = 3 ∨ LHdr.kind p.2.hdr = 3) := by
  simp only [recordNode, List.mem_eraseDups, List.mem_map, List.mem_append, depsByTile, depsByCut, queueNodes, List.mem_filter, Bool.and_eq_true,
    Bool.or_eq_true, decide_eq_true_eq]
  constructor
  · rintro ⟨p, ⟨⟨hp, hx, hq⟩, meets⟩ | ⟨⟨hp, hx, hq⟩, cut⟩, rfl⟩
    · exact ⟨p, hp, rfl, hx, hq, .inl meets⟩
    · exact ⟨p, hp, rfl, hx, hq, .inr cut⟩
  · rintro ⟨p, hp, rfl, hx, hq, meets | cut⟩
    · exact ⟨p, .inl ⟨⟨hp, hx, hq⟩, meets⟩, rfl⟩
    · exact ⟨p, .inr ⟨⟨hp, hx, hq⟩, cut⟩, rfl⟩

theorem recordNode_bad {s : State} {x : Nat} (q : Nat) {h : LHdr} (bad : h.bad = true) : (s.recordNode x q h).bad ≠ none := by
  rw [recordNode, recordTiles, if_pos (by simp [bad])]
  exact Option.some_ne_none _

theorem tilesMeet_iff (a b : List (Int × Int × Bool)) : tilesMeet a b = true ↔
    ∃ p ∈ a, ∃ q ∈ b, p.1 ≤ q.2.1 ∧ q.1 ≤ p.2.1 ∧ (p.2.2 = true ∨ q.2.2 = true) := by
  simp only [tilesMeet, List.any_eq_true, Bool.and_eq_true, Bool.or_eq_true, decide_eq_true_eq, and_assoc]

end State

/-- Settles O31: the selector's choice as the first of a sorted list, and one step of a slot case by case. -/
theorem queueSlots : Obligations.QueueSlots := by
  refine ⟨⟨State.queueValid_iff, fun x q s => ?_, fun n s idle => slotMap_idle idle, fun n s hn free waits => ?_, fun n s => quantumExpire_run n s,
    fun n s => ?_⟩, fun n s idle => slotFetch_idle idle, fun n s fetches => ?_, fun s x q h => ?_, State.tilesMeet_iff⟩
  · have steps : exec (.doorbell x q) s = .next (s.doorbell x q) := rfl
    obtain ⟨rings, silent⟩ := s.doorbell_spec x q
    rw [steps]
    exact ⟨fun h => congrArg _ (rings h), fun h => congrArg _ (silent h)⟩
  · obtain ⟨p, hp, chosen, first⟩ := State.selectQueue_some waits
    refine ⟨p, hp, fun aged q hq => ?_, fun fresh q hq => ?_, _, slotMap_maps hn free chosen, tget_tset_same .., ?_,
      fun m other => tget_tset_ne _ _ _ (Ne.symm other), fun y other => ?_, rfl, rfl, rfl⟩
    · have before := first q hq
      rw [(State.agedTurn_iff s).2 aged, State.queueBefore_aged, State.waitsLonger_iff] at before
      exact before
    · have before := first q hq
      rw [Bool.eq_false_iff.2 (mt (State.agedTurn_iff s).1 fresh), State.queueBefore_prio, State.waitsLonger_iff] at before
      exact before
    · exact congrArg Context.pending (State.ctx_modCtx_same s p.2.2.1 fun c => { c with pending := c.pending.filter fun y => y.1 != p.2.2.2 })
    · exact State.ctx_modCtx_ne s (fun c => { c with pending := c.pending.filter fun y => y.1 != p.2.2.2 }) other
  · obtain ⟨stays, goes⟩ := slotUnstall_run n s
    exact ⟨stays, fun stalled room => ⟨_, goes stalled room, tget_tset_same .., rfl⟩⟩
  · have steps := slotFetch_eq fetches
    intro t s1
    refine ⟨fun e failed => ?_, fun d read => ⟨fun empty => ?_, fun valid more full => ?_, fun valid more room bs s2 got wrote => ⟨fun ready => ?_, fun busy => ?_⟩⟩⟩
    · exact steps.trans (congrArg _ (slotRead_error n t failed))
    · exact steps.trans (congrArg _ (slotRead_empty n t read empty))
    · exact steps.trans (congrArg _ (slotRead_stalls n t read valid more full))
    · exact steps.trans (congrArg _ ((slotRead_fetches n t read valid more room got wrote).trans (if_pos ready)))
    · exact steps.trans (congrArg _ ((slotRead_fetches n t read valid more room got wrote).trans (if_neg (by rw [busy]; exact Bool.false_ne_true))))
  · exact ⟨_, s.deliver_nodes x q h, rfl, rfl, rfl, rfl, State.recordNode_bad q, s.mem_deps_recordNode x q h⟩

end Sys2Proof.Machine

/-!
The life of a node (R350–R352, R355, R460): ready, dispatched, done.
-/

namespace Sys2Proof.Machine

namespace State

/-! ## Readiness (R350, R351) -/

/-- What a node waits for has come: its waits are met, and what it depends on is DONE. -/
def nodeMet (s : State) (nd : Node) : Bool :=
  ((LHdr.waits nd.hdr).all fun p => p.2.toNat ≤ s.timeline nd.ctx p.1) && nd.deps.all fun d => (s.node? d).isNone

theorem nodeMet_iff (s : State) (nd : Node) : s.nodeMet nd = true ↔
    (∀ p ∈ LHdr.waits nd.hdr, p.2.toNat ≤ s.timeline nd.ctx p.1) ∧ ∀ d ∈ nd.deps, s.node? d = none := by
  simp [nodeMet]

/-- The machine with the node READY. -/
def madeReady (s : State) (id : Nat) : State :=
  { s.modNode id (fun n => { n with st := .ready, readyAt := s.rdyOrder }) with
    rdyOrder := s.rdyOrder + 1, code := s.code.filter fun p => p.1 / 2048 != id }

/-- A launch with blocks goes on to run. -/
def runsBlocks (n : Node) : Node := if n.bad.isNone && n.nblk != 0 then { n with st := .run } else n

theorem node?_madeReady (s : State) (id : Nat) : (s.madeReady id).node? id = (s.node? id).map fun n => { n with st := .ready, readyAt := s.rdyOrder } :=
  State.node?_modNode_same s id fun n => { n with st := .ready, readyAt := s.rdyOrder }

theorem node?_madeReady_ne (s : State) {id k : Nat} (other : k ≠ id) : (s.madeReady id).node? k = s.node? k :=
  State.node?_modNode_ne s (fun n => { n with st := .ready, readyAt := s.rdyOrder }) other

end State

section
variable {id : Nat} {s : State} {nd : Node} (hn : s.node? id = some nd)
include hn

theorem nodeReady_idle (h : nd.st ≠ .wait ∨ ¬((∀ p ∈ LHdr.waits nd.hdr, p.2.toNat ≤ s.timeline nd.ctx p.1) ∧ ∀ d ∈ nd.deps, s.node? d = none) ∨
    s.resident nd.ctx = false) : exec (.nodeReady id) s = .next s := by
  have steps : exec (.nodeReady id) s = execNodeReady id s := rfl
  rw [steps, execNodeReady, hn]
  refine congrArg _ (if_pos ?_)
  change (nd.st != .wait || !s.nodeMet nd || !s.resident nd.ctx) = true
  rw [← State.nodeMet_iff] at h
  simpa [or_assoc] using h

variable (waits : nd.st = .wait) (met : (∀ p ∈ LHdr.waits nd.hdr, p.2.toNat ≤ s.timeline nd.ctx p.1) ∧ ∀ d ∈ nd.deps, s.node? d = none)
  (res : s.resident nd.ctx = true)
include waits met res

theorem nodeReady_run : exec (.nodeReady id) s = .next (
    if nd.bad.isSome || LHdr.kind nd.hdr != 0 then s.madeReady id
    else
      let s2 := (s.madeReady id).readArgs id nd
      let s3 := if LHdr.indir nd.hdr && (nd.tileDep || LHdr.waits nd.hdr != []) then s2.readCount id nd else s2
      s3.modNode id State.runsBlocks) := by
  have steps : exec (.nodeReady id) s = execNodeReady id s := rfl
  rw [steps, execNodeReady, hn]
  refine congrArg _ (if_neg ?_)
  change ¬(nd.st != .wait || !s.nodeMet nd || !s.resident nd.ctx) = true
  rw [(State.nodeMet_iff s nd).2 met, res, waits]
  decide

/-- A node that reads nothing at readiness. -/
theorem nodeReady_plain (plain : nd.bad ≠ none ∨ LHdr.kind nd.hdr ≠ 0 ∨ (LHdr.argn nd.hdr = 0 ∧ LHdr.indir nd.hdr = false)) :
    ∃ t, exec (.nodeReady id) s = .next t ∧ t = { s with nodes := t.nodes, rdyOrder := s.rdyOrder + 1, code := s.code.filter fun p => p.1 / 2048 != id } ∧
      t.node? id = some { nd with st := if nd.bad = none ∧ LHdr.kind nd.hdr = 0 ∧ nd.nblk ≠ 0 then .run else .ready, readyAt := s.rdyOrder } ∧
      ∀ k, k ≠ id → t.node? k = s.node? k := by
  have steps := nodeReady_run hn waits met res
  have ready := s.node?_madeReady id
  rw [hn, Option.map_some] at ready
  by_cases stays : nd.bad ≠ none ∨ LHdr.kind nd.hdr ≠ 0
  · rw [if_pos (by simpa [Option.isSome_iff_ne_none] using stays)] at steps
    refine ⟨_, steps, rfl, ready.trans ?_, fun k other => State.node?_madeReady_ne s other⟩
    rw [if_neg (by grind)]
  · obtain ⟨good, launch⟩ := not_or.1 stays
    obtain ⟨noArgs, direct⟩ : LHdr.argn nd.hdr = 0 ∧ LHdr.indir nd.hdr = false := by grind
    have good : nd.bad = none := not_not.1 good
    have launch : LHdr.kind nd.hdr = 0 := not_not.1 launch
    have args : (s.madeReady id).readArgs id nd = s.madeReady id := if_pos (by simp [noArgs])
    rw [if_neg (by simp [good, launch]), args, direct] at steps
    simp only [Bool.false_and, Bool.false_eq_true, ↓reduceIte] at steps
    refine ⟨_, steps, rfl, ?_, fun k other => ?_⟩
    · rw [State.node?_modNode_same, ready, Option.map_some, State.runsBlocks]
      by_cases blocks : nd.nblk = 0
      · simp [good, blocks]
      · simp [good, blocks, launch]
    · rw [State.node?_modNode_ne _ _ other, State.node?_madeReady_ne s other]

/-- A launch with arguments reads them as it becomes READY. -/
theorem nodeReady_args (good : nd.bad = none) (launch : LHdr.kind nd.hdr = 0) (args : LHdr.argn nd.hdr ≠ 0) (direct : LHdr.indir nd.hdr = false)
    {bs : List Byte} (read : (s.madeReady id).agentRead nd.ctx 0 (LHdr.argp nd.hdr) 0 (8 * LHdr.argn nd.hdr) = .ok bs) :
    ∃ t, exec (.nodeReady id) s = .next t ∧ ∀ n, t.node? id = some n → n.st = (if nd.nblk ≠ 0 then .run else .ready) ∧
      n.args = (List.range (LHdr.argn nd.hdr)).map fun i => BitVec.ofNat 64 (leNat ((bs.drop (8 * i)).take 8)) := by
  have steps := nodeReady_run hn waits met res
  have ready := s.node?_madeReady id
  rw [hn, Option.map_some] at ready
  have got : (s.madeReady id).readArgs id nd =
      ((s.madeReady id).agentTouch nd.ctx 0 (LHdr.argp nd.hdr) 0 (8 * LHdr.argn nd.hdr)).modNode id fun n =>
        { n with args := (List.range (LHdr.argn nd.hdr)).map fun i => BitVec.ofNat 64 (leNat ((bs.drop (8 * i)).take 8)) } := by
    rw [State.readArgs, if_neg (by simp [launch, args]), read]
  have touched : ((s.madeReady id).agentTouch nd.ctx 0 (LHdr.argp nd.hdr) 0 (8 * LHdr.argn nd.hdr)).node? id = (s.madeReady id).node? id :=
    congrArg (tfind · id) (State.interrupts_agentTouch ..).nodes
  rw [if_neg (by simp [good, launch]), got, direct] at steps
  simp only [Bool.false_and, Bool.false_eq_true, ↓reduceIte] at steps
  refine ⟨_, steps, fun n held => ?_⟩
  rw [State.node?_modNode_same, State.node?_modNode_same, touched, ready, Option.map_some, Option.map_some] at held
  obtain rfl := Option.some.inj held
  rw [State.runsBlocks]
  by_cases blocks : nd.nblk = 0
  · simp [good, blocks]
  · simp [good, blocks]

end

/-! ## Completion (R352, R460) -/

theorem State.nodeFinished_iff (s : State) (nd : Node) : s.nodeFinished nd = true ↔
    (nd.st = .ready ∧ (nd.bad ≠ none ∨ LHdr.kind nd.hdr = 3 ∨ (LHdr.kind nd.hdr = 0 ∧ nd.nblk = 0 ∧ (LHdr.indir nd.hdr = false ∨ nd.counted = true)))) ∨
    (nd.st = .drain ∧ (if LHdr.kind nd.hdr = 0 then nd.live = [] else nd.busy = false ∧ ∀ r ∈ s.replicas, r.owner ≠ State.noWarp)) := by
  unfold State.nodeFinished
  cases nd.st with
  | ready => simp [Option.isSome_iff_ne_none, or_assoc, and_assoc]
  | drain => by_cases launch : LHdr.kind nd.hdr = 0 <;> simp [launch]
  | wait => simp
  | run => simp
  | done => simp

theorem nodeDone_run {id : Nat} {s : State} {nd : Node} (hn : s.reap.node? id = some nd) : exec (.nodeDone id) s =
    .next (if s.reap.nodeFinished nd && s.reap.entryReady nd then s.reap.completeNode id nd else s.reap) := by
  have steps : exec (.nodeDone id) s = execNodeDone id s := rfl
  rw [steps, execNodeDone]
  dsimp only
  rw [hn]

/-- The fields of a completion entry (R460). -/
theorem ErrRec.bytes_spec (e : ErrRec) : e.bytes.length = 32 ∧
    leNat (e.bytes.take 8) = e.cls % 16 + 256 * (e.detail % 256) + 65536 * (e.unit % 4096) + 2 ^ 31 + 2 ^ 32 * min e.nerr (2 ^ 32 - 1) ∧
    leNat ((e.bytes.drop 8).take 8) = e.addr % 2 ^ 56 := by
  have first := leNat_leBytes_of_lt (n := 8) (v := e.cls % 16 + 2 ^ 8 * (e.detail % 256) + 2 ^ 16 * (e.unit % 4096) + 2 ^ 31 + 2 ^ 32 * sat32 e.nerr)
    (by rw [sat32]; omega)
  have second := leNat_leBytes_of_lt (n := 8) (v := e.addr % 2 ^ 56) (by omega)
  refine ⟨?_, ?_, ?_⟩
  · simp only [ErrRec.bytes, List.length_append, length_leBytes]
  · rw [ErrRec.bytes]
    simp only [List.append_assoc]
    rw [List.take_left' (length_leBytes ..), first, sat32]
    omega
  · rw [ErrRec.bytes]
    simp only [List.append_assoc]
    rw [List.drop_left' (length_leBytes ..), List.take_left' (length_leBytes ..), second]

/-! ## Dispatch (R355) -/

/-- A fold that keeps the better of two ends with one that no element beats. -/
theorem foldl_argmin {α : Type} (f : α → Nat) (l : List α) (a : α) :
    let b := l.foldl (fun best e => if f e < f best then e else best) a
    (b = a ∨ b ∈ l) ∧ f b ≤ f a ∧ ∀ e ∈ l, f b ≤ f e := by
  induction l generalizing a with
  | nil => exact ⟨.inl rfl, Nat.le_refl _, List.forall_mem_nil _⟩
  | cons e l ih =>
    rw [List.foldl_cons]
    obtain ⟨from', first, rest⟩ := ih (if f e < f a then e else a)
    by_cases better : f e < f a
    · simp only [if_pos better] at from' first rest ⊢
      exact ⟨.inr (List.mem_cons.2 from'), Nat.le_of_lt (Nat.lt_of_le_of_lt first better), List.forall_mem_cons.2 ⟨first, rest⟩⟩
    · simp only [if_neg better] at from' first rest ⊢
      exact ⟨from'.imp_right (List.mem_cons_of_mem e), first, List.forall_mem_cons.2 ⟨by omega, rest⟩⟩

theorem State.shortestEngine_spec (s : State) :
    s.shortestEngine < 160 ∧ ∀ e < 160, (tget [] s.conv s.shortestEngine).length ≤ (tget [] s.conv e).length := by
  have every : ∀ e, e ∈ ((List.range 20).flatMap fun cl => (List.range 8).map fun d => 20 * d + cl) ↔ e < 160 := fun e => by
    simp only [List.mem_flatMap, List.mem_map, List.mem_range]
    constructor
    · rintro ⟨cl, hcl, d, hd, rfl⟩
      omega
    · exact fun he => ⟨e % 20, by omega, e / 20, by omega, by omega⟩
  obtain ⟨from', -, least⟩ := foldl_argmin (fun e => (tget [] s.conv e).length) ((List.range 20).flatMap fun cl => (List.range 8).map fun d => 20 * d + cl) 0
  refine ⟨?_, fun e he => least e ((every e).2 he)⟩
  rcases from' with zero | mem
  · exact Nat.lt_of_le_of_lt (Nat.le_of_eq zero) (by omega)
  · exact (every _).1 mem

section
variable {id : Nat} {s : State} {nd : Node} (hn : s.node? id = some nd)
include hn

theorem convNodeDispatch_run :
    let e := s.shortestEngine
    let may := nd.st = .ready ∧ nd.bad = none ∧ LHdr.kind nd.hdr = 2 ∧ s.resident nd.ctx = true ∧ (tget [] s.conv e).length < convRoom
    (¬may → exec (.convNodeDispatch id) s = .next s) ∧
    (∀ x, may → s.agentRead nd.ctx (e / 20) (LHdr.entry nd.hdr) 0 128 = .error x → exec (.convNodeDispatch id) s = .next (s.nodeFails id x)) ∧
    (∀ bs, may → s.agentRead nd.ctx (e / 20) (LHdr.entry nd.hdr) 0 128 = .ok bs →
      let s1 := s.agentTouch nd.ctx (e / 20) (LHdr.entry nd.hdr) 0 128
      exec (.convNodeDispatch id) s = .next (State.modNode { s1 with conv := tset s1.conv e (tget [] s1.conv e ++
        [{ ctx := nd.ctx, core := 8 * e, blk := none, place := (LHdr.entry nd.hdr).toNat, node := some id, fields := BitVec.ofNat 768 (leNat (bs.take 96)) }]) } id
        fun n => { n with st := .drain, busy := true })) := by
  intro e may
  have steps : exec (.convNodeDispatch id) s = execConvNodeDispatch id s := rfl
  have decides : ¬(nd.st != .ready || nd.bad.isSome || LHdr.kind nd.hdr != 2 || !s.resident nd.ctx || convRoom ≤ (tget [] s.conv e).length) = true ↔ may := by
    simp only [may, Bool.or_eq_true, not_or, bne_iff_ne, ne_eq, not_not, Bool.not_eq_true', Bool.not_eq_false, decide_eq_true_eq, Nat.not_le,
      Option.isSome_iff_ne_none, and_assoc]
  rw [steps, execConvNodeDispatch, hn]
  dsimp only
  refine ⟨fun idle => ?_, fun x ok failed => ?_, fun bs ok read => ?_⟩
  · rw [if_pos (by_contra fun h => idle (decides.1 h))]
  · rw [if_neg (decides.2 ok), failed]
  · rw [if_neg (decides.2 ok), read]

theorem seamNodeDispatch_run :
    let may := nd.st = .ready ∧ nd.bad = none ∧ LHdr.kind nd.hdr = 1 ∧ s.resident nd.ctx = true ∧ (s.tasks.filter fun p => p.2.st = .queued).length < 256
    (¬may → exec (.seamNodeDispatch id) s = .next s) ∧
    (∀ x, may → s.agentRead nd.ctx 0 (LHdr.entry nd.hdr) 0 128 = .error x → exec (.seamNodeDispatch id) s = .next (s.nodeFails id x)) ∧
    (∀ bs, may → s.agentRead nd.ctx 0 (LHdr.entry nd.hdr) 0 128 = .ok bs →
      exec (.seamNodeDispatch id) s = .next (((s.agentTouch nd.ctx 0 (LHdr.entry nd.hdr) 0 128).addTask nd.ctx (some id) bs).modNode id
        fun n => { n with st := .drain, busy := true })) := by
  intro may
  have steps : exec (.seamNodeDispatch id) s = execSeamNodeDispatch id s := rfl
  have decides : ¬(nd.st != .ready || nd.bad.isSome || LHdr.kind nd.hdr != 1 || !s.resident nd.ctx || 256 ≤ s.seamQueue) = true ↔ may := by
    simp only [may, Bool.or_eq_true, not_or, bne_iff_ne, ne_eq, not_not, Bool.not_eq_true', Bool.not_eq_false, decide_eq_true_eq, Nat.not_le,
      Option.isSome_iff_ne_none, and_assoc]
    exact Iff.rfl
  rw [steps, execSeamNodeDispatch, hn]
  dsimp only
  refine ⟨fun idle => ?_, fun x ok failed => ?_, fun bs ok read => ?_⟩
  · rw [if_pos (by_contra fun h => idle (decides.1 h))]
  · rw [if_neg (decides.2 ok), failed]
  · rw [if_neg (decides.2 ok), read]

end

/-- Settles O32: each step of a node by what the pool says of it. -/
theorem nodeLifecycle : Obligations.NodeLifecycle := by
  refine ⟨fun id s gone => ⟨?_, ?_, ?_⟩, fun id s nd hn => ⟨nodeReady_idle hn, fun waits met res plain => nodeReady_plain hn waits met res plain,
      fun waits met res good launch args direct bs read => nodeReady_args hn waits met res good launch args direct read⟩, fun id s nd hn => ?_,
    State.nodeFinished_iff, ErrRec.bytes_spec, State.shortestEngine_spec, fun id s nd hn => convNodeDispatch_run hn, fun id s nd hn => seamNodeDispatch_run hn⟩
  · have steps : exec (.nodeReady id) s = execNodeReady id s := rfl
    rw [steps, execNodeReady, gone]
  · have steps : exec (.convNodeDispatch id) s = execConvNodeDispatch id s := rfl
    rw [steps, execConvNodeDispatch, gone]
  · have steps : exec (.seamNodeDispatch id) s = execSeamNodeDispatch id s := rfl
    rw [steps, execSeamNodeDispatch, gone]
  · have steps := nodeDone_run hn
    refine ⟨fun unfinished => steps.trans ?_, fun entry busy => steps.trans ?_, fun finished free => steps.trans ?_⟩
    · rw [if_neg (by simp [unfinished])]
    · rw [if_neg (by simpa [State.entryReady, busy] using fun _ => entry)]
    · rw [if_pos (by rw [finished, State.entryReady]; simpa using free), State.completeNode]
      cases nd.bad <;> rfl

end Sys2Proof.Machine

/-!
Command forms (R365): what the result of a common command writes while the canary watches (R79).
-/

namespace Sys2Proof.Machine

/-- A warp whose canary watches an iteration. -/
def watchedWarp : Warp := { st := .act, banks := [{}], canPc := some 0 }

/-- The machine that runs this warp. -/
def watchedState : State := { cur := some (.warp 0 0), warps := [(0, watchedWarp)] }

/-- `qpush` of the record at s1 to queue 1, which the context has not, with its result in s0. -/
def qpushForm : FormM := ⟨⟨7, false, 0, false, true⟩, .scl 0, .scl 1, 0, false, plainSrc (.imm 1), false, 0⟩

/-- How many writes the canary's signature of the warp under key 0 holds. -/
def signatureLength : Res → Option Nat
  | .next t => (t.warp? 0).map fun w => w.canSig.length
  | _ => none

/-- The one active member writes the result once. -/
theorem signatureLength_qpush : signatureLength (execQpush qpushForm watchedState) = some 1 := by decide +kernel

/-- What the attempt of a `qpush` to a queue past QMAX gives. -/
theorem attempt_qpush_watched : watchedState.attempt watchedWarp false 0x180 0 0 1 = .did watchedState (~~~0#64) := rfl

/-- Refutes O34: the clause of a command with common operands writes the result for the first active member and then for every active member, the first
again. While the canary watches an iteration, each write is noted in its signature: the clause leaves two notes where the machine leaves one. -/
theorem not_commandForms : ¬ Obligations.CommandForms := by
  unfold Obligations.CommandForms
  rintro ⟨qpush, -⟩
  obtain ⟨-, -, attempted⟩ := qpush qpushForm watchedState watchedWarp rfl rfl rfl (by decide) rfl (.inl ⟨0, rfl⟩) rfl
    ⟨by decide, rfl, rfl, by decide, by decide, by decide⟩
  have writes := (attempted (by decide) (by decide) (by decide)).2 _ _ attempt_qpush_watched
  have noted := signatureLength_qpush
  rw [show execQpush qpushForm watchedState = exec (.qpush qpushForm) watchedState from rfl, writes] at noted
  exact absurd noted (by decide +kernel)

end Sys2Proof.Machine

/-!
The end of the foreman (R368): what `fmend` waits for.
-/

namespace Sys2Proof.Machine

/-- A foreman whose last fence is not complete yet, with nothing else outstanding. -/
def fencedForeman : Warp := { st := .act, foreman := true, banks := [{}], fences := [{ pos := 0 }] }

/-- The machine that runs this foreman. -/
def fencedState : State := { cur := some (.foreman 0), warps := [(fencedForeman.key, fencedForeman)] }

/-- `fmend`, with no guard. -/
def fmendForm : FormR := ⟨⟨7, false, 0, false, true⟩, .imm 0, plainSrc (.imm 0), plainSrc (.imm 0), false, 0⟩

/-- Whether the foreman has ended. -/
def foremanEnded : Res → Option Bool
  | .next t => (t.warp? fencedForeman.key).map Warp.ended
  | _ => none

/-- `fmend` waits for the fence: the foreman has not ended. -/
theorem foremanEnded_fmend_fenced : foremanEnded (execFmend fmendForm fencedState) = some false := by decide +kernel

/-- Refutes O35: the clause of `fmend` has the foreman end once its log, its copies and its writes to replicas are complete. An end waits for the fences
too (R277, R300): with one outstanding the machine waits where the clause says that the foreman leaves. -/
theorem not_phasesAndMailboxes : ¬ Obligations.PhasesAndMailboxes := by
  unfold Obligations.PhasesAndMailboxes
  rintro ⟨-, -, -, -, -, -, -, -, -, fmend⟩
  have leaves := ((fmend fmendForm fencedState fencedForeman rfl rfl).2 (by decide)).1 ⟨rfl, rfl, rfl, by decide⟩
  have runs := foremanEnded_fmend_fenced
  rw [show execFmend fmendForm fencedState = exec (.fmend fmendForm) fencedState from rfl, leaves] at runs
  exact absurd runs (by decide +kernel)

end Sys2Proof.Machine

/-!
What an agent's reads change (R329, R336, R492), and the memory forms of a Seam core (R385, R392, R393).
-/

namespace Sys2Proof.Machine

/-! ## The frame of a read by an agent -/

namespace State

/-- Only what lies beneath the translations and the memory-side cache changed, what the device reports of it, and what other agents see of the reads. -/
def Beneath (s t : State) : Prop := t = { s with
  mem := t.mem, poison := t.poison, sectors := t.sectors, devlog := t.devlog, wptr := t.wptr, lost := t.lost, hostOut := t.hostOut,
  warps := t.warps, dirty := t.dirty, tlb := t.tlb, walks := t.walks }

theorem Beneath.refl (s : State) : s.Beneath s := rfl

theorem Beneath.trans {a b c : State} (h : a.Beneath b) (k : b.Beneath c) : a.Beneath c := by
  unfold Beneath at *
  rw [k, h]

theorem Beneath.foldl {β : Type} {f : State → β → State} (h : ∀ (s : State) b, s.Beneath (f s b)) (l : List β) (s : State) : s.Beneath (l.foldl f s) := by
  induction l generalizing s with
  | nil => exact refl s
  | cons b t ih => exact (h s b).trans (ih _)

theorem Beneath.insts {s t : State} (h : s.Beneath t) : t.insts = s.insts := by rw [h]
theorem Beneath.colls {s t : State} (h : s.Beneath t) : t.colls = s.colls := by rw [h]

theorem WalkFrame.beneath {s t : State} (h : s.WalkFrame t) : s.Beneath t := by
  unfold Beneath
  rw [h]

theorem beneath_logDevice (s : State) (e : ErrRec) : s.Beneath (s.logDevice e) := by
  unfold logDevice
  split <;> rfl

theorem beneath_sectorLoss (s : State) (sec : Nat) : s.Beneath (s.sectorLoss sec) := by
  unfold sectorLoss
  extract_lets ls ls' s1
  exact (show s.Beneath s1 from rfl).trans (beneath_logDevice ..)

theorem beneath_bytes (s : State) (m : Memory) (p : List Nat) : s.Beneath { s with mem := m, poison := p } := rfl

theorem beneath_moveSector (s : State) (src dst : Nat) (errs : Bool) : s.Beneath (s.moveSector src dst errs) := by
  unfold moveSector
  extract_lets bs bad
  exact beneath_bytes ..

theorem beneath_sectors (s : State) (t : Tab Sector) : s.Beneath { s with sectors := t } := rfl

theorem beneath_mscServe (s : State) (line : Nat) (write mscb bypass : Bool) : s.Beneath (s.mscServe line write mscb bypass) := by
  unfold mscServe
  extract_lets c
  split
  · exact .refl s
  · have lost : s.Beneath (if s.sectorBad (s.sectorOf c).1 then s.sectorLoss (s.sectorOf c).1 else s) := by
      split
      · exact beneath_sectorLoss ..
      · exact .refl s
    refine lost.trans ?_
    dsimp only
    generalize (if s.sectorBad (s.sectorOf c).1 then s.sectorLoss (s.sectorOf c).1 else s) = r
    split
    · split
      · rfl
      · exact .refl r
    · split
      · exact .refl r
      · refine Beneath.trans ?_ ((beneath_moveSector ..).trans (beneath_sectors ..))
        split
        · exact beneath_moveSector ..
        · exact .refl r

theorem beneath_uncached (s : State) (ph : Phys) (n : Nat) (read write : Bool) : s.Beneath (s.uncached ph n read write) := by
  unfold uncached
  split
  · exact .refl s
  · apply Beneath.foldl
    intro s l
    have once : ∀ (b : Bool) (s : State) (w : Bool), s.Beneath (if b then s.mscServe l w (ph.leaf.getLsbD 54) false else s) := fun b s w => by
      cases b
      · exact .refl s
      · exact beneath_mscServe ..
    exact (once read s false).trans (once write _ true)

theorem beneath_agentTouch (s : State) (x die : Nat) (va : Word) (midx : BitVec 16) (n : Nat) (sup : Bool) (core : Nat) :
    s.Beneath (s.agentTouch x die va midx n sup core) := by
  unfold agentTouch
  split
  · exact .refl s
  · refine (walkFrame_agentFill s x va midx n core).beneath.trans ?_
    apply Beneath.foldl
    exact fun s p => (beneath_uncached s p.2.2 p.2.1 true false).trans (walkFrame_readBy (s.uncached p.2.2 p.2.1 true false) ..).beneath

theorem walkFrame_seamFill (s : State) (x : Nat) (as : List SeamRange) : s.WalkFrame (s.seamFill x as) := by
  unfold seamFill
  apply WalkFrame.foldl
  exact fun s a => walkFrame_agentFill ..

end State

/-! ## Addresses and elements (R386, R392) -/

theorem seamSize_eq (o : SeamOp) : seamSize o = 2 ^ (o.f.toNat % 4) := by
  rw [seamSize, BitVec.extractLsb'_toNat, Nat.shiftRight_zero]

theorem seamExtend_eq (n : Nat) (o : SeamOp) (bs : List Byte) : seamExtend n o bs =
    if o.f.getLsbD 2 then (BitVec.ofNat (8 * 2 ^ (o.f.toNat % 4)) (leNat bs)).signExtend n else BitVec.ofNat n (leNat bs) := by
  rw [seamExtend, seamSize_eq]

theorem seamIndexed_eq (o : SeamOp) (i : SeamInst) (sh l : Nat) :
    seamIndexed o i sh l = i.xget o.a + BitVec.ofNat 64 ((i.zlane o.b l).toNat * 2 ^ sh) := by
  rw [seamIndexed, shiftLeft_eq_ofNat, BitVec.toNat_setWidth, Nat.mod_eq_of_lt (by have := (i.zlane o.b l).isLt; omega)]

theorem seamSh_eq (o : SeamOp) : seamSh o = o.imm.toNat / 32 % 8 := by
  rw [seamSh, BitVec.extractLsb'_toNat, Nat.shiftRight_eq_div_pow]

theorem seamC_eq (o : SeamOp) : seamC o = o.imm.setWidth 5 := BitVec.eq_of_toNat_eq (by simp [seamC])

/-- The lanes that take part, as lane numbers below 16. -/
theorem contains_seamLanes (o : SeamOp) (i : SeamInst) {l : Nat} (hl : l < 16) : (seamLanes o i).contains l = (i.kget o.k.toNat).getLsbD l := by
  rw [Bool.eq_iff_iff, List.contains_iff_mem, seamLanes, List.mem_filter, List.mem_range, and_iff_right hl, seamGuard]

/-- Lanes written one by one. -/
theorem zlanes_eq (i : SeamInst) (r : BitVec 5) (ls : List Nat) (f g : Nat → Lane32) (on : Nat → Bool)
    (h : ∀ l < 16, ls.contains l = on l) (eq : ∀ l < 16, on l = true → f l = g l) :
    i.zlanes r ls f = { i with z := tset i.z r.toNat ((List.range 16).map fun l => if on l then g l else i.zlane r l) } := by
  rw [SeamInst.zlanes, SeamInst.zput]
  congr 2
  refine List.map_congr_left fun l hl => ?_
  have hl := List.mem_range.1 hl
  rw [h l hl]
  by_cases takes : on l = true
  · rw [if_pos takes, if_pos takes, eq l hl takes]
  · rw [if_neg takes, if_neg takes]

/-! ## Forms that read and write (R385) -/

theorem seamReads_of {mk : SeamOp → Instr} {align : SeamOp → Nat} {addrs : SeamOp → SeamInst → List SeamRange}
    {eff : SeamOp → SeamInst → List (List Byte) → SeamInst} (e : ∀ o s, exec (mk o) s = seamLoad s (align o) (addrs o) (eff o))
    (pc : ∀ o i vals, (eff o i vals).pc = i.pc) : SeamReads mk align addrs eff := by
  intro o s id i t h
  rw [e, seamLoad, seamOpM_runs _ h]
  refine ⟨fun x fault => ?_, fun wait => ?_, fun s1 vals got => ?_⟩
  · rw [fault, State.finishSeam]
  · rw [wait, State.finishSeam]
  · rw [got, State.finishSeam, pc]

theorem seamWrite_pc {s s1 : State} {i i1 : SeamInst} {t : SeamTask} {es : List (Word × List Byte)} {al : Nat} {red : Option Nat}
    (ok : s.seamWrite i t es al red = .ok (s1, i1)) : i1.pc = i.pc := by
  simp only [State.seamWrite] at ok
  split at ok
  · cases ok
  · cases ok
    rfl

theorem seamStore_runs {s : State} {id : Nat} {i : SeamInst} {t : SeamTask} {al : Nat} {red : Option Nat} {es : SeamInst → List (Word × List Byte)}
    {f : SeamInst → SeamInst} (h : s.SeamRuns id i t) (pc : ∀ i, (f i).pc = i.pc) :
    (∀ x, s.seamWrite i t (es i) al red = .error x → seamStore s al red es f = .next (s.endByFault id i x)) ∧
    (∀ s1 i1, s.seamWrite i t (es i) al red = .ok (s1, i1) →
      seamStore s al red es f = .next (s1.putInst id { f i1 with pc := i.pc + 8#64, waitFrom := none })) := by
  rw [seamStore, seamOpM_runs _ h]
  refine ⟨fun x fault => ?_, fun s1 i1 ok => ?_⟩
  · rw [fault, State.finishSeam]
  · rw [ok, State.finishSeam, pc, seamWrite_pc ok]

/-- What a gathering form leaves: the elements in the lanes that asked for them. -/
theorem seamTake_eq (o : SeamOp) (i : SeamInst) (vals : List (List Byte)) : seamTake o i vals = { i with
    z := tset i.z o.d.toNat ((List.range 16).map fun l => if (i.kget o.k.toNat).getLsbD l then
      (if o.f.getLsbD 2 then (BitVec.ofNat (8 * 2 ^ (o.f.toNat % 4)) (leNat (vals.getD ((seamLanes o i).idxOf l) []))).signExtend 32
        else BitVec.ofNat 32 (leNat (vals.getD ((seamLanes o i).idxOf l) []))) else i.zlane o.d l) } :=
  zlanes_eq i o.d _ _ _ _ (fun _ hl => contains_seamLanes o i hl) (fun _ _ _ => seamExtend_eq ..)

/-! ## The checks of an access (R385) -/

namespace State

theorem seamCheck_misaligned {s : State} {i : SeamInst} {t : SeamTask} {as : List SeamRange} {al : Nat} {use : Use} {a : SeamRange}
    (h : (as.find? fun a => a.1.toNat % al != 0) = some a) : s.seamCheck i t as al use = some (6, 11, a.1.toNat) := by
  rw [seamCheck, h]

/-- What the checks have found of every element of an access that passes them. -/
theorem seamCheck_passed {s : State} {i : SeamInst} {t : SeamTask} {as : List SeamRange} {al : Nat} {use : Use} (h : s.seamCheck i t as al use = none) :
    ∀ a ∈ as, a.1.toNat % al = 0 ∧ (∃ ps, s.agentLocate i.ctx a.1 0 a.2 use = .ok ps) ∧ (use = .write → t.modeAt a.1.toNat ≠ 1) := by
  intro a ha
  rw [seamCheck] at h
  split at h
  · cases h
  · next aligned =>
    have located := List.findSome?_eq_none_iff.1 h a ha
    refine ⟨by simpa using List.find?_eq_none.1 aligned a ha, ?_⟩
    rw [seamLocate] at located
    split at located
    · cases located
    · next ps found =>
      split at found
      · cases found
      · next ps' ok => exact ⟨⟨ps', ok⟩, fun writes mode => by simp [writes, mode] at located⟩

theorem seamRead_misaligned {s : State} {i : SeamInst} {t : SeamTask} {as : List SeamRange} {al : Nat} {a : SeamRange}
    (h : (as.find? fun a => a.1.toNat % al != 0) = some a) : s.seamRead i t as al = .fault (6, 11, a.1.toNat) := by
  rw [seamRead, seamCheck_misaligned h]

theorem seamRead_got {s s1 : State} {i : SeamInst} {t : SeamTask} {as : List SeamRange} {al : Nat} {vals : List (List Byte)}
    (h : s.seamRead i t as al = .got s1 vals) : vals.length = as.length ∧ s1.insts = s.insts ∧
      ∀ a ∈ as, a.1.toNat % al = 0 ∧ ∃ ps, s.agentLocate i.ctx a.1 0 a.2 .read = .ok ps := by
  rw [seamRead] at h
  split at h
  · cases h
  · next passed =>
    dsimp only at h
    split at h
    · cases h
    · split at h
      · cases h
      · cases h
        refine ⟨by simp, Beneath.insts (s := s) ((walkFrame_seamFill s i.ctx as).beneath.trans ?_), fun a ha =>
          (seamCheck_passed passed a ha).imp_right And.left⟩
        apply Beneath.foldl
        intro s r
        apply Beneath.foldl
        exact fun s q => (beneath_uncached s q.2.2.2 q.2.1 true false).trans (walkFrame_readBy (s.uncached q.2.2.2 q.2.1 true false) ..).beneath

theorem seamWrite_misaligned {s : State} {i : SeamInst} {t : SeamTask} {es : List (Word × List Byte)} {al : Nat} {red : Option Nat} {e : Word × List Byte}
    (h : (es.find? fun e => e.1.toNat % al != 0) = some e) : s.seamWrite i t es al red = .error (6, 11, e.1.toNat) := by
  have bad : ((es.map fun e => (e.1, e.2.length)).find? fun a : SeamRange => a.1.toNat % al != 0) = some (e.1, e.2.length) := by
    rw [List.find?_map, show ((fun a : SeamRange => a.1.toNat % al != 0) ∘ fun e : Word × List Byte => (e.1, e.2.length)) =
      fun e => e.1.toNat % al != 0 from rfl, h]
    rfl
  rw [seamWrite, seamCheck_misaligned bad]

theorem seamWrite_ok {s s1 : State} {i i1 : SeamInst} {t : SeamTask} {es : List (Word × List Byte)} {al : Nat} {red : Option Nat}
    (h : s.seamWrite i t es al red = .ok (s1, i1)) : s1 = s.seamFill i.ctx (es.map fun e => (e.1, e.2.length)) ∧ s1.mem = s.mem ∧ s1.insts = s.insts ∧
      (∃ ws, i1 = { i with writes := i.writes ++ ws, group := i.group + 1 } ∧ ∀ w ∈ ws, w.group = i.group ∧ w.red = red) ∧
      ∀ e ∈ es, e.1.toNat % al = 0 ∧ t.modeAt e.1.toNat ≠ 1 ∧ ∃ ps, s.agentLocate i.ctx e.1 0 e.2.length .write = .ok ps := by
  rw [seamWrite] at h
  split at h
  · cases h
  · next passed =>
    cases h
    have fills := walkFrame_seamFill s i.ctx (es.map fun e => (e.1, e.2.length))
    refine ⟨rfl, fills.mem, fills.beneath.insts, ⟨_, rfl, fun w hw => ?_⟩, fun e he => ?_⟩
    · obtain ⟨e, -, hw⟩ := List.mem_flatMap.1 hw
      split at hw
      · cases hw
      · obtain ⟨p, -, rfl⟩ := List.mem_map.1 hw
        exact ⟨rfl, rfl⟩
    · obtain ⟨aligned, located, mode⟩ := seamCheck_passed passed _ (List.mem_map_of_mem he)
      exact ⟨aligned, mode rfl, located⟩

/-! ## Performing writes (R379, R381, R393) -/

theorem seamPerform_idle {s : State} {core : Nat} (h : ∀ p ∈ s.insts, p.2.core ≠ core ∨ p.2.writes = []) (k : Nat) : s.seamPerform core k = s := by
  rw [seamPerform, List.find?_eq_none.2 fun p hp => by simpa [imp_iff_not_or] using h p hp]

/-- The oldest write of an instance. -/
theorem seamPerform_first {s : State} {core id : Nat} {i : SeamInst} {w : SeamWrite} {rest : List SeamWrite}
    (h : (s.insts.find? fun p => p.2.core = core && p.2.writes != []) = some (id, i)) (hw : i.writes = w :: rest)
    (ready : s.hostReady w.pa w.data.length (Leaf.ca w.leaf) = true) :
    let mate := fun v : SeamWrite => w.red.isSome && v.group = w.group && v.pa = w.pa
    let s1 := (if w.red.isSome then i.writes.filter mate else [w]).foldl (fun s v => s.seamApply core v) s
    s.seamPerform core 0 = { s1 with insts := tset s1.insts id { i with writes := rest.filter fun v => !mate v } } := by
  rw [seamPerform, h]
  simp [hw, ready]

/-- The steps of R393 as operations on numbers. -/
theorem redStep_spec (old v : Nat) :
    let sg := fun (a : Nat) => (BitVec.ofNat 32 a).toInt
    redStep 0 old v = fpAdd Fmt.f32 {} old v ∧ redStep 1 old v = (old + v) % 2 ^ 32 ∧ redStep 2 old v = fpMinMax Fmt.f32 false false old v ∧
    redStep 3 old v = fpMinMax Fmt.f32 false true old v ∧ sg (redStep 4 old v) = min (sg old) (sg v) ∧ sg (redStep 5 old v) = max (sg old) (sg v) ∧
    redStep 6 old v = fpAdd Fmt.f64 {} old v := by
  intro sg
  refine ⟨rfl, rfl, rfl, rfl, ?_, ?_, rfl⟩
  · change sg (if sg v < sg old then v else old) = _
    split <;> omega
  · change sg (if sg old < sg v then v else old) = _
    split <;> omega

end State

theorem seamPerformed_store {s : State} {core id m : Nat} {lanes : LaneMask} {i : SeamInst} {w : SeamWrite} {rest : List SeamWrite}
    (h : (s.insts.find? fun p => p.2.core = core && p.2.writes != []) = some (id, i)) (hw : i.writes = w :: rest)
    (ready : s.hostReady w.pa w.data.length (Leaf.ca w.leaf) = true) (store : w.red = none) :
    ∃ t, exec (.writePerformed (.seam core) 0 m lanes) s = .next t ∧ tfind t.insts id = some { i with writes := rest } ∧
      t.mem = (s.seamApply core w).mem := by
  refine ⟨_, congrArg Host.Outcome.next (State.seamPerform_first h hw ready), ?_, ?_⟩
  · rw [tfind_tset_same]
    simp [store]
  · simp [store]

theorem seamPerformed_reduction {s : State} {core id m : Nat} {lanes : LaneMask} {i : SeamInst} {w : SeamWrite} {rest : List SeamWrite}
    (h : (s.insts.find? fun p => p.2.core = core && p.2.writes != []) = some (id, i)) (hw : i.writes = w :: rest)
    (ready : s.hostReady w.pa w.data.length (Leaf.ca w.leaf) = true) (reduces : w.red ≠ none) :
    let mates := rest.filter fun v => v.group = w.group && v.pa = w.pa
    ∃ t, exec (.writePerformed (.seam core) 0 m lanes) s = .next t ∧
      tfind t.insts id = some { i with writes := rest.filter fun v => !(v.group = w.group && v.pa = w.pa) } ∧
      t.mem = ((w :: mates).foldl (fun s v => s.seamApply core v) s).mem := by
  intro mates
  have is : w.red.isSome = true := Option.isSome_iff_ne_none.2 reduces
  refine ⟨_, congrArg Host.Outcome.next (State.seamPerform_first h hw ready), ?_, ?_⟩
  · rw [tfind_tset_same]
    simp only [is, Bool.true_and]
  · simp only [is, if_true, Bool.true_and, hw]
    rw [List.filter_cons_of_pos (by simp)]

/-! ## The forms -/

/-- A form that writes, once its run is a store of its elements. -/
theorem seamStore_of {mk : SeamOp → Instr} {side : SeamOp → Prop} {al : SeamOp → Nat} {red : SeamOp → Option Nat}
    {elems : SeamOp → SeamInst → List (Word × List Byte)} {eff : SeamOp → SeamInst → SeamInst}
    (e : ∀ o s, side o → exec (mk o) s = seamStore s (al o) (red o) (elems o) (eff o)) (pc : ∀ o i, (eff o i).pc = i.pc) (o : SeamOp) (s : State)
    (id : Nat) (i : SeamInst) (t : SeamTask) (ho : side o) (h : s.SeamRuns id i t) :
    (∀ x, s.seamWrite i t (elems o i) (al o) (red o) = .error x → exec (mk o) s = .next (s.endByFault id i x)) ∧
    (∀ s1 i1, s.seamWrite i t (elems o i) (al o) (red o) = .ok (s1, i1) →
      exec (mk o) s = .next (s1.putInst id { eff o i1 with pc := i.pc + 8#64, waitFrom := none })) := by
  rw [e o s ho]
  exact seamStore_runs h (pc o)

/-- Settles O46: each form by its elements, and what the checks, the reads and the writes of elements do. -/
theorem seamMemoryForms : Obligations.SeamMemoryForms := by
  refine ⟨seamReads_of (fun o s => ?ld) fun o i vals => ?ldpc, seamReads_of (fun o s => ?vld) fun _ _ _ => rfl, seamReads_of (fun o s => ?vgth) fun _ _ _ => rfl,
    seamStore_of (fun o s _ => ?st) fun _ _ => rfl, seamStore_of (fun o s _ => ?vst) fun _ _ => rfl, seamStore_of (fun o s _ => ?vsct) fun _ _ => rfl,
    seamStore_of (al := fun _ => 4) (fun _ _ _ => rfl) fun o i => ?vcstpc, seamStore_of (al := fun _ => 4) (fun o s side => ?vred) fun _ _ => rfl,
    seamStore_of (al := fun _ => 8) (fun o s side => ?vred64) fun _ _ => rfl, seamStore_of (al := fun _ => 4) (fun o s _ => ?vredx) fun _ _ => rfl,
    fun s i t as al => ⟨fun a => State.seamRead_misaligned, fun s1 vals => State.seamRead_got⟩,
    fun s i t es al red => ⟨fun e => State.seamWrite_misaligned, fun s1 i1 => State.seamWrite_ok⟩,
    fun core e m lanes s idle => congrArg Host.Outcome.next (State.seamPerform_idle idle e),
    fun core m lanes s id i w rest h hw ready => ⟨seamPerformed_store h hw ready, seamPerformed_reduction h hw ready⟩,
    fun old v _ _ => State.redStep_spec old v⟩
  case ld =>
    change execSeamLd o s = _
    simp only [execSeamLd, seamSize_eq, seamExtend_eq]
    rfl
  case ldpc => split <;> rfl
  case vld =>
    change execVld o s = _
    simp only [execVld, seamSize_eq, funext₂ (seamTake_eq o)]
    rfl
  case vgth =>
    change execVgth o s = _
    simp only [execVgth, seamSize_eq, seamIndexed_eq, BitVec.extractLsb'_toNat, Nat.shiftRight_zero, funext₂ (seamTake_eq o)]
    rfl
  case st =>
    change execSeamSt o s = _
    simp only [execSeamSt, seamSize_eq]
    rfl
  case vst =>
    change execVst o s = _
    simp only [execVst, seamSize_eq]
    rfl
  case vsct =>
    change execVsct o s = _
    simp only [execVsct, seamSize_eq, seamIndexed_eq, seamSh_eq, seamC_eq]
    rfl
  case vcstpc => split <;> rfl
  case vred => exact if_neg side
  case vred64 => exact if_pos side
  case vredx =>
    change execVredx o s = _
    simp only [execVredx, seamIndexed_eq, seamSh_eq, seamC_eq]
    rfl

end Sys2Proof.Machine

/-!
Seam tasks and instances (R370–R378): the table's events, the save area, the end of a task.
-/

namespace Sys2Proof.Machine

namespace State

/-! ## Which task and which instance goes next (R372, R373) -/

theorem firstTask_spec {s : State} {id : Nat} (h : s.firstTask id = true) : ∃ t, (id, t) ∈ s.tasks ∧ t.st = .queued ∧ s.resident t.ctx = true ∧
    ∀ p ∈ s.tasks, p.2.st = .queued → s.resident p.2.ctx = true → (s.ctx p.2.ctx).prio ≤ (s.ctx t.ctx).prio := by
  unfold firstTask at h
  dsimp only at h
  split at h
  · next p found =>
    obtain rfl : p.1 = id := of_decide_eq_true h
    have mem := List.mem_of_find?_eq_some found
    have first := List.find?_some found
    simp only [List.mem_filter, Bool.and_eq_true, decide_eq_true_eq, List.all_eq_true, and_imp] at mem first
    obtain ⟨held, queued, res⟩ := mem
    exact ⟨p.2, held, queued, res, fun q hq => first q hq⟩
  · cases h

theorem taskFits_spec {s : State} {t : SeamTask} (h : s.taskFits t = true) :
    (∀ u ∈ s.holding, regionsClash t u = false) ∧ ∀ p ∈ t.places, s.placesOn p.2 < 8 := by
  simp only [taskFits, Bool.and_eq_true, Bool.not_eq_true', List.any_eq_false, List.all_eq_true, decide_eq_true_eq, Bool.not_eq_true] at h
  exact ⟨h.1.2, h.2⟩

theorem nextInst_spec {s : State} {core id : Nat} {i : SeamInst} (h : s.nextInst core = some (id, i)) :
    i.core = core ∧ i.st = .queued ∧ s.resident i.ctx = true ∧ ∀ q ∈ s.waitingOn core,
      (s.ctx q.2.ctx).prio < (s.ctx i.ctx).prio ∨ ((s.ctx q.2.ctx).prio = (s.ctx i.ctx).prio ∧ i.order ≤ q.2.order) := by
  have mem := List.mem_of_find?_eq_some h
  have first := List.find?_some h
  simp only [waitingOn, List.mem_filter, Bool.and_eq_true, decide_eq_true_eq] at mem
  obtain ⟨-, ⟨⟨core, queued⟩, res⟩, -⟩ := mem
  simp only [List.all_eq_true, Bool.or_eq_true, Bool.and_eq_true, decide_eq_true_eq] at first
  exact ⟨core, queued, res, first⟩

theorem runInst_fresh {s : State} {id : Nat} {i : SeamInst} {t : SeamTask} (h : i.fresh = true) : s.runInst id i t = s.putInst id (i.start t) := if_pos h

theorem task?_modTask_same (s : State) (id : Nat) (f : SeamTask → SeamTask) : (s.modTask id f).task? id = (s.task? id).map f := tfind_tmod_same ..

end State

/-! ## The start and the probe of a task (R372, R377) -/

section
variable {id : Nat} {s : State} {t : SeamTask} (ht : s.task? id = some t)
include ht

theorem seamTaskStart_idle (h : ¬(t.st = .queued ∧ s.firstTask id = true ∧ s.taskFits t = true)) : exec (.seamTaskStart id) s = .next s := by
  have steps : exec (.seamTaskStart id) s = execSeamTaskStart id s := rfl
  rw [steps, execSeamTaskStart, ht]
  refine congrArg _ (if_pos ?_)
  rw [← Decidable.not_not (p := _ = true)]
  simpa [Bool.or_eq_true, not_or, and_assoc] using h

theorem seamTaskStart_leaves (h : t.st = .queued ∧ s.firstTask id = true ∧ s.taskFits t = true) :
    ∃ u, exec (.seamTaskStart id) s = .next u ∧ u.task? id = some { t with st := .probe } ∧ (t.invalid = true → u.insts = s.insts) ∧
      (t.invalid = false → u.insts.map (·.2) = s.insts.map (·.2) ++ t.places.map fun p => { task := id, idx := p.1, core := p.2, ctx := t.ctx }) := by
  have steps : exec (.seamTaskStart id) s = execSeamTaskStart id s := rfl
  obtain ⟨queued, first, fits⟩ := h
  simp only [execSeamTaskStart, ht] at steps
  rw [if_neg (by simp [queued, first, fits])] at steps
  refine ⟨_, steps, ?_, fun invalid => ?_, fun valid => ?_⟩
  · rw [State.task?_modTask_same]
    exact congrArg (Option.map _) ht
  · simp [State.modTask, invalid]
  · simp only [State.modTask, valid, Bool.false_eq_true, if_false, List.map_append, List.map_map]
    congr 1
    refine List.ext_getElem (by simp) fun n _ _ => by simp

theorem seamProbeDone_idle (h : t.st ≠ .probe) : exec (.seamProbeDone id) s = .next s := by
  have steps : exec (.seamProbeDone id) s = execSeamProbeDone id s := rfl
  rw [steps, execSeamProbeDone, ht]
  exact congrArg _ (if_neg h)

/-- The task that a probe has failed. -/
theorem seamProbeDone_ends (h : t.st = .probe) : ∃ u t1, exec (.seamProbeDone id) s = .next u ∧ u.task? id = some t1 ∧
    (t.invalid = true → t1.st = .done ∧ ∃ a, t1.fails = [(0, 1, 0, a)]) ∧
    (∀ c a, t.invalid = false → s.probe t = .error (c, a) → t1.st = .done ∧ t1.fails = [(0, 2, c, a)] ∧ ∀ p ∈ u.insts, p.2.task ≠ id) ∧
    (∀ l, t.invalid = false → s.probe t = .ok l → t1 = { t with st := .run, held := l }) := by
  have steps : exec (.seamProbeDone id) s = execSeamProbeDone id s := rfl
  simp only [execSeamProbeDone, ht, if_pos h, State.probeDone] at steps
  by_cases invalid : t.invalid = true
  · rw [if_pos invalid] at steps
    exact ⟨_, _, steps, (State.task?_modTask_same ..).trans (congrArg _ ht), fun _ => ⟨rfl, _, rfl⟩, fun c a valid => by simp [invalid] at valid,
      fun l valid => by simp [invalid] at valid⟩
  · rw [if_neg invalid] at steps
    cases probed : s.probe t with
    | error e =>
      rw [probed] at steps
      refine ⟨_, _, steps, (State.task?_modTask_same ..).trans (congrArg _ ht), fun h => absurd h invalid, fun c a _ same => ?_, nofun⟩
      obtain rfl : e = (c, a) := by simpa using same
      exact ⟨rfl, rfl, fun p hp => by simpa using (List.mem_filter.1 hp).2⟩
    | ok l =>
      rw [probed] at steps
      refine ⟨_, _, steps, (State.task?_modTask_same s id fun t => { t with st := .run, held := l }).trans (congrArg _ ht), fun h => absurd h invalid, nofun, fun l' _ same => ?_⟩
      obtain rfl : l = l' := by simpa using same
      rfl

/-! ## The end of a task (R375) -/

theorem seamTaskDone_run :
    let mine := s.insts.filter fun p => p.2.task = id
    let ended := (t.st = .done ∨ (t.st = .run ∧ ∀ p ∈ mine, p.2.st = .ended ∧ s.seamQuiet p.2 = true)) ∧
      (t.node = none → t.cep ≠ 0 → s.agentReady t.ctx (BitVec.ofNat 64 t.cep) 32 = true)
    let s1 : State := { s with tasks := tdel s.tasks id, insts := s.insts.filter fun p => p.2.task != id }
    (¬ended → exec (.seamTaskDone id) s = .next s) ∧
    (∀ n, ended → t.node = some n → exec (.seamTaskDone id) s = .next (s1.modNode n fun nd => { nd with err := State.taskEntry t, busy := false })) ∧
    (let s2 := if t.cep = 0 then s1 else s1.writeEntry t.ctx (BitVec.ofNat 64 t.cep) (State.taskEntry t)
     ended → t.node = none → exec (.seamTaskDone id) s = .next (if t.tle then s2.signal t.ctx t.tlc t.target else s2)) := by
  intro mine ended s1
  have steps : exec (.seamTaskDone id) s = execSeamTaskDone id s := rfl
  have decides : ¬(!(t.st = .done || (t.st = .run && mine.all fun p => p.2.st = .ended && s.seamQuiet p.2)) ||
      (t.node.isNone && t.cep != 0 && !s.agentReady t.ctx (BitVec.ofNat 64 t.cep) 32)) = true ↔ ended := by
    simp only [ended, Bool.or_eq_true, not_or, Bool.not_eq_true', Bool.not_eq_false, Bool.and_eq_true, decide_eq_true_eq, List.all_eq_true, bne_iff_ne, ne_eq,
      Option.isNone_iff_eq_none, not_and, and_imp]
  rw [steps, execSeamTaskDone, ht]
  dsimp only [State.taskDone]
  refine ⟨fun no => ?_, fun n yes node => ?_, fun yes node => ?_⟩
  · rw [if_pos (by_contra fun h => no (decides.1 h))]
  · rw [if_neg (decides.2 yes), node]
  · rw [if_neg (decides.2 yes), node]

end

/-! ## Running and leaving a core (R373, R374) -/

theorem seamInstanceRun_idle {core : Nat} {s : State} (h : s.runningOn core ≠ none ∨ s.nextInst core = none) : exec (.seamInstanceRun core) s = .next s := by
  have steps : exec (.seamInstanceRun core) s = execSeamInstanceRun core s := rfl
  rw [steps, execSeamInstanceRun]
  cases runs : s.runningOn core with
  | some p => rfl
  | none => rw [h.resolve_left (not_not.2 runs)]

section
variable {core : Nat} {s : State} {id : Nat} {i : SeamInst} {t : SeamTask} (ht : s.task? i.task = some t)
include ht

theorem seamInstanceRun_runs (free : s.runningOn core = none) (next : s.nextInst core = some (id, i)) :
    exec (.seamInstanceRun core) s = .next (s.runInst id i t) := by
  have steps : exec (.seamInstanceRun core) s = execSeamInstanceRun core s := rfl
  rw [steps, execSeamInstanceRun, free, next]
  simp only [ht]

variable (runs : s.runningOn core = some (id, i))
include runs

theorem seamInstancePreempt_run :
    let leaves := s.resident i.ctx = false ∨ ∃ p ∈ s.waitingOn i.core, (s.ctx i.ctx).prio < (s.ctx p.2.ctx).prio
    (¬leaves → exec (.seamInstancePreempt core) s = .next s) ∧
    (leaves → exec (.seamInstancePreempt core) s = .next (s.saveInst id i t (if s.resident i.ctx then .queued else .saved))) := by
  intro leaves
  have steps : exec (.seamInstancePreempt core) s = execSeamInstancePreempt core s := rfl
  have decides : s.mustLeave i = true ↔ leaves := by
    simp only [State.mustLeave, leaves, Bool.or_eq_true, Bool.not_eq_true', List.any_eq_true, decide_eq_true_eq]
    exact Iff.rfl
  rw [steps, execSeamInstancePreempt, runs]
  simp only [ht]
  exact ⟨fun no => by rw [if_neg (mt decides.1 no)], fun yes => by rw [if_pos (decides.2 yes)]⟩

theorem seamLongWait_run :
    let long := ∃ c, i.waitFrom = some c ∧ c + 65536 ≤ s.cycle
    (¬long → exec (.seamLongWait core) s = .next s) ∧ (long → exec (.seamLongWait core) s = .next (s.saveInst id i t .queued)) := by
  intro long
  have steps : exec (.seamLongWait core) s = execSeamLongWait core s := rfl
  have decides : s.waitedLong i = true ↔ long := by
    unfold State.waitedLong
    cases wait : i.waitFrom <;> simp [long, wait]
  rw [steps, execSeamLongWait, runs]
  simp only [ht]
  exact ⟨fun no => by rw [if_neg (mt decides.1 no)], fun yes => by rw [if_pos (decides.2 yes)]⟩

end

theorem State.saveInst_spec (s : State) (id : Nat) (i : SeamInst) (t : SeamTask) (st : InstState) :
    let there := s.agentReady i.ctx (BitVec.ofNat 64 (t.save + 2368 * i.idx)) 2368
    (s.seamQuiet i = false ∨ there = false → s.saveInst id i t st = s) ∧
    (∀ s1, s.seamQuiet i = true → there = true → s.agentWrite (seamKey i.core) i.ctx (BitVec.ofNat 64 (t.save + 2368 * i.idx)) 0 i.image = .ok s1 →
      ∃ i1, tfind (s.saveInst id i t st).insts id = some i1 ∧ i1.st = st ∧ i1.writes = i.writes ∧ (s.saveInst id i t st).mem = s1.mem) := by
  intro there
  refine ⟨fun no => if_pos ?_, fun s1 quiet ready wrote => ?_⟩
  · change (!s.seamQuiet i || !there) = true
    simpa using no
  · have saved : s.saveInst id i t st = s1.nextOrder.putInst id { i with st := st, x := [], z := [], k := [], pc := 0, order := s1.rdyOrder, waitFrom := none } := by
      rw [State.saveInst, if_neg (by change ¬(!s.seamQuiet i || !there) = true; simp [quiet, ready]), State.saveVa, wrote]
    rw [saved]
    exact ⟨_, tfind_tset_same .., rfl, rfl, rfl⟩

/-! ## The save area (R374) -/

/-- A piece that lies within the middle of three parts. -/
theorem piece_of_middle {α : Type} {a b c : List α} {o k n : Nat} (ho : o = a.length + k) (hn : k + n ≤ b.length) :
    ((a ++ b ++ c).drop o).take n = (b.drop k).take n := by
  rw [ho, List.append_assoc, List.drop_append, List.drop_eq_nil_of_le (Nat.le_add_right ..), List.nil_append, Nat.add_sub_cancel_left,
    List.drop_append_of_le_length (by omega), List.take_append_of_le_length (by rw [List.length_drop]; omega)]

namespace SeamInst

/-- The parts of a save area: the scalar registers, the vectors, the predicates. -/
def scalarImage (i : SeamInst) : List Byte := (List.range 32).flatMap fun n => leBytes 8 (i.xget (BitVec.ofNat 5 n)).toNat
def vectorImage (i : SeamInst) : List Byte := (List.range 32).flatMap fun n => (i.zrow (BitVec.ofNat 5 n)).flatMap fun v => leBytes 4 v.toNat
def predicateImage (i : SeamInst) : List Byte := (List.range 8).flatMap fun n => leBytes 2 (i.kget n).toNat
def placeImage (i : SeamInst) : List Byte := leBytes 8 (i.idx % 256 + 2 ^ 8 * (i.core % 256) + 2 ^ 16) ++ List.replicate 32 0

theorem image_eq (i : SeamInst) : i.image = i.scalarImage ++ i.vectorImage ++ i.predicateImage ++ leBytes 8 i.pc.toNat ++ i.placeImage :=
  List.append_assoc ..

theorem length_scalarImage (i : SeamInst) : i.scalarImage.length = 256 := by
  rw [scalarImage, length_flatMap_const (k := 8) fun _ => length_leBytes .., List.length_range]

theorem length_zrow_bytes (i : SeamInst) (r : BitVec 5) : ((i.zrow r).flatMap fun v => leBytes 4 v.toNat).length = 64 := by
  rw [zrow, List.flatMap_map, length_flatMap_const (k := 4) fun _ => length_leBytes .., List.length_range]

theorem length_vectorImage (i : SeamInst) : i.vectorImage.length = 2048 := by
  rw [vectorImage, length_flatMap_const (k := 64) fun _ => i.length_zrow_bytes _, List.length_range]

theorem length_predicateImage (i : SeamInst) : i.predicateImage.length = 16 := by
  rw [predicateImage, length_flatMap_const (k := 2) fun _ => length_leBytes .., List.length_range]

theorem length_image (i : SeamInst) : i.image.length = 2368 := by
  rw [image_eq, placeImage]
  simp only [List.length_append, length_scalarImage, length_vectorImage, length_predicateImage, length_leBytes, List.length_replicate]

theorem image_scalar (i : SeamInst) {n : Nat} (hn : n < 32) : (i.image.drop (8 * n)).take 8 = leBytes 8 (i.xget (BitVec.ofNat 5 n)).toNat := by
  have parts : i.image = [] ++ i.scalarImage ++ (i.vectorImage ++ i.predicateImage ++ leBytes 8 i.pc.toNat ++ i.placeImage) := by
    simp only [image_eq, List.append_assoc, List.nil_append]
  rw [parts, piece_of_middle (k := 8 * n) (by simp) (by rw [length_scalarImage]; omega), scalarImage,
    take_drop_flatMap (fun _ => length_leBytes ..) (by rwa [List.length_range]), List.getElem_range]

theorem image_lane (i : SeamInst) {n l : Nat} (hn : n < 32) (hl : l < 16) :
    (i.image.drop (256 + 64 * n + 4 * l)).take 4 = leBytes 4 (i.zlane (BitVec.ofNat 5 n) l).toNat := by
  have parts : i.image = i.scalarImage ++ i.vectorImage ++ (i.predicateImage ++ leBytes 8 i.pc.toNat ++ i.placeImage) := by
    simp only [image_eq, List.append_assoc]
  have row : (i.vectorImage.drop (64 * n)).take 64 = (i.zrow (BitVec.ofNat 5 n)).flatMap fun v => leBytes 4 v.toNat := by
    rw [vectorImage, take_drop_flatMap (fun _ => i.length_zrow_bytes _) (by rwa [List.length_range]), List.getElem_range]
  have lane : (((i.vectorImage.drop (64 * n)).take 64).drop (4 * l)).take 4 = leBytes 4 (i.zlane (BitVec.ofNat 5 n) l).toNat := by
    rw [row, zlane, zrow, List.flatMap_map, take_drop_flatMap (fun _ => length_leBytes ..) (by rwa [List.length_range]), List.getElem_range]
    simp [hl]
  rw [parts, piece_of_middle (k := 64 * n + 4 * l) (by rw [length_scalarImage]; omega) (by rw [length_vectorImage]; omega), ← lane, List.drop_take,
    List.take_take, List.drop_drop, Nat.min_eq_left (by omega)]

theorem image_predicate (i : SeamInst) {n : Nat} (hn : n < 8) : (i.image.drop (2304 + 2 * n)).take 2 = leBytes 2 (i.kget n).toNat := by
  have parts : i.image = (i.scalarImage ++ i.vectorImage) ++ i.predicateImage ++ (leBytes 8 i.pc.toNat ++ i.placeImage) := by
    simp only [image_eq, List.append_assoc]
  rw [parts, piece_of_middle (k := 2 * n) (by rw [List.length_append, length_scalarImage, length_vectorImage]) (by rw [length_predicateImage]; omega),
    predicateImage, take_drop_flatMap (fun _ => length_leBytes ..) (by rwa [List.length_range]), List.getElem_range]

theorem image_pc (i : SeamInst) : (i.image.drop 2320).take 8 = leBytes 8 i.pc.toNat := by
  rw [image_eq, piece_of_middle (k := 0) (by simp only [List.length_append, length_scalarImage, length_vectorImage, length_predicateImage])
    (by rw [length_leBytes]), List.drop_zero, List.take_of_length_le (by rw [length_leBytes])]

/-- The registers a save area gives back are read from its bytes. -/
theorem load_x (i : SeamInst) (bs : List Byte) (r : BitVec 5) : tget 0 (i.load bs).x r.toNat = BitVec.ofNat 64 (leNat ((bs.drop (8 * r.toNat)).take 8)) :=
  tget_map_of_mem 0 (fun n => BitVec.ofNat 64 (leNat ((bs.drop (8 * n)).take 8))) (List.mem_range.2 r.isLt)

theorem load_z (i : SeamInst) (bs : List Byte) (r : BitVec 5) : tget [] (i.load bs).z r.toNat =
    (List.range 16).map fun l => BitVec.ofNat 32 (leNat ((bs.drop (256 + 64 * r.toNat + 4 * l)).take 4)) :=
  tget_map_of_mem [] (fun n => (List.range 16).map fun l => BitVec.ofNat 32 (leNat ((bs.drop (256 + 64 * n + 4 * l)).take 4))) (List.mem_range.2 r.isLt)

theorem load_k (i : SeamInst) (bs : List Byte) {k : Nat} (hk : k < 8) : tget 0 (i.load bs).k k = BitVec.ofNat 16 (leNat ((bs.drop (2304 + 2 * k)).take 2)) :=
  tget_map_of_mem 0 (fun n => BitVec.ofNat 16 (leNat ((bs.drop (2304 + 2 * n)).take 2))) (List.mem_range.2 hk)

theorem load_pc (i : SeamInst) (bs : List Byte) : (i.load bs).pc = BitVec.ofNat 64 (leNat ((bs.drop 2320).take 8)) := rfl

theorem xget_load_image (i : SeamInst) (r : BitVec 5) : (i.load i.image).xget r = i.xget r := by
  rw [xget, load_x, image_scalar i r.isLt, BitVec.ofNat_toNat, BitVec.setWidth_eq, ofNat_leNat_leBytes (w := 64) (n := 8) rfl]
  by_cases zero : r = 0
  · rw [if_pos zero, xget, if_pos zero]
  · rw [if_neg zero]

theorem zlane_load_image (i : SeamInst) (r : BitVec 5) {l : Nat} (hl : l < 16) : (i.load i.image).zlane r l = i.zlane r l := by
  have lane : BitVec.ofNat 32 (leNat ((i.image.drop (256 + 64 * r.toNat + 4 * l)).take 4)) = i.zlane r l := by
    rw [image_lane i r.isLt hl, BitVec.ofNat_toNat, BitVec.setWidth_eq, ofNat_leNat_leBytes (w := 32) (n := 4) rfl]
  rw [zlane, zrow, load_z, ← lane]
  generalize i.image = bs
  simp [hl]

theorem kget_load_image (i : SeamInst) {k : Nat} (hk : k < 8) : (i.load i.image).kget k = i.kget k := by
  rw [kget, load_k i _ hk, image_predicate i hk, ofNat_leNat_leBytes (w := 16) (n := 2) rfl]
  by_cases zero : k = 0
  · rw [if_pos zero, kget, if_pos zero]
  · rw [if_neg zero]

theorem pc_load_image (i : SeamInst) : (i.load i.image).pc = i.pc := by rw [load_pc, image_pc, ofNat_leNat_leBytes (w := 64) (n := 8) rfl]

end SeamInst

/-- Settles O47: the events of the task table and of a core, the save area, the end of a task. -/
theorem seamTasks : Obligations.SeamTasks := by
  refine ⟨fun id s gone => ⟨?_, ?_, ?_⟩, fun core s free => ⟨?_, ?_⟩,
    fun id s t ht => ⟨seamTaskStart_idle ht, seamTaskStart_leaves ht, seamProbeDone_idle ht, seamProbeDone_ends ht⟩,
    fun s id => State.firstTask_spec, fun s t => State.taskFits_spec,
    fun core s => ⟨seamInstanceRun_idle, fun id i t free next ht => ?_⟩,
    fun core s id i t runs ht => ?_, State.saveInst_spec,
    fun i r l => ⟨i.length_image, i.xget_load_image r, i.zlane_load_image r, i.pc_load_image, fun k => i.kget_load_image⟩, fun id s t ht => seamTaskDone_run ht⟩
  · have steps : exec (.seamTaskStart id) s = execSeamTaskStart id s := rfl
    rw [steps, execSeamTaskStart, gone]
  · have steps : exec (.seamProbeDone id) s = execSeamProbeDone id s := rfl
    rw [steps, execSeamProbeDone, gone]
  · have steps : exec (.seamTaskDone id) s = execSeamTaskDone id s := rfl
    rw [steps, execSeamTaskDone, gone]
  · have steps : exec (.seamInstancePreempt core) s = execSeamInstancePreempt core s := rfl
    rw [steps, execSeamInstancePreempt, free]
  · have steps : exec (.seamLongWait core) s = execSeamLongWait core s := rfl
    rw [steps, execSeamLongWait, free]
  · obtain ⟨on, queued, res, first⟩ := State.nextInst_spec next
    exact ⟨seamInstanceRun_runs ht free next, on, queued, res, first, State.runInst_fresh⟩
  · obtain ⟨stays, leaves⟩ := seamInstancePreempt_run ht runs
    exact ⟨stays, leaves, (seamLongWait_run ht runs).1, (seamLongWait_run ht runs).2⟩

end Sys2Proof.Machine

/-!
Fabric ports and their lanes (R423–R426, R448), and the values of reductions (R431, R432, R435, R495).
-/

namespace Sys2Proof.Machine

/-! ## Forms with a scalar result that a transaction does not admit (R313) -/

/-- The checks of a form without sources. -/
theorem Warp.sclOp_clear_dst {w : Warp} {h : Hdr} {dst : Spec} (val : Nat → Word) (cl : w.Clear h (w.needsDst 1 dst) false false) :
    w.sclOp h dst [] false val = .fall (w.sclResult h dst val) :=
  Warp.sclOp_clear (os := []) (priv := false) (by simpa [Warp.needs, Warp.anyPrivate] using cl)

theorem sclRuleNT_of {i : Instr} {h : Hdr} {dst : Spec} {side : State → Warp → Prop} {val val' : State → Warp → Nat → Word}
    (e : ∀ s, exec i s = machineOpNT s fun s w => (s, w.sclOp h dst [] false (val' s w))) (same : ∀ s w, side s w → val' s w = val s w) :
    SclRuleNT i h dst side val := by
  intro s w hc ht ok cl
  refine retires_of_fall hc ?_ (Warp.onlyRegs_sclResult ..)
  rw [e, machineOpNT_cur _ hc ht, Warp.sclOp_clear_dst _ cl, same s w ok]

/-! ## The lanes of a port (R424, R425) -/

theorem mem_lanesWith {p : Port} {f : PortLane → Bool} {i : Nat} : i ∈ p.lanesWith f ↔ i < 8 ∧ ∃ l, p.lanes[i]? = some l ∧ f l = true := by
  rw [Port.lanesWith, List.mem_filter, List.mem_range]
  cases p.lanes[i]? <;> simp

/-- W is the widest that the lanes which carry flits allow. -/
theorem fitWidth_spec (p : Port) : let n := ((List.range 8).filter fun i => (p.lanes[i]?).any fun l => l.st ≤ 1).length
    p.fitWidth = if 8 ≤ n then 8 else if 4 ≤ n then 4 else if 2 ≤ n then 2 else n := by
  intro n
  have same : (p.lanesWith PortLane.up).length = n := by
    refine congrArg List.length (List.filter_congr fun i _ => ?_)
    cases p.lanes[i]? <;> rfl
  rw [Port.fitWidth, same]

theorem unconnected_iff (p : Port) : p.unconnected = true ↔ ∀ i < 8, ∀ l, p.lanes[i]? = some l → l.st = 3 := by
  rw [Port.unconnected, decide_eq_true_eq, List.eq_nil_iff_forall_not_mem]
  simp only [mem_lanesWith, not_and, not_exists, bne_iff_ne, ne_eq, not_not]

theorem refit_spec (p : Port) (now : Nat) : p.refit now =
    if p.fitWidth = p.width then p else { p with width := p.fitWidth, wchg := p.wchg + 1, retraining := some now } := rfl

/-- After it is refitted a port has the width its lanes allow; a change is counted and retrains it. -/
theorem refit_width (p : Port) (now : Nat) : (p.refit now).width = (p.refit now).fitWidth ∧ (p.refit now).lanes = p.lanes ∧
    (p.refit now).sent = p.sent ∧ (p.refit now).fixed = p.fixed ∧ (p.refit now).unfixed = p.unfixed ∧
    ((p.refit now).width ≠ p.width → (p.refit now).retraining = some now ∧ (p.refit now).wchg = p.wchg + 1) := by
  rw [refit_spec]
  split
  · next same => exact ⟨same.symm, rfl, rfl, rfl, rfl, fun h => absurd rfl h⟩
  · exact ⟨rfl, rfl, rfl, rfl, rfl, fun _ => ⟨rfl, rfl⟩⟩

@[simp] theorem st_moveTo (l : PortLane) (st : Nat) : (l.moveTo st).st = st := by
  unfold PortLane.moveTo
  split
  · next same => exact same.symm
  · rfl

/-- A lane at the end of an interval. -/
def PortLane.measured (l : PortLane) (margin serr : Nat) (high : Bool) : PortLane :=
  if l.st = 3 then l
  else { l.moveTo (l.next margin serr high).1 with margin := margin, serr := serr, goodRun := (l.next margin serr high).2 }

/-- The lanes of a port at the end of an interval. -/
def Port.measuredLanes (p : Port) (margins serrs : List Nat) (high : BitVec 8) : List PortLane :=
  (List.range p.lanes.length).map fun i => ((p.lanes[i]?).getD {}).measured (margins.getD i 0) (serrs.getD i 0) (high.getLsbD i)

theorem getElem?_measuredLanes {p : Port} {margins serrs : List Nat} {high : BitVec 8} {i : Nat} {l : PortLane} (h : p.lanes[i]? = some l) :
    (p.measuredLanes margins serrs high)[i]? = some (l.measured (margins.getD i 0) (serrs.getD i 0) (high.getLsbD i)) := by
  obtain ⟨lt, -⟩ := List.getElem?_eq_some_iff.1 h
  rw [Port.measuredLanes, List.getElem?_map, List.getElem?_range lt, Option.map_some, h, Option.getD_some]

theorem next_good {l : PortLane} (h : l.st = 0) (m e : Nat) (high : Bool) :
    (l.next m e high).1 = if m < 150 ∨ high = true then 2 else if m < 350 ∨ 1000000 < e then 1 else 0 := by
  simp only [PortLane.next, h, Bool.or_eq_true, decide_eq_true_eq]
  split_ifs <;> rfl

theorem next_marginal {l : PortLane} (h : l.st = 1) (m e : Nat) (high : Bool) :
    (l.next m e high).1 = if m < 150 ∨ high = true then 2 else if 450 ≤ m ∧ e ≤ 10000 ∧ 63 ≤ l.goodRun then 0 else 1 := by
  have run : 64 ≤ (if 450 ≤ m ∧ e ≤ 10000 then l.goodRun + 1 else 0) ↔ 450 ≤ m ∧ e ≤ 10000 ∧ 63 ≤ l.goodRun := by
    split <;> omega
  simp only [PortLane.next, h, Bool.or_eq_true, Bool.and_eq_true, decide_eq_true_eq, run]
  split_ifs <;> rfl

theorem next_retired {l : PortLane} (h : l.st = 2) (m e : Nat) (high : Bool) : (l.next m e high).1 = 2 := by
  simp only [PortLane.next, h]

theorem measured_spec (l : PortLane) (m e : Nat) (high : Bool) : let l' := l.measured m e high
    let failing := m < 150 ∨ high = true
    (l.st = 3 → l' = l) ∧ (l.st ≠ 3 → l'.margin = m ∧ l'.serr = e) ∧ (l.st = 2 → l'.st = 2) ∧
    (l.st = 0 → l'.st = if failing then 2 else if m < 350 ∨ 1000000 < e then 1 else 0) ∧
    (l.st = 1 → l'.st = if failing then 2 else if 450 ≤ m ∧ e ≤ 10000 ∧ 63 ≤ l.goodRun then 0 else 1) := by
  intro l' failing
  have used : l.st ≠ 3 → l' = { l.moveTo (l.next m e high).1 with margin := m, serr := e, goodRun := (l.next m e high).2 } := fun h => if_neg h
  have moved : l.st ≠ 3 → l'.st = (l.next m e high).1 := fun h => by
    rw [used h]
    exact st_moveTo ..
  refine ⟨fun h => if_pos h, fun h => ?_, fun h => ?_, fun h => ?_, fun h => ?_⟩
  · rw [used h]
    exact ⟨rfl, rfl⟩
  · rw [moved (by omega), next_retired h]
  · rw [moved (by omega), next_good h]
  · rw [moved (by omega), next_marginal h]

theorem logDevice_keeps {α : Type} (g : State → α) (hg : ∀ (s : State) d w l o, g { s with devlog := d, wptr := w, lost := l, hostOut := o } = g s) (s : State)
    (e : ErrRec) : g (s.logDevice e) = g s := by
  unfold State.logDevice
  split <;> exact hg ..

theorem laneInterval_run {port : Nat} (margins serrs : List Nat) (hi : BitVec 8) {s : State} {p : Port} (hp : tfind s.ports port = some p) :
    ∃ t q, exec (.laneInterval port margins serrs hi) s = .next t ∧ tfind t.ports port = some q ∧ q.width = q.fitWidth ∧
      q.lanes.length = p.lanes.length ∧ p.sent ≤ q.sent ∧ p.fixed ≤ q.fixed ∧ p.unfixed ≤ q.unfixed ∧
      (q.width ≠ p.width → q.retraining = some s.cycle ∧ q.wchg = p.wchg + 1) ∧ t.mem = s.mem ∧ t.warps = s.warps ∧
      ∀ (i : Nat) (l : PortLane), p.lanes[i]? = some l → ∃ l', q.lanes[i]? = some l' ∧ l' = l.measured (margins.getD i 0) (serrs.getD i 0) (hi.getLsbD i) := by
  have steps : exec (.laneInterval port margins serrs hi) s = execLaneInterval port margins serrs hi s := rfl
  simp only [execLaneInterval, hp] at steps
  have kept : ∀ {β : Type} (g : State → β), (∀ (s : State) d w l o, g { s with devlog := d, wptr := w, lost := l, hostOut := o } = g s) →
      ∀ (e : ErrRec) (l : List Nat) (s : State), g (l.foldl (fun s _ => s.logDevice e) s) = g s := fun g hg e l s =>
    foldl_keep g (fun (s : State) (_ : Nat) => s.logDevice e) (fun s _ => logDevice_keeps g hg s e) l s
  obtain ⟨width, lanes, sent, fixed, unfixed, changed⟩ := refit_width
    (({ p with lanes := p.measuredLanes margins serrs hi } : Port).traffic (Config.portTraffic s.tick port)) s.cycle
  refine ⟨_, (({ p with lanes := p.measuredLanes margins serrs hi } : Port).traffic (Config.portTraffic s.tick port)).refit s.cycle, steps,
    (congrArg (tfind · port) (kept State.ports (fun _ _ _ _ _ => rfl) ..)).trans (tfind_tset_same ..), width, ?_, ?_, ?_, ?_, changed,
    kept State.mem (fun _ _ _ _ _ => rfl) .., kept State.warps (fun _ _ _ _ _ => rfl) .., fun i l held => ⟨_, ?_, rfl⟩⟩
  · rw [lanes]
    exact (List.length_map ..).trans List.length_range
  · rw [sent]
    exact Nat.le_add_right ..
  · rw [fixed]
    exact Nat.le_add_right ..
  · rw [unfixed]
    exact Nat.le_add_right ..
  · rw [lanes]
    exact getElem?_measuredLanes held

/-! ## The events of a port (R423, R425) -/

theorem port_absent {port : Nat} {s : State} (h : tfind s.ports port = none) (ok : Bool) (margins serrs : List Nat) (hi : BitVec 8) (lane : Nat) :
    exec (.flitReceive port ok) s = .next s ∧ exec (.laneInterval port margins serrs hi) s = .next s ∧ exec (.portRetrainDone port) s = .next s ∧
    exec (.laneRetrain port lane ok) s = .next s := by
  refine ⟨?_, ?_, ?_, ?_⟩
  · have steps : exec (.flitReceive port ok) s = execFlitReceive port ok s := rfl
    rw [steps, execFlitReceive, h]
  · have steps : exec (.laneInterval port margins serrs hi) s = execLaneInterval port margins serrs hi s := rfl
    rw [steps, execLaneInterval, h]
  · have steps : exec (.portRetrainDone port) s = execPortRetrainDone port s := rfl
    rw [steps, execPortRetrainDone, h]
  · have steps : exec (.laneRetrain port lane ok) s = execLaneRetrain port lane ok s := rfl
    rw [steps, execLaneRetrain, h]

section
variable {port : Nat} {s : State} {p : Port} (hp : tfind s.ports port = some p)
include hp

theorem flitReceive_idle (ok : Bool) (h : p.width = 0 ∨ p.retraining ≠ none) : exec (.flitReceive port ok) s = .next s := by
  have steps : exec (.flitReceive port ok) s = execFlitReceive port ok s := rfl
  rw [steps, execFlitReceive, hp]
  refine congrArg _ (if_pos ?_)
  change (decide (p.width = 0) || p.retraining.isSome) = true
  simpa [Option.isSome_iff_ne_none] using h

theorem flitReceive_run (wide : p.width ≠ 0) (trained : p.retraining = none) (ok : Bool) :
    let p' := p.traffic (Config.portTraffic s.tick port)
    let put := fun (x : Port) => ({ s with ports := tset s.ports port x } : State)
    exec (.flitReceive port ok) s = .next (
      if ok then put { p' with received := p.received + 1, replays := 0 }
      else if 16 ≤ p.replays then put { p' with replays := 0, retraining := some s.cycle }
      else (put { p' with replays := p.replays + 1, replayed := p.replayed + 1 }).count 0x1C 0 1) := by
  intro p' put
  have steps : exec (.flitReceive port ok) s = execFlitReceive port ok s := rfl
  rw [steps, execFlitReceive, hp]
  exact congrArg _ (if_neg (by simp [Port.traffic, wide, trained]))

theorem portRetrainDone_run : (∀ t, p.retraining = some t → exec (.portRetrainDone port) s = .next
      (if s.cycle < t + 65536 then s else { s with ports := tset s.ports port { p with retraining := none } })) ∧
    (p.retraining = none → exec (.portRetrainDone port) s = .next s) := by
  have steps : exec (.portRetrainDone port) s = execPortRetrainDone port s := rfl
  rw [steps, execPortRetrainDone, hp]
  refine ⟨fun t h => ?_, fun h => ?_⟩
  · simp only [h]
  · simp only [h]

variable {lane : Nat} {l : PortLane} (hl : p.lanes[lane]? = some l)
include hl

theorem laneRetrain_idle {ok : Bool} (h : l.st ≠ 2 ∨ ok = false) : exec (.laneRetrain port lane ok) s = .next s := by
  have steps : exec (.laneRetrain port lane ok) s = execLaneRetrain port lane ok s := rfl
  rw [steps, execLaneRetrain, hp]
  simp only [hl]
  exact congrArg _ (if_pos (by simpa using h))

theorem laneRetrain_run (retired : l.st = 2) :
    let q : Port := { p with lanes := lset p.lanes lane { l with st := 0, trans := l.trans + 1, goodRun := 0 } }
    exec (.laneRetrain port lane true) s = .next { s with ports := tset s.ports port (q.refit s.cycle) } := by
  intro q
  have steps : exec (.laneRetrain port lane true) s = execLaneRetrain port lane true s := rfl
  have moved : l.moveTo 0 = { l with st := 0, trans := l.trans + 1, goodRun := 0 } := if_neg (by omega)
  rw [steps, execLaneRetrain, hp]
  simp only [hl]
  rw [if_neg (by simp [retired]), moved]

end

/-! ## What a port and a group tell (R426, R448) -/

theorem portWord_spec (s : State) (port : Nat) :
    let p := tget {} s.ports port
    let free := ∀ i < 8, ∀ l, p.lanes[i]? = some l → l.st = 3
    (free → s.portWord port 0 = 0x30#64 ∧ ∀ sel, 1 ≤ sel → s.portWord port sel = 0#64) ∧
    (¬free → s.portWord port 1 = BitVec.ofNat 64 p.sent ∧ s.portWord port 2 = BitVec.ofNat 64 p.received ∧ s.portWord port 3 = BitVec.ofNat 64 p.replayed ∧
      s.portWord port 4 = BitVec.ofNat 64 p.fixed ∧ s.portWord port 5 = BitVec.ofNat 64 p.unfixed ∧
      ∀ i l, p.lanes[i]? = some l → s.portWord port (8 + i) =
        BitVec.ofNat 64 (min l.margin 1023 + 2 ^ 10 * l.st + 2 ^ 16 * min l.serr (2 ^ 32 - 1) + 2 ^ 48 * min l.trans 0xFFFF)) := by
  intro p free
  refine ⟨fun h => ⟨?_, fun sel pos => ?_⟩, fun h => ?_⟩
  · exact if_pos ((unconnected_iff p).2 h)
  · rw [State.portWord]
    rw [if_neg (by omega), if_pos ((unconnected_iff p).2 h)]
    rfl
  · have used : ∀ sel, sel ≠ 0 → s.portWord port sel =
        if sel ≤ 5 then BitVec.ofNat 64 ([p.sent, p.received, p.replayed, p.fixed, p.unfixed].getD (sel - 1) 0)
        else if sel ≤ 7 then 0 else ((p.lanes[sel - 8]?).getD {}).word := fun sel pos => by
      rw [State.portWord]
      rw [if_neg pos, if_neg (mt (unconnected_iff p).1 h)]
    refine ⟨used 1 (by decide), used 2 (by decide), used 3 (by decide), used 4 (by decide), used 5 (by decide), fun i l held => ?_⟩
    rw [used _ (by omega), if_neg (by omega), if_neg (by omega), Nat.add_sub_cancel_left, held]
    rfl

theorem retires_grprd {f : FormR} {s : State} {w : Warp} (hc : s.curWarp = some w) (ht : w.tx = none)
    (cl : w.Clear f.h (w.needs [(f.b, 1)] ++ w.needsDst 1 f.dst) false (f.dst.num < 128 && w.anyPrivate [f.b])) :
    Retires (.grprd f) s w (w.sclResult f.h f.dst fun m =>
      let g := (w.scl m f.b).toNat
      let e := if g ≤ 255 then tget {} (s.ctx w.ctx).groups g else {}
      if f.x = 4 then BitVec.ofNat 64 s.rank else if e.valid = false then 0
      else if f.x = 0 then 1 else if f.x = 1 then BitVec.ofNat 64 (groupRanks e.img).length else if f.x = 2 then BitVec.ofNat 64 e.own else e.seq) := by
  have steps : exec (.grprd f) s = execGrprd f s := rfl
  rw [execGrprd, machineOpNT_cur _ hc ht, Warp.sclOp_clear (by simpa using cl)] at steps
  refine retires_of_fall hc (steps.trans ?_) (Warp.onlyRegs_sclResult ..)
  refine congrArg (fun val => Host.Outcome.next (s.finish w (.fall (w.sclResult f.h f.dst val)))) (funext fun m => ?_)
  have entry : (if 255 < (w.scl m f.b).toNat then ({} : Group) else tget {} (s.ctx w.ctx).groups (w.scl m f.b).toNat) =
      if (w.scl m f.b).toNat ≤ 255 then tget {} (s.ctx w.ctx).groups (w.scl m f.b).toNat else {} := by
    by_cases small : (w.scl m f.b).toNat ≤ 255
    · rw [if_pos small, if_neg (by omega)]
    · rw [if_neg small, if_pos (by omega)]
  dsimp only
  rw [entry]
  generalize (if (w.scl m f.b).toNat ≤ 255 then tget {} (s.ctx w.ctx).groups (w.scl m f.b).toNat else {}) = e
  cases e.valid
  · rfl
  · simp only [BitVec.toNat_eq (x := f.x), BitVec.reduceToNat, Group.n, Bool.not_true, Bool.true_eq_false, Bool.false_eq_true, if_false]
    match f.x.toNat with
    | 0 | 1 | 2 | 3 | 4 => rfl
    | n + 5 => rfl

/-! ## The values of reductions (R432, R435, R495) -/

/-- A two's complement number read from its bits. -/
theorem intOfBits_two {n a : Nat} (hn : n ≠ 0) : intOfBits n true a = (BitVec.ofNat n a).toInt := by
  obtain ⟨k, rfl⟩ := Nat.exists_eq_succ_of_ne_zero hn
  simp only [intOfBits, BitVec.toInt_eq_toNat_cond, BitVec.toNat_ofNat, Bool.true_and, Nat.succ_sub_one, decide_eq_true_eq, Nat.succ_eq_add_one]
  have double : 2 ^ (k + 1) = 2 * 2 ^ k := by rw [Nat.pow_succ, Nat.mul_comm]
  by_cases neg : 2 ^ k ≤ a % 2 ^ (k + 1)
  · rw [if_pos neg, if_neg (by omega)]
  · rw [if_neg neg, if_pos (by omega)]

theorem cInt_spec {t : Nat} (lo : 4 ≤ t) (hi : t ≤ 7) :
    cFmt t = none ∧ cInt t = (if t = 4 then 64 else if t = 7 then 8 else 32, decide (t ≠ 6)) := by
  match t, lo, hi with
  | 4, _, _ | 5, _, _ | 6, _, _ | 7, _, _ => exact ⟨rfl, rfl⟩

theorem combine2_int {t : Nat} (lo : 4 ≤ t) (hi : t ≤ 7) (a b : Nat) :
    let n := if t = 4 then 64 else if t = 7 then 8 else 32
    let less := if t = 6 then a % 2 ^ n ≤ b % 2 ^ n else (BitVec.ofNat n a).toInt ≤ (BitVec.ofNat n b).toInt
    combine2 0 t a b = (a + b) % 2 ^ n ∧ combine2 1 t a b = (if less then a else b) ∧ combine2 2 t a b = (if less then b else a) ∧
    combine2 5 t a b = a &&& b ∧ combine2 6 t a b = a ||| b ∧ combine2 7 t a b = a ^^^ b := by
  intro n less
  obtain ⟨float, width⟩ := cInt_spec lo hi
  have order : intOfBits n (decide (t ≠ 6)) a ≤ intOfBits n (decide (t ≠ 6)) b ↔ less := by
    have wide : n ≠ 0 := by
      simp only [n]
      split_ifs <;> decide
    by_cases unsigned : t = 6
    · simp only [less, if_pos unsigned, intOfBits, unsigned, ne_eq, not_true_eq_false, decide_false, Bool.false_and, Bool.false_eq_true, if_false]
      exact Int.ofNat_le
    · simp only [less, if_neg unsigned, ne_eq, unsigned, not_false_eq_true, decide_true, intOfBits_two wide]
  have least : combine2 1 t a b = if intOfBits n (decide (t ≠ 6)) a ≤ intOfBits n (decide (t ≠ 6)) b then a else b := by
    simp only [combine2, float, width, n]
  have greatest : combine2 2 t a b = if intOfBits n (decide (t ≠ 6)) a ≤ intOfBits n (decide (t ≠ 6)) b then b else a := by
    simp only [combine2, float, width, n]
  refine ⟨?_, ?_, ?_, ?_, ?_, ?_⟩
  · simp only [combine2, float, width, n]
  · rw [least]
    exact if_congr order rfl rfl
  · rw [greatest]
    exact if_congr order rfl rfl
  all_goals simp only [combine2, float]

theorem isPow2_iff (n : Nat) : isPow2 n = true ↔ ∃ k, n = 2 ^ k := by
  rw [isPow2, Bool.and_eq_true, bne_iff_ne, decide_eq_true_eq]
  constructor
  · exact fun h => ⟨_, h.2.symm⟩
  · rintro ⟨k, rfl⟩
    exact ⟨by positivity, by rw [Nat.log2_two_pow]⟩

theorem chooseAlg_spec (op n bytes : Nat) : chooseAlg op 1 n bytes = .ring ∧ chooseAlg op 2 n bytes = .biring ∧ (n ≤ 8 → chooseAlg op 0 n bytes = .direct) ∧
    (op ≠ 4 → 8 < n → (∀ k, n ≠ 2 ^ k) → n ≤ 256 → chooseAlg op 0 n bytes = .biring) ∧
    (op ≠ 4 → 256 < n → (∀ k, n ≠ 2 ^ k) → chooseAlg op 0 n bytes = .twoLevel) ∧
    (∀ k, op ≠ 4 → n = 2 ^ k → 8 < n → bytes ≤ 2 ^ 20 → chooseAlg op 0 n bytes = .halving) ∧ (n ≤ 64 → chooseAlg op 5 n bytes = .direct) ∧
    (16 ≤ n → chooseAlg op 4 n bytes = .twoLevel) := by
  have auto : chooseAlg op 0 n bytes = if op = 4 || n ≤ 8 then .direct else if isPow2 n && bytes ≤ 2 ^ 20 then .halving
      else if 256 < n then .twoLevel else .biring := rfl
  have odd : (∀ k, n ≠ 2 ^ k) → isPow2 n = false := fun h => by
    rw [← Bool.not_eq_true, isPow2_iff, not_exists]
    exact h
  refine ⟨rfl, rfl, fun few => ?_, fun hop many no small => ?_, fun hop many no => ?_, fun k hop pow many short => ?_, fun few => if_pos few, fun many => if_pos many⟩
  · rw [auto, if_pos (by simp [few])]
  · rw [auto, odd no, if_neg (by simp [hop, many]), if_neg (by simp), if_neg (by omega)]
  · rw [auto, odd no, if_neg (by simp [hop]; omega), if_neg (by simp), if_pos many]
  · rw [auto, (isPow2_iff n).2 ⟨k, pow⟩, if_neg (by simp [hop, many]), if_pos (by simpa using short)]

theorem combineOrder_four (op : Nat → Nat → Nat) (a b c d : Nat) (sets : List Nat) (seg : Nat) (second : Bool) :
    combineOrder op .halving [a, b, c, d] sets seg second = op (op a b) (op c d) ∧
    combineOrder op .ring [a, b, c, d] sets 0 second = op (op (op b c) d) a ∧ combineOrder op .ring [a, b, c, d] sets 2 second = op (op (op d a) b) c ∧
    combineOrder op .biring [a, b, c, d] sets 0 true = op (op (op d c) b) a ∧
    combineOrder op .twoLevel [a, b, c, d] [0, 0, 1, 1] seg second = op (op a b) (op c d) := by
  have levels : Nat.log2 4 = 2 := Nat.log2_two_pow (n := 2)
  have pairs : [0, 0, 1, 1].eraseDups = [0, 1] := by decide
  refine ⟨?_, ?_, ?_, ?_, ?_⟩
  · simp [combineOrder, treeFold, pairUp, levels]
  · simp [combineOrder, foldLeft, List.range_succ]
  · simp [combineOrder, foldLeft, List.range_succ]
  · simp [combineOrder, foldLeft, List.range_succ]
  · simp [combineOrder, foldLeft, pairs]

/-- Settles O42: the events of a port and its lanes, what is read of them, and the orders in which contributions are combined. -/
theorem portsAndReductionValues : Obligations.PortsAndReductionValues := by
  refine ⟨⟨fun port ok margins serrs hi lane s h => port_absent h ok margins serrs hi lane, fun port s p hp => ?_, fun port margins serrs hi s p hp => ?_,
      fitWidth_spec, fun f => sclRuleNT_of (fun _ => rfl) fun _ _ _ => rfl, portWord_spec, fun f s w hc ht cl => retires_grprd hc ht cl⟩,
    fun rop t a b lo hi _ _ => combine2_int lo hi a b, fun a b => ⟨rfl, rfl, rfl, rfl⟩, fun op a l sets seg second => rfl,
    combineOrder_four, chooseAlg_spec, fun c i rop => ?_⟩
  · refine ⟨flitReceive_idle hp, fun wide trained => ⟨flitReceive_run hp wide trained true, fun few => ?_, fun many => ?_⟩, (portRetrainDone_run hp).1,
      (portRetrainDone_run hp).2, fun lane l hl up ok => laneRetrain_idle hp hl (.inl up), fun lane l hl => laneRetrain_idle hp hl (.inr rfl),
      fun lane l hl retired => ?_⟩
    · exact (flitReceive_run hp wide trained false).trans (congrArg _ ((if_neg Bool.false_ne_true).trans (if_neg (by omega))))
    · exact (flitReceive_run hp wide trained false).trans (congrArg _ ((if_neg Bool.false_ne_true).trans (if_pos many)))
    · refine (laneRetrain_run hp hl retired).trans ?_
      rw [refit_spec]
  · obtain ⟨t, q, steps, held, width, lanes, sent, fixed, unfixed, changed, mem, warps, each⟩ := laneInterval_run margins serrs hi hp
    refine ⟨t, q, steps, held, width, lanes, sent, fixed, unfixed, changed, mem, warps, fun i l hl => ?_⟩
    obtain ⟨l', hl', rfl⟩ := each i l hl
    exact ⟨_, hl', measured_spec ..⟩
  · rw [Coll.reduced]
    dsimp only
    rw [if_pos rop, List.foldl_map, List.foldl_map]
    rfl

end Sys2Proof.Machine

/-!
Time, requests and the monitor (R405–R407, R416, R417, R421).
-/

namespace Sys2Proof.Machine

/-! ## A warp outside any transaction sees nothing of others' reads (R310) -/

/-- A form whose warp has not ended retires, whatever it has made of the machine. -/
theorem finish_kept {s t : State} {w w1 : Warp} (hc : s.curWarp = some w) (same : w1.ended = w.ended) : t.finish w (.fall w1) = t.retire w w1 :=
  finish_fall (same.trans (ended_of_cur hc))

namespace State

/-- The warp under a key is the same, when it has no transaction open. -/
def KeepsOpen (k : Nat) (s t : State) : Prop := ∀ w, s.warp? k = some w → w.tx = none → t.warp? k = some w

theorem KeepsOpen.trans {k : Nat} {a b c : State} (h : KeepsOpen k a b) (h' : KeepsOpen k b c) : KeepsOpen k a c := fun w hw ht => h' w (h w hw ht) ht

theorem KeepsOpen.foldl {k : Nat} {β : Type} {f : State → β → State} (h : ∀ (s : State) b, KeepsOpen k s (f s b)) (l : List β) (s : State) :
    KeepsOpen k s (l.foldl f s) := by
  induction l generalizing s with
  | nil => exact fun _ hw _ => hw
  | cons b t ih => exact (h s b).trans (ih _)

theorem keepsOpen_conflicts (k : Nat) (s : State) (who line : Nat) (write : Bool) : KeepsOpen k s (s.conflicts who line write) := by
  intro w hw ht
  rw [warp?_conflicts, hw, Option.map_some, Warp.conflictAt, ht]
  exact congrArg some (ite_self w)

theorem keepsOpen_readBy (k : Nat) (s : State) (who a n : Nat) : KeepsOpen k s (s.readBy who a n) :=
  KeepsOpen.trans (b := s.callBack (who / 32) a n) (fun _ hw _ => hw) (.foldl (fun s l => keepsOpen_conflicts k s who l false) _ _)

theorem keepsOpen_fillTlb (k : Nat) (s : State) (core x : Nat) (ea : Word) (midx : BitVec 16) : KeepsOpen k s (s.fillTlb core x ea midx) := by
  have walked := KeepsOpen.foldl (k := k) (f := fun s (e : Nat × Nat × Nat) => s.readBy noWarp e.2.1 8) (fun s e => keepsOpen_readBy k s noWarp e.2.1 8)
    (s.walkSteps core x (s.offsetVa x ea midx).toNat) s
  unfold fillTlb fillVa
  split
  · exact fun _ hw _ => hw
  · dsimp only
    split
    · exact walked
    · exact walked.trans fun _ hw _ => hw

theorem keepsOpen_fillFor (k : Nat) (s : State) (w : Warp) (p : Part) (ps : List (Nat × Nat × Phys)) : KeepsOpen k s (s.fillFor w p ps) := by
  unfold fillFor
  split
  · exact fun _ hw _ => hw
  · apply KeepsOpen.foldl
    exact fun s q => keepsOpen_fillTlb k s w.core w.ctx _ _

theorem requested_iff (s : State) (k : Nat) : s.requested k = true ↔ ∃ b, s.block? k = some b ∧ b.preq.getLsbD 0 = true := by
  rw [requested]
  cases s.block? k <;> simp

end State

/-! ## Requests and time (R405–R407, R421) -/

section
variable {s : State} {w : Warp} (hc : s.curWarp = some w) (ht : w.tx = none)
include hc ht

theorem yield_run (f : FormR) : exec (.yield f) s =
    if Warp.never f.h || !s.requested w.blk then .next (s.retire w w) else .next (((s.retire w w).beginSave w.key false).endSave w.key) := by
  have steps : exec (.yield f) s = execYield f s := rfl
  simp only [execYield, hc, ht, Option.isSome_none, Bool.false_eq_true, if_false, finish_fall (ended_of_cur hc)] at steps
  exact steps

theorem brpq_run (f : FormC) : exec (.brpq f) s =
    if Warp.never f.h || !s.requested w.blk then .next (s.retire w w) else .next (s.finish w (.jump { w with pc := w.pc + 12#64 * f.disp.signExtend 64 })) := by
  have steps : exec (.brpq f) s = execBrpq f s := rfl
  rw [execBrpq, machineOpNT_cur _ hc ht] at steps
  rw [steps]
  by_cases never : Warp.never f.h = true
  · simp only [never, if_true, Bool.true_or, finish_fall (ended_of_cur hc)]
  · by_cases asked : s.requested w.blk = true
    · simp only [never, asked, Bool.false_eq_true, if_false, if_true, Bool.false_or, Bool.not_true]
      rfl
    · simp only [never, asked, Bool.false_eq_true, if_false, if_true, Bool.false_or, Bool.not_false, finish_fall (ended_of_cur hc)]

end

theorem toDeadline_unasked {s : State} {k : Nat} (h : ¬∃ b, s.block? k = some b ∧ b.preq.getLsbD 0 = true) : s.toDeadline k = ~~~0#64 := by
  rw [State.toDeadline]
  cases held : s.block? k with
  | none => rfl
  | some b => exact if_neg fun asked => h ⟨b, held, asked⟩

theorem toDeadline_asked {s : State} {k : Nat} {b : Block} (held : s.block? k = some b) (asked : b.preq.getLsbD 0 = true) :
    s.toDeadline k = BitVec.ofNat 64 (b.deadline - s.coreCycle b.core) := by
  rw [State.toDeadline, held]
  exact if_pos asked

/-! ## Arming the monitor (R416) -/

section
variable {f : FormM} {s : State} {w : Warp} (hc : s.curWarp = some w) (ht : w.tx = none) (acts : Warp.never f.h = false)
  (cl : w.Clear f.h (w.needs [(⟨f.addr, 0, f.fa⟩, 1)]) false false)
include hc ht acts cl

theorem mon_fenced (fenced : w.heldByFence false = true) : Waits (.mon f) s w .memory := by
  have steps : exec (.mon f) s = execMon f s := rfl
  rw [execMon, machineOpNT_cur _ hc ht, Warp.checked_clear cl] at steps
  simp only [acts, fenced, Bool.false_eq_true, if_false, if_true] at steps
  exact steps

theorem mon_full (free : w.heldByFence false = false) (full : w.freeEntry = none) : Waits (.mon f) s w .log := by
  have steps : exec (.mon f) s = execMon f s := rfl
  rw [execMon, machineOpNT_cur _ hc ht, Warp.checked_clear cl] at steps
  simp only [acts, free, full, Bool.false_eq_true, if_false] at steps
  exact steps

variable {k : Nat} (free : w.heldByFence false = false) (entry : w.freeEntry = some k)
include free entry

theorem mon_faults :
    let m := w.active.headD 0
    let p : Part := { slot := m, lane := 0, addr := w.ea f.addr f.off m 0 }
    let e := newEntry w k (packM 0x191 f) { acc := .monitor, size := 1 } false [p] 0
    ∀ x, s.locateByte w e p 0 = .error x → Retires (.mon f) s w (w.logEntry { e with parts := [{ p with fault := some x }] }) := by
  intro m p e x fault
  have steps : exec (.mon f) s = execMon f s := rfl
  rw [execMon, machineOpNT_cur _ hc ht, Warp.checked_clear cl] at steps
  simp only [acts, free, entry, Bool.false_eq_true, if_false] at steps
  rw [show s.locateByte w _ _ 0 = .error x from fault, finish_fall ((Warp.ended_logEntry ..).trans (ended_of_cur hc))] at steps
  exact steps

theorem mon_arms (own : s.warp? w.key = some w) :
    let m := w.active.headD 0
    let ea := w.ea f.addr f.off m 0
    let p : Part := { slot := m, lane := 0, addr := ea }
    let e := newEntry w k (packM 0x191 f) { acc := .monitor, size := 1 } false [p] 0
    ∀ ph, s.locateByte w e p 0 = .ok ph → exec (.mon f) s = .next (((s.fillFor w p [(0, 0, ph)]).l1Drop w.core (s.readAddr w p 0 ph)).retire w
      { w with mon := { armed := true, line := ea &&& ~~~127#64, pline := ph.pa / 128 * 128, rline := s.readAddr w p 0 ph / 128 * 128,
                        midx := State.midxOf w m } }) := by
  intro m ea p e ph located
  have steps : exec (.mon f) s = execMon f s := rfl
  rw [execMon, machineOpNT_cur _ hc ht, Warp.checked_clear cl] at steps
  simp only [acts, free, entry, Bool.false_eq_true, if_false] at steps
  rw [show s.locateByte w _ _ 0 = .ok ph from located, State.putWarp_of_held own] at steps
  have kept : ((s.fillFor w p [(0, 0, ph)]).l1Drop w.core (s.readAddr w p 0 ph)).warp? w.key = some w := State.keepsOpen_fillFor w.key s w p _ w own ht
  have armed : (s.fillFor w p [(0, 0, ph)]).armMonitor w.key w.core ea ph.pa (s.readAddr w p 0 ph) (State.midxOf w m) =
      ((s.fillFor w p [(0, 0, ph)]).l1Drop w.core (s.readAddr w p 0 ph)).putWarp { w with
        mon := { armed := true, line := ea &&& ~~~127#64, pline := ph.pa / 128 * 128, rline := s.readAddr w p 0 ph / 128 * 128, midx := State.midxOf w m } } := by
    rw [State.armMonitor, State.modWarp, kept]
  rw [steps]
  dsimp only
  rw [armed]
  generalize (s.fillFor w p [(0, 0, ph)]).l1Drop w.core (s.readAddr w p 0 ph) = t
  rw [show ∀ w1 : Warp, w1.key = w.key → (t.putWarp w1).warp? w.key = some w1 from fun w1 same => same ▸ State.warp?_putWarp_same t w1,
    Option.getD_some]
  · exact congrArg _ ((finish_kept hc (by rfl)).trans (State.retire_putWarp _ _ (by rfl)))
  · rfl

end

/-! ## Waiting in the monitor (R417) -/

/-- What an `mwait` with an armed monitor does, with the deadline it has: past it the trap, else it waits. -/
def mwaitOutcome (s : State) (w : Warp) (dl : Option Nat) : State × WRes :=
  if dl.any (fun d => d < s.coreCycle w.core) then (s, .trap w.disarm { cls := 21, detail := w.mon.line })
  else
    let w1 : Warp := { w with mon := { w.mon with deadline := dl } }
    ((s.waits w1 .monitor), .done (((s.waits w1 .monitor).warp? w.key).getD w1))

/-- A warp outside any transaction that waits: it is put back, at the same instruction. -/
theorem waits_spec (s : State) {w : Warp} (r : Wait) (ht : w.tx = none) : ∃ w1, s.waits w r = s.putWarp w1 ∧ w1.waitOn = some r ∧ w1.pc = w.pc ∧
    w1.mon = w.mon ∧ w1.key = w.key ∧ w1.retired = w.retired := by
  unfold State.waits
  dsimp only
  rw [Warp.abortTx_of_no_tx (by exact ht)]
  split
  · exact ⟨_, rfl, rfl, rfl, rfl, rfl, rfl⟩
  · exact ⟨_, rfl, rfl, rfl, rfl, rfl, rfl⟩

theorem mwaitOutcome_late {s : State} {w : Warp} {dl : Option Nat} (late : ∃ d, dl = some d ∧ d < s.coreCycle w.core) :
    (mwaitOutcome s w dl).1.finish w (mwaitOutcome s w dl).2 = s.takeTrap { w with mon := {}, restored := false } { cls := 21, detail := w.mon.line } w.pc := by
  obtain ⟨d, rfl, lt⟩ := late
  rw [mwaitOutcome, if_pos (by simpa using lt)]
  rfl

theorem mwaitOutcome_early {s : State} {w : Warp} (ht : w.tx = none) {dl : Option Nat} (early : ∀ d, dl = some d → s.coreCycle w.core ≤ d) :
    ∃ w1, (mwaitOutcome s w dl).1.finish w (mwaitOutcome s w dl).2 = s.putWarp w1 ∧ w1.waitOn = some .monitor ∧ w1.pc = w.pc ∧
      w1.mon = { w.mon with deadline := dl } ∧ w1.key = w.key ∧ w1.retired = w.retired := by
  have not : ¬dl.any (fun d => d < s.coreCycle w.core) = true := by
    cases dl with
    | none => simp
    | some d => simpa using early d rfl
  rw [mwaitOutcome, if_neg not]
  obtain ⟨w1, waits, on, pc, mon, key, retired⟩ := waits_spec s .monitor (w := { w with mon := { w.mon with deadline := dl } }) ht
  refine ⟨w1, ?_, on, pc, mon, key, retired⟩
  change ((s.waits _ .monitor).putWarp (((s.waits _ .monitor).warp? w.key).getD _)) = _
  rw [waits, show (s.putWarp w1).warp? w.key = some w1 from key ▸ State.warp?_putWarp_same s w1, Option.getD_some, State.putWarp_putWarp s rfl]

section
variable {f : FormR} {s : State} {w : Warp} (hc : s.curWarp = some w) (ht : w.tx = none) (acts : Warp.never f.h = false)
include hc ht acts

section
variable (cl : w.Clear f.h (w.needs [(f.a, 1)]) false false) (quiet : ∀ e ∈ w.log, e.acc ≠ .monitor)
include cl quiet

theorem mwait_unarmed (armed : w.mon.armed = false) : Retires (.mwait f) s w { w with mon := {}, restored := false } := by
  have steps : exec (.mwait f) s = execMwait f s := rfl
  rw [execMwait, machineOpNT_cur _ hc ht, Warp.checked_clear cl] at steps
  simp only [acts, armed, show (w.log.any fun e => e.acc = .monitor) = false by simpa using quiet, Bool.false_eq_true, if_false, Bool.not_false,
    if_true] at steps
  refine steps.trans (congrArg _ (finish_kept hc ?_))
  rfl

variable (armed : w.mon.armed = true)
include armed

theorem mwait_done (done : w.mon.written = true ∨ w.restored = true) :
    exec (.mwait f) s = .next ((s.l1Drop w.core w.mon.rline).retire w { w with mon := {}, restored := false }) := by
  have steps : exec (.mwait f) s = execMwait f s := rfl
  rw [execMwait, machineOpNT_cur _ hc ht, Warp.checked_clear cl] at steps
  simp only [acts, armed, show (w.log.any fun e => e.acc = .monitor) = false by simpa using quiet, Bool.false_eq_true, if_false, Bool.not_true,
    Bool.or_eq_true, if_pos done] at steps
  refine steps.trans (congrArg _ (finish_kept hc ?_))
  rfl

theorem mwait_pending (unwritten : w.mon.written = false) (fresh : w.restored = false) :
    let lim := w.scl (w.active.headD 0) f.a
    let dl := if w.mon.deadline ≠ none then w.mon.deadline else if lim = ~~~0#64 then none else some (s.coreCycle w.core + lim.toNat)
    exec (.mwait f) s = .next ((mwaitOutcome s w dl).1.finish w (mwaitOutcome s w dl).2) := by
  intro lim dl
  have steps : exec (.mwait f) s = execMwait f s := rfl
  rw [execMwait, machineOpNT_cur _ hc ht, Warp.checked_clear cl] at steps
  dsimp only at steps
  rw [if_neg (by rw [acts]; exact Bool.false_ne_true), if_neg (by simpa using quiet), if_neg (by simp [armed]), if_neg (by simp [unwritten, fresh])] at steps
  rcases set : w.mon.deadline with _ | d
  · have given : dl = if lim = ~~~0#64 then none else some (s.coreCycle w.core + lim.toNat) := if_neg (not_not.2 set)
    simp only [set] at steps
    rw [given]
    exact steps
  · have given : dl = some d := (if_pos (by simp [set])).trans set
    simp only [set] at steps
    rw [given]
    exact steps

end

theorem monclr_run : ((∃ e ∈ w.log, e.acc = .monitor) → Waits (.monclr f) s w .log) ∧
    ((∀ e ∈ w.log, e.acc ≠ .monitor) → Retires (.monclr f) s w { w with mon := {} }) := by
  have steps : exec (.monclr f) s = execMonclr f s := rfl
  rw [execMonclr, warpOpNT, warpOp_cur _ hc] at steps
  rw [if_neg (by simp [ht]), unlessNever, if_neg (by simp [acts])] at steps
  refine ⟨fun pending => ?_, fun quiet => ?_⟩
  · rw [if_pos (by simpa using pending)] at steps
    exact steps
  · rw [if_neg (by simpa using quiet)] at steps
    refine steps.trans (congrArg _ (finish_kept hc ?_))
    rfl

end

/-! ## The events of the monitor -/

section
variable {c k : Nat} {s : State} {w : Warp} (hw : s.warp? (warpKey c k) = some w)
include hw

theorem monitorWrite_run : exec (.monitorWrite c k) s =
    .next (s.putWarp (if w.st = .wait ∧ w.waitOn = some .monitor ∧ w.mon.written = true then w.awake else w)) := by
  have steps : exec (.monitorWrite c k) s = execMonitorWrite c k s := rfl
  rw [steps, execMonitorWrite, State.modWarp, hw]
  dsimp only
  congr 2
  exact if_congr (by simp [and_assoc]) rfl rfl

theorem mwaitTimeout_run :
    let due := (w.st = .wait ∧ w.waitOn = some .monitor) ∧ w.mon.armed = true ∧ w.mon.written = false ∧ ∃ d, w.mon.deadline = some d ∧ d < s.coreCycle w.core
    (due → exec (.mwaitTimeout c k) s = .next (s.takeTrap { w with mon := {}, restored := false } { cls := 21, detail := w.mon.line } w.pc)) ∧
    (¬due → exec (.mwaitTimeout c k) s = .next s) := by
  intro due
  have steps : exec (.mwaitTimeout c k) s = execMwaitTimeout c k s := rfl
  rw [steps, execMwaitTimeout, hw]
  dsimp only
  rcases set : w.mon.deadline with _ | d
  · exact ⟨fun h => by simp [due, set] at h, fun _ => congrArg _ (if_neg (by simp))⟩
  · have decides : (w.st = .wait && w.waitOn = some .monitor && w.mon.armed && !w.mon.written && d < s.coreCycle w.core) = true ↔ due := by
      simp [due, set, and_assoc]
    exact ⟨fun h => congrArg _ (if_pos (decides.2 h)), fun h => congrArg _ (if_neg (mt decides.1 h))⟩

end

/-- Settles O37: the requests, the time, and the monitor from its arming to its limit. -/
theorem requestsAndMonitor : Obligations.RequestsAndMonitor := by
  refine ⟨fun f s w hc ht => ?_, fun f s w hc ht => ?_, fun f => sclRuleNT_of (fun _ => rfl) fun _ _ _ => rfl,
    fun f => sclRuleNT_of (fun _ => rfl) fun s w unasked => ?_, fun f b => sclRuleNT_of (fun _ => rfl) fun s w asked => ?_,
    fun f s w hc own ht acts cl => ?_, fun f s w hc ht acts cl quiet => ?_, fun f s w hc ht acts => monclr_run hc ht acts, fun c k s w hw => ?_⟩
  · beta_reduce
    rw [← State.requested_iff]
    refine ⟨fun idle => (yield_run hc ht f).trans (if_pos ?_), fun acts asked => (yield_run hc ht f).trans (if_neg ?_)⟩
    · simpa using idle
    · simp [acts, asked]
  · beta_reduce
    rw [← State.requested_iff]
    refine ⟨fun idle => (brpq_run hc ht f).trans (if_pos ?_), fun acts asked => (brpq_run hc ht f).trans (if_neg ?_)⟩
    · simpa using idle
    · simp [acts, asked]
  · exact funext fun _ => toDeadline_unasked unasked
  · exact funext fun _ => toDeadline_asked asked.1 asked.2
  · exact ⟨mon_fenced hc ht acts cl, mon_full hc ht acts cl, fun k free entry => ⟨mon_faults hc ht acts cl free entry, mon_arms hc ht acts cl free entry own⟩⟩
  · refine ⟨mwait_unarmed hc ht acts cl quiet, mwait_done hc ht acts cl quiet, fun armed unwritten fresh => ?_⟩
    have steps := mwait_pending hc ht acts cl quiet armed unwritten fresh
    refine ⟨fun late => steps.trans (congrArg _ (mwaitOutcome_late late)), fun early => ?_⟩
    obtain ⟨w1, put, rest⟩ := mwaitOutcome_early ht early
    exact ⟨w1, steps.trans (congrArg _ put), rest⟩
  · exact ⟨monitorWrite_run hw, fun waiting armed unwritten late => (mwaitTimeout_run hw).1 ⟨waiting, armed, unwritten, late⟩, (mwaitTimeout_run hw).2⟩

end Sys2Proof.Machine

/-!
Predicate and vector forms of a Seam core (R382, R383, R389–R391).
-/

namespace Sys2Proof.Machine

/-! ## A form that changes its instance alone -/

theorem seamRule_of {mk : SeamOp → Instr} {eff : SeamOp → State → SeamInst → SeamTask → SeamInst} {form : SeamOp → SeamInst → SeamInst}
    (e : ∀ o s, exec (mk o) s = seamOp s fun i _ => .next (form o i)) (same : ∀ o s i t, form o i = eff o s i t) (pc : ∀ o s i t, (eff o s i t).pc = i.pc) :
    SeamRule mk eff := by
  intro o s id i t h
  rw [e, seamOp_runs _ h, State.finishSeam, same o s i t, pc]

theorem seamVector_of {mk : SeamOp → Instr} {side : SeamOp → Prop} {on : SeamOp → SeamInst → Nat → Bool} {val : SeamOp → SeamInst → Nat → Lane32}
    {form : SeamOp → SeamInst → SeamInst} (e : ∀ o s, exec (mk o) s = seamOp s fun i _ => .next (form o i))
    (same : ∀ o i, side o → form o i = { i with z := tset i.z o.d.toNat ((List.range 16).map fun l => if on o i l then val o i l else i.zlane o.d l) }) :
    SeamVector mk side on val := by
  intro o s id i t ho h
  rw [e, seamOp_runs _ h, State.finishSeam, same o i ho]

/-- A form whose lanes are those of the guard. -/
theorem seamLanes_eq (o : SeamOp) (i : SeamInst) (f g : Nat → Lane32) (eq : ∀ l, f l = g l) : i.zlanes o.d (seamLanes o i) f =
    { i with z := tset i.z o.d.toNat ((List.range 16).map fun l => if (i.kget o.k.toNat).getLsbD l then g l else i.zlane o.d l) } :=
  zlanes_eq i o.d _ f g _ (fun _ hl => contains_seamLanes o i hl) fun l _ _ => eq l

/-- The lanes of the FP64 elements that take part. -/
theorem contains_elems {p : Nat → Bool} {l : Nat} (hl : l < 16) :
    (((List.range 8).filter p).flatMap fun e => [2 * e, 2 * e + 1]).contains l = p (l / 2) := by
  rw [Bool.eq_iff_iff, List.contains_iff_mem, List.mem_flatMap]
  simp only [List.mem_filter, List.mem_range, List.mem_cons, List.not_mem_nil, or_false]
  constructor
  · rintro ⟨e, ⟨-, he⟩, hl⟩
    rwa [show l / 2 = e by omega]
  · exact fun he => ⟨l / 2, ⟨by omega, he⟩, by omega⟩

theorem getD_halves (n l : Nat) : (halves n).getD (l % 2) 0 = if l % 2 = 0 then BitVec.ofNat 32 n else BitVec.ofNat 32 (n / 2 ^ 32) := by
  rcases Nat.mod_two_eq_zero_or_one l with h | h
  · rw [h, if_pos rfl]
    rfl
  · rw [h, if_neg (by decide)]
    rfl

theorem seamFloat_of {mk : SeamOp → Instr} {val : SeamOp → SeamInst → Fmt → Nat → Nat}
    (e : ∀ o s, exec (mk o) s = seamOp s fun i _ => .next (seamFloat o i (val o i))) : SeamFloat mk val := by
  refine ⟨seamVector_of e fun o i single => ?_, seamVector_of e fun o i double => ?_⟩
  · rw [seamFloat, if_neg (by rw [single]; exact Bool.false_ne_true)]
    exact seamLanes_eq o i _ _ fun _ => rfl
  · rw [seamFloat, if_pos double]
    refine zlanes_eq i o.d _ _ _ _ (fun l hl => ?_) fun l _ _ => getD_halves ..
    rw [seamElems, contains_elems hl, seamGuard, Nat.mul_comm]

/-! ## Predicates (R389, R390) -/

theorem kget_kput (i : SeamInst) (r : Nat) (v : BitVec 16) : i.kget 0 = 0xFFFF ∧ (r ≠ 0 → (i.kput r v).kget r = v) :=
  ⟨rfl, fun h => (if_neg h).trans (tget_tset_same ..)⟩

/-- The operation of `klogic`, by its code. -/
def seamLogic (f : Nat) (a b : BitVec 16) : BitVec 16 :=
  match f with
  | 0 => a &&& b
  | 1 => a ||| b
  | 2 => a ^^^ b
  | 3 => a &&& ~~~b
  | _ => ~~~a

theorem seamLogic_eq (f : BitVec 6) (a b : BitVec 16) : seamLogic f.toNat a b =
    if f = 0 then a &&& b else if f = 1 then a ||| b else if f = 2 then a ^^^ b else if f = 3 then a &&& ~~~b else ~~~a := by
  simp only [BitVec.toNat_eq (x := f), BitVec.reduceToNat]
  match f.toNat with
  | 0 | 1 | 2 | 3 => rfl
  | n + 4 => rfl

theorem seamCompare_eq (o : SeamOp) (i : SeamInst) (l : Nat) : seamCompare o i l =
    (let cc := o.f.toNat % 8
     let ty := o.f.toNat / 8 % 4
     let a := i.zlane o.a l
     let b := i.zlane o.b l
     if ty = 0 then seamGuard o i l && fpCmp Fmt.f32 false cc a.toNat b.toNat
     else if ty = 1 then seamGuard o i l && conditionHolds cc a b
     else if ty = 2 then seamGuard o i l && conditionHolds (if cc < 2 then cc else cc + 4) a b
     else seamGuard o i (l / 2 * 2) && fpCmp Fmt.f64 false cc (i.zpair o.a (l / 2)).toNat (i.zpair o.b (l / 2)).toNat) := by
  have code : (o.f.extractLsb' 0 3).toNat = o.f.toNat % 8 := by rw [BitVec.extractLsb'_toNat, Nat.shiftRight_zero]
  have type : (o.f.extractLsb' 3 2).toNat = o.f.toNat / 8 % 4 := by rw [BitVec.extractLsb'_toNat, Nat.shiftRight_eq_div_pow]
  have order : ∀ cc : Nat, (if 2 ≤ cc then cc + 4 else cc) = if cc < 2 then cc else cc + 4 := fun cc => by split <;> split <;> omega
  simp only [seamCompare, code, type, intCond_eq, order]
  have small : o.f.toNat / 8 % 4 < 4 := by omega
  match o.f.toNat / 8 % 4, small with
  | 0, _ | 1, _ | 2, _ | 3, _ => rfl

/-- Bits set one by one make the sum of their powers of two. -/
theorem foldl_setBits (p : Nat → Bool) {n : Nat} (hn : n ≤ 16) :
    (List.range n).foldl (fun k l => if p l then k ||| (1#16 <<< l) else k) 0#16 = BitVec.ofNat 16 (((List.range n).filter p).foldl (fun n l => n + 2 ^ l) 0) ∧
      ((List.range n).filter p).foldl (fun n l => n + 2 ^ l) 0 < 2 ^ n := by
  induction n with
  | zero => exact ⟨rfl, Nat.one_pos⟩
  | succ n ih =>
    obtain ⟨bits, small⟩ := ih (Nat.le_of_succ_le hn)
    rw [List.range_succ, List.foldl_append, List.filter_append, List.foldl_append, bits]
    generalize ((List.range n).filter p).foldl (fun n l => n + 2 ^ l) 0 = k at small
    by_cases set : p n = true
    · have bit : 1#16 <<< n = BitVec.ofNat 16 (2 ^ n) := by
        rw [shiftLeft_eq_ofNat]
        simp
      have sum : k ||| 2 ^ n = k + 2 ^ n := by
        rw [Nat.lor_comm, Nat.add_comm, ← Nat.mul_one (2 ^ n), Nat.two_pow_add_eq_or_of_lt small]
      simp only [List.foldl_cons, List.foldl_nil, set, if_true, List.filter_cons_of_pos, List.filter_nil, bit]
      exact ⟨by rw [← BitVec.ofNat_or, sum], by rw [Nat.pow_succ]; omega⟩
    · simp only [List.foldl_cons, List.foldl_nil, set, Bool.false_eq_true, if_false, not_false_eq_true, List.filter_cons_of_neg, List.filter_nil]
      exact ⟨trivial, by rw [Nat.pow_succ]; omega⟩

theorem vcmp_eq (o : SeamOp) (i : SeamInst) : (List.range 16).foldl (fun k l => if seamCompare o i l then k ||| (1#16 <<< l) else k) 0 =
    BitVec.ofNat 16 (((List.range 16).filter (seamCompare o i)).foldl (fun n l => n + 2 ^ l) 0) := (foldl_setBits (seamCompare o i) (Nat.le_refl 16)).1

/-! ## Conversions (R390) -/

/-- The lane conversions of `vcvt`, by its code. -/
def seamCvt (f : BitVec 6) (a : Nat) : Nat :=
  if f = 0 then convertFF Fmt.bf16 Fmt.f32 {} (a % 2 ^ 16) else if f = 1 then convertFF Fmt.f32 Fmt.bf16 {} a
  else if f = 2 then convertFF Fmt.f16 Fmt.f32 {} (a % 2 ^ 16) else if f = 3 then convertFF Fmt.f32 Fmt.f16 {} a
  else if f = 4 then convertIF 32 true Fmt.f32 {} a else convertFI Fmt.f32 32 true { mode := 1, sat := true } a

theorem seamConvert_lanes {o : SeamOp} (i : SeamInst) (h : o.f.toNat ≤ 5) :
    seamConvert o i = i.zlanes o.d (seamLanes o i) fun l => BitVec.ofNat 32 (seamCvt o.f (i.zlane o.a l).toNat) := by
  have codes : o.f = 0 ∨ o.f = 1 ∨ o.f = 2 ∨ o.f = 3 ∨ o.f = 4 ∨ o.f = 5 := by
    simp only [BitVec.toNat_eq (x := o.f), BitVec.reduceToNat]
    omega
  rcases codes with f | f | f | f | f | f <;>
    simp only [seamConvert, seamCvt, f, BitVec.reduceToNat, BitVec.reduceEq, BitVec.ofNat_eq_ofNat, if_true, if_false]

theorem seamConvert_widens {o : SeamOp} (i : SeamInst) (h : o.f = 6 ∨ o.f = 7) : seamConvert o i =
    i.zlanes o.d (((List.range 8).filter fun e => seamGuard o i ((if o.f = 7 then 8 else 0) + e)).flatMap fun e => [2 * e, 2 * e + 1]) fun l =>
      (halves (convertFF Fmt.f32 Fmt.f64 {} (i.zlane o.a ((if o.f = 7 then 8 else 0) + l / 2)).toNat)).getD (l % 2) 0 := by
  rcases h with f | f <;>
    simp only [seamConvert, f, BitVec.reduceToNat, BitVec.reduceEq, BitVec.ofNat_eq_ofNat, if_true, if_false]

theorem seamConvert_narrows {o : SeamOp} (i : SeamInst) (h : o.f = 8 ∨ o.f = 9) : seamConvert o i =
    i.zlanes o.d ((seamLanes o i).filter fun l => (if o.f = 9 then 8 else 0) ≤ l && l < (if o.f = 9 then 8 else 0) + 8) fun l =>
      BitVec.ofNat 32 (convertFF Fmt.f64 Fmt.f32 {} (i.zpair o.a (l - if o.f = 9 then 8 else 0)).toNat) := by
  rcases h with f | f <;>
    simp only [seamConvert, f, BitVec.reduceToNat, BitVec.reduceEq, BitVec.ofNat_eq_ofNat, if_true, if_false]

theorem seamVcvt_lanes : SeamVector .vcvt (fun o => o.f.toNat ≤ 5) (fun o i l => (i.kget o.k.toNat).getLsbD l)
    fun o i l => BitVec.ofNat 32 (seamCvt o.f (i.zlane o.a l).toNat) :=
  seamVector_of (fun _ _ => rfl) fun o i h => (seamConvert_lanes i h).trans (seamLanes_eq o i _ _ fun _ => rfl)

theorem seamVcvt_widens : SeamVector .vcvt (fun o => o.f = 6 ∨ o.f = 7) (fun o i l => (i.kget o.k.toNat).getLsbD ((if o.f = 7 then 8 else 0) + l / 2))
    fun o i l =>
      let v := convertFF Fmt.f32 Fmt.f64 {} (i.zlane o.a ((if o.f = 7 then 8 else 0) + l / 2)).toNat
      BitVec.ofNat 32 (if l % 2 = 0 then v else v / 2 ^ 32) :=
  seamVector_of (fun _ _ => rfl) fun o i h => (seamConvert_widens i h).trans (zlanes_eq i o.d _ _ _ _ (fun _ hl => contains_elems hl) fun _ _ _ =>
    (getD_halves ..).trans (apply_ite (BitVec.ofNat 32) ..).symm)

theorem seamVcvt_narrows : SeamVector .vcvt (fun o => o.f = 8 ∨ o.f = 9)
    (fun o i l => (i.kget o.k.toNat).getLsbD l && (if o.f = 9 then 8 ≤ l else l < 8))
    fun o i l => BitVec.ofNat 32 (convertFF Fmt.f64 Fmt.f32 {} (i.zpair o.a (l % 8)).toNat) := by
  refine seamVector_of (fun _ _ => rfl) fun o i h => (seamConvert_narrows i h).trans (zlanes_eq i o.d _ _ _ _ (fun l hl => ?_) fun l hl takes => ?_)
  · rw [Bool.eq_iff_iff, List.contains_iff_mem, List.mem_filter, ← List.contains_iff_mem, contains_seamLanes o i hl]
    by_cases high : o.f = 9
    · simp only [if_pos high, Bool.and_eq_true, decide_eq_true_eq]
      exact and_congr_right fun _ => ⟨And.left, fun h => ⟨h, by omega⟩⟩
    · simp only [if_neg high, Bool.and_eq_true, decide_eq_true_eq]
      exact and_congr_right fun _ => ⟨fun h => by omega, fun h => ⟨Nat.zero_le l, by omega⟩⟩
  · have place : (l - if o.f = 9 then 8 else 0) = l % 8 := by
      by_cases high : o.f = 9
      · simp only [high, if_true, Bool.and_eq_true, decide_eq_true_eq] at takes ⊢
        omega
      · simp only [high, if_false, Bool.and_eq_true, decide_eq_true_eq] at takes ⊢
        omega
    rw [place]

/-! ## Reductions (R391) -/

/-- A tree of sums. -/
theorem treeBlock_sum {n : Nat} (v : Nat → Option (BitVec n)) (k b : Nat) :
    (treeBlock (· + ·) v k b).getD 0 = ((List.range' b (2 ^ k)).map fun l => (v l).getD 0).sum := by
  have sums : ∀ x y : Option (BitVec n), (combineOpt (· + ·) x y).getD 0 = x.getD 0 + y.getD 0 := fun x y => by
    cases x <;> cases y <;> simp [combineOpt]
  induction k generalizing b with
  | zero => simp [treeBlock]
  | succ k ih =>
    rw [treeBlock, sums, ih, ih, Nat.pow_succ, Nat.mul_two, ← List.range'_append_1, List.map_append, List.sum_append]

/-- The sum over the lanes of a list that a test admits. -/
theorem foldl_filter_add {n : Nat} (p : Nat → Bool) (z : Nat → BitVec n) (l : List Nat) (a : BitVec n) :
    (l.filter p).foldl (fun n l => n + z l) a = a + (l.map fun l => if p l then z l else 0).sum := by
  induction l generalizing a with
  | nil => exact (BitVec.add_zero a).symm
  | cons x l ih =>
    rw [List.map_cons, List.sum_cons]
    by_cases takes : p x = true
    · rw [List.filter_cons_of_pos takes, List.foldl_cons, ih, if_pos takes, BitVec.add_assoc]
    · rw [List.filter_cons_of_neg takes, ih, if_neg takes]
      exact congrArg (a + ·) (BitVec.zero_add _).symm

/-- The result of a tree that keeps the first by a key, of the lanes of a range. -/
def BestOf {α : Type} (key : α → Int) (v : Nat → Option α) (lo hi : Nat) : Option α → Prop
  | none => ∀ l, lo ≤ l → l < hi → v l = none
  | some x => (∃ l, lo ≤ l ∧ l < hi ∧ v l = some x) ∧ ∀ l y, lo ≤ l → l < hi → v l = some y → key x ≤ key y

theorem BestOf.combine {α : Type} {op : α → α → α} {key : α → Int} (best : ∀ a b, (op a b = a ∨ op a b = b) ∧ key (op a b) ≤ key a ∧ key (op a b) ≤ key b)
    {v : Nat → Option α} {lo mid hi : Nat} (h1 : lo ≤ mid) (h2 : mid ≤ hi) {x y : Option α} (hx : BestOf key v lo mid x) (hy : BestOf key v mid hi y) :
    BestOf key v lo hi (combineOpt op x y) := by
  have sides : ∀ {l}, l < hi → l < mid ∨ (mid ≤ l ∧ l < hi) := fun h => by omega
  cases x with
  | none => cases y with
    | none => exact fun l hlo hhi => (sides hhi).elim (hx l hlo) fun h => hy l h.1 h.2
    | some b =>
      obtain ⟨⟨l, hl, hl', from'⟩, least⟩ := hy
      exact ⟨⟨l, by omega, hl', from'⟩, fun m z hlo hhi hz => (sides hhi).elim (fun h => by rw [hx m hlo h] at hz; cases hz) fun h => least m z h.1 h.2 hz⟩
  | some a =>
    obtain ⟨⟨l, hl, hl', from'⟩, least⟩ := hx
    cases y with
    | none => exact ⟨⟨l, hl, by omega, from'⟩, fun m z hlo hhi hz => (sides hhi).elim (fun h => least m z hlo h hz) fun h => by rw [hy m h.1 h.2] at hz; cases hz⟩
    | some b =>
      obtain ⟨⟨l', hm, hm', from''⟩, least'⟩ := hy
      obtain ⟨one, left, right⟩ := best a b
      refine ⟨?_, fun m z hlo hhi hz => (sides hhi).elim (fun h => left.trans (least m z hlo h hz)) fun h => right.trans (least' m z h.1 h.2 hz)⟩
      rcases one with same | same
      · exact ⟨l, hl, by omega, by rw [same, from']⟩
      · exact ⟨l', by omega, hm', by rw [same, from'']⟩

theorem bestOf_treeBlock {α : Type} {op : α → α → α} {key : α → Int} (best : ∀ a b, (op a b = a ∨ op a b = b) ∧ key (op a b) ≤ key a ∧ key (op a b) ≤ key b)
    (v : Nat → Option α) (k b : Nat) : BestOf key v b (b + 2 ^ k) (treeBlock op v k b) := by
  induction k generalizing b with
  | zero =>
    have only : ∀ {l}, b ≤ l → l < b + 2 ^ 0 → l = b := fun h1 h2 => by omega
    rw [treeBlock]
    cases held : v b with
    | none => exact fun l h1 h2 => only h1 h2 ▸ held
    | some x =>
      refine ⟨⟨b, Nat.le_refl b, by omega, held⟩, fun l y h1 h2 hy => ?_⟩
      rw [only h1 h2, held] at hy
      exact (congrArg key (Option.some.inj hy)).le
  | succ k ih =>
    have whole : b + 2 ^ (k + 1) = b + 2 ^ k + 2 ^ k := by rw [Nat.pow_succ]; omega
    rw [whole]
    exact BestOf.combine best (Nat.le_add_right ..) (Nat.le_add_right ..) (ih b) (ih (b + 2 ^ k))

/-- One step of an integer reduction: a sum, the less or the greater. -/
def seamFold (o : SeamOp) (a b : Lane32) : Lane32 := seamArith (if o.f = 3 then 0 else if o.f = 4 then 9 else 10) a b 0

/-- The lanes a reduction sees. -/
def seamTerms (o : SeamOp) (i : SeamInst) (l : Nat) : Option Lane32 := if (seamLanes o i).contains l then some (i.zlane o.a l) else none

theorem seamTerms_none {o : SeamOp} {i : SeamInst} (h : seamLanes o i = []) (k b : Nat) {α : Type} (op : α → α → α) (g : Lane32 → α) :
    treeBlock op (fun l => (seamTerms o i l).map g) k b = none := by
  induction k generalizing b with
  | zero => simp [treeBlock, seamTerms, h]
  | succ k ih => rw [treeBlock, ih, ih, combineOpt]

theorem seamReduce_float {o : SeamOp} (i : SeamInst) (h : o.f.toNat < 3) (none' : seamLanes o i = []) :
    seamReduce o i = if o.f = 0 then 0 else 0x7FC00000 := by
  rw [seamReduce]
  dsimp only
  rw [if_pos h, show (seamLanes o i).any _ = false by rw [none']; rfl, if_neg Bool.false_ne_true]
  rw [show ∀ step, treeBlock step (fun l => (if (seamLanes o i).contains l then some (i.zlane o.a l) else none).map (·.toNat)) 4 0 = none from
    fun step => seamTerms_none none' 4 0 step _, Option.getD_none]
  split <;> rfl

theorem seamReduce_int {o : SeamOp} (i : SeamInst) (h : 3 ≤ o.f.toNat) : seamReduce o i =
    ((treeBlock (seamFold o) (seamTerms o i) 4 0).getD
      (if o.f = 3 then 0 else if o.f = 4 then 0x7FFFFFFF else 0x80000000)).signExtend 64 :=
  if_neg (Nat.not_lt.2 h)

theorem seamReduce_sum {o : SeamOp} (i : SeamInst) (h : o.f = 3) :
    seamReduce o i = ((seamLanes o i).foldl (fun (n : Lane32) l => n + i.zlane o.a l) 0).signExtend 64 := by
  rw [seamReduce_int i (by rw [h]; decide)]
  simp only [h, if_true]
  have sums : seamFold o = (· + ·) := by
    funext a b
    rw [seamFold, h]
    rfl
  rw [sums]
  have tree := treeBlock_sum (seamTerms o i) 4 0
  refine congrArg (BitVec.signExtend 64) (tree.trans ?_)
  refine Eq.trans ?_ ((foldl_filter_add ..).trans (BitVec.zero_add _)).symm
  refine congrArg List.sum (List.map_congr_left fun l hl => ?_)
  rw [seamTerms, contains_seamLanes o i (by simpa using (List.mem_range'_1.1 hl).2)]
  by_cases takes : (i.kget o.k.toNat).getLsbD l = true
  · rw [if_pos takes, Option.getD_some]
    exact (if_pos takes).symm
  · rw [if_neg takes, Option.getD_none]
    exact (if_neg takes).symm

/-- A reduction that keeps the first by a key. -/
theorem seamReduce_best {o : SeamOp} (i : SeamInst) (int : 3 ≤ o.f.toNat) {key : Lane32 → Int}
    (best : ∀ a b : Lane32, (seamFold o a b = a ∨
      seamFold o a b = b) ∧
      key (seamFold o a b) ≤ key a ∧
      key (seamFold o a b) ≤ key b)
    (some' : seamLanes o i ≠ []) :
    ∃ l ∈ seamLanes o i, seamReduce o i = (i.zlane o.a l).signExtend 64 ∧ ∀ m ∈ seamLanes o i, key (i.zlane o.a l) ≤ key (i.zlane o.a m) := by
  have tree := bestOf_treeBlock best (seamTerms o i) 4 0
  have held : ∀ l ∈ seamLanes o i, 0 ≤ l ∧ l < 0 + 2 ^ 4 ∧ seamTerms o i l = some (i.zlane o.a l) := fun l hl =>
    ⟨Nat.zero_le l, by simpa using List.mem_range.1 (List.mem_of_mem_filter hl), if_pos (List.contains_iff_mem.2 hl)⟩
  rw [seamReduce_int i int]
  cases value : treeBlock (seamFold o) (seamTerms o i) 4 0 with
  | none =>
    obtain ⟨l, hl⟩ := List.exists_mem_of_ne_nil _ some'
    rw [value] at tree
    obtain ⟨lo, hi, this⟩ := held l hl
    rw [tree l lo hi] at this
    cases this
  | some x =>
    rw [value] at tree
    obtain ⟨⟨l, -, -, from'⟩, least⟩ := tree
    have mem : l ∈ seamLanes o i := by
      by_contra out
      rw [seamTerms, if_neg (mt List.contains_iff_mem.1 out)] at from'
      cases from'
    obtain rfl : i.zlane o.a l = x := Option.some.inj ((held l mem).2.2.symm.trans from')
    exact ⟨l, mem, rfl, fun m hm => least m _ (held m hm).1 (held m hm).2.1 (held m hm).2.2⟩

theorem seamReduce_min {o : SeamOp} (i : SeamInst) (h : o.f = 4) (some' : seamLanes o i ≠ []) :
    ∃ l ∈ seamLanes o i, seamReduce o i = (i.zlane o.a l).signExtend 64 ∧ ∀ m ∈ seamLanes o i, (i.zlane o.a l).toInt ≤ (i.zlane o.a m).toInt := by
  refine seamReduce_best i (by rw [h]; decide) (fun a b => ?_) some'
  have picks : seamFold o a b = if b.toInt < a.toInt then b else a := by
    rw [seamFold, h, seamArith_eq]
    rfl
  rw [picks]
  split
  · exact ⟨.inr rfl, by omega, Int.le_refl _⟩
  · exact ⟨.inl rfl, Int.le_refl _, by omega⟩

theorem seamReduce_max {o : SeamOp} (i : SeamInst) (h : o.f = 5) (some' : seamLanes o i ≠ []) :
    ∃ l ∈ seamLanes o i, seamReduce o i = (i.zlane o.a l).signExtend 64 ∧ ∀ m ∈ seamLanes o i, (i.zlane o.a m).toInt ≤ (i.zlane o.a l).toInt := by
  have best : ∀ a b : Lane32, (seamFold o a b = a ∨
      seamFold o a b = b) ∧
      -(seamFold o a b).toInt ≤ -a.toInt ∧
      -(seamFold o a b).toInt ≤ -b.toInt := fun a b => by
    have picks : seamFold o a b = if a.toInt < b.toInt then b else a := by
      rw [seamFold, h, seamArith_eq]
      rfl
    rw [picks]
    split
    · exact ⟨.inr rfl, by omega, Int.le_refl _⟩
    · exact ⟨.inl rfl, Int.le_refl _, by omega⟩
  obtain ⟨l, mem, value, least⟩ := seamReduce_best i (key := fun a => -a.toInt) (by rw [h]; decide) best some'
  exact ⟨l, mem, value, fun m hm => by have := least m hm; omega⟩

theorem seamReduce_empty {o : SeamOp} (i : SeamInst) (none' : seamLanes o i = []) : seamReduce o i =
    if o.f = 0 then 0 else if o.f.toNat < 3 then 0x7FC00000 else if o.f = 3 then 0 else if o.f = 4 then 0x7FFFFFFF else 0xFFFFFFFF80000000 := by
  by_cases float : o.f.toNat < 3
  · rw [seamReduce_float i float none', if_pos float]
  · have int : o.f ≠ 0 := fun h => float (by rw [h]; decide)
    have empty := seamTerms_none none' 4 0 (seamFold o) id
    simp only [Option.map_id_fun, id] at empty
    rw [seamReduce_int i (by omega), empty, Option.getD_none, if_neg int, if_neg float]
    by_cases sum : o.f = 3
    · rw [if_pos sum, if_pos sum]
      rfl
    · by_cases least : o.f = 4
      · rw [if_neg sum, if_neg sum, if_pos least, if_pos least]
        rfl
      · rw [if_neg sum, if_neg sum, if_neg least, if_neg least]
        rfl

/-! ## The ranking (R391) -/

/-- `l` ranks before `m`: its key is less, or they are the same and it is the lower lane. -/
def RanksBefore (key : Nat → Int) (l m : Nat) : Prop := key l < key m ∨ (key l = key m ∧ l < m)

theorem rankInsert_perm (lt : Nat → Nat → Bool) (l : Nat) (r : List Nat) : (rankInsert lt l r).Perm (l :: r) := by
  induction r with
  | nil => exact List.Perm.refl _
  | cons a t ih =>
    rw [rankInsert]
    split
    · exact List.Perm.refl _
    · exact (ih.cons a).trans (List.Perm.swap l a t)

theorem rankInsert_pairwise (key : Nat → Int) (l : Nat) (r : List Nat) (sorted : r.Pairwise (RanksBefore key)) (higher : ∀ a ∈ r, a < l) :
    (rankInsert (fun a b => decide (key a < key b)) l r).Pairwise (RanksBefore key) := by
  induction r with
  | nil => exact List.pairwise_singleton ..
  | cons a t ih =>
    obtain ⟨first, rest⟩ := List.pairwise_cons.1 sorted
    rw [rankInsert]
    split
    · rename_i less
      have less : key l < key a := of_decide_eq_true less
      refine List.pairwise_cons.2 ⟨fun b hb => .inl ?_, sorted⟩
      rcases List.mem_cons.1 hb with rfl | hb
      · exact less
      · rcases first b hb with h | h <;> omega
    · rename_i less
      have less : ¬key l < key a := fun h => less (decide_eq_true h)
      refine List.pairwise_cons.2 ⟨fun b hb => ?_, ih rest fun b hb => higher b (List.mem_cons_of_mem a hb)⟩
      rcases List.mem_cons.1 ((rankInsert_perm _ l t).mem_iff.1 hb) with rfl | hb
      · have := higher a List.mem_cons_self
        simp only [RanksBefore]
        omega
      · exact first b hb

theorem rank_foldl (key : Nat → Int) (ls r : List Nat) (lanes : ls.Pairwise (· < ·)) (below : ∀ a ∈ r, ∀ b ∈ ls, a < b) (sorted : r.Pairwise (RanksBefore key)) :
    (ls.foldl (fun r l => rankInsert (fun a b => decide (key a < key b)) l r) r).Perm (r ++ ls) ∧
      (ls.foldl (fun r l => rankInsert (fun a b => decide (key a < key b)) l r) r).Pairwise (RanksBefore key) := by
  induction ls generalizing r with
  | nil => exact ⟨.of_eq (List.append_nil r).symm, sorted⟩
  | cons l t ih =>
    obtain ⟨least, rest⟩ := List.pairwise_cons.1 lanes
    have perm := rankInsert_perm (fun a b => decide (key a < key b)) l r
    obtain ⟨same, ranked⟩ := ih (rankInsert (fun a b => decide (key a < key b)) l r) rest
      (fun a ha b hb => by
        rcases List.mem_cons.1 (perm.mem_iff.1 ha) with rfl | ha
        · exact least b hb
        · exact below a ha b (List.mem_cons_of_mem l hb))
      (rankInsert_pairwise key l r sorted fun a ha => below a ha l List.mem_cons_self)
    exact ⟨same.trans ((perm.append_right t).trans List.perm_middle.symm), ranked⟩

/-- What lanes are ranked by: their keys, turned round for a descending sort. -/
def rankKey (o : SeamOp) (i : SeamInst) (l : Nat) : Int :=
  if o.f.getLsbD 1 then -Fmt.f32.orderKey (i.zlane o.a l).toNat else Fmt.f32.orderKey (i.zlane o.a l).toNat

/-- The lanes of `vsrt` in their order. -/
def seamRanked (o : SeamOp) (i : SeamInst) : List Nat :=
  (seamLanes o i).foldl (fun r l => rankInsert (fun a b => decide (rankKey o i a < rankKey o i b)) l r) []

theorem seamRanked_spec (o : SeamOp) (i : SeamInst) : (seamRanked o i).Perm (seamLanes o i) ∧ (seamRanked o i).Pairwise (RanksBefore (rankKey o i)) :=
  rank_foldl _ _ [] (List.pairwise_lt_range.filter _) (fun _ h => nomatch h) .nil

theorem seamSort_eq (o : SeamOp) (i : SeamInst) : seamSort o i = { i with z := tset i.z o.d.toNat ((List.range 16).map fun n =>
    match (seamRanked o i)[n]? with
    | some l => i.zlane (if o.f.getLsbD 0 then o.b else o.a) l
    | none => 0xFFFFFFFF) } := by
  have order : (fun a b => decide (rankKey o i a < rankKey o i b)) = fun a b =>
      if o.f.getLsbD 1 then decide (Fmt.f32.orderKey (i.zlane o.a b).toNat < Fmt.f32.orderKey (i.zlane o.a a).toNat)
      else decide (Fmt.f32.orderKey (i.zlane o.a a).toNat < Fmt.f32.orderKey (i.zlane o.a b).toNat) := by
    funext a b
    by_cases down : o.f.getLsbD 1 = true
    · simp only [rankKey, if_pos down]
      exact decide_eq_decide.2 Int.neg_lt_neg_iff
    · simp only [rankKey, if_neg down]
  rw [seamSort, seamRanked, order]
  rfl

theorem seamRanked_order {o : SeamOp} {i : SeamInst} {j k l m : Nat} (h : j < k) (hl : (seamRanked o i)[j]? = some l) (hm : (seamRanked o i)[k]? = some m) :
    (if o.f.getLsbD 1 then (Fmt.f32.orderKey (i.zlane o.a m).toNat : Int) < Fmt.f32.orderKey (i.zlane o.a l).toNat
      else (Fmt.f32.orderKey (i.zlane o.a l).toNat : Int) < Fmt.f32.orderKey (i.zlane o.a m).toNat) ∨
      ((Fmt.f32.orderKey (i.zlane o.a l).toNat : Int) = Fmt.f32.orderKey (i.zlane o.a m).toNat ∧ l < m) := by
  obtain ⟨hj, hl⟩ := List.getElem?_eq_some_iff.1 hl
  obtain ⟨hk, hm⟩ := List.getElem?_eq_some_iff.1 hm
  have before := List.pairwise_iff_getElem.1 (seamRanked_spec o i).2 j k hj hk h
  rw [hl, hm] at before
  simp only [RanksBefore, rankKey] at before
  cases down : o.f.getLsbD 1 <;> simp only [down, if_true, Bool.false_eq_true, if_false] at before ⊢ <;> omega

/-! ## The other forms -/

theorem extract_low {n m : Nat} (a : BitVec n) : a.extractLsb' 0 m = a.setWidth m := by
  refine BitVec.eq_of_toNat_eq ?_
  rw [BitVec.extractLsb'_toNat, Nat.shiftRight_zero, BitVec.toNat_setWidth]

theorem seamVfUn_eq (f : Fmt) (op a : Nat) : seamVfUn f op a =
    if op = 0 then fpSqrt f {} a else if op = 1 then fpRsqrt f {} a else if op = 2 then a % f.signBit else f.negate a := by
  match op with
  | 0 | 1 | 2 => rfl
  | n + 3 => rfl

theorem seamVf_codes (f : Fmt) (a b : Nat) : seamVf f 0 a b = fpAdd f {} a b ∧ seamVf f 1 a b = fpSub f {} a b ∧ seamVf f 2 a b = fpMul f {} a b ∧
    seamVf f 3 a b = fpDiv f {} a b ∧ seamVf f 4 a b = fpMinMax f false false a b ∧ seamVf f 5 a b = fpMinMax f false true a b :=
  ⟨rfl, rfl, rfl, rfl, rfl, rfl⟩

/-- Settles O45: each form changes its instance alone, lane by lane; the comparisons, conversions, reductions and the ranking have their
lemmas above. -/
theorem seamVectorForms : Obligations.SeamVectorForms := by
  unfold Obligations.SeamVectorForms
  dsimp only
  have low : ∀ {n : Nat} (a : BitVec n) (k m : Nat), 2 ^ k = m → (a.extractLsb' 0 k).toNat = a.toNat % m := fun a k m h => by
    rw [BitVec.extractLsb'_toNat, Nat.shiftRight_zero, h]
  refine ⟨kget_kput, ?_, ?_, ?_, ?_, ?_, ?_, ?_, seamVf_codes, ?_, ?_, ?_, ?_, seamVcvt_lanes, seamVcvt_widens, seamVcvt_narrows, ?_, ?_, ?_, ?_, ?_, ?_, ?_, ?_, ?_⟩
  · exact seamRule_of (fun _ _ => rfl) (fun o s i t => congrArg (fun v => { i with k := tset i.k o.d.toNat v }) (seamLogic_eq o.f _ _)) fun _ _ _ _ => rfl
  · exact seamRule_of (fun _ _ => rfl) (fun o s i t => congrArg (fun v => { i with k := tset i.k o.d.toNat v }) (extract_low _)) fun _ _ _ _ => rfl
  · refine seamScalar_of fun o s => congrArg (seamOp s) (funext₂ fun i _ => congrArg (fun v => SRes.next (i.xput o.d v)) ?_)
    rw [apply_ite (BitVec.ofNat 64)]
    congr 1
    exact BitVec.eq_of_toNat_eq (by rw [BitVec.toNat_setWidth, BitVec.toNat_ofNat])
  · exact seamFloat_of fun o s => by
      simp only [← low o.f 3 8 rfl]
      rfl
  · exact seamFloat_of fun o s => by
      simp only [← low o.f 3 8 rfl]
      rfl
  · exact seamFloat_of fun o s => by
      simp only [← seamC_eq]
      rfl
  · exact seamFloat_of fun o s => by
      simp only [← seamVfUn_eq, ← low o.f 2 4 rfl]
      rfl
  · exact seamVector_of (fun _ _ => rfl) fun o i _ => seamLanes_eq o i _ _ fun l => by rw [seamArith_eq, low _ 5 32 rfl]
  · exact seamVector_of (fun _ _ => rfl) fun o i _ => seamLanes_eq o i _ _ fun l => by
      rw [seamArith_eq, extract_low, low _ 5 32 rfl, BitVec.toNat_setWidth, Nat.mod_mod_of_dvd _ (by decide)]
  · refine seamRule_of (fun _ _ => rfl) (fun o s i t => congrArg (fun v => { i with k := tset i.k o.d.toNat v }) ?_) fun _ _ _ _ => rfl
    rw [vcmp_eq, funext (seamCompare_eq o i)]
    rfl
  · exact seamVector_of (fun _ _ => rfl) fun o i _ => zlanes_eq i o.d _ _ _ _ (fun l hl => List.contains_iff_mem.2 (List.mem_range.2 hl)) fun l _ _ => rfl
  · exact seamVector_of (fun _ _ => rfl) fun o i _ => seamLanes_eq o i _ _ fun l => by
      rw [extract_low, ← BitVec.setWidth_ushiftRight_eq_extractLsb]
  · exact seamScalar_of fun o s => rfl
  · refine seamVector_of (fun _ _ => rfl) fun o i _ => zlanes_eq i o.d _ _ _ _ (fun l hl => ?_) fun l _ _ => extract_low _
    simp
  · exact seamVector_of (fun _ _ => rfl) fun o i _ => seamLanes_eq o i _ _ fun l => by rw [low _ 4 16 rfl]
  · exact seamVector_of (fun _ _ => rfl) fun o i _ => seamLanes_eq o i _ _ fun l => rfl
  · exact seamVector_of (fun _ _ => rfl) fun o i _ => seamLanes_eq o i _ _ fun l => rfl
  · exact seamScalar_of fun o s => rfl
  · exact fun o i => ⟨seamReduce_sum i, seamReduce_min i, seamReduce_max i, seamReduce_empty i⟩
  · intro o s id i t h
    refine ⟨seamRanked o i, (seamRanked_spec o i).1, fun j k l m => seamRanked_order, ?_⟩
    have run := seamOp_runs (fun i _ => .next (seamSort o i)) h
    rw [seamSort_eq, State.finishSeam] at run
    exact run

end Sys2Proof.Machine

/-!
Taking a trap and returning from one (R396–R404, R421).
-/

namespace Sys2Proof.Machine

/-! ## Entering the handler (R400, R401) -/

namespace Warp

/-- `w1` is `w` in the handler of class `cls` under `base`: the record holds what the trap leaves there, with s120–s127 and mm; nothing else has changed. -/
def InHandler (w w1 : Warp) (base trapPc retPc detail info : Word) (slot cls pend : Nat) : Prop :=
  w1.sup = true ∧ w1.pc = base + BitVec.ofNat 64 (128 * cls) ∧ w1.mm = 1#16 <<< slot ∧ w1.recMm = w.mm ∧ w1.lcSaved = w.lc ∧
    (w1.record.take 8 = [info, trapPc, detail, retPc, BitVec.ofNat 64 pend, 0, 0, 0]) ∧ (∀ i < 8, w1.record.getD (8 + i) 0 = tget 0 w.s (120 + i)) ∧
    w1.s = w.s ∧ w1.v = w.v ∧ w1.banks = w.banks ∧ w1.paths = w.paths ∧ w1.lc = w.lc ∧ w1.key = w.key

theorem getD_saved (w : Warp) (head : List Word) (h : head.length = 8) {i : Nat} (hi : i < 8) :
    (head ++ (List.range 8).map fun i => tget 0 w.s (120 + i)).getD (8 + i) 0 = tget 0 w.s (120 + i) := by
  rw [List.getD_append_right _ _ _ _ (by omega), h, Nat.add_sub_cancel_left, List.getD_eq_getElem?_getD, List.getElem?_map,
    List.getElem?_range hi]
  rfl

theorem inHandler_enterTrap (w : Warp) (base : Word) (t : TrapReq) (trapPc retPc : Word) (path log : Nat) (lane : Bool) (pend : Nat) (back : Bool) (q : Option Nat) :
    w.InHandler { w.enterTrap base t trapPc retPc path log lane pend with loopTrap := back, recEntry := q } (base &&& 0x00FFFFFFFFFFFFFC#64)
      trapPc retPc t.detail (trapInfo t path log lane) t.slot t.cls pend :=
  ⟨rfl, rfl, rfl, rfl, rfl, rfl, fun _ hi => getD_saved w _ rfl hi, rfl, rfl, rfl, rfl, rfl, rfl⟩

theorem trapAbort_of_no_tx {w : Warp} (h : w.tx = none) (a : Word) : w.trapAbort a = w := by
  simp only [trapAbort, dropTx, h]
  rfl

theorem pendAbort_of_no_tx {w : Warp} (h : w.tx = none) (cause code : Nat) (a : Word) : w.pendAbort cause code a = w := by
  simp only [pendAbort, h]

/-- The warp with the fault of `p` marked as the one its record names. -/
def withFaultInRecord (w : Warp) (e : LogEntry) (p : Part) : Warp :=
  { w with log := w.log.map fun x => if x.seq = e.seq then
      { x with parts := x.parts.map fun q => if q.slot = p.slot && q.lane = p.lane then { q with inRec := true } else q } else x }

end Warp

namespace State

theorem handled_iff {s : State} {w : Warp} {sup : Bool} :
    s.handled w sup = true ↔ w.foreman = false ∧ (s.ctx w.ctx).trapvec &&& 0x00FFFFFFFFFFFFFC#64 ≠ 0 ∧ sup = false := by
  simp [handled, and_assoc]

theorem handled_eq_false {s : State} {w : Warp} {sup : Bool} (h : w.foreman = true ∨ (s.ctx w.ctx).trapvec &&& 0x00FFFFFFFFFFFFFC#64 = 0 ∨ sup = true) :
    s.handled w sup = false := by
  rw [Bool.eq_false_iff, Ne, handled_iff]
  rintro ⟨f, v, u⟩
  rcases h with h | h | h
  · exact Bool.false_ne_true (f.symm.trans h)
  · exact v h
  · exact Bool.false_ne_true (u.symm.trans h)

theorem enterHandler_spec (s : State) (w : Warp) (t : TrapReq) (pc : Word) :
    let w0 := w.trapAbort (if t.cls = 2 || t.cls = 11 then t.detail else 0)
    ∃ w1, s.enterHandler w t pc false = s.putWarp w1 ∧ w1.recEntry = none ∧ w1.log = w0.log ∧
      w0.InHandler w1 ((s.ctx w0.ctx).trapvec &&& 0x00FFFFFFFFFFFFFC#64) pc w0.pc t.detail (trapInfo t w0.curPath 0 false) t.slot t.cls w0.pendingFaults.length :=
  ⟨_, rfl, rfl, rfl, Warp.inHandler_enterTrap ..⟩

/-- A handled trap is entered once nothing the warp has issued is outstanding. -/
theorem takeTrap_handled {s : State} {w : Warp} (h : s.handled w w.sup = true) (t : TrapReq) (pc : Word) :
    (w.log = [] → s.mxOf w = [] → s.takeTrap w t pc = s.enterHandler w t pc false) ∧
      (w.log ≠ [] ∨ s.mxOf w ≠ [] → w.tx = none → s.takeTrap w t pc = s.putWarp { w.awake with trapDue := some (t, pc, false) }) := by
  have idle : s.idle w = true ↔ w.log = [] ∧ s.mxOf w = [] := by simp [State.idle]
  refine ⟨fun log mx => ?_, fun busy tx => ?_⟩
  · rw [takeTrap, h, if_neg (by decide), if_pos (idle.2 ⟨log, mx⟩)]
  · rw [takeTrap, h, if_neg (by decide), if_neg (fun h => (idle.1 h).elim fun log mx => busy.elim (· log) (· mx)), Warp.pendAbort_of_no_tx tx]

theorem takeTrap_unhandled {s : State} {w : Warp} (h : s.handled w w.sup = false) (t : TrapReq) (pc : Word) :
    s.takeTrap w t pc = ((s.putWarp (w.trapAbort 0)).blockError w.blk 6 t.cls w.core pc.toNat).abortBlock w.blk := by
  rw [takeTrap, h, if_pos (by decide), trapUnhandled]

theorem frontWarp_due {s : State} {w : Warp} {t : TrapReq} {pc : Word} {back : Bool} (none' : s.boundary w = none) (due : w.trapDue = some (t, pc, back)) :
    s.frontWarp w = (if s.settled w then s.enterHandler w t pc back else s, none) := by
  simp only [frontWarp, none', boundaryWait, due, Option.isSome_some, Bool.true_or, if_true]
  cases s.settled w <;> rfl

/-! ## Aborting the block (R399) -/

theorem foldl_dropMx (s : State) (ws : List Warp) : (ws.foldl dropMx s).warps = s.warps ∧ (ws.foldl dropMx s).blocks = s.blocks :=
  ⟨foldl_keep State.warps dropMx (fun s w => by unfold dropMx; split <;> rfl) ws s, foldl_keep State.blocks dropMx (fun s w => by unfold dropMx; split <;> rfl) ws s⟩

theorem abortBlock_warps (s : State) (b : Nat) :
    ∀ p ∈ (s.abortBlock b).warps, p.2.blk = b → p.2.ended = true ∧ p.2.st = .free ∧ p.2.log = [] ∧ p.2.tx = none := by
  intro p hp own
  obtain ⟨q, -, rfl⟩ := List.mem_map.1 hp
  by_cases mine : q.2.blk = b
  · rw [if_pos mine]
    exact ⟨rfl, rfl, rfl, rfl⟩
  · rw [if_neg mine] at own
    exact absurd own mine

theorem abortBlock_block? (s : State) (b k : Nat) {x : Block} (h : s.block? k = some x) :
    (s.abortBlock b).block? k = some (if k = b then { x with aborted := true } else x) := by
  have held : ((s.blockWarps b).foldl dropMx s).block? k = some x := (congrArg (tfind · k) (foldl_dropMx s _).2).trans h
  rw [abortBlock]
  by_cases same : k = b
  · subst same
    rw [if_pos rfl, block?_modBlock_same]
    exact congrArg (Option.map _) held
  · rw [if_neg same, block?_modBlock_ne _ _ same]
    exact held

theorem blockError_node? {s : State} {b : Nat} {x : Block} {n : Node} (cls detail unit addr : Nat) (hb : s.block? b = some x) (hn : s.node? x.node = some n) :
    (s.blockError b cls detail unit addr).node? x.node = some { n with err := n.err.add cls detail unit addr } := by
  simp only [blockError, hb, node?_modNode_same, hn]
  rfl

end State

/-! ## INFO (R401) -/

theorem trapInfo_fields {t : TrapReq} {path log : Nat} (lane : Bool) (hcls : t.cls < 256) (hcause : t.cause < 256) (hslot : t.slot < 16) (hlane : t.lane < 128)
    (hpath : path < 4) (hlog : log < 8) :
    let x := trapInfo t path log lane
    x.extractLsb' 0 8 = BitVec.ofNat 8 t.cls ∧ x.extractLsb' 8 8 = BitVec.ofNat 8 t.cause ∧ x.extractLsb' 16 4 = BitVec.ofNat 4 t.slot ∧
    x.extractLsb' 20 7 = BitVec.ofNat 7 t.lane ∧ x.extractLsb' 27 2 = BitVec.ofNat 2 path ∧ x.extractLsb' 29 3 = BitVec.ofNat 3 log ∧
    x.getLsbD 32 = lane ∧ x.extractLsb' 33 31 = 0 := by
  intro x
  have bit : (if lane then 2 ^ 32 else 0) = 2 ^ 32 * lane.toNat := by cases lane <;> rfl
  have small := Bool.toNat_lt lane
  have value : x.toNat = t.cls + 2 ^ 8 * t.cause + 2 ^ 16 * t.slot + 2 ^ 20 * t.lane + 2 ^ 27 * path + 2 ^ 29 * log + 2 ^ 32 * lane.toNat := by
    simp only [x, trapInfo, bit]
    exact Nat.mod_eq_of_lt (by omega)
  have field : ∀ (pos len v : Nat), x.toNat / 2 ^ pos % 2 ^ len = v % 2 ^ len → x.extractLsb' pos len = BitVec.ofNat len v := fun pos len v h =>
    BitVec.eq_of_toNat_eq (by rw [BitVec.extractLsb'_toNat, Nat.shiftRight_eq_div_pow, h, BitVec.toNat_ofNat])
  refine ⟨field _ _ _ ?_, field _ _ _ ?_, field _ _ _ ?_, field _ _ _ ?_, field _ _ _ ?_, field _ _ _ ?_, ?_, field 33 31 0 ?_⟩
  case refine_7 =>
    rw [← BitVec.testBit_toNat, Nat.testBit_eq_decide_div_mod_eq, show x.toNat / 2 ^ 32 % 2 = lane.toNat by rw [value]; omega]
    cases lane <;> rfl
  all_goals
    rw [value]
    omega

/-! ## The fault delivered first (R76, R396) -/

theorem keyLt_irrefl (a : List Nat) : State.keyLt a a = false := by
  induction a with
  | nil => rfl
  | cons x t ih => simp [State.keyLt, ih]

theorem keyLt_trans {a b c : List Nat} (h1 : State.keyLt a b = true) (h2 : State.keyLt b c = true) : State.keyLt a c = true := by
  induction a generalizing b c with
  | nil => cases h1
  | cons x a ih => cases b with
    | nil => cases h1
    | cons y b => cases c with
      | nil => cases h2
      | cons z c =>
        simp only [State.keyLt, Bool.or_eq_true, Bool.and_eq_true, decide_eq_true_eq] at h1 h2 ⊢
        rcases h1 with h1 | ⟨rfl, h1⟩
        · rcases h2 with h2 | ⟨rfl, -⟩
          · exact .inl (h1.trans h2)
          · exact .inl h1
        · exact h2.imp_right fun ⟨same, h2⟩ => ⟨same, ih h1 h2⟩

/-- The first of a list in an order. -/
theorem foldl_first {α : Type} {lt : α → α → Bool} (irrefl : ∀ a, lt a a = false) (trans : ∀ {a b c}, lt a b = true → lt b c = true → lt a c = true) (l : List α) (a : α) :
    let b := l.foldl (fun best y => if lt y best then y else best) a
    b ∈ a :: l ∧ (b = a ∨ lt b a = true) ∧ ∀ y ∈ a :: l, lt y b = false := by
  induction l generalizing a with
  | nil => exact ⟨List.mem_cons_self, .inl rfl, fun y hy => List.mem_singleton.1 hy ▸ irrefl a⟩
  | cons x l ih =>
    intro b
    obtain ⟨mem, first, least⟩ := ih (if lt x a then x else a)
    rw [← show b = l.foldl (fun best y => if lt y best then y else best) (if lt x a then x else a) from rfl] at mem first least
    by_cases before : lt x a = true
    · rw [if_pos before] at mem first least
      have first : lt b a = true := first.elim (fun same => same ▸ before) fun h => trans h before
      refine ⟨List.mem_cons_of_mem a mem, .inr first, fun y hy => ?_⟩
      rcases List.mem_cons.1 hy with rfl | hy
      · exact Bool.eq_false_iff.2 fun h => Bool.false_ne_true ((irrefl y).symm.trans (trans h first))
      · exact least y hy
    · rw [if_neg before] at mem first least
      refine ⟨?_, first, fun y hy => ?_⟩
      · exact (List.mem_cons.1 mem).elim (fun same => same ▸ List.mem_cons_self) fun h => List.mem_cons_of_mem a (List.mem_cons_of_mem x h)
      · rcases List.mem_cons.1 hy with rfl | hy
        · exact least y List.mem_cons_self
        · rcases List.mem_cons.1 hy with rfl | hy
          · exact Bool.eq_false_iff.2 fun h => before (first.elim (fun same => same ▸ h) (trans h))
          · exact least y (List.mem_cons_of_mem a hy)

theorem exec_trapDeliver_absent {c k : Nat} {s : State} (h : s.warp? (warpKey c k) = none) : exec (.trapDeliver c k) s = .next s := by
  have steps : exec (.trapDeliver c k) s = execTrapDeliver c k s := rfl
  rw [steps]
  simp only [execTrapDeliver, h]

theorem exec_trapDeliver {c k : Nat} {s : State} {w : Warp} (h : s.warp? (warpKey c k) = some w) :
    let stopped := w.ended = true ∨ w.st = .free ∨ w.st = .save ∨ s.settled w = false
    (w.dueFaults = [] ∨ stopped → exec (.trapDeliver c k) s = .next s) ∧
    (w.dueFaults ≠ [] → ¬stopped →
      ∃ x ∈ w.dueFaults, (∀ y ∈ w.dueFaults, faultFirst y x = false) ∧ exec (.trapDeliver c k) s = .next (s.takeLaneFault w x.1 x.2)) := by
  intro stopped
  have steps : exec (.trapDeliver c k) s = execTrapDeliver c k s := rfl
  have stops : (w.ended || w.st = .free || w.st = .save || !s.settled w) = true ↔ stopped := by simp [stopped, or_assoc]
  simp only [steps, execTrapDeliver, h]
  cases due : w.dueFaults with
  | nil => exact ⟨fun _ => rfl, fun h => absurd rfl h⟩
  | cons x rest =>
    obtain ⟨mem, -, least⟩ := foldl_first (lt := faultFirst) (fun a => keyLt_irrefl _) keyLt_trans rest x
    refine ⟨fun h => ?_, fun _ go => ⟨_, mem, least, ?_⟩⟩
    · exact congrArg _ (if_pos (stops.2 (h.resolve_left (List.cons_ne_nil x rest))))
    · exact congrArg _ (if_neg (mt stops.1 go))

theorem takeLaneFault_handled {s : State} {w : Warp} {e : LogEntry} {p : Part} {cls cause : Nat} {addr : Word} (fault : p.fault = some (cls, cause, addr))
    (h : s.handled w e.sup = true) :
    let w0 := w.trapAbort addr
    ∃ w1, s.takeLaneFault w e p = s.putWarp w1 ∧ w1.recEntry = some e.seq ∧
      w0.InHandler w1 ((s.ctx w.ctx).trapvec &&& 0x00FFFFFFFFFFFFFC#64) e.pc w0.pc addr
        (trapInfo { cls := cls, cause := cause, slot := p.slot, lane := p.lane % 96, detail := addr } (e.path % 4) e.idx true)
        p.slot cls (w.pendingFaults.length - 1) ∧
      w1.log = (w0.withFaultInRecord e p).log := by
  simp only [State.takeLaneFault, fault, h, Bool.not_true, Bool.false_eq_true, if_false]
  exact ⟨_, rfl, rfl, Warp.inHandler_enterTrap ((w.trapAbort addr).withFaultInRecord e p) .., rfl⟩

theorem takeLaneFault_unhandled {s : State} {w : Warp} {e : LogEntry} {p : Part} {cls cause : Nat} {addr : Word} (fault : p.fault = some (cls, cause, addr))
    (h : s.handled w e.sup = false) : s.takeLaneFault w e p = (s.blockError w.blk 6 cls w.core e.pc.toNat).abortBlock w.blk := by
  simp only [State.takeLaneFault, fault, h, Bool.not_false, if_true]
  rfl

/-! ## Leaving the handler (R403, R404) -/

namespace Warp

theorem leaveTrap_eq (w : Warp) : w.leaveTrap =
    { w with sup := false, mm := w.recMm, lc := w.lcSaved, s := (List.range 8).foldl (fun t i => tset t (120 + i) (w.record.getD (8 + i) 0)) w.s } := rfl

theorem tget_foldl_tset (t : Tab Word) (v : Nat → Word) (n k : Nat) :
    tget 0 ((List.range k).foldl (fun t i => tset t (120 + i) (v i)) t) n = if 120 ≤ n ∧ n < 120 + k then v (n - 120) else tget 0 t n := by
  induction k with
  | zero => rw [if_neg (by omega)]; rfl
  | succ k ih =>
    rw [List.range_succ, List.foldl_append, List.foldl_cons, List.foldl_nil]
    by_cases last : n = 120 + k
    · subst last
      rw [tget_tset_same, if_pos (by omega), Nat.add_sub_cancel_left]
    · rw [tget_tset_ne _ _ _ (Ne.symm last), ih]
      exact if_congr (by omega) rfl rfl

theorem leaveTrap_spec (w : Warp) : w.leaveTrap.sup = false ∧ w.leaveTrap.mm = w.recMm ∧ w.leaveTrap.lc = w.lcSaved ∧
    (∀ i < 8, tget 0 w.leaveTrap.s (120 + i) = w.record.getD (8 + i) 0) ∧ (∀ n, n < 120 ∨ 128 ≤ n → tget 0 w.leaveTrap.s n = tget 0 w.s n) ∧
    w.leaveTrap.v = w.v ∧ w.leaveTrap.banks = w.banks ∧ w.leaveTrap.log = w.log ∧ w.leaveTrap.pc = w.pc := by
  refine ⟨rfl, rfl, rfl, fun i hi => ?_, fun n hn => ?_, rfl, rfl, rfl, rfl⟩
  · rw [leaveTrap_eq]
    exact (tget_foldl_tset w.s (fun i => w.record.getD (8 + i) 0) (120 + i) 8).trans ((if_pos (by omega)).trans (by rw [Nat.add_sub_cancel_left]))
  · rw [leaveTrap_eq]
    exact (tget_foldl_tset w.s (fun i => w.record.getD (8 + i) 0) n 8).trans (if_neg (by omega))

theorem trapReturn_whole {w : Warp} (dest : Word) (whole : w.recEntry = none) (once : w.loopTrap = false) :
    let soft := (w.record.getD 0 0).extractLsb' 0 8 = 22#8
    (¬soft → w.trapReturn 0 dest = { w.leaveTrap with pc := w.record.getD 1 0, loopDue := false }) ∧
    (soft → (w.trapReturn 0 dest).pc = w.record.getD 1 0 + 12#64 ∧ (w.trapReturn 0 dest).sup = false ∧ (w.trapReturn 0 dest).s = w.leaveTrap.s) ∧
    ((w.trapReturn 1 dest).pc = w.record.getD 1 0 + 12#64 ∧ (w.trapReturn 1 dest).sup = false ∧ (w.trapReturn 1 dest).s = w.leaveTrap.s) ∧
    ((w.trapReturn 2 dest).pc = dest ∧ (w.trapReturn 2 dest).sup = false ∧ (w.trapReturn 2 dest).s = w.leaveTrap.s) := by
  intro soft
  have software : ((w.record.getD 0 0).extractLsb' 0 8).toNat = 22 ↔ soft := by
    simp only [soft, BitVec.toNat_eq (x := (w.record.getD 0 0).extractLsb' 0 8), BitVec.reduceToNat]
  have mode0 : w.trapReturn 0 dest = if soft then w.leaveTrap.passOver (w.record.getD 1 0) else { w.leaveTrap with pc := w.record.getD 1 0, loopDue := false } := by
    by_cases h : soft
    · rw [if_pos h]
      simp only [trapReturn, whole, once, software.2 h]
      rfl
    · rw [if_neg h]
      simp only [trapReturn, whole, once, mt software.1 h]
      rfl
  have mode1 : w.trapReturn 1 dest = w.leaveTrap.passOver (w.record.getD 1 0) := by
    simp only [trapReturn, whole, once]
    rfl
  have mode2 : w.trapReturn 2 dest = ({ w.leaveTrap with pc := dest, loopDue := false } : Warp).endLoops := by
    simp only [trapReturn, whole, once]
    rfl
  rw [mode0, mode1, mode2]
  refine ⟨fun h => if_neg h, fun h => ?_, ⟨rfl, rfl, rfl⟩, ⟨rfl, rfl, rfl⟩⟩
  rw [if_pos h]
  exact ⟨rfl, rfl, rfl⟩

/-- The warp with the copies full that the complete parts of entry `e` fill. -/
def marked (w : Warp) (e : LogEntry) : Warp :=
  (w.slots.filter fun m => e.parts.any (fun p => p.slot = m) && (e.parts.all fun p => p.slot != m || p.ok)).foldl (fun w m =>
    e.fills.foldl (fun w r => if w.needIsCommon r && !e.parts.all (·.ok) then w else w.setEmpty m false r) w) w

theorem settleEntry_eq {w : Warp} {q : Nat} {e : LogEntry} (h : w.log.find? (fun e => e.seq = q) = some e) : w.settleEntry q =
    if e.parts.all (·.ok) && !e.awaited (w.marked e) then { w.marked e with log := (w.marked e).log.filter fun x => x.seq != q } else w.marked e := by
  simp only [settleEntry, h]
  rfl

theorem marked_keeps {α : Type} {g : Warp → α} (marks : ∀ w m r, g (Warp.setEmpty w m false r) = g w) (w : Warp) (e : LogEntry) : g (w.marked e) = g w :=
  foldl_keep g _ (fun w m => foldl_keep g _ (fun w r => by split <;> simp only [marks]) e.fills w) _ w

/-- Settling an entry marks copies full and drops log entries; what neither touches stays. -/
theorem settleEntry_keeps {α : Type} {g : Warp → α} (marks : ∀ w m r, g (Warp.setEmpty w m false r) = g w) (logs : ∀ (w : Warp) l, g { w with log := l } = g w)
    (w : Warp) (q : Nat) : g (w.settleEntry q) = g w := by
  cases held : w.log.find? fun e => e.seq = q with
  | none => simp only [settleEntry, held]
  | some e =>
    rw [settleEntry_eq held]
    split
    · exact (logs _ _).trans (marked_keeps marks w e)
    · exact marked_keeps marks w e

theorem sup_setEmpty (w : Warp) (m : Nat) (r : Reg) : (w.setEmpty m false r).sup = w.sup := by
  rw [onlyRegs_setEmpty w m false r]

theorem sup_reissue (w : Warp) (q : Nat) (skip : Bool) : (w.reissue q skip).sup = w.sup :=
  settleEntry_keeps sup_setEmpty (fun _ _ => rfl) _ q

/-- The warp that leaves the handler of the lane fault of entry `q`. -/
def laneReturned (w : Warp) (q : Nat) (skip : Bool) : Warp :=
  { ({ w.leaveTrap with pc := w.record.getD 3 0 } : Warp).reissue q skip with pc := w.record.getD 3 0, recEntry := none, loopDue := false }

theorem trapReturn_of_lane {w : Warp} {q : Nat} (mode : Nat) (dest : Word) (lane : w.recEntry = some q) : w.trapReturn mode dest =
    if mode = 2 then ({ w.laneReturned q (mode = 1) with pc := dest, loopDue := false } : Warp).endLoops else w.laneReturned q (mode = 1) := by
  simp only [trapReturn, lane]
  rfl

theorem sup_laneReturned (w : Warp) (q : Nat) (skip : Bool) : (w.laneReturned q skip).sup = false := sup_reissue ..

theorem trapReturn_lane {w : Warp} {q : Nat} (dest : Word) (lane : w.recEntry = some q) :
    ((w.trapReturn 0 dest).pc = w.record.getD 3 0 ∧ (w.trapReturn 1 dest).pc = w.record.getD 3 0 ∧ (w.trapReturn 2 dest).pc = dest) ∧
      (∀ mode, mode ≤ 2 → (w.trapReturn mode dest).recEntry = none ∧ (w.trapReturn mode dest).sup = false) := by
  refine ⟨⟨?_, ?_, ?_⟩, fun mode _ => ?_⟩
  · rw [trapReturn_of_lane 0 dest lane, if_neg (by decide), laneReturned]
  · rw [trapReturn_of_lane 1 dest lane, if_neg (by decide), laneReturned]
  · rw [trapReturn_of_lane 2 dest lane, if_pos rfl, endLoops]
  · have left := w.sup_laneReturned q (mode = 1)
    have none' : (w.laneReturned q (mode = 1)).recEntry = none := rfl
    rw [trapReturn_of_lane mode dest lane]
    by_cases jump : mode = 2
    · rw [if_pos jump]
      exact ⟨none', left⟩
    · rw [if_neg jump]
      exact ⟨none', left⟩

/-- An entry its instruction waits for stays in the log. -/
theorem log_settleEntry_of_awaited {w : Warp} {q : Nat} {e : LogEntry} (held : w.log.find? (fun x => x.seq = q) = some e) (waits : e.awaited w = true) :
    (w.settleEntry q).log = w.log := by
  have same : e.awaited (w.marked e) = true :=
    (marked_keeps (g := fun w => e.awaited w) (fun w m r => by rw [onlyRegs_setEmpty w m false r]; rfl) w e).trans waits
  rw [settleEntry_eq held, same, Bool.not_true, Bool.and_false, if_neg Bool.false_ne_true]
  exact marked_keeps (g := Warp.log) (fun w m r => by rw [onlyRegs_setEmpty w m false r]) w e

/-- A command its instruction waits for stays in the log when its lane is abandoned. -/
theorem trapReturn_command {w : Warp} (dest : Word) {e : LogEntry} (lane : w.recEntry = some e.seq) (log : w.log = [e]) (command : e.acc = .command)
    (result : e.dst < 256) (here : e.pc = w.record.getD 3 0) : ∃ x ∈ (w.trapReturn 1 dest).log, x.seq = e.seq := by
  let f : Part → Part := fun p => if p.inRec && true then { p with ok := true, fault := none, inRec := false, dead := p.dead || true } else p.again
  let again : LogEntry := { e with parts := e.parts.map f }
  let w1 : Warp := { w.leaveTrap with pc := w.record.getD 3 0, log := [again] }
  have reissued : ({ w.leaveTrap with pc := w.record.getD 3 0 } : Warp).reissue e.seq true = w1.settleEntry e.seq := by
    have held : w.leaveTrap.log = [e] := log
    simp only [reissue, modParts, held, List.map_cons, List.map_nil, List.any_cons, List.any_nil, command, decide_true, Bool.and_true, Bool.and_false,
      Bool.or_false, Bool.false_eq_true, if_false, if_true, w1, again, f]
  have waits : again.awaited w1 = true := by
    simp only [LogEntry.awaited, again, w1, command, here, leaveTrap_eq, result, decide_true, Bool.and_true, Bool.false_and, Bool.false_eq_true, if_false]
  rw [trapReturn_of_lane 1 dest lane, if_neg (by decide)]
  refine ⟨again, ?_, rfl⟩
  have kept := log_settleEntry_of_awaited (w := w1) (q := e.seq) (e := again) (by simp [w1, again]) waits
  rw [laneReturned, decide_eq_true rfl, reissued]
  exact kept ▸ List.mem_singleton_self again

end Warp

/-! ## The instructions (R401, R403, R404, R421) -/

theorem warpOpNT_cur {s : State} {w : Warp} (f : Warp → WRes) (hc : s.curWarp = some w) (ht : w.tx = none) : warpOpNT s f = .next (s.finish w (f w)) := by
  rw [warpOpNT, warpOp_cur _ hc, ht]
  rfl

theorem exec_trap {f : FormI} {s : State} {w : Warp} (hc : s.curWarp = some w) (ht : w.tx = none) :
    (Warp.never f.h = true → Retires (.trap f) s w w) ∧
      (Warp.never f.h = false → Traps (.trap f) s w { cls := 22, detail := BitVec.ofNat 64 f.imm.toNat }) := by
  have steps : exec (.trap f) s = execTrap f s := rfl
  rw [execTrap, warpOpNT_cur _ hc ht, unlessNever] at steps
  refine ⟨fun never => ?_, fun runs => ?_⟩
  · rw [if_pos never] at steps
    exact retires_of_fall hc steps (.refl w)
  · rw [if_neg (by rw [runs]; decide)] at steps
    exact steps

theorem exec_trrd {f : FormR} {s : State} {w : Warp} (hc : s.curWarp = some w) (ht : w.tx = none) (cl : w.Clear f.h (w.needsDst 1 f.dst) false false) :
    exec (.trrd f) s = .next (s.finish w (if !w.sup && !Warp.never f.h then .trap w { cls := 23 } else .fall (w.sclResult f.h f.dst fun _ => w.trapWord f.x.toNat))) := by
  have steps : exec (.trrd f) s = execTrrd f s := rfl
  rw [execTrrd, warpOpNT_cur _ hc ht, Warp.sclOp_clear_dst _ cl] at steps
  exact steps

theorem sclRuleNT_trrd (f : FormR) : SclRuleNT (.trrd f) f.h f.dst (fun _ w => w.sup = true ∨ Warp.never f.h = true) fun _ w _ => w.trapWord f.x.toNat := by
  intro s w hc ht may cl
  refine retires_of_fall hc ?_ (Warp.onlyRegs_sclResult ..)
  rw [exec_trrd hc ht cl, if_neg (by rcases may with h | h <;> simp [h])]

theorem traps_trrd {f : FormR} {s : State} {w : Warp} (hc : s.curWarp = some w) (ht : w.tx = none) (user : w.sup = false) (runs : Warp.never f.h = false)
    (cl : w.Clear f.h (w.needsDst 1 f.dst) false false) : Traps (.trrd f) s w { cls := 23 } := by
  have steps := exec_trrd hc ht cl
  rw [if_pos (by simp [user, runs])] at steps
  exact steps

theorem tretForm_runs {mk : FormR → Instr} {mode : Nat} (e : ∀ f s, exec (mk f) s = tretForm mode f s) {f : FormR} {s : State} {w : Warp}
    (hc : s.curWarp = some w) (ht : w.tx = none) (cl : w.Clear f.h (if mode = 2 then w.needs [(f.a, 1)] else []) false false) :
    (Warp.never f.h = true → Retires (mk f) s w w) ∧
    (Warp.never f.h = false → w.sup = false → Traps (mk f) s w { cls := 23 }) ∧
    (Warp.never f.h = false → w.sup = true →
      let w1 := w.trapReturn mode (if mode = 2 then w.scl (w.active.headD 0) f.a else 0)
      let left := (w.log.filter fun e => w1.log.all fun x => x.seq != e.seq).filterMap fun e => match e.acc with | .scales r => some r | _ => none
      let s1 := if left = [] then s else s.modBlock w.blk fun b => { b with scalePend := b.scalePend.filter fun r => !left.contains r }
      exec (mk f) s = .next (s1.putWarp { w1.running with retired := w.retired + 1 })) := by
  have steps := e f s
  rw [tretForm, machineOpNT_cur _ hc ht, Warp.checked_clear cl] at steps
  dsimp only at steps
  refine ⟨fun never => ?_, fun runs user => ?_, fun runs super => ?_⟩
  · rw [if_pos never] at steps
    exact retires_of_fall hc steps (.refl w)
  · rw [if_neg (by rw [runs]; decide), if_pos (by rw [user]; decide)] at steps
    exact steps
  · rw [if_neg (by rw [runs]; decide), if_neg (by rw [super]; decide)] at steps
    exact steps

/-- Settles O36: entering the handler, the order of the faults that wait, the fields of INFO, and the ways to return have their lemmas above;
here they are put together. -/
theorem trapEntryAndForms : Obligations.TrapEntryAndForms := by
  unfold Obligations.TrapEntryAndForms
  dsimp only
  refine ⟨⟨State.enterHandler_spec, fun w a h => Warp.trapAbort_of_no_tx h a, fun s w t pc f v u => State.takeTrap_handled (State.handled_iff.2 ⟨f, v, u⟩) t pc,
    fun s w t pc h => State.takeTrap_unhandled (State.handled_eq_false h) t pc, fun s w t pc back => State.frontWarp_due, State.abortBlock_warps,
    fun s b k x => State.abortBlock_block? s b k, fun s b cls detail unit addr x n => State.blockError_node? cls detail unit addr,
    fun t path log lane => trapInfo_fields lane, fun s w e p cls cause addr fault => ⟨fun f v u => ?_, fun h => ?_⟩,
    fun c k s w => exec_trapDeliver, fun c k s => exec_trapDeliver_absent⟩,
    fun f s w => exec_trap, sclRuleNT_trrd, fun f s w => traps_trrd,
    ⟨fun f s w => tretForm_runs fun _ _ => rfl, fun f s w => tretForm_runs fun _ _ => rfl, fun f s w => tretForm_runs fun _ _ => rfl⟩,
    Warp.leaveTrap_spec, fun w dest => Warp.trapReturn_whole dest, fun w dest q => Warp.trapReturn_lane dest,
    fun w dest e => Warp.trapReturn_command dest⟩
  · exact takeLaneFault_handled fault (State.handled_iff.2 ⟨f, v, u⟩)
  · exact takeLaneFault_unhandled fault (State.handled_eq_false h)

end Sys2Proof.Machine

/-!
Running collectives (R429, R433–R439, R444).
-/

namespace Sys2Proof.Machine

/-! ## Windows one after another (R208, R444) -/

theorem take_drop_append {α : Type} {b : List α} (r : List α) {k n : Nat} (h : k + n ≤ b.length) : ((b ++ r).drop k).take n = (b.drop k).take n := by
  rw [List.drop_append_of_le_length (by omega), List.take_append_of_le_length (by rw [List.length_drop]; omega)]

namespace Exact

theorem windowLen_append {b : List Byte} (r : List Byte) (h : 24 ≤ b.length) : windowLen (b ++ r) = windowLen b := by
  rw [windowLen, windowLen, take_drop_append r (by omega)]

theorem windowLen_toWindow (a : Exact) : windowLen a.toWindow = a.toWindow.length := by
  rw [windowLen, leNat_toWindow_pres, windowWords_pres, length_toWindow]

theorem ofNat_word_append {a : Exact} (r : List Byte) {i : Nat} (h : i < a.present.length) :
    BitVec.ofNat 64 (leNat (((a.toWindow ++ r).drop (24 + 8 * i)).take 8)) = a.word a.present[i] := by
  rw [take_drop_append r (by rw [length_toWindow]; omega), ofNat_toWindow_word a h]

/-- What follows a window has no part in it (R208). -/
theorem ofWindow_append {a : Exact} (r : List Byte) (h : a.st.extractLsb' 4 12 = 0) : ofWindow (a.toWindow ++ r) = some a := by
  have long := a.length_toWindow
  simp only [ofWindow, take_drop_append r (show 8 + 16 ≤ a.toWindow.length by omega), List.take_append_of_le_length (show 8 ≤ a.toWindow.length by omega),
    leNat_toWindow_pres, windowWords_pres, sign_of_pres, pres_reserved, getLast?_present, take_toWindow_status]
  rw [if_neg (by decide), if_neg, ofNat_foldl_words (a := a), ofNat_leNat_leBytes (n := 8) rfl, status_and_mask h, status_and_mask h]
  · intro j hj
    cases found : a.present.idxOf? j with
    | some i =>
      obtain ⟨bound, same, -⟩ := List.idxOf?_eq_some_iff.1 found
      exact (ofNat_word_append r bound).trans (congrArg a.word same)
    | none =>
      rw [word_of_not_mem_present hj (List.idxOf?_eq_none_iff.1 found)]
      cases a.top? with
      | none => rfl
      | some t => simp
  · cases top : a.top? with
    | none => exact Bool.false_ne_true
    | some t =>
      have some' : 0 < a.present.length := by
        rw [← getLast?_present] at top
        exact List.length_pos_of_mem (List.mem_of_getLast? top)
      have differs := last_word_ne_fill top
      rw [← take_drop_append r (by omega)] at differs
      simpa using differs

theorem status_ofCell (b : List Byte) : (ofCell b).st.extractLsb' 4 12 = 0 := by
  rw [ofCell, BitVec.extractLsb'_and, show (0xFFFFFFFFFFFF000F#64).extractLsb' 4 12 = 0 from rfl, BitVec.ofNat_eq_ofNat, BitVec.and_zero]

end Exact

namespace Coll

/-- The cells of `n` exact sums. -/
def cells (n : Nat) (bs : List Byte) : List Byte := (List.range n).flatMap fun i => (Exact.ofCell ((bs.drop (576 * i)).take 576)).toCell

theorem cells_succ (n : Nat) (bs : List Byte) : cells (n + 1) bs = (Exact.ofCell (bs.take 576)).toCell ++ cells n (bs.drop 576) := by
  rw [cells, List.range_succ_eq_map, List.flatMap_cons, List.flatMap_map]
  refine congrArg _ (List.flatMap_congr fun i _ => ?_)
  rw [List.drop_drop, Nat.mul_succ, Nat.add_comm]

theorem unpackWindows_packWindows (n : Nat) (bs : List Byte) : unpackWindows n (packWindows n bs) = some (cells n bs) := by
  induction n generalizing bs with
  | zero => rfl
  | succ n ih =>
    rw [packWindows, unpackWindows]
    generalize hw : Exact.ofCell (bs.take 576) = a
    have len := a.windowLen_toWindow
    have long := a.length_toWindow
    rw [List.append_assoc, Exact.windowLen_append _ (by omega), len, Exact.ofWindow_append _ (hw ▸ Exact.status_ofCell _)]
    have room : (a.toWindow ++ List.replicate ((64 - a.toWindow.length % 64) % 64) (0 : Byte)).length = (a.toWindow.length + 63) / 64 * 64 := by
      rw [List.length_append, List.length_replicate]
      omega
    rw [← List.append_assoc, if_neg (by rw [List.length_append, room]; omega)]
    rw [List.drop_left' room, ih, cells_succ, hw]
    rfl

theorem windowed_iff (c : Coll) : c.windowed = true ↔ (c.rop = 3 ∨ c.rop = 4) ∧ c.op ≤ 1 := by
  simp [windowed]

theorem windowed_spec {c : Coll} (n : Nat) (bs : List Byte) (h : c.windowed = true) :
    c.unpack n (c.pack n bs) = some (cells n bs) ∧ (c.pack 1 bs).take (Exact.ofCell (bs.take 576)).toWindow.length = (Exact.ofCell (bs.take 576)).toWindow := by
  rw [unpack, pack, pack, if_pos h, if_pos h, if_pos h]
  refine ⟨unpackWindows_packWindows n bs, ?_⟩
  rw [packWindows]
  rw [List.append_assoc, List.take_left]

theorem plain_spec {c : Coll} (n : Nat) (bs : List Byte) (h : c.windowed = false) : c.pack n bs = bs ∧ (bs.length = n * c.wireSize → c.unpack n bs = some bs) := by
  have h : ¬c.windowed = true := by rw [h]; decide
  exact ⟨if_neg h, fun len => by rw [unpack, if_neg h, if_pos len]⟩

/-! ## Chunks (R430) -/

theorem esz_pos (c : Coll) : 0 < c.esz := by
  unfold esz cSize
  split_ifs <;> decide

theorem perChunk_pos (c : Coll) : 0 < c.perChunk := Nat.le_max_left ..

/-- The bytes of a chunk. -/
def chunkBytes (c : Coll) : Nat := if c.params.extractLsb' 320 64 = 0 then 2 ^ 20 else (c.params.extractLsb' 320 64).toNat

theorem perChunk_eq (c : Coll) : c.perChunk = max 1 (c.chunkBytes / c.esz) := by
  rw [perChunk, chunkBytes, cfld]
  exact congrArg (fun n => max 1 (n / c.esz)) (if_congr ⟨fun h => BitVec.eq_of_toNat_eq h, fun h => by rw [h]; rfl⟩ rfl rfl)

theorem perChunk_largest {c : Coll} (h : c.esz ≤ c.chunkBytes) : c.perChunk * c.esz ≤ c.chunkBytes ∧ c.chunkBytes < (c.perChunk + 1) * c.esz := by
  have one : 1 ≤ c.chunkBytes / c.esz := (Nat.le_div_iff_mul_le c.esz_pos).2 (by rwa [Nat.one_mul])
  rw [perChunk_eq, Nat.max_eq_right one]
  exact ⟨Nat.div_mul_le_self .., Nat.lt_mul_of_div_lt (Nat.lt_succ_self _) c.esz_pos⟩

theorem foldl_chunkElems (c : Coll) (n k : Nat) : (List.range k).foldl (fun a j => a + c.chunkElems n j) 0 = min n (k * c.perChunk) := by
  induction k with
  | zero => simp
  | succ k ih =>
    rw [List.range_succ, List.foldl_append, ih, List.foldl_cons, List.foldl_nil, chunkElems, Nat.succ_mul]
    omega

theorem chunkElems_sum (c : Coll) (n : Nat) : (List.range (c.chunkCount n)).foldl (fun a j => a + c.chunkElems n j) 0 = n := by
  rw [foldl_chunkElems, chunkCount]
  have := Nat.div_add_mod (n + c.perChunk - 1) c.perChunk
  have := Nat.mod_lt (n + c.perChunk - 1) c.perChunk_pos
  rw [Nat.mul_comm]
  have := c.perChunk_pos
  omega

/-- An element lies in its chunk. -/
theorem div_lt_chunkCount {c : Coll} {n i : Nat} (h : i < n) : i / c.perChunk < c.chunkCount n := by
  rw [chunkCount, Nat.div_lt_iff_lt_mul c.perChunk_pos]
  have := Nat.div_add_mod (n + c.perChunk - 1) c.perChunk
  have := Nat.mod_lt (n + c.perChunk - 1) c.perChunk_pos
  rw [Nat.mul_comm]
  omega

theorem mem_elemsOf {c : Coll} {n i : Nat} (h : i < n) : i ∈ c.elemsOf n (i / c.perChunk) := by
  have place := Nat.div_add_mod i c.perChunk
  have small := Nat.mod_lt i c.perChunk_pos
  rw [Nat.mul_comm] at place
  refine List.mem_map.2 ⟨i % c.perChunk, List.mem_range.2 ?_, place⟩
  rw [chunkElems]
  omega

theorem counter_reduction {c : Coll} (j : Nat) (h : c.op ≤ 1) :
    c.counter (c.me, j) = (c.awaited.filter fun r => decide (j < c.chunkCount (c.wireElems r)) && (c.chunk? r j).isNone).length := if_pos h

theorem step_of_element {c : Coll} {i : Nat} (h : c.op ≤ 1) (hi : i < c.count) :
    (c.me, i / c.perChunk) ∈ c.steps ∧ (⟨c.recv (c.esz * i), c.reduced i, c.tainted i⟩ : Coll.Out) ∈ State.stepOuts c (c.me, i / c.perChunk) := by
  constructor
  · rw [steps, if_pos h]
    exact List.mem_map.2 ⟨_, List.mem_range.2 (Nat.lt_of_lt_of_le (div_lt_chunkCount hi) (Nat.le_max_right ..)), rfl⟩
  · have reduction : inRange 2 4 c.op = false := by
      rw [Bool.eq_false_iff, Ne, inRange_iff]
      omega
    have outs : c.outputs (i / c.perChunk) = (c.elemsOf c.count (i / c.perChunk)).map fun i => ⟨c.recv (c.esz * i), c.reduced i, c.tainted i⟩ := by
      unfold outputs
      match c.op, h with
      | 0, _ | 1, _ => rfl
    rw [State.stepOuts, reduction, if_neg Bool.false_ne_true, outs]
    exact List.mem_map.2 ⟨i, mem_elemsOf hi, rfl⟩

end Coll

/-! ## A collective and its state -/

namespace State

theorem tfind_modColl (s : State) (id : Nat) (f : Coll → Coll) : tfind (s.modColl id f).colls id = (tfind s.colls id).map f := tfind_tmod_same ..

theorem collRefused_none {s : State} {id : Nat} {c : Coll} (h : ∀ k ∈ c.chunks, k.cancel = none ∧ k.ok = true) : s.collRefused id c = none := by
  have none' : c.chunks.find? (fun k => k.cancel.isSome || !k.ok) = none := List.find?_eq_none.2 fun k hk => by
    obtain ⟨cancel, ok⟩ := h k hk
    simp [cancel, ok]
  rw [collRefused, none']

/-- How a chunk that ends a collective ends it. -/
def refusedBy (s : State) (id : Nat) (c : Coll) (k : Chunk) : State :=
  if k.cancel = some true then s.failColl id c 7 0 ((groupRanks c.group.img).getD k.src 0) else s.failColl id c 1 0 (Config.noAddr s.tick).toNat

theorem collRefused_of_find {s : State} {id : Nat} {c : Coll} {k : Chunk} (h : c.chunks.find? (fun k => k.cancel.isSome || !k.ok) = some k) :
    s.collRefused id c = some (s.refusedBy id c k) := by
  rw [collRefused, h]
  rfl

theorem collRefused_some {s : State} {id : Nat} {c : Coll} (h : ∃ k ∈ c.chunks, k.cancel ≠ none ∨ k.ok = false) :
    ∃ k ∈ c.chunks, (k.cancel ≠ none ∨ k.ok = false) ∧ s.collRefused id c = some (s.refusedBy id c k) := by
  have bad : ∀ k : Chunk, (k.cancel.isSome || !k.ok) = true ↔ k.cancel ≠ none ∨ k.ok = false := fun k => by
    simp [Option.isSome_iff_ne_none]
  obtain ⟨k, hk, refused⟩ := h
  obtain ⟨x, found⟩ := Option.isSome_iff_exists.1 (List.find?_isSome (p := fun k : Chunk => k.cancel.isSome || !k.ok) |>.2 ⟨k, hk, (bad k).2 refused⟩)
  exact ⟨x, List.mem_of_find?_eq_some found, (bad x).1 (List.find?_some (p := fun k : Chunk => k.cancel.isSome || !k.ok) found), collRefused_of_find found⟩

theorem collBehind_iff {s : State} {c : Coll} : s.collBehind c = true ↔
    c.sent = false ∧ ∃ p ∈ s.colls, p.2.ctx = c.ctx ∧ p.2.g = c.g ∧ p.2.seq < c.seq ∧ p.2.sent = false ∧ p.2.done = false := by
  simp [collBehind, and_assoc]

theorem exec_combineDispatch {s : State} {id : Nat} {c : Coll} (h : tfind s.colls id = some c) : exec (.combineDispatch id) s =
    .next (if c.done || s.collBehind c then s else (s.collRefused id c).getD (s.collStep id c)) := by
  have steps : exec (.combineDispatch id) s = execCombineDispatch id s := rfl
  rw [steps]
  simp only [execCombineDispatch, h]
  refine congrArg _ (if_congr Iff.rfl rfl ?_)
  cases s.collRefused id c <;> rfl

theorem exec_combineDispatch_step {s : State} {id : Nat} {c : Coll} (h : tfind s.colls id = some c) (goes : c.done = false) (turn : ¬s.collBehind c = true)
    (good : ∀ k ∈ c.chunks, k.cancel = none ∧ k.ok = true) : exec (.combineDispatch id) s = .next (s.collStep id c) := by
  rw [exec_combineDispatch h, if_neg (by simp [goes, turn]), collRefused_none good, Option.getD_none]

/-! ## Sending (R435, R438) -/

theorem colls_agentTouch (s : State) (x die : Nat) (va : Word) (n : Nat) : (s.agentTouch x die va 0 n).colls = s.colls :=
  Beneath.colls (beneath_agentTouch s x die va 0 n false noWarp)

theorem colls_foldl_agentTouch (s : State) (x die : Nat) (l : List (Word × Nat)) (e : Nat) :
    (l.foldl (fun s r => s.agentTouch x die r.1 0 (r.2 * e)) s).colls = s.colls := by
  induction l generalizing s with
  | nil => rfl
  | cons r t ih => rw [List.foldl_cons, ih, colls_agentTouch]

end State

namespace Coll

/-- The elements of the contribution that carry poison. -/
def inputPoison (c : Coll) (ps : List (List Nat)) : List Nat :=
  if c.op ≤ 1 then ps.flatten.eraseDups else ((List.range ps.length).zip ps).flatMap fun p => p.2.map (p.1 * c.count + ·)

/-- The collective with its contribution read. -/
def withInput (c : Coll) (bs : List (List Byte)) (ps : List (List Nat)) : Coll :=
  { c with sent := true, own := { src := c.me, data := c.merged bs, poison := c.inputPoison ps } }

/-- The other participants that get a contribution: group rank and fabric rank. -/
def others (c : Coll) : List (Nat × Nat) := ((List.range c.n).zip (groupRanks c.group.img)).filter fun p => p.1 != c.me && (c.op != 3 || c.me = c.root)

theorem mem_others {c : Coll} {j r : Nat} (h : c.op ≠ 3) (other : j ≠ c.me) (rank : (groupRanks c.group.img)[j]? = some r) : (j, r) ∈ c.others := by
  refine List.mem_filter.2 ⟨?_, by simp [h, other]⟩
  obtain ⟨hj, same⟩ := List.getElem?_eq_some_iff.1 rank
  have len : (List.range c.n).length = (groupRanks c.group.img).length := List.length_range
  refine List.mem_iff_getElem.2 ⟨j, by rw [List.length_zip, len, Nat.min_self]; exact hj, ?_⟩
  rw [List.getElem_zip, List.getElem_range, same]

/-- The chunks a collective sends. -/
def sends (c : Coll) : List HostOut :=
  c.others.flatMap fun p => (c.cut (c.partFor p.1) (c.wireElems c.me)).map fun k => .chunk p.2 (groupKey c.group.img) c.seq k

/-- Chunk `j` of a contribution of `n` elements (R429, R430). -/
def cutAt (c : Coll) (k : Chunk) (n j : Nat) : Chunk where
  src := k.src
  idx := j
  digest := c.group.digest
  ok := k.ok
  cancel := k.cancel
  poison := (k.poison.filter fun i => j * c.perChunk ≤ i && i < j * c.perChunk + c.perChunk).map (· - j * c.perChunk)
  data := c.pack (c.chunkElems n j) ((k.data.drop (j * c.perChunk * c.wireSize)).take (c.perChunk * c.wireSize))

theorem mem_sends {c : Coll} {j r q : Nat} (h : c.op ≠ 3) (other : j ≠ c.me) (rank : (groupRanks c.group.img)[j]? = some r)
    (hq : q < c.chunkCount (c.wireElems c.me)) : ∃ k ∈ c.cut (c.partFor j) (c.wireElems c.me), k.idx = q ∧ k.digest = c.group.digest ∧
      HostOut.chunk r (groupKey c.group.img) c.seq k ∈ c.sends := by
  have mem : (c.cutAt (c.partFor j) (c.wireElems c.me) q) ∈ c.cut (c.partFor j) (c.wireElems c.me) := List.mem_map_of_mem (List.mem_range.2 hq)
  exact ⟨_, mem, rfl, rfl, List.mem_flatMap.2 ⟨(j, r), mem_others h other rank, List.mem_map.2 ⟨_, mem, rfl⟩⟩⟩

end Coll

namespace State

theorem collSend_fault {s : State} {id : Nat} {c : Coll} {e : AgentErr} (h : s.collInput c = .error e) : s.collSend id c = s.faultColl id c e := by
  rw [collSend, h]

/-- A reduction or an ensemble operation reads its contribution and sends it. -/
theorem collSend_sends {s : State} {id : Nat} {c : Coll} {bs : List (List Byte)} {ps : List (List Nat)} (h : s.collInput c = .ok (bs, ps)) (held : tfind s.colls id = some c)
    (place : c.op ≤ 1 ∨ 5 ≤ c.op) :
    tfind (s.collSend id c).colls id = some { c.withInput bs ps with done := false } ∧ ∀ o ∈ (c.withInput bs ps).sends, o ∈ (s.collSend id c).hostOut := by
  have none' : inRange 2 4 c.op = false := by
    rw [Bool.eq_false_iff, Ne, inRange_iff]
    omega
  let s1 := c.inputs.foldl (fun s r => s.agentTouch c.ctx (dieOfEngine c.engine) r.1 0 (r.2 * c.esz)) (s.modColl id fun _ => c.withInput bs ps)
  have value : s.collSend id c = ({ s1 with hostOut := s1.hostOut ++ (c.withInput bs ps).sends } : State).modColl id fun c' => { c' with done := false } := by
    rw [collSend, h]
    simp only [none', Bool.false_and, Bool.false_eq_true, if_false]
    rfl
  have kept : tfind s1.colls id = some (c.withInput bs ps) := by
    rw [colls_foldl_agentTouch, tfind_modColl, held]
    rfl
  rw [value]
  refine ⟨(tfind_modColl ..).trans (congrArg _ kept), fun o ho => List.mem_append_right _ ho⟩

theorem collStep_sent {s : State} {id : Nat} {c : Coll} (h : c.sent = true) :
    ((∀ u ∈ c.steps, u ∈ c.put ∨ c.counter u ≠ 0) → s.collStep id c = s) ∧
      ∀ u, c.due = some u →
        (s.outsReady c (stepOuts c u) = false → s.collStep id c = s) ∧
        (∀ t, s.outsReady c (stepOuts c u) = true → s.writeOuts id c (stepOuts c u) = .ok t →
          s.collStep id c = t.modColl id fun c' => { c' with put := c'.put ++ [u], done := c.lastBut u }) ∧
        (∀ e, s.outsReady c (stepOuts c u) = true → s.writeOuts id c (stepOuts c u) = .error e → s.collStep id c = s.faultColl id c e) := by
  refine ⟨fun none' => ?_, fun u due => ⟨fun waits => ?_, fun t ready wrote => ?_, fun e ready fault => ?_⟩⟩
  · have none' : c.due = none := List.find?_eq_none.2 fun u hu => by
      have := none' u hu
      simp only [Bool.and_eq_true, Bool.not_eq_true', decide_eq_true_eq, List.contains_iff_mem, ← Bool.not_eq_true]
      exact fun ⟨out, zero⟩ => this.elim out fun some' => some' zero
    simp only [collStep, h, none', Bool.not_true, Bool.false_eq_true, if_false]
  · simp only [collStep, h, due, waits, Bool.not_true, Bool.not_false, Bool.false_eq_true, if_false, if_true]
  · simp only [collStep, h, due, ready, wrote, Bool.not_true, Bool.false_eq_true, if_false]
  · simp only [collStep, h, due, ready, fault, Bool.not_true, Bool.false_eq_true, if_false]

/-! ## Ending (R433, R437, R439) -/

theorem exec_collTimeout {s : State} {id : Nat} {c : Coll} (h : tfind s.colls id = some c) : exec (.collTimeout id) s =
    .next (if c.missing = [] ∨ c.done = true ∨ groupTmo c.group.img = 0 ∨ s.cycle < c.last + groupTmo c.group.img * 1500000 then s
      else s.failColl id c 8 0 ((groupRanks c.group.img).getD (c.missing.headD 0) 0)) := by
  have steps : exec (.collTimeout id) s = execCollTimeout id s := rfl
  rw [steps]
  simp only [execCollTimeout, h]
  cases c.missing with
  | nil => exact congrArg _ (if_pos (.inl rfl)).symm
  | cons r rest => exact congrArg _ (if_congr (by simp [or_assoc]) rfl rfl)

theorem exec_collPeerUnreachable {s : State} {id : Nat} {c : Coll} (rank : Nat) (h : tfind s.colls id = some c) : exec (.collPeerUnreachable id rank) s =
    .next (if c.done = true ∨ rank ∉ groupRanks c.group.img ∨ s.unreachable rank = false then s else s.failColl id c 8 0 rank) := by
  have steps : exec (.collPeerUnreachable id rank) s = execCollPeerUnreachable id rank s := rfl
  rw [steps]
  simp only [execCollPeerUnreachable, h]
  exact congrArg _ (if_congr (by simp [or_assoc]) rfl rfl)

theorem exec_collComplete {s : State} {id : Nat} {c : Coll} (h : tfind s.colls id = some c) :
    let ended := c.done = true ∧ (∀ r ∈ s.replicas, r.owner ≠ State.noWarp) ∧ s.agentReady c.ctx (c.blk + 96#64) 32 = true
    let s1 := (s.writeEntry c.ctx (c.blk + 96#64) c.err).signal c.ctx (c.params.extractLsb' 416 6).toNat (BitVec.ofNat 64 (c.params.extractLsb' 448 64).toNat)
    (¬ended → exec (.collComplete id) s = .next s) ∧ (ended → exec (.collComplete id) s = .next { s1 with colls := tdel s1.colls id }) := by
  intro ended s1
  have steps : exec (.collComplete id) s = execCollComplete id s := rfl
  have waits : (!c.done || s.agentWritesDue || !s.agentReady c.ctx (c.blk + 96#64) 32) = true ↔ ¬ended := by
    simp only [ended, agentWritesDue, ← Bool.not_eq_true, Bool.or_eq_true, Bool.not_eq_true', List.any_eq_true, decide_eq_true_eq]
    grind
  rw [steps]
  simp only [execCollComplete, h]
  exact ⟨fun h => congrArg _ (if_pos (waits.2 h)), fun h => congrArg _ (if_neg fun w => waits.1 w h)⟩

/-! ## What arrives (R429, R439) -/

theorem outside_iff (e : Group) (a : Nat) : (!e.valid || e.n ≤ a || a = e.own) = true ↔ e.valid = false ∨ e.n ≤ a ∨ a = e.own := by
  simp [or_assoc]

theorem inside {e : Group} {a : Nat} (valid : e.valid = true) (member : a < e.n) (other : a ≠ e.own) : ¬(!e.valid || e.n ≤ a || a = e.own) = true := by
  rw [outside_iff]
  rintro (h | h | h)
  · exact Bool.false_ne_true (h.symm.trans valid)
  · exact Nat.not_lt.2 h member
  · exact other h

section
variable {s : State} {x g sq : Nat} {k : Chunk}

theorem arrive_outside (h : (tget {} (s.ctx x).groups g).valid = false ∨ (tget {} (s.ctx x).groups g).n ≤ k.src ∨ k.src = (tget {} (s.ctx x).groups g).own) :
    s.arrive x g sq k = s := by
  rw [arrive]
  exact if_pos ((outside_iff ..).2 h)

/-- The chunks held early that one peer has sent. -/
def heldFrom (s : State) (x g src : Nat) : Nat :=
  let peer := fun (y h r : Nat) => (groupRanks (tget {} (s.ctx y).groups h).img).getD r 0
  (s.early.filter fun p => peer p.1 p.2.1 p.2.2.2.src = peer x g src).length

theorem arrive_early (valid : (tget {} (s.ctx x).groups g).valid = true) (member : k.src < (tget {} (s.ctx x).groups g).n) (other : k.src ≠ (tget {} (s.ctx x).groups g).own)
    (none' : ∀ p ∈ s.colls, ¬(p.2.ctx = x ∧ p.2.g = g ∧ p.2.seq = sq)) : s.arrive x g sq k =
      if sq < (tget {} (s.ctx x).groups g).seq.toNat ∨ 64 ≤ s.heldFrom x g k.src then s else { s with early := s.early ++ [(x, g, sq, k)] } := by
  have absent : (s.colls.find? fun p => p.2.ctx = x && p.2.g = g && p.2.seq = sq) = none := List.find?_eq_none.2 fun p hp => by
    simpa [and_assoc] using none' p hp
  rw [arrive]
  dsimp only
  rw [if_neg (inside valid member other), absent]
  exact if_congr (by simp only [heldFrom, Bool.or_eq_true, decide_eq_true_eq]) rfl rfl

theorem arrive_running {id : Nat} {c : Coll} (valid : (tget {} (s.ctx x).groups g).valid = true) (member : k.src < (tget {} (s.ctx x).groups g).n)
    (other : k.src ≠ (tget {} (s.ctx x).groups g).own) (found : (s.colls.find? fun p => p.2.ctx = x && p.2.g = g && p.2.seq = sq) = some (id, c)) (goes : c.done = false)
    (fresh : ∀ y ∈ c.chunks, ¬(y.src = k.src ∧ y.idx = k.idx ∧ y.cancel = k.cancel)) : s.arrive x g sq k =
      if k.ok = true ∧ k.cancel = none ∧ c.fits k = false then s
      else
        let s1 := s.modColl id fun _ => { c with chunks := c.chunks ++ [k], last := s.cycle }
        (s1.collRefused id { c with chunks := c.chunks ++ [k], last := s.cycle }).getD s1 := by
  have new : (c.chunks.any fun y => y.src = k.src && y.idx = k.idx && y.cancel = k.cancel) = false := List.any_eq_false.2 fun y hy => by
    simpa [and_assoc] using fresh y hy
  rw [arrive]
  dsimp only
  rw [if_neg (inside valid member other), found]
  dsimp only
  exact if_congr (by simp [goes, new, Option.isNone_iff_eq_none, and_assoc]) rfl rfl

end

/-- The first chunk that ends a collective, of those that came before and a new one. -/
theorem find?_new {c : Coll} {k : Chunk} (good : ∀ y ∈ c.chunks, y.cancel = none ∧ y.ok = true) (bad : k.cancel ≠ none ∨ k.ok = false) :
    (c.chunks ++ [k]).find? (fun k => k.cancel.isSome || !k.ok) = some k := by
  have none' : c.chunks.find? (fun k => k.cancel.isSome || !k.ok) = none := List.find?_eq_none.2 fun y hy => by
    obtain ⟨cancel, ok⟩ := good y hy
    simp [cancel, ok]
  have bad : (k.cancel.isSome || !k.ok) = true := by simpa [Option.isSome_iff_ne_none] using bad
  rw [List.find?_append, none', Option.none_or]
  exact List.find?_cons_of_pos (p := fun k : Chunk => k.cancel.isSome || !k.ok) bad

/-- A chunk that ends its collective. -/
theorem ended_of_refused {s : State} {id : Nat} {c : Coll} {k : Chunk} (good : ∀ y ∈ c.chunks, y.cancel = none ∧ y.ok = true) (bad : k.cancel ≠ none ∨ k.ok = false) :
    let c1 : Coll := { c with chunks := c.chunks ++ [k], last := s.cycle }
    let s1 := s.modColl id fun _ => c1
    ∀ c2, tfind ((s1.collRefused id c1).getD s1).colls id = some c2 → c2.done = true ∧ (c.err.nerr = 0 → c2.err.cls = if k.cancel = some true then 7 else 1) := by
  intro c1 s1 c2 h
  have refused : s1.collRefused id c1 = some (s1.refusedBy id c1 k) := collRefused_of_find (find?_new good bad)
  rw [refused, Option.getD_some] at h
  have fails : ∀ cls detail addr, tfind (s1.failColl id c1 cls detail addr).colls id = some c2 →
      c2.done = true ∧ (c.err.nerr = 0 → c2.err.cls = cls) := fun cls detail addr h => by
    rw [failColl, tfind_modColl, show tfind s1.colls id = (tfind s.colls id).map fun _ => c1 from tfind_modColl ..] at h
    cases held : tfind s.colls id with
    | none =>
      rw [held] at h
      cases h
    | some c0 =>
      rw [held] at h
      obtain rfl := Option.some.inj h
      refine ⟨rfl, fun none' => ?_⟩
      show (c.err.add cls detail c.unit addr).cls = cls
      rw [ErrRec.add, if_pos none']
  rw [refusedBy] at h
  split at h
  · rename_i cancel
    rw [if_pos cancel]
    exact fails _ _ _ h
  · rename_i cancel
    rw [if_neg cancel]
    exact fails _ _ _ h

end State

section
variable {id : Nat} {s : State} {c : Coll}

theorem exec_absent (rank : Nat) (h : tfind s.colls id = none) : exec (.combineDispatch id) s = .next s ∧ exec (.collTimeout id) s = .next s ∧
    exec (.collPeerUnreachable id rank) s = .next s ∧ exec (.collComplete id) s = .next s := by
  have dispatch : exec (.combineDispatch id) s = execCombineDispatch id s := rfl
  have timeout : exec (.collTimeout id) s = execCollTimeout id s := rfl
  have unreachable : exec (.collPeerUnreachable id rank) s = execCollPeerUnreachable id rank s := rfl
  have complete : exec (.collComplete id) s = execCollComplete id s := rfl
  simp only [dispatch, timeout, unreachable, complete, execCombineDispatch, execCollTimeout, execCollPeerUnreachable, execCollComplete, h, and_self]

theorem dispatch_waits (held : tfind s.colls id = some c) (h : c.done = true ∨ s.collBehind c = true) : exec (.combineDispatch id) s = .next s := by
  rw [State.exec_combineDispatch held, if_pos (Bool.or_eq_true_iff.2 h)]

/-- A collective that has a chunk which ends it. -/
theorem dispatch_refused (held : tfind s.colls id = some c) (goes : c.done = false) (turn : ¬s.collBehind c = true)
    (bad : ∃ k ∈ c.chunks, k.cancel ≠ none ∨ k.ok = false) : ∃ k ∈ c.chunks, (k.cancel ≠ none ∨ k.ok = false) ∧
      (k.cancel = some true → exec (.combineDispatch id) s = .next (s.failColl id c 7 0 ((groupRanks c.group.img).getD k.src 0))) ∧
      (k.cancel ≠ some true → ∃ a, exec (.combineDispatch id) s = .next (s.failColl id c 1 0 a)) := by
  obtain ⟨k, hk, refused, value⟩ := State.collRefused_some (s := s) (id := id) bad
  have run : exec (.combineDispatch id) s = .next (s.refusedBy id c k) := by
    rw [State.exec_combineDispatch held, if_neg (by simp [goes, turn]), value, Option.getD_some]
  refine ⟨k, hk, refused, fun fault => ?_, fun mismatch => ⟨(Config.noAddr s.tick).toNat, ?_⟩⟩
  · rw [run, State.refusedBy, if_pos fault]
  · rw [run, State.refusedBy, if_neg mismatch]

/-- A collective whose turn it is, with nothing that ends it, begins. -/
theorem dispatch_begins (held : tfind s.colls id = some c) (goes : c.done = false) (turn : ¬s.collBehind c = true)
    (good : ∀ k ∈ c.chunks, k.cancel = none ∧ k.ok = true) (begins : c.sent = false) : exec (.combineDispatch id) s = .next (s.collSend id c) := by
  rw [State.exec_combineDispatch_step held goes turn good, State.collStep, begins]
  rfl

theorem dispatch_sends {bs : List (List Byte)} {ps : List (List Nat)} (held : tfind s.colls id = some c) (goes : c.done = false) (turn : ¬s.collBehind c = true)
    (good : ∀ k ∈ c.chunks, k.cancel = none ∧ k.ok = true) (begins : c.sent = false) (input : s.collInput c = .ok (bs, ps)) (place : c.op ≤ 1 ∨ 5 ≤ c.op) :
    ∃ t c1, exec (.combineDispatch id) s = .next t ∧ tfind t.colls id = some c1 ∧ c1.done = false ∧ c1.sent = true ∧ c1.own.data = c.merged bs ∧
      ∀ (j r q : Nat), j ≠ c.me → (groupRanks c.group.img)[j]? = some r → q < c.chunkCount (c.wireElems c.me) →
        ∃ k ∈ c1.cut (c1.partFor j) (c.wireElems c.me), k.idx = q ∧ k.digest = c.group.digest ∧ HostOut.chunk r (groupKey c.group.img) c.seq k ∈ t.hostOut := by
  obtain ⟨kept, sent⟩ := State.collSend_sends input held place
  refine ⟨_, _, dispatch_begins held goes turn good begins, kept, rfl, rfl, rfl, fun j r q other rank hq => ?_⟩
  obtain ⟨k, hk, idx, digest, mem⟩ := Coll.mem_sends (c := c.withInput bs ps) (by show c.op ≠ 3; omega) other rank hq
  exact ⟨k, hk, idx, digest, sent _ mem⟩

end

/-- A chunk as it is staged. -/
def stagedChunk (e : Group) (src idx : Nat) (digest : BitVec 64) (agree : Bool) (poison : List Nat) (data : List Byte) : Chunk where
  src := src
  idx := idx
  digest := digest
  ok := agree && decide (digest = e.digest)
  poison := poison
  data := data

theorem exec_chunkReceive (x g sq src idx : Nat) (digest : BitVec 64) (agree : Bool) (poison : List Nat) (data : List Byte) (s : State) :
    exec (.chunkReceive x g sq src ⟨idx, digest, agree⟩ poison data) s = .next (s.arrive x g sq (stagedChunk (tget {} (s.ctx x).groups g) src idx digest agree poison data)) := rfl

/-- A chunk fits its collective: its place, the elements it carries and its sender (R430, R431). -/
theorem fits_iff (c : Coll) (k : Chunk) : c.fits k = true ↔
    k.idx < c.chunkCount (c.wireElems k.src) ∧ (c.unpack (c.chunkElems (c.wireElems k.src) k.idx) k.data).isSome = true ∧ k.src ∈ c.awaited := by
  simp [Coll.fits, and_assoc]

theorem exec_collCancelReceive (x g sq src : Nat) (fault : Bool) (s : State) :
    exec (.collCancelReceive x g sq src fault) s = .next (s.arrive x g sq { src := src, cancel := some fault }) := rfl

/-- Settles O41: a collective's steps, the chunks it takes and the ways it ends, by the equation of each event; the sizes of chunks and the
windows of accumulators have their lemmas above. -/
theorem collectivesRun : Obligations.CollectivesRun := by
  unfold Obligations.CollectivesRun
  dsimp only
  refine ⟨fun id rank s => exec_absent rank, fun id s c held => ?_, fun c => Coll.perChunk_largest, fun c => Coll.chunkElems_sum c,
    fun c i j op => ⟨Coll.counter_reduction j op, fun hi place => place ▸ Coll.step_of_element op hi⟩, fun x g sq src idx digest agree fault poison data s => ?_,
    fun c n bs => ⟨c.windowed_iff, Coll.windowed_spec n bs, Coll.plain_spec n bs⟩⟩
  · simp only [← State.collBehind_iff]
    refine ⟨fun behind => dispatch_waits held (.inr behind), fun done => ⟨dispatch_waits held (.inl done), ?_, fun rank => ?_⟩,
      fun goes turn bad => dispatch_refused held goes turn bad, fun goes turn good => ⟨fun begins e input => ?_, fun begins bs ps => dispatch_sends held goes turn good begins,
        fun sent waits => ?_, fun sent u due => ?_⟩, fun goes silent set due => ?_, fun h => ?_, fun rank goes mem away => ?_, fun rank h => ?_,
      State.exec_collComplete held⟩
    · rw [State.exec_collTimeout held, if_pos (.inr (.inl done))]
    · rw [State.exec_collPeerUnreachable rank held, if_pos (.inl done)]
    · rw [dispatch_begins held goes turn good begins, State.collSend_fault input]
      rfl
    · rw [State.exec_combineDispatch_step held goes turn good, (State.collStep_sent sent).1 waits]
    · obtain ⟨waits, wrote, fault⟩ := (State.collStep_sent sent (s := s) (id := id)).2 u due
      rw [State.exec_combineDispatch_step held goes turn good]
      exact ⟨fun h => congrArg _ (waits h), fun t ready h => congrArg _ (wrote t ready h), fun e ready h => congrArg _ (fault e ready h)⟩
    · rw [State.exec_collTimeout held, if_neg (by
        rintro (h | h | h | h)
        · exact silent h
        · exact Bool.false_ne_true (goes.symm.trans h)
        · exact set h
        · exact Nat.not_lt.2 due h)]
      rfl
    · have h : c.missing = [] ∨ groupTmo c.group.img = 0 ∨ s.cycle < c.last + groupTmo c.group.img * 1500000 := h
      rw [State.exec_collTimeout held, if_pos (h.imp_right .inr)]
    · rw [State.exec_collPeerUnreachable rank held, if_neg (by simp [goes, mem, away])]
      rfl
    · rw [State.exec_collPeerUnreachable rank held, if_pos (.inr h)]
  · simp only [exec_chunkReceive, exec_collCancelReceive]
    refine ⟨fun h => ⟨congrArg _ (State.arrive_outside h), congrArg _ (State.arrive_outside h)⟩, fun valid member other none' => ?_,
      fun id c valid member other found goes chunks => ?_⟩
    · have early := fun k (own : k.src = src) => State.arrive_early (k := k) valid (own ▸ member) (own ▸ other) none'
      refine ⟨fun h => ⟨congrArg _ ((early _ rfl).trans (if_pos h)), congrArg _ ((early _ rfl).trans (if_pos h))⟩, fun late room => ?_⟩
      have h : ¬(sq < (tget {} (s.ctx x).groups g).seq.toNat ∨ 64 ≤ s.heldFrom x g src) := not_or.2 ⟨Nat.not_lt.2 late, Nat.not_le.2 room⟩
      exact ⟨congrArg _ ((early _ rfl).trans (if_neg h)), congrArg _ ((early _ rfl).trans (if_neg h))⟩
    · have good : ∀ y ∈ c.chunks, y.cancel = none ∧ y.ok = true := fun y hy => (chunks y hy).2
      have staged := State.arrive_running (k := stagedChunk (tget {} (s.ctx x).groups g) src idx digest agree poison data) valid member other found goes
        fun y hy ⟨sender, place, _⟩ => (chunks y hy).1.elim (· sender) (· place)
      have cancelled := State.arrive_running (k := { src := src, cancel := some fault }) valid member other found goes
        fun y hy ⟨_, _, cancel⟩ => Option.some_ne_none fault (cancel.symm.trans (good y hy).1)
      refine ⟨fun ok fits => ?_, fun ok out => ?_, fun bad => ⟨_, rfl, ?_⟩, ⟨_, rfl, ?_⟩⟩
      · rw [staged, if_neg fun h => Bool.false_ne_true (h.2.2.symm.trans ((fits_iff ..).2 fits))]
        dsimp only
        rw [State.collRefused_none fun y hy => ?_, Option.getD_none]
        · rfl
        · rcases List.mem_append.1 hy with old | new
          · exact good y old
          · obtain rfl := List.mem_singleton.1 new
            exact ⟨rfl, ok⟩
      · exact congrArg _ (staged.trans (if_pos ⟨ok, rfl, Bool.eq_false_iff.2 fun h => out ((fits_iff ..).1 h)⟩))
      · rw [staged, if_neg fun h => Bool.false_ne_true (bad.symm.trans h.1)]
        exact State.ended_of_refused good (.inr bad)
      · rw [cancelled, if_neg fun h => Option.some_ne_none _ h.2.1]
        intro c1 h
        obtain ⟨done, cls⟩ := State.ended_of_refused good (.inl (Option.some_ne_none fault)) c1 h
        refine ⟨done, fun none' => (cls none').trans ?_⟩
        cases fault <;> rfl

end Sys2Proof.Machine

/-!
The copy forms: their checks, and putting copies in flight (R274, R279, R280, R287–R290).
-/

namespace Sys2Proof.Machine

/-! ## The first failing check (R289) -/

theorem firstCheck_eq (l : List Check) :
    firstCheck l = ((l.find? fun c => c.1 = 0).or ((l.find? fun c => c.1 = 1).or (l.find? fun c => c.1 = 2))).map (·.2) := by
  simp only [firstCheck, List.findSome?_cons, List.findSome?_nil]
  cases l.find? fun c => c.1 = 0 with
  | some c => rfl
  | none => cases l.find? fun c => c.1 = 1 with
    | some c => rfl
    | none => cases l.find? fun c => c.1 = 2 <;> rfl

theorem firstCheck_of_align {l : List Check} {t : TrapReq} (h : l.find? (fun c => c.1 = 0) = some (0, t)) : firstCheck l = some t := by
  rw [firstCheck_eq, h]
  rfl

theorem firstCheck_of_range {l : List Check} {t : TrapReq} (aligned : ∀ c ∈ l, c.1 ≠ 0) (h : l.find? (fun c => c.1 = 1) = some (1, t)) : firstCheck l = some t := by
  rw [firstCheck_eq, List.find?_eq_none.2 fun c hc => by simpa using aligned c hc, h]
  rfl

/-- The first check of a step, of the checks of several members: that of the first member that fails the step. -/
theorem find?_flatMap {α β : Type} {p : β → Bool} {f : α → List β} {q : α → Bool} {l : List α} (h : ∀ a ∈ l, q a = ((f a).find? p).isSome) :
    (l.flatMap f).find? p = (l.find? q).bind fun a => (f a).find? p := by
  induction l with
  | nil => rfl
  | cons a l ih =>
    rw [List.flatMap_cons, List.find?_append, ih fun b hb => h b (List.mem_cons_of_mem a hb)]
    have here := h a List.mem_cons_self
    cases found : (f a).find? p with
    | none =>
      rw [found] at here
      rw [List.find?_cons_of_neg (by rw [here]; exact Bool.false_ne_true), Option.none_or]
    | some b =>
      rw [found] at here
      rw [List.find?_cons_of_pos here, Option.some_or, Option.bind_some, found]

/-! ## Copies of one member (R288, R290) -/

/-- The copy a `cpy` or `cpyf` makes for a member. -/
def plainCopy (w : Warp) (f : FormR) (fill : Bool) (m : Nat) : Copy where
  owner := 0
  ctx := w.ctx
  blk := w.blk
  midx := (State.midxOf w m).toNat
  kind := if fill then .cpyf (w.scl m f.b) else .cpy
  dst := w.scl m f.a
  src := if fill then 0 else w.scl m f.b
  dns := f.x.getLsbD 10
  sns := !fill && f.x.getLsbD 11
  len := (w.scl m (plainSrc (xSpec f.x))).toNat % 2 ^ 32
  bar := if f.x.getLsbD 12 then some ((w.scl m (plainSrc (xSpec f.x))).toNat / 2 ^ 32 % 2 ^ 19) else none
  total := (w.scl m (plainSrc (xSpec f.x))).toNat % 2 ^ 32
  slot := m
  cache := (f.x.extractLsb' 13 2).toNat

/-- A copy lies in near scratch where it should, and so does its barrier word. -/
def CopyFits (bl : Block) (c : Copy) : Prop :=
  (∀ b, c.bar = some b → b % 8 = 0 ∧ b + 8 ≤ bl.ns) ∧
    (c.len ≠ 0 → (c.dns = true → c.dst.toNat + c.len ≤ bl.ns) ∧ (c.sns = true → c.src.toNat + c.len ≤ bl.ns))

theorem extract_toNat {n : Nat} (x : BitVec n) (lo len : Nat) : (x.extractLsb' lo len).toNat = x.toNat / 2 ^ lo % 2 ^ len := by
  rw [BitVec.extractLsb'_toNat, Nat.shiftRight_eq_div_pow]

theorem buildCpy_copy (w : Warp) (f : FormR) (fill : Bool) (bl : Block) (m : Nat) : (buildCpy w f fill bl m).1 = plainCopy w f fill m := by
  simp only [buildCpy, extract_toNat, Nat.pow_zero, Nat.div_one]
  rfl

/-- The checks of a plain copy by its barrier and its sides. -/
theorem buildCpy_checks (w : Warp) (f : FormR) (fill : Bool) (bl : Block) (m : Nat) : (buildCpy w f fill bl m).2 =
    (match (plainCopy w f fill m).bar with | some b => barChecks bl m b | none => []) ++
      rangeCheck (nearOut bl (plainCopy w f fill m).dns (plainCopy w f fill m).dst (plainCopy w f fill m).len ||
        nearOut bl (plainCopy w f fill m).sns (plainCopy w f fill m).src (plainCopy w f fill m).len) m 0 := by
  simp only [buildCpy, extract_toNat, Nat.pow_zero, Nat.div_one, optBar, optDns, optSns]
  cases fill <;> cases hb : f.x.getLsbD 12 <;>
    simp only [plainCopy, thirdSrc, hb, nearOut, Bool.not_true, Bool.not_false, Bool.true_and, Bool.false_and, Bool.or_false, Bool.false_eq_true, if_true, if_false,
      List.nil_append] <;> rfl

theorem nearOut_iff {bl : Block} {near : Bool} {a : Word} {n : Nat} : nearOut bl near a n = true ↔ near = true ∧ n ≠ 0 ∧ bl.ns < a.toNat + n := by
  simp [nearOut, and_assoc]

theorem mem_alignCheck {bad : Bool} {m l : Nat} {a : Word} {c : Check} :
    c ∈ alignCheck bad m l a ↔ bad = true ∧ c = (0, { cls := 11, slot := m, lane := l, detail := a }) := by
  cases bad <;> simp [alignCheck]

theorem mem_rangeCheck {bad : Bool} {m l : Nat} {c : Check} : c ∈ rangeCheck bad m l ↔ bad = true ∧ c = (1, { cls := 12, slot := m, lane := l }) := by
  cases bad <;> simp [rangeCheck]

theorem mem_barChecks {bl : Block} {m off : Nat} {c : Check} : c ∈ barChecks bl m off ↔
    (off % 8 ≠ 0 ∧ c = (0, { cls := 11, slot := m, detail := BitVec.ofNat 64 off })) ∨ (bl.ns < off + 8 ∧ c = (1, { cls := 12, slot := m })) := by
  simp [barChecks, mem_alignCheck, mem_rangeCheck]

/-- The offset of a copy's barrier word is not aligned. -/
def barOdd (c : Copy) : Bool :=
  match c.bar with
  | some b => b % 8 != 0
  | none => false

section
variable {w : Warp} {f : FormR} {fill : Bool} {bl : Block} {m : Nat}

theorem mem_plainChecks {c : Check} : c ∈ (buildCpy w f fill bl m).2 ↔
    (∃ b, (plainCopy w f fill m).bar = some b ∧ b % 8 ≠ 0 ∧ c = (0, { cls := 11, slot := m, detail := BitVec.ofNat 64 b })) ∨
      (((∃ b, (plainCopy w f fill m).bar = some b ∧ bl.ns < b + 8) ∨
        ((plainCopy w f fill m).len ≠ 0 ∧ (((plainCopy w f fill m).dns = true ∧ bl.ns < (plainCopy w f fill m).dst.toNat + (plainCopy w f fill m).len) ∨
          ((plainCopy w f fill m).sns = true ∧ bl.ns < (plainCopy w f fill m).src.toNat + (plainCopy w f fill m).len)))) ∧ c = (1, { cls := 12, slot := m })) := by
  rw [buildCpy_checks, List.mem_append, mem_rangeCheck, Bool.or_eq_true, nearOut_iff, nearOut_iff]
  cases (plainCopy w f fill m).bar with
  | none => simp; grind
  | some b => simp [mem_barChecks]; grind

theorem barOdd_iff {c : Copy} : barOdd c = true ↔ ∃ b, c.bar = some b ∧ b % 8 ≠ 0 := by
  unfold barOdd
  cases c.bar <;> simp

theorem plainChecks_of_fits (h : CopyFits bl (plainCopy w f fill m)) : (buildCpy w f fill bl m).2 = [] := by
  obtain ⟨bar, sides⟩ := h
  refine List.eq_nil_iff_forall_not_mem.2 fun c hc => ?_
  rcases mem_plainChecks.1 hc with ⟨b, held, odd, -⟩ | ⟨⟨b, held, out⟩ | ⟨len, ⟨near, out⟩ | ⟨near, out⟩⟩, -⟩
  · exact odd (bar b held).1
  · exact Nat.not_lt.2 (bar b held).2 out
  · exact Nat.not_lt.2 ((sides len).1 near) out
  · exact Nat.not_lt.2 ((sides len).2 near) out

theorem find?_eq_of_unique {α : Type} {p : α → Bool} {l : List α} {x : α} (h : ∃ c ∈ l, p c = true) (one : ∀ c ∈ l, p c = true → c = x) : l.find? p = some x := by
  obtain ⟨c, found⟩ := Option.isSome_iff_exists.1 (List.find?_isSome.2 h)
  rw [found, one c (List.mem_of_find?_eq_some found) (List.find?_some found)]

theorem plainChecks_align : barOdd (plainCopy w f fill m) = ((buildCpy w f fill bl m).2.find? fun c => c.1 = 0).isSome := by
  rw [Bool.eq_iff_iff, barOdd_iff, List.find?_isSome]
  constructor
  · rintro ⟨b, held, odd⟩
    exact ⟨_, mem_plainChecks.2 (.inl ⟨b, held, odd, rfl⟩), rfl⟩
  · rintro ⟨c, hc, align⟩
    rcases mem_plainChecks.1 hc with ⟨b, held, odd, -⟩ | ⟨-, rfl⟩
    · exact ⟨b, held, odd⟩
    · cases align

theorem plainChecks_align_eq {b : Nat} (held : (plainCopy w f fill m).bar = some b) (odd : b % 8 ≠ 0) :
    ((buildCpy w f fill bl m).2.find? fun c => c.1 = 0) = some (0, { cls := 11, slot := m, detail := BitVec.ofNat 64 b }) := by
  refine find?_eq_of_unique ⟨_, mem_plainChecks.2 (.inl ⟨b, held, odd, rfl⟩), rfl⟩ fun c hc align => ?_
  rcases mem_plainChecks.1 hc with ⟨b', held', -, rfl⟩ | ⟨-, rfl⟩
  · obtain rfl := Option.some.inj (held.symm.trans held')
    rfl
  · cases align

theorem plainChecks_aligned (even : barOdd (plainCopy w f fill m) = false) {c : Check} (hc : c ∈ (buildCpy w f fill bl m).2) : c = (1, { cls := 12, slot := m }) := by
  rcases mem_plainChecks.1 hc with ⟨b, held, odd, -⟩ | ⟨-, rfl⟩
  · exact absurd (barOdd_iff.2 ⟨b, held, odd⟩) (by rw [even]; decide)
  · rfl

theorem plainChecks_unfit (even : barOdd (plainCopy w f fill m) = false) (h : ¬CopyFits bl (plainCopy w f fill m)) :
    ((1, { cls := 12, slot := m }) : Check) ∈ (buildCpy w f fill bl m).2 := by
  have aligned : ∀ b, (plainCopy w f fill m).bar = some b → b % 8 = 0 := fun b held => by
    by_contra odd
    exact Bool.false_ne_true (even.symm.trans (barOdd_iff.2 ⟨b, held, odd⟩))
  by_contra none'
  have no : ∀ {p : Prop}, (p → ((1, { cls := 12, slot := m }) : Check) ∈ (buildCpy w f fill bl m).2) → ¬p := fun k hp => none' (k hp)
  refine h ⟨fun b held => ⟨aligned b held, Nat.not_lt.1 (no fun out => mem_plainChecks.2 (.inr ⟨.inl ⟨b, held, out⟩, rfl⟩))⟩, fun len =>
    ⟨fun near => Nat.not_lt.1 (no fun out => mem_plainChecks.2 (.inr ⟨.inr ⟨len, .inl ⟨near, out⟩⟩, rfl⟩)),
      fun near => Nat.not_lt.1 (no fun out => mem_plainChecks.2 (.inr ⟨.inr ⟨len, .inr ⟨near, out⟩⟩, rfl⟩))⟩⟩

theorem plain_traps_align {ms : List Nat} {b : Nat} (first : (ms.find? fun m => barOdd (plainCopy w f fill m)) = some m) (held : (plainCopy w f fill m).bar = some b) :
    firstCheck (ms.flatMap fun m => (buildCpy w f fill bl m).2) = some { cls := 11, slot := m, detail := BitVec.ofNat 64 b } := by
  obtain ⟨b', held', odd⟩ := barOdd_iff.1 (List.find?_some (p := fun m => barOdd (plainCopy w f fill m)) first)
  obtain rfl := Option.some.inj (held.symm.trans held')
  refine firstCheck_of_align ?_
  rw [find?_flatMap fun m _ => plainChecks_align, first]
  exact plainChecks_align_eq held odd

/-- The lowest member that does not fit traps, where every barrier word is aligned. -/
theorem plain_traps_range {ms : List Nat} (order : ms.Pairwise (· < ·)) (even : ∀ x ∈ ms, barOdd (plainCopy w f fill x) = false) (mem : m ∈ ms)
    (unfit : ¬CopyFits bl (plainCopy w f fill m)) (first : ∀ x ∈ ms, CopyFits bl (plainCopy w f fill x) ∨ m ≤ x) :
    firstCheck (ms.flatMap fun m => (buildCpy w f fill bl m).2) = some { cls := 12, slot := m } := by
  have only : ∀ {x c}, x ∈ ms → c ∈ (buildCpy w f fill bl x).2 → c = (1, { cls := 12, slot := x }) := fun hx hc => plainChecks_aligned (even _ hx) hc
  refine firstCheck_of_range (fun c hc => ?_) ?_
  · obtain ⟨x, hx, hc⟩ := List.mem_flatMap.1 hc
    rw [only hx hc]
    exact Nat.one_ne_zero
  · obtain ⟨before, after, rfl⟩ := List.append_of_mem mem
    have lower : ∀ x ∈ before, (buildCpy w f fill bl x).2 = [] := fun x hx => by
      have less := (List.pairwise_append.1 order).2.2 x hx m List.mem_cons_self
      exact plainChecks_of_fits ((first x (List.mem_append_left _ hx)).resolve_right (Nat.not_le.2 less))
    rw [List.flatMap_append, List.flatMap_eq_nil_iff.2 lower, List.nil_append, List.flatMap_cons, List.find?_append,
      find?_eq_of_unique ⟨_, plainChecks_unfit (even m mem) unfit, rfl⟩ fun c hc _ => only mem hc, Option.some_or]

/-! ## The forms (R288–R290) -/

/-- What `cpy`, `cpyf` and `cpyt` come to, for members that make the copies `cs` under the checks `l`. -/
theorem copyForm_eq {s : State} {word : BitVec 96} {recd : Nat → List (Nat × Nat)} {build : Block → Nat → Copy × List Check} (hb : s.block? w.blk = some bl)
    (runs : Warp.never f.h = false) (acts : w.active ≠ []) (cl : w.Clear f.h (w.needs [(f.a, 1), (f.b, 1), (thirdSrc f.x, 1)]) false false) :
    let ms := copyMembers w ((([(f.a, 1), (f.b, 1), (thirdSrc f.x, 1)] : List Warp.Operand).all fun o => w.common? o.1.spec) &&
      s.sidesShared (build bl (w.active.headD 0)).1)
    copyForm s w word f recd build = if ms.flatMap recd ≠ [] ∧ w.heldByFence false = true then (s, .wait .memory)
      else if recordBusy w (ms.map fun m => (build bl m).1) (ms.flatMap recd) then (s, .wait .log)
      else match firstCheck (ms.flatMap fun m => (build bl m).2) with
        | some t => (s, .trap w t)
        | none => launchCopies s w word (ms.map fun m => (build bl m).1) := by
  intro ms
  rw [copyForm]
  dsimp only
  rw [Warp.checked_clear cl]
  dsimp only
  rw [if_neg (by simp [runs, acts]), hb, Option.getD_some]
  simp only [List.map_map, List.flatMap_map]
  exact if_congr (by simp [ms]) rfl rfl

theorem copyMembers_sorted (w : Warp) (once : Bool) : (copyMembers w once).Pairwise (· < ·) := by
  have all : w.active.Pairwise (· < ·) := List.pairwise_lt_range.filter _
  unfold copyMembers
  split
  · exact all.sublist (List.take_sublist ..)
  · exact all

theorem copyMembers_ne_nil (acts : w.active ≠ []) (once : Bool) : copyMembers w once ≠ [] := by
  unfold copyMembers
  split
  · simpa using acts
  · exact acts

/-- No zero-byte copy of `cs` signals a barrier word that an earlier access of the warp still has to reach. -/
theorem recordBusy_eq_false {cs : List Copy} {records : List (Nat × Nat)} (h : ∀ r ∈ records, nearBusy w r.1 r.2 = false)
    (signals : ∀ c ∈ cs, ∀ b, c.total = 0 → c.bar = some b → nearBusy w b 8 = false) : recordBusy w cs records = false := by
  rw [recordBusy, Bool.or_eq_false_iff, List.any_eq_false, List.any_eq_false]
  refine ⟨fun r hr => by rw [h r hr]; exact Bool.false_ne_true, fun c hc busy => ?_⟩
  obtain ⟨empty, busy⟩ := Bool.and_eq_true_iff.1 busy
  obtain ⟨b, held, busy⟩ := (Option.any_eq_true ..).1 busy
  exact Bool.false_ne_true ((signals c hc b (of_decide_eq_true empty) held).symm.trans busy)

section
variable {s : State} (hc : s.curWarp = some w) (ht : w.tx = none) (runs : Warp.never f.h = false) (acts : w.active ≠ []) (hb : s.block? w.blk = some bl)
  (cl : w.Clear f.h (w.needs [(f.a, 1), (f.b, 1), (plainSrc (xSpec f.x), 1)]) false false)

/-- The members a plain copy is made for. -/
def plainMembers (s : State) (w : Warp) (f : FormR) (fill : Bool) : List Nat :=
  copyMembers w ((([(f.a, 1), (f.b, 1), (plainSrc (xSpec f.x), 1)] : List Warp.Operand).all fun o => w.common? o.1.spec) &&
    s.sidesShared (plainCopy w f fill (w.active.headD 0)))

/-- A plain copy form, as an instruction. -/
noncomputable def plainInstr (f : FormR) (fill : Bool) : Instr := if fill then .cpyf f else .cpy f

/-- Its word. -/
def plainWord (f : FormR) (fill : Bool) : BitVec 96 := packR (if fill then 0x161 else 0x160) f

include hc ht runs acts hb cl

theorem exec_plain (free : ∀ m ∈ plainMembers s w f fill, ∀ b, (plainCopy w f fill m).total = 0 → (plainCopy w f fill m).bar = some b → nearBusy w b 8 = false) :
    let r := match firstCheck ((plainMembers s w f fill).flatMap fun m => (buildCpy w f fill bl m).2) with
      | some t => (s, WRes.trap w t)
      | none => launchCopies s w (plainWord f fill) ((plainMembers s w f fill).map (plainCopy w f fill))
    exec (plainInstr f fill) s = .next (r.1.finish w r.2) := by
  have steps : exec (plainInstr f fill) s = machineOpNT s fun s w => copyForm s w (plainWord f fill) f (fun _ => []) (buildCpy w f fill) := by
    cases fill <;> rfl
  have none' : ∀ l : List Nat, (l.flatMap fun _ => ([] : List (Nat × Nat))) = [] := fun l => List.flatMap_eq_nil_iff.2 fun _ _ => rfl
  have form := copyForm_eq (word := plainWord f fill) (recd := fun _ => []) (build := buildCpy w f fill) hb runs acts cl
  simp only [buildCpy_copy, none'] at form
  rw [if_neg (fun h => h.1 rfl), if_neg (by
    rw [recordBusy_eq_false (fun _ h => absurd h List.not_mem_nil) fun c hc b => ?_]
    · exact Bool.false_ne_true
    · obtain ⟨m, hm, rfl⟩ := List.mem_map.1 hc
      exact free m hm b)] at form
  rw [steps, machineOpNT_cur _ hc ht, form]
  rfl

theorem plain_launches (fit : ∀ m ∈ plainMembers s w f fill, CopyFits bl (plainCopy w f fill m))
    (free : ∀ m ∈ plainMembers s w f fill, ∀ b, (plainCopy w f fill m).total = 0 → (plainCopy w f fill m).bar = some b → nearBusy w b 8 = false) :
    let r := launchCopies s w (plainWord f fill) ((plainMembers s w f fill).map (plainCopy w f fill))
    exec (plainInstr f fill) s = .next (r.1.finish w r.2) := by
  have run := exec_plain hc ht runs acts hb cl free
  rw [List.flatMap_eq_nil_iff.2 fun m hm => plainChecks_of_fits (fit m hm)] at run
  exact run

theorem plain_traps (free : ∀ m ∈ plainMembers s w f fill, ∀ b, (plainCopy w f fill m).total = 0 → (plainCopy w f fill m).bar = some b → nearBusy w b 8 = false) :
    (∀ m b, (plainMembers s w f fill).find? (fun m => barOdd (plainCopy w f fill m)) = some m → (plainCopy w f fill m).bar = some b →
      Traps (plainInstr f fill) s w { cls := 11, slot := m, detail := BitVec.ofNat 64 b }) ∧
    (∀ m, (plainMembers s w f fill).find? (fun m => barOdd (plainCopy w f fill m)) = none → m ∈ plainMembers s w f fill → ¬CopyFits bl (plainCopy w f fill m) →
      (∀ x ∈ plainMembers s w f fill, CopyFits bl (plainCopy w f fill x) ∨ m ≤ x) → Traps (plainInstr f fill) s w { cls := 12, slot := m }) := by
  have run := exec_plain hc ht runs acts hb cl free
  refine ⟨fun m b first held => ?_, fun m even mem unfit first => ?_⟩
  · rw [plain_traps_align first held] at run
    exact run
  · have even : ∀ x ∈ plainMembers s w f fill, barOdd (plainCopy w f fill x) = false := fun x hx => Bool.eq_false_iff.2 (List.find?_eq_none.1 even x hx)
    have order : (plainMembers s w f fill).Pairwise (· < ·) := copyMembers_sorted ..
    rw [plain_traps_range order even mem unfit first] at run
    exact run

/-! ## `cpyt` (R279) -/

/-- The members a tile copy is made for. -/
def tileMembers (s : State) (w : Warp) (f : FormR) (bl : Block) : List Nat :=
  copyMembers w ((([(f.a, 1), (f.b, 1), (plainSrc (xSpec f.x), 1)] : List Warp.Operand).all fun o => w.common? o.1.spec) &&
    s.sidesShared (buildCpyt w f bl (w.active.headD 0)).1)

theorem cpyt_waits (held : w.heldByFence false = true) : Waits (.cpyt f) s w .memory := by
  have some' : (tileMembers s w f bl).flatMap (fun m => [((w.scl m (thirdSrc f.x)).toNat, 64)]) ≠ [] := by
    rw [← List.map_eq_flatMap, Ne, List.map_eq_nil_iff]
    exact copyMembers_ne_nil acts _
  have form := copyForm_eq (word := packR 0x162 f) (recd := fun m => [((w.scl m (thirdSrc f.x)).toNat, 64)]) (build := buildCpyt w f) hb runs acts cl
  have steps : exec (.cpyt f) s = machineOpNT s fun s w => copyForm s w (packR 0x162 f) f (fun m => [((w.scl m (thirdSrc f.x)).toNat, 64)]) (buildCpyt w f) := rfl
  rw [machineOpNT_cur _ hc ht, form.trans (if_pos ⟨some', held⟩)] at steps
  exact steps

theorem exec_cpyt_goes (unheld : w.heldByFence false = false) (records : ∀ m ∈ tileMembers s w f bl, nearBusy w (w.scl m (plainSrc (xSpec f.x))).toNat 64 = false)
    (signals : ∀ c ∈ (tileMembers s w f bl).map fun m => (buildCpyt w f bl m).1, ∀ b, c.total = 0 → c.bar = some b → nearBusy w b 8 = false) :
    let r := match firstCheck ((tileMembers s w f bl).flatMap fun m => (buildCpyt w f bl m).2) with
      | some t => (s, WRes.trap w t)
      | none => launchCopies s w (packR 0x162 f) ((tileMembers s w f bl).map fun m => (buildCpyt w f bl m).1)
    exec (.cpyt f) s = .next (r.1.finish w r.2) := by
  have form := copyForm_eq (word := packR 0x162 f) (recd := fun m => [((w.scl m (thirdSrc f.x)).toNat, 64)]) (build := buildCpyt w f) hb runs acts cl
  have free : recordBusy w ((tileMembers s w f bl).map fun m => (buildCpyt w f bl m).1)
      ((tileMembers s w f bl).flatMap fun m => [((w.scl m (thirdSrc f.x)).toNat, 64)]) = false := recordBusy_eq_false (fun r hr => by
    obtain ⟨m, hm, hr⟩ := List.mem_flatMap.1 hr
    obtain rfl := List.mem_singleton.1 hr
    exact records m hm) signals
  have steps : exec (.cpyt f) s = machineOpNT s fun s w => copyForm s w (packR 0x162 f) f (fun m => [((w.scl m (thirdSrc f.x)).toNat, 64)]) (buildCpyt w f) := rfl
  rw [machineOpNT_cur _ hc ht, (form.trans (if_neg fun h => Bool.false_ne_true (unheld.symm.trans h.2))).trans
    (if_neg fun h => Bool.false_ne_true (free.symm.trans h))] at steps
  exact steps

end

end

/-- The rows of a tile (R279). -/
theorem mem_tileRows (r : BitVec 512) (dst src : Word) (x : Row) : x ∈ tileRows r dst src ↔ ∃ y z, y < tileN r 32 ∧ z < tileN r 48 ∧ x = ⟨96,
    dst + r.extractLsb' 192 64 * BitVec.ofNat 64 y + r.extractLsb' 256 64 * BitVec.ofNat 64 z,
    src + r.extractLsb' 64 64 * BitVec.ofNat 64 y + r.extractLsb' 128 64 * BitVec.ofNat 64 z, tileN r 16 * tileEsz r⟩ := by
  simp only [tileRows, List.mem_flatMap, List.mem_map, List.mem_range]
  constructor
  · rintro ⟨z, hz, y, hy, rfl⟩
    exact ⟨y, z, hy, hz, rfl⟩
  · rintro ⟨y, z, hy, hz, rfl⟩
    exact ⟨z, hz, y, hy, rfl⟩

end Sys2Proof.Machine

/-!
Putting copies in flight, the forms `cpyg` and `halo`, and the completion of a copy (R274–R276, R280, R283, R290).
-/

namespace Sys2Proof.Machine

/-! ## Putting copies in flight (R274) -/

theorem launchCopies_full {s : State} {w : Warp} {cs : List Copy} (word : BitVec 96) (some' : cs ≠ []) (full : 64 < w.copies.pending + cs.length) :
    launchCopies s w word cs = (s, .wait .room) := by
  rw [launchCopies, if_neg some', if_pos full]

theorem Warp.key_logEntry (w : Warp) (e : LogEntry) : (w.logEntry e).key = w.key :=
  foldl_keep Warp.key _ (fun a m => foldl_keep Warp.key _ (fun b r => (onlyRegs_setEmpty b m true r).key) _ a) _ w

/-- The parts of the log entry that stand for a copy: one, or one for each row of `cpyg` (R290). -/
def copyParts (c : Copy) : List Part :=
  match c.kind with
  | .cpyg _ rows => if rows = [] then [{ slot := c.slot, lane := 96, addr := c.dst }] else rows.map fun r => { slot := c.slot, lane := r.1, addr := r.2 }
  | _ => [{ slot := c.slot, lane := 96, addr := c.dst }]

theorem copyParts_of_whole {c : Copy} (whole : ∀ n l, c.kind ≠ .cpyg n l) : copyParts c = [{ slot := c.slot, lane := 96, addr := c.dst }] := by
  unfold copyParts
  cases kind : c.kind with
  | cpyg n l => exact absurd kind (whole n l)
  | _ => rfl

/-- Copies as they are put in flight: numbered, and owned by the warp. -/
def numbered (s : State) (w : Warp) (cs : List Copy) : List (Nat × Copy) :=
  (cs.zip (List.range cs.length)).map fun q => (tfresh s.copies + q.2, { q.1 with owner := w.key, entry := w.nextSeq, sup := w.sup, since := s.tick })

/-- The warp whose open batch and log hold them. -/
def launching (s : State) (w : Warp) (word : BitVec 96) (k : Nat) (cs : List Copy) : Warp :=
  { w.logEntry (w.entryFor k word { acc := .copy (tfresh s.copies), size := 0 } false 0 [] (cs.flatMap copyParts)) with
    copies := { w.copies with opened := w.copies.opened ++ (numbered s w cs).map (·.1) } }

theorem launchCopies_goes {s : State} {w : Warp} {cs : List Copy} {k : Nat} (word : BitVec 96) (some' : cs ≠ []) (room : w.copies.pending + cs.length ≤ 64)
    (free : w.freeEntry = some k) :
    let s2 := ((numbered s w cs).filter fun p => (p.2.rows.all fun r => r.n = 0) && p.2.total = 0).foldl (fun s p => s.finishCopy p.1 p.2)
      { s.putWarp (launching s w word k cs) with copies := s.copies ++ numbered s w cs }
    launchCopies s w word cs = (s2, .fall ((s2.warp? w.key).getD (launching s w word k cs))) := by
  rw [launchCopies, if_neg some', if_neg (by omega)]
  simp only [free]
  rfl

theorem launchCopies_single {s : State} {w : Warp} {c : Copy} {k : Nat} (word : BitVec 96) (room : w.copies.pending < 64) (free : w.freeEntry = some k) (moves : c.total ≠ 0)
    (whole : ∀ n l, c.kind ≠ .cpyg n l) :
    let id := tfresh s.copies
    let w1 : Warp := { w.logEntry (w.entryFor k word { acc := .copy id, size := 0 } false 0 [] [{ slot := c.slot, lane := 96, addr := c.dst }]) with
      copies := { w.copies with opened := w.copies.opened ++ [id] } }
    launchCopies s w word [c] = ({ s.putWarp w1 with copies := s.copies ++ [(id, { c with owner := w.key, entry := w.nextSeq, sup := w.sup, since := s.tick })] }, .fall w1) := by
  intro id w1
  have one : numbered s w [c] = [(id, { c with owner := w.key, entry := w.nextSeq, sup := w.sup, since := s.tick })] := rfl
  have warp : launching s w word k [c] = w1 := by
    rw [launching, one, List.flatMap_cons, List.flatMap_nil, List.append_nil, copyParts_of_whole whole]
    rfl
  have moving : (numbered s w [c]).filter (fun p => (p.2.rows.all fun r => r.n = 0) && p.2.total = 0) = [] := by
    rw [one, List.filter_cons_of_neg (by simp [moves]), List.filter_nil]
  have held : State.warp? { s.putWarp w1 with copies := s.copies ++ [(id, { c with owner := w.key, entry := w.nextSeq, sup := w.sup, since := s.tick })] } w1.key = some w1 :=
    s.warp?_putWarp_same w1
  have key : w1.key = w.key := Warp.key_logEntry ..
  rw [launchCopies_goes word (List.cons_ne_nil c []) (by rw [List.length_singleton]; omega) free, moving, warp, one, List.foldl_nil, ← key]
  exact Prod.ext rfl (congrArg (fun o => WRes.fall (Option.getD o w1)) held)

/-! ## The completion of a copy (R275, R276, R283, R290) -/

theorem exec_copyComplete_absent {s : State} {id : Nat} (h : tfind s.copies id = none) : exec (.copyComplete id) s = .next s := by
  have steps : exec (.copyComplete id) s = .next (s.copyStep id) := rfl
  rw [steps, State.copyStep, h]

theorem exec_copyComplete {s : State} {id : Nat} {c : Copy} {w : Warp} (h : tfind s.copies id = some c) (hw : s.warp? c.owner = some w) (own : w.blk = c.blk) :
    let e := w.log.find? fun e => e.seq = c.entry
    let stuck := e.any (·.held) = true ∨ s.copyWaits w c = true ∨ s.haloTurn id c = false
    (stuck → exec (.copyComplete id) s = .next s) ∧
    (¬stuck →
      let todo := c.left.filter fun q => !State.rowSkipped e c q.1
      let go := todo.filter fun q => s.pieceReady e c q.1
      let c1 : Copy := { c with done := c.done ++ go.map (·.2) }
      let s1 := s.movePieces id c (go.map (·.1))
      let s2 := ({ s1 with copies := tset s1.copies id c1 } : State).lanesDone c1
      exec (.copyComplete id) s = .next (if go.length != todo.length || s2.replicas.any (fun r => r.owner = copyAgent id) then s2 else s2.finishCopy id c1)) := by
  intro e stuck
  have steps : exec (.copyComplete id) s = .next (s.copyStep id) := rfl
  have waits : (e.any (·.held) || s.copyWaits w c || !s.haloTurn id c) = true ↔ stuck := by simp [stuck, or_assoc]
  rw [steps, State.copyStep, h]
  simp only [hw, own, bne_self_eq_false, Bool.false_eq_true, if_false]
  exact ⟨fun h => congrArg _ (if_pos (waits.2 h)), fun h => congrArg _ (if_neg (mt waits.1 h))⟩

theorem finishCopy_bar (s : State) (id : Nat) {c : Copy} {off : Nat} (h : c.bar = some off) :
    s.finishCopy id c = (s.putBarrier c.blk off ((s.barrier c.blk off).step (-(c.total : Int)) false)).finishCopy id { c with bar := none } := by
  simp only [State.finishCopy, h]
  rfl

/-! ## The bytes of a row (R275, R290) -/

theorem zip_range_map {α : Type} (f : Nat → α) (n : Nat) : (List.range n).zip ((List.range n).map f) = (List.range n).map fun i => (i, f i) := by
  have pairs := List.zip_map' (l := List.range n) (f := id) (g := f)
  rwa [List.map_id] at pairs

theorem sideAddrs_near (s : State) (c : Copy) (r : Row) (dst : Bool) :
    s.sideAddrs c r dst true = (List.range r.n).map fun i => some (State.nearBase + (if dst then r.dst else r.src).toNat + i) := if_pos rfl

theorem rowBytes_pattern {s : State} {c : Copy} {pat : Word} (r : Row) (kind : c.kind = .cpyf pat) (near : c.dns = true) :
    s.rowBytes c r = (List.range r.n).map fun i => ⟨State.nearBase + r.dst.toNat + i, none, BitVec.ofNat 8 (pat.toNat / 2 ^ (8 * (i % 8))), false⟩ := by
  have bits : ∀ i, pat.extractLsb' (8 * (i % 8)) 8 = BitVec.ofNat 8 (pat.toNat / 2 ^ (8 * (i % 8))) := fun i =>
    BitVec.eq_of_toNat_eq (by rw [extract_toNat, BitVec.toNat_ofNat])
  simp only [State.rowBytes, kind, near, sideAddrs_near, zip_range_map, List.filterMap_map, bits]
  exact congrFun (List.filterMap_eq_map' (f := fun i => (⟨State.nearBase + r.dst.toNat + i, none, BitVec.ofNat 8 (pat.toNat / 2 ^ (8 * (i % 8))), false⟩ : State.Mv))) _

theorem byteAt_near {s : State} {blk : Nat} {bl : Block} (hb : s.block? blk = some bl) (a i : Nat) :
    s.byteAt blk (State.nearBase + a + i) = (bl.near.read (a + i), bl.nearPoison.contains ((a + i) / 8 * 8)) := by
  rw [State.byteAt, if_pos (by omega), hb, show State.nearBase + a + i - State.nearBase = a + i by omega]

theorem rowBytes_near {s : State} {c : Copy} {bl : Block} (r : Row) (kind : c.kind = .cpy) (dns : c.dns = true) (sns : c.sns = true) (hb : s.block? c.blk = some bl) :
    s.rowBytes c r = (List.range r.n).map fun i => ⟨State.nearBase + r.dst.toNat + i, some (State.nearBase + r.src.toNat + i),
      bl.near.read (r.src.toNat + i), bl.nearPoison.contains ((r.src.toNat + i) / 8 * 8)⟩ := by
  simp only [State.rowBytes, kind, dns, sns, sideAddrs_near, List.zip_map', List.filterMap_map]
  rw [← List.filterMap_eq_map]
  refine List.filterMap_congr fun i _ => ?_
  have value := byteAt_near hb r.src.toNat i
  exact congrArg (fun v : Byte × Bool => some (⟨State.nearBase + r.dst.toNat + i, some (State.nearBase + r.src.toNat + i), v.1, v.2⟩ : State.Mv)) value

/-! ## `cpyg` (R290) -/

theorem mem_toList {m : LaneMask} {l : Nat} : l ∈ m.toList ↔ m.getLsbD l = true := by
  rw [LaneMask.toList, List.mem_filter]
  refine ⟨And.right, fun h => ⟨?_, h⟩⟩
  exact List.mem_range.2 (BitVec.lt_of_getLsbD h)

section
variable (w : Warp) (f : FormM) (lanes lost : Nat → LaneMask) (m : Nat)

/-- The control word of `cpyg`, and its fields: the bytes of a row, the offset in near scratch, the barrier's. -/
def gatherCtl : Nat := (w.scl m f.data).toNat
def gatherBytes : Nat := gatherCtl w f m / 2 ^ 19 % 2 ^ 13
def gatherAt : Nat := gatherCtl w f m % 2 ^ 19
def gatherSignals : Bool := (w.scl m f.data).getLsbD 51
def gatherBar : Option Nat := if gatherCtl w f m / 2 ^ 51 % 2 = 1 then some (gatherCtl w f m / 2 ^ 32 % 2 ^ 19) else none

/-- A row for each lane: the lane and its address. -/
def gatherRows : List (Nat × Word) := (lanes m).toList.map fun l => (l, w.ea f.addr f.off m l)

/-- The copy `cpyg` makes for a member. -/
def gatherCopy : Copy where
  owner := 0
  ctx := w.ctx
  blk := w.blk
  midx := (State.midxOf w m).toNat
  kind := .cpyg (gatherBytes w f m) (gatherRows w f lanes m)
  dst := BitVec.ofNat 64 (gatherAt w f m)
  dns := true
  bar := gatherBar w f m
  total := gatherBytes w f m * (lanes m ||| lost m).count
  slot := m
  cache := (f.attr.extractLsb' 5 2).toNat

/-- Its checks. -/
def gatherChecks (bl : Block) : List Check :=
  ((gatherRows w f lanes m).flatMap fun r => alignCheck (r.2.toNat % 4 != 0) m r.1 r.2) ++
    (if gatherSignals w f m then barChecks bl m (gatherCtl w f m / 2 ^ 32 % 2 ^ 19) else []) ++
    ((gatherRows w f lanes m).flatMap fun r => rangeCheck (bl.ns < gatherAt w f m + (r.1 + 1) * gatherBytes w f m) m r.1) ++
    copyCheck (gatherBytes w f m % 4 != 0 || gatherBytes w f m < 4 || 4096 < gatherBytes w f m) 0 m

end

section
variable {w : Warp} {f : FormM} {lanes lost : Nat → LaneMask} {m : Nat} {bl : Block} {s : State}

theorem gatherSignals_iff : gatherSignals w f m = true ↔ gatherCtl w f m / 2 ^ 51 % 2 = 1 := by
  rw [gatherSignals, ← BitVec.testBit_toNat, Nat.testBit_eq_decide_div_mod_eq, decide_eq_true_eq]
  rfl

theorem gatherBar_eq : gatherBar w f m = if (w.scl m f.data).getLsbD 51 then some (gatherCtl w f m / 2 ^ 32 % 2 ^ 19) else none :=
  if_congr gatherSignals_iff.symm rfl rfl

theorem gatherChecks_eq_nil (h : gatherBytes w f m % 4 = 0 ∧ 4 ≤ gatherBytes w f m ∧ gatherBytes w f m ≤ 4096 ∧
      (∀ r ∈ gatherRows w f lanes m, r.2.toNat % 4 = 0 ∧ gatherAt w f m + (r.1 + 1) * gatherBytes w f m ≤ bl.ns) ∧
      (gatherSignals w f m = true → gatherCtl w f m / 2 ^ 32 % 2 ^ 19 % 8 = 0 ∧ gatherCtl w f m / 2 ^ 32 % 2 ^ 19 + 8 ≤ bl.ns)) :
    gatherChecks w f lanes m bl = [] := by
  obtain ⟨whole, least, most, rows, bar⟩ := h
  have aligned : ((gatherRows w f lanes m).flatMap fun r => alignCheck (r.2.toNat % 4 != 0) m r.1 r.2) = [] :=
    List.flatMap_eq_nil_iff.2 fun r hr => by simp [alignCheck, (rows r hr).1]
  have inside : ((gatherRows w f lanes m).flatMap fun r => rangeCheck (bl.ns < gatherAt w f m + (r.1 + 1) * gatherBytes w f m) m r.1) = [] :=
    List.flatMap_eq_nil_iff.2 fun r hr => by simp [rangeCheck, (rows r hr).2]
  have word : (if gatherSignals w f m then barChecks bl m (gatherCtl w f m / 2 ^ 32 % 2 ^ 19) else []) = [] := by
    split
    · rename_i signals
      exact barChecks_eq_nil (bar signals).1 (bar signals).2
    · rfl
  rw [gatherChecks, aligned, inside, word]
  simp [copyCheck, whole, least, most]

/-- A form that has read dead lanes notes it. -/
def gatherEnds (f : FormM) : WRes → WRes
  | .fall w1 => .fall (w1.noteDead f.h [Warp.addrOperand f, (f.data, 1)])
  | r => r

/-- The form copies once for its members. -/
def gatherOnce (s : State) (w : Warp) (f : FormM) : Prop :=
  w.common? f.addr = true ∧ w.common? f.data.spec = true ∧
    ¬∃ m ∈ w.active, ∃ l, (w.part f.h m).getLsbD l = true ∧ s.windowIn w.ctx (w.ea f.addr f.off m l) (gatherBytes w f m) = true

theorem exec_cpyg (hc : s.curWarp = some w) (ht : w.tx = none) (hb : s.block? w.blk = some bl)
    (cl : w.Clear f.h (w.needs [Warp.addrOperand f, (f.data, 1)]) (w.misfits [Warp.addrOperand f, (f.data, 1)]) false) (ms : List Nat)
    (once : gatherOnce s w f → ms = w.active.take 1 ∧
      ∀ m, lanes m = w.union f.h ∧ lost m = w.active.foldl (fun u m => u ||| w.deadPart f.h m) 0 &&& ~~~(w.union f.h))
    (each : ¬gatherOnce s w f → ms = w.active ∧ ∀ m, lanes m = w.part f.h m ∧ lost m = w.deadPart f.h m) :
    let built : List (Copy × List Check) := (ms.filter fun m => lanes m ||| lost m != 0).map fun m => (gatherCopy w f lanes lost m, gatherChecks w f lanes m bl)
    let r := match firstCheck (built.flatMap (·.2)) with
      | some t => (s, WRes.trap w t)
      | none => ((launchCopies s w (packM 0x163 f) (built.map Prod.fst)).1, gatherEnds f (launchCopies s w (packM 0x163 f) (built.map Prod.fst)).2)
    exec (.cpyg f) s = .next (r.1.finish w r.2) := by
  have steps : exec (.cpyg f) s = execCpyg f s := rfl
  rw [execCpyg, machineOpNT_cur _ hc ht] at steps
  dsimp only at steps
  rw [Warp.checked_clear cl, hb, Option.getD_some] at steps
  have field : ∀ m lo n, ((w.scl m f.data).extractLsb' lo n).toNat = (w.scl m f.data).toNat / 2 ^ lo % 2 ^ n := fun m lo n => extract_toNat _ lo n
  simp only [field, Nat.pow_zero, Nat.div_one] at steps
  have shares : ((([Warp.addrOperand f, (f.data, 1)] : List Warp.Operand).all fun o => w.common? o.1.spec) && !(w.active.any fun m =>
      (w.part f.h m).toList.any fun l => s.windowIn w.ctx (w.ea f.addr f.off m l) ((w.scl m f.data).toNat / 2 ^ 19 % 2 ^ 13))) = true ↔ gatherOnce s w f := by
    simp only [gatherOnce, Warp.addrOperand, List.all_cons, List.all_nil, Bool.and_true, Bool.and_eq_true, Bool.not_eq_true', ← Bool.not_eq_true, List.any_eq_true,
      mem_toList, and_assoc]
    rfl
  generalize ((([Warp.addrOperand f, (f.data, 1)] : List Warp.Operand).all fun o => w.common? o.1.spec) && !(w.active.any fun m =>
      (w.part f.h m).toList.any fun l => s.windowIn w.ctx (w.ea f.addr f.off m l) ((w.scl m f.data).toNat / 2 ^ 19 % 2 ^ 13))) = b at steps shares
  cases b with
  | true =>
    obtain ⟨rfl, fields⟩ := once (shares.1 rfl)
    obtain rfl : lanes = fun _ => w.union f.h := funext fun m => (fields m).1
    obtain rfl : lost = fun _ => w.active.foldl (fun u m => u ||| w.deadPart f.h m) 0 &&& ~~~(w.union f.h) := funext fun m => (fields m).2
    simp only [if_true, copyMembers] at steps
    simp only [gatherCopy, gatherBar_eq]
    exact steps
  | false =>
    obtain ⟨rfl, fields⟩ := each fun h => Bool.false_ne_true (shares.2 h)
    obtain rfl : lanes = fun m => w.part f.h m := funext fun m => (fields m).1
    obtain rfl : lost = fun m => w.deadPart f.h m := funext fun m => (fields m).2
    simp only [Bool.false_eq_true, if_false, copyMembers] at steps
    simp only [gatherCopy, gatherBar_eq]
    exact steps

theorem cpyg_launches (hc : s.curWarp = some w) (ht : w.tx = none) (hb : s.block? w.blk = some bl)
    (cl : w.Clear f.h (w.needs [Warp.addrOperand f, (f.data, 1)]) (w.misfits [Warp.addrOperand f, (f.data, 1)]) false) (ms : List Nat)
    (once : gatherOnce s w f → ms = w.active.take 1 ∧
      ∀ m, lanes m = w.union f.h ∧ lost m = w.active.foldl (fun u m => u ||| w.deadPart f.h m) 0 &&& ~~~(w.union f.h))
    (each : ¬gatherOnce s w f → ms = w.active ∧ ∀ m, lanes m = w.part f.h m ∧ lost m = w.deadPart f.h m)
    (fit : ∀ m ∈ ms.filter (fun m => lanes m ||| lost m != 0), gatherBytes w f m % 4 = 0 ∧ 4 ≤ gatherBytes w f m ∧ gatherBytes w f m ≤ 4096 ∧
      (∀ r ∈ gatherRows w f lanes m, r.2.toNat % 4 = 0 ∧ gatherAt w f m + (r.1 + 1) * gatherBytes w f m ≤ bl.ns) ∧
      (gatherCtl w f m / 2 ^ 51 % 2 = 1 → gatherCtl w f m / 2 ^ 32 % 2 ^ 19 % 8 = 0 ∧ gatherCtl w f m / 2 ^ 32 % 2 ^ 19 + 8 ≤ bl.ns)) :
    let r := launchCopies s w (packM 0x163 f) ((ms.filter fun m => lanes m ||| lost m != 0).map (gatherCopy w f lanes lost))
    exec (.cpyg f) s = .next (r.1.finish w (gatherEnds f r.2)) := by
  have run := exec_cpyg hc ht hb cl ms once each
  have checks : (ms.filter fun m => lanes m ||| lost m != 0).flatMap (fun m => gatherChecks w f lanes m bl) = [] := List.flatMap_eq_nil_iff.2 fun m hm => by
    obtain ⟨whole, least, most, rows, bar⟩ := fit m hm
    exact gatherChecks_eq_nil ⟨whole, least, most, rows, fun signals => bar (gatherSignals_iff.1 signals)⟩
  simp only [List.flatMap_map, checks, List.map_map] at run
  exact run

end

/-! ## `halo` (R280) -/

/-- The checks of a halo record, for the block that holds it. -/
def haloChecks (bl : Block) (m : Nat) (a : Word) (r : BitVec 1024) : List Check :=
  if bl.ns < a.toNat + 128 then [] else
    (if r.getLsbD 528 then barChecks bl m (r.extractLsb' 532 19).toNat else []) ++
    copyCheck (((List.range 7).any fun i => r.extractLsb' (64 * i + 56) 8 != 0) || r.extractLsb' 529 3 != 0 || r.extractLsb' 551 473 != 0 ||
      ([0, 1, 2].any fun x => haloE r x = 0) || (haloFaces r).any fun i => haloE r (i / 2) < 3 * haloH r (i / 2)) 1 m ++
    copyCheck (2 ^ 32 - 1 < ((haloFaces r).map (haloBytes r)).foldl (· + ·) 0) 2 m

/-- The record of the form. -/
def haloRecord (w : Warp) (f : FormR) (bl : Block) : BitVec 1024 := BitVec.ofNat 1024 (leNat (bl.near.readBytes (w.scl (w.active.headD 0) f.a).toNat 128))

/-- The copies it makes. -/
def haloCopies (s : State) (w : Warp) (f : FormR) (bl : Block) : List Copy :=
  (copyMembers w (s.sidesShared (buildHalo w (w.scl (w.active.headD 0) f.a) (haloRecord w f bl) (w.active.headD 0)))).map
    (buildHalo w (w.scl (w.active.headD 0) f.a) (haloRecord w f bl))

/-- Its first failing check. -/
def haloFirst (w : Warp) (f : FormR) (bl : Block) : Option TrapReq :=
  let m0 := w.active.headD 0
  let a := w.scl m0 f.a
  firstCheck (alignCheck (a.toNat % 128 != 0) m0 0 a ++ rangeCheck (bl.ns < a.toNat + 128) m0 0 ++ haloChecks bl m0 a (haloRecord w f bl))

/-- A record that passes its checks. -/
def HaloOk (bl : Block) (r : BitVec 1024) : Prop :=
  (r.getLsbD 528 = true → (r.extractLsb' 532 19).toNat % 8 = 0 ∧ (r.extractLsb' 532 19).toNat + 8 ≤ bl.ns) ∧ (∀ i, i < 7 → r.extractLsb' (64 * i + 56) 8 = 0) ∧
    r.extractLsb' 529 3 = 0 ∧ r.extractLsb' 551 473 = 0 ∧ (∀ x, x < 3 → haloE r x ≠ 0) ∧ (∀ i ∈ haloFaces r, 3 * haloH r (i / 2) ≤ haloE r (i / 2)) ∧
    ((haloFaces r).map (haloBytes r)).foldl (· + ·) 0 < 2 ^ 32

theorem haloChecks_of_ok {r : BitVec 1024} (m : Nat) (a : Word) (ok : HaloOk bl r) : haloChecks bl m a r = [] := by
  obtain ⟨bar, zero, low, high, extents, thick, small⟩ := ok
  have word : (if r.getLsbD 528 then barChecks bl m (r.extractLsb' 532 19).toNat else []) = [] := by
    split
    · rename_i signals
      exact barChecks_eq_nil (bar signals).1 (bar signals).2
    · rfl
  have reserved : ((List.range 7).any fun i => r.extractLsb' (64 * i + 56) 8 != 0) = false := List.any_eq_false.2 fun i hi => by
    simpa using zero i (List.mem_range.1 hi)
  have empty : ([0, 1, 2].any fun x => haloE r x = 0) = false := by
    simp [extents]
  have thin : ((haloFaces r).any fun i => haloE r (i / 2) < 3 * haloH r (i / 2)) = false := List.any_eq_false.2 fun i hi => by
    simpa using thick i hi
  have size : decide (2 ^ 32 - 1 < ((haloFaces r).map (haloBytes r)).foldl (· + ·) 0) = false := decide_eq_false (by omega)
  rw [haloChecks, word, reserved, empty, thin, low, high, size, bne_self_eq_false, bne_self_eq_false]
  exact ite_self _

theorem haloFirst_odd {w : Warp} {f : FormR} {bl : Block} (odd : (w.scl (w.active.headD 0) f.a).toNat % 128 ≠ 0) :
    haloFirst w f bl = some { cls := 11, slot := w.active.headD 0, lane := 0, detail := w.scl (w.active.headD 0) f.a } := by
  have check : alignCheck ((w.scl (w.active.headD 0) f.a).toNat % 128 != 0) (w.active.headD 0) 0 (w.scl (w.active.headD 0) f.a) =
      [(0, { cls := 11, slot := w.active.headD 0, lane := 0, detail := w.scl (w.active.headD 0) f.a })] := if_pos (bne_iff_ne.2 odd)
  rw [haloFirst]
  rw [check]
  exact firstCheck_of_align rfl

theorem haloFirst_out {w : Warp} {f : FormR} {bl : Block} (even : (w.scl (w.active.headD 0) f.a).toNat % 128 = 0)
    (out : bl.ns < (w.scl (w.active.headD 0) f.a).toNat + 128) : haloFirst w f bl = some { cls := 12, slot := w.active.headD 0, lane := 0 } := by
  have align : alignCheck ((w.scl (w.active.headD 0) f.a).toNat % 128 != 0) (w.active.headD 0) 0 (w.scl (w.active.headD 0) f.a) = [] := if_neg (by rw [even]; decide)
  have range : rangeCheck (bl.ns < (w.scl (w.active.headD 0) f.a).toNat + 128) (w.active.headD 0) 0 = [(1, { cls := 12, slot := w.active.headD 0, lane := 0 })] :=
    if_pos (decide_eq_true out)
  rw [haloFirst]
  rw [align, range, haloChecks, if_pos out]
  rfl

theorem haloFirst_ok {w : Warp} {f : FormR} {bl : Block} (even : (w.scl (w.active.headD 0) f.a).toNat % 128 = 0)
    (inside : (w.scl (w.active.headD 0) f.a).toNat + 128 ≤ bl.ns) (ok : HaloOk bl (haloRecord w f bl)) : haloFirst w f bl = none := by
  have align : alignCheck ((w.scl (w.active.headD 0) f.a).toNat % 128 != 0) (w.active.headD 0) 0 (w.scl (w.active.headD 0) f.a) = [] := if_neg (by rw [even]; decide)
  have range : rangeCheck (bl.ns < (w.scl (w.active.headD 0) f.a).toNat + 128) (w.active.headD 0) 0 = [] := if_neg (by rw [decide_eq_true_eq]; omega)
  rw [haloFirst]
  rw [align, range, haloChecks_of_ok _ _ ok]
  rfl

section
variable {w : Warp} {f : FormR} {bl : Block} {s : State} (hc : s.curWarp = some w) (ht : w.tx = none) (runs : Warp.never f.h = false) (acts : w.active ≠ [])
  (hb : s.block? w.blk = some bl) (cl : w.Clear f.h (w.needs [(f.a, 1)]) false false)
include hc ht runs acts hb cl

theorem exec_halo :
    let m0 := w.active.headD 0
    let a := w.scl m0 f.a
    let r := BitVec.ofNat 1024 (leNat (bl.near.readBytes a.toNat 128))
    let cs := (copyMembers w (s.sidesShared (buildHalo w a r m0))).map (buildHalo w a r)
    let result := if w.heldByFence false then (s, WRes.wait .memory)
      else if nearBusy w a.toNat 128 then (s, .wait .log)
      else match firstCheck (alignCheck (a.toNat % 128 != 0) m0 0 a ++ rangeCheck (bl.ns < a.toNat + 128) m0 0 ++ haloChecks bl m0 a r) with
        | some t => (s, .trap w t)
        | none =>
          if recordBusy w cs [] then (s, .wait .log)
          else if 16 < s.haloQueue (clusterOf w.core) + cs.length then (s, .wait .queue)
          else launchCopies s w (packR 0x164 f) cs
    exec (.halo f) s = .next (result.1.finish w result.2) := by
  have steps : exec (.halo f) s = execHalo f s := rfl
  rw [execHalo, machineOpNT_cur _ hc ht] at steps
  dsimp only at steps
  rw [Warp.checked_clear cl] at steps
  dsimp only at steps
  rw [if_neg (by simp [runs, acts]), hb, Option.getD_some] at steps
  exact steps

theorem halo_fenced (held : w.heldByFence false = true) : Waits (.halo f) s w .memory := by
  have run := exec_halo hc ht runs acts hb cl
  dsimp only at run
  rw [if_pos held] at run
  exact run

section
variable (free : w.heldByFence false = false) (idle : nearBusy w (w.scl (w.active.headD 0) f.a).toNat 128 = false)
include free idle

theorem exec_halo_goes :
    let result := match haloFirst w f bl with
      | some t => (s, WRes.trap w t)
      | none =>
        if recordBusy w (haloCopies s w f bl) [] then (s, .wait .log)
        else if 16 < s.haloQueue (clusterOf w.core) + (haloCopies s w f bl).length then (s, .wait .queue)
        else launchCopies s w (packR 0x164 f) (haloCopies s w f bl)
    exec (.halo f) s = .next (result.1.finish w result.2) := by
  have run := exec_halo hc ht runs acts hb cl
  dsimp only at run
  rw [if_neg (by rw [free]; exact Bool.false_ne_true), if_neg (by rw [idle]; exact Bool.false_ne_true)] at run
  exact run

theorem halo_traps_align (odd : (w.scl (w.active.headD 0) f.a).toNat % 128 ≠ 0) :
    Traps (.halo f) s w { cls := 11, slot := w.active.headD 0, lane := 0, detail := w.scl (w.active.headD 0) f.a } := by
  have run := exec_halo_goes hc ht runs acts hb cl free idle
  rw [haloFirst_odd odd] at run
  exact run

theorem halo_traps_range (even : (w.scl (w.active.headD 0) f.a).toNat % 128 = 0) (out : bl.ns < (w.scl (w.active.headD 0) f.a).toNat + 128) :
    Traps (.halo f) s w { cls := 12, slot := w.active.headD 0, lane := 0 } := by
  have run := exec_halo_goes hc ht runs acts hb cl free idle
  rw [haloFirst_out even out] at run
  exact run

theorem halo_goes (even : (w.scl (w.active.headD 0) f.a).toNat % 128 = 0) (inside : (w.scl (w.active.headD 0) f.a).toNat + 128 ≤ bl.ns) (ok : HaloOk bl (haloRecord w f bl))
    (signals : (haloRecord w f bl).getLsbD 528 = true → ((haloFaces (haloRecord w f bl)).map (haloBytes (haloRecord w f bl))).foldl (· + ·) 0 = 0 →
      nearBusy w ((haloRecord w f bl).extractLsb' 532 19).toNat 8 = false) :
    (16 < s.haloQueue (clusterOf w.core) + (haloCopies s w f bl).length → Waits (.halo f) s w .queue) ∧
      (s.haloQueue (clusterOf w.core) + (haloCopies s w f bl).length ≤ 16 →
        let r := launchCopies s w (packR 0x164 f) (haloCopies s w f bl)
        exec (.halo f) s = .next (r.1.finish w r.2)) := by
  have run := exec_halo_goes hc ht runs acts hb cl free idle
  have unbusy : recordBusy w (haloCopies s w f bl) [] = false := recordBusy_eq_false (fun _ h => absurd h List.not_mem_nil) fun c hc b empty held => by
    obtain ⟨m, -, rfl⟩ := List.mem_map.1 hc
    have held : (if (haloRecord w f bl).getLsbD 528 then some ((haloRecord w f bl).extractLsb' 532 19).toNat else none) = some b := held
    by_cases set : (haloRecord w f bl).getLsbD 528 = true
    · rw [if_pos set] at held
      exact Option.some.inj held ▸ signals set empty
    · rw [if_neg set] at held
      cases held
  rw [haloFirst_ok even inside ok] at run
  dsimp only at run
  rw [if_neg (by rw [unbusy]; exact Bool.false_ne_true)] at run
  refine ⟨fun full => ?_, fun room => ?_⟩
  · rw [if_pos full] at run
    exact run
  · rw [if_neg (by omega)] at run
    exact run

end

end

/-- Settles O26: the checks of a copy form come in the order of R289; a form that passes them puts its copies in flight; a copy that may move moves
its pieces, and a finished one steps its barrier. -/
theorem copyForms : Obligations.CopyForms := by
  unfold Obligations.CopyForms
  dsimp only
  refine ⟨⟨fun f s w bl fill hb ⟨hc, ht, runs, acts, cl⟩ fit free => ?_, fun f s w bl fill hb ⟨hc, ht, runs, acts, cl⟩ free => ?_, firstCheck_eq,
    fun f s w bl hb ⟨hc, ht, runs, acts, cl⟩ => ?_, fun f s w bl hc ht hb cl lanes lost ms once each fit => ?_, fun f s w bl hb ⟨hc, ht, runs, acts, cl⟩ => ?_,
    fun s w word c k hc room free moves whole => launchCopies_single word room free moves whole, fun s w word cs => launchCopies_full word, mem_tileRows⟩,
    fun id s => exec_copyComplete_absent, fun id s c w => exec_copyComplete, fun s id c off => finishCopy_bar s id, fun s c r pat => rowBytes_pattern r,
    fun s c r bl => rowBytes_near r⟩
  · exact plain_launches hc ht runs acts hb cl fit free
  · exact plain_traps hc ht runs acts hb cl free
  · refine ⟨cpyt_waits hc ht runs acts hb cl, fun unheld records signals => ?_⟩
    simp only [List.flatMap_map, List.map_map] at signals ⊢
    have run := exec_cpyt_goes hc ht runs acts hb cl unheld records signals
    refine ⟨fun t first => ?_, fun none' => ?_⟩
    · have first : firstCheck ((tileMembers s w f bl).flatMap fun m => (buildCpyt w f bl m).2) = some t := first
      rw [first] at run
      exact run
    · have none' : firstCheck ((tileMembers s w f bl).flatMap fun m => (buildCpyt w f bl m).2) = none := none'
      rw [none'] at run
      exact run
  · exact cpyg_launches hc ht hb cl ms once each fit
  · refine ⟨halo_fenced hc ht runs acts hb cl, fun unheld idle => ⟨halo_traps_align hc ht runs acts hb cl unheld idle, halo_traps_range hc ht runs acts hb cl unheld idle,
      fun even inside bar zero low high extents thick small signals => ?_⟩⟩
    exact halo_goes hc ht runs acts hb cl unheld idle even inside ⟨bar, zero, low, high, extents, thick, small⟩ signals

end Sys2Proof.Machine
